-- ==== Sys2Proof/Word.lean ====
section
/-!
DEFINITION. The plainest types of the model: bytes, 32-bit register words, and exact fractions.
Every multi-byte field of the device is little-endian (00_scope R5); the byte-order helpers are in
Machine/Bits.lean.
-/
namespace Sys2Proof

/-- A byte of a docket, receipt, buffer or memory. -/
abbrev Byte := BitVec 8

/-- A 32-bit BAR0 register word. -/
abbrev Word := BitVec 32

/-- An exact fraction `num / den`, kept as written (it is not reduced; `den = 0` reads as 0).
Rates, demands and capacities are exact quotients in the spec (R27, R45, R47), so they are kept exact. -/
structure Q where
  num : Int
  den : Nat
deriving DecidableEq, Repr

end Sys2Proof
end

