-- ==== Sys2Proof/Syntax.lean ====
section
/-!
DEFINITION. The commands of the block: one constructor of `Instr` per row of spec/opcode_table.json,
with the operands that the row's rule gives it. A docket row carries the docket as fetched (R329);
a row for an event of the outside world carries what that event brings (a symbol, a packet, a reading).
`cyc` is always the TCLK cycle, counted from the last tick boundary, at which the tick collector sees
the event (R33).
-/
namespace Sys2Proof

/-- A docket as fetched (13 R329): the submission queue it came from (64 is the chain queue of R508),
its ring index, and its 64 bytes. -/
structure Docket where
  sq    : Nat
  idx   : Nat
  bytes : List Byte
deriving DecidableEq, Repr

/-- A courier frame as it arrives at a chain port (21 R499). -/
structure Courier where
  port   : Fin 2
  cls    : Nat
  bcast  : Bool
  resent : Bool
  src    : Nat
  dst    : Nat
  hops   : Nat
  seq    : Nat
  payload : List Byte
  crcOk  : Bool
deriving DecidableEq, Repr

/-- What identifies a chain-wide envelope everywhere (21 R510). -/
structure ChainRef where
  coord : Nat
  env   : Nat
  sealSeq : Nat
deriving DecidableEq, Repr

/-- The packet that a bad-packet check failed on, or a good one (05 R117). -/
inductive PacketCheck where
  | good
  | badCrc
  | tooLong
  | noEnd
  | secondStart
deriving DecidableEq, Repr

/-- Head descriptor payload, 64 bytes (05 R138). -/
abbrev DescBytes := List Byte

/-- The two kinds of code error (04 R94). -/
inductive CodeError where
  | violation
  | disparity
deriving DecidableEq, Repr

/-- Memories protected under 23 R536. -/
inductive EccMemory where
  | frame (channel : Nat) (page : Nat)
  | granary (mill cluster bank : Nat)
  | instr (mill cluster page : Nat)
  | engineRegs (mill cluster engine : Nat)
  | pipeTable (pipe : Nat)
  | lineBuffer (pipe : Nat)
  | link (race : Nat)
  | clerk (n : Nat)
deriving DecidableEq, Repr

/-- What an access unit handed to a decode core turns out to be (11 R292). H.265 syntax lies outside the
spec's text, so the classification is the event's own operand. -/
structure AccessUnit where
  irap        : Bool
  cra         : Bool
  rasl        : Bool
  parseOk     : Bool
  refsPresent : Bool
  newSps      : Bool
  spsOk       : Bool
  level       : Nat
  hashOk      : Bool
  sei         : Option (List Byte)
  width       : Nat
  height      : Nat
  depth       : Nat
deriving DecidableEq, Repr

/-- Which of the two clocks, or which AES3 receiver, an audio clock event is about (19 R472). -/
inductive AudioClock where
  | tx
  | rx
  | aes3 (n : Fin 4)
deriving DecidableEq, Repr

/-- How an audio clock window came out (19 R472): edges missing, off by more than 500 ppm, or nominal. -/
inductive ClockWindow where
  | nominal
  | off
deriving DecidableEq, Repr

/-- The cause of a PCIe fundamental reset (24 R549). -/
inductive PcieCause where
  | perst
  | hotReset
  | linkDown
deriving DecidableEq, Repr

/-- The steps of the NAND codeword decode ladder that a read stopped at (15 R368). -/
inductive LadderStep where
  | hard
  | retry
  | soft
  | rebuild
  | failed
deriving DecidableEq, Repr

/-- NAND geometry read from the parameter pages at bring-up (15 R365, R366, R385). -/
structure NandGeometry where
  channels    : List Nat      -- populated channel numbers
  cePerCh     : Nat
  lunsPerCe   : Nat
  planes      : Nat
  pagesPerBlk : Nat
  blksPerPlane : Nat
  pageBytes   : Nat
  spareBytes  : Nat
  bitsPerCell : Nat
  tProgNs     : Nat
  endurance   : Nat
  busMts      : Nat
  uniform     : Bool           -- geometry identical on every die, same die count on every channel
  lpddr4      : Bool           -- every die offers NV-LPDDR4 and passes DQ training
  badPerDie   : Nat            -- factory bad blocks of each die
  missingDies : List Nat       -- dies named by the metadata that are missing
deriving DecidableEq, Repr

/-- A firmware image, or an image slot of the boot flash, as R554 judges it. -/
structure Image where
  version  : Nat
  security : Nat
  formOk   : Bool    -- magic, format, part and CRC
  keyOk    : Bool    -- key digest fused and not revoked
  sigOk    : Bool    -- signature verifies
deriving DecidableEq, Repr

/-- What start-up finds on the board: images, regulator, memory, self-test (24 R547 to R558). -/
structure BoardState where
  railsInOrder : Bool               -- R547
  flash        : Option (Nat × Option Image × Option Image) -- a boot flash programmed anew: active slot, slots 0 and 1
  voutModeOk   : Bool               -- R52
  regulatorMv  : Nat                -- READ_VOUT after the raise of step 4
  channels     : List (Nat × Nat × Nat × Nat × Nat) -- channel, GiB, ranks, die limit MT/s, highest rate that passes training
  curves       : List (List Nat)    -- 12 regions × 5 points, Q4.12 (R558)
  v1           : List Nat           -- V1 of each region, mV (R58)
  tj           : Int
  badEngines   : List (Nat × Nat × Nat) -- engines that fail self-test (R264)
  startMs      : Nat
deriving DecidableEq, Repr

/-- The commands. One constructor per row of spec/opcode_table.json, in the table's order. -/
inductive Instr where
  -- group 0x0_: queues and admin (14 R357)
  | noOperation (d : Docket)
  | createCq (d : Docket)
  | deleteCq (d : Docket)
  | createSq (d : Docket)
  | deleteSq (d : Docket)
  | setModeration (d : Docket)
  | mapAperture (d : Docket)
  | unmapAperture (d : Docket)
  | identify (d : Docket)
  | takeBuffer (d : Docket)
  | releaseBuffer (d : Docket)
  | copy (d : Docket)
  -- group 0x1_: parameters (14 R358)
  | writeParameter (d : Docket)
  | writeBulkParameter (d : Docket)
  | readParameter (d : Docket)
  | readParameterToHost (d : Docket)
  | describeParameter (d : Docket)
  -- group 0x2_: envelopes (14 R359)
  | openEnv (d : Docket)
  | addMember (d : Docket)
  | addBulkMember (d : Docket)
  | addMemberList (d : Docket)
  | sealEnv (d : Docket)
  | withdraw (d : Docket)
  | abandon (d : Docket)
  -- groups 0x3_ and 0x7_ (14 R360)
  | readHeadDescriptor (d : Docket)
  | readEmbeddedData (d : Docket)
  | readAes3ChannelStatus (d : Docket)
  -- group 0x4_: store (14 R361)
  | read (d : Docket)
  | write (d : Docket)
  | registeredWrite (d : Docket)
  | flush (d : Docket)
  | deallocate (d : Docket)
  | storeInformation (d : Docket)
  | clipExtents (d : Docket)
  -- groups 0x5_ and 0x6_: codec and bolter (14 R362)
  | decodeFeed (d : Docket)
  | decodeDrain (d : Docket)
  | decodeRestart (d : Docket)
  | compress (d : Docket)
  | decompress (d : Docket)
  | rawDecode (d : Docket)
  | bolterFlush (d : Docket)
  | bolterJobComplete (lane : Fin 2)
  -- groups 0x8_ and 0x9_ (14 R363)
  | readTime (d : Docket) (cyc : Nat)
  | stepTime (d : Docket) (cyc : Nat)
  | adjustRate (d : Docket)
  | readLaunchRecord (d : Docket)
  | chainMap (d : Docket)
  | chainEcho (d : Docket)
  | readFaultLedger (d : Docket)
  | clearFaultLedger (d : Docket)
  | readHealthRecord (d : Docket)
  | stageFirmware (d : Docket)
  -- group 0xE_ (14 R364)
  | firmwareActivation (d : Docket)
  | activationFallback
  | storeSanitize (d : Docket)
  | storeKeyInstallation (d : Docket)
  | chainAddressLock (d : Docket)
  | calibrationDataReset (d : Docket)
  -- doorbells, fetch and queue registers (13)
  | sqTail (q : Fin 64) (value : Word) (cyc : Nat)
  | cqHead (q : Fin 64) (value : Word) (cyc : Nat)
  | docketFetch (bytes : List Byte)
  | docketFetchFailed
  | hostReadFailed (sq idx : Nat)
  | freeze (q : Fin 64)
  | retry (q : Fin 64)
  | skip (q : Fin 64)
  | queueFlush (q : Fin 64)
  | hostDriverReset (flr : Bool)
  | admEnable (value : Word)
  | dlogClear (value : Word)
  | govCtrlWrite (value : Word)
  | registerWrite (offset : BitVec 24) (size : Nat) (value : BitVec 64)
  | readClearCounter (offset : BitVec 24)
  | tickCountLoRead
  | timeNsRead (cyc : Nat)
  | audioIndexLoRead (port : Fin 28)
  | evtClaimRead (target : Fin 16)
  | bar2Access (offset : Nat) (length : Nat) (data : Option (List Byte))
  | msixPendingSend (vector : Fin 64)
  | d3Entry (cold : Bool)
  | d0Return
  | pcieFundamentalReset (cause : PcieCause)
  | tickClose (overran : Bool)
  -- governor (02)
  | shedRestore
  | laneSlipApplied (lane : Fin 64)
  | launchSlotFire (slot : Fin 64) (departNs : Int)
  | monitorWindow (readings : List Nat)
  | marginProbe (capacity90 : List Nat) (v1 : List Int) (tj : Int)
  | readVout (mv : Nat) (ok : Bool)
  | pmbusPoll (mv : Nat) (statusWord : BitVec 16) (ok : Bool)
  | smbalert (statusWord : BitVec 16) (ok : Bool)
  | vcoreLowerStep
  -- chain-wide envelopes (03, 21)
  | chainPrepare (ref : ChainRef) (landNs : Nat) (records : List (List Byte))
  | chainReady (ref : ChainRef) (participant : Nat) (refuse : Option Nat)
  | chainDecision (ref : ChainRef) (commit : Bool)
  | decisionDeadline (env : Fin 64)
  | chainReport (ref : ChainRef) (participant : Nat) (landed : Bool)
  | reportDeadline (env : Fin 64)
  -- lanes (04)
  | pllLock (quad : Fin 16)
  | cdrLock (lane : Fin 64)
  | sync (lane : Fin 64) (boundary : Nat) (ctle : Nat) (dfe : List Int) (cyc : Nat)
  | alignmentOrderedSet (lane : Fin 64) (index : Nat) (count : Nat) (skew : Nat) (cyc : Nat)
  | presetRequest (lane : Fin 64) (preset : Nat)
  | laneCodeError (lane : Fin 64) (kind : CodeError) (symbol : Nat) (cyc : Nat)
  | syncLost (lane : Fin 64) (fwdClock : Bool) (cyc : Nat)
  | deskewRetry (lane : Fin 64)
  | linkNotUp (lane : Fin 64) (cyc : Nat)
  | skipPair (lane : Fin 64) (high : Bool)
  | fomMeasure (lane : Fin 64) (w h : Nat) (cyc : Nat)
  | recalibration (lane : Fin 64) (tj : Int) (ctle : Nat) (w h : Nat)
  | slicerSwap (lane : Fin 64) (w h : Nat)
  | swapPostponed (lane : Fin 64)
  | calibrationStarved (lane : Fin 64) (cyc : Nat)
  -- capture links (05)
  | frameMarker (pipe : Fin 8) (cyc : Nat)
  | lineMarker (pipe : Fin 8) (cyc : Nat)
  | frameHeader (pipe : Fin 8) (die : Fin 4) (count : Nat) (payload : List Byte) (chk : PacketCheck) (cyc : Nat)
  | activeLineSegment (pipe : Fin 8) (die : Fin 4) (line offset : Nat) (payload : List Byte) (chk : PacketCheck) (cyc : Nat)
  | opticalBlackLineSegment (pipe : Fin 8) (die : Fin 4) (row offset : Nat) (payload : List Byte) (chk : PacketCheck) (cyc : Nat)
  | embeddedData (pipe : Fin 8) (die : Fin 4) (chunk : Nat) (payload : List Byte) (chk : PacketCheck) (cyc : Nat)
  | frameTrailer (pipe : Fin 8) (die : Fin 4) (count status : Nat) (chk : PacketCheck) (cyc : Nat)
  | letterAcknowledge (pipe : Fin 8) (seq result : Nat) (cyc : Nat)
  | headDescriptor (pipe : Fin 8) (payload : DescBytes) (cyc : Nat)
  | headEvent (pipe : Fin 8) (code : Nat) (payload : List Byte) (cyc : Nat)
  | unknownPacket (pipe : Fin 8) (type : Nat) (cyc : Nat)
  | abort (pipe : Fin 8) (cyc : Nat)
  | frameTimeout (pipe : Fin 8) (cyc : Nat)
  | letterResend (pipe : Fin 8) (seq : Nat)
  | letterCutoff (pipe : Fin 8) (seq : Nat)
  | descriptorRequest (pipe : Fin 8) (cyc : Nat)
  -- pipeline frames (06 to 09)
  | pipelineFrameComplete (pipe : Fin 8)
  | tapBufferFull (pipe : Fin 8) (tap : Fin 6)
  | statisticsBlockFull (pipe : Fin 8)
  | sourceBufferOverflow (race : Nat) (cyc : Nat)
  | panic (race : Nat)
  | calm (race : Nat)
  | topWeir (race : Nat) (cyc : Nat)
  -- grist (10)
  | tileRun (pipe : Fin 8) (point : Fin 4) (tile : Nat) (cyc : Nat)
  | frameEndRun (pipe : Fin 8) (point : Fin 4) (cluster : Fin 4) (cyc : Nat)
  | engineReset (mill : Fin 8) (cluster : Fin 4) (engine : Fin 16) (cyc : Nat)
  | engineSelfTest (mill : Fin 8) (cluster : Fin 4) (engine : Fin 16) (pass : Bool) (cyc : Nat)
  -- coding (11)
  | encodePicture (core : Fin 8)
  | encodeOutputResume (stream : Fin 32)
  | encodeStreamEnd (stream : Fin 32)
  | decodeAccessUnit (core : Fin 2) (au : AccessUnit) (cyc : Nat)
  -- bolter (12)
  | bolterRecord (lane : Fin 8) (mismatched : List Nat) (cyc : Nat)
  -- store (15, 16)
  | pigeonholeGrant (lockSeq : Nat)
  | writeBuffered (lockSeq : Nat)
  | pageProgramComplete (die block : Nat) (blocks : List Nat) (ok : Bool)
  | blockEraseComplete (die block : Nat) (ok : Bool)
  | codewordRead (lba : Nat) (step : LadderStep)
  | blockRefresh (die block : Nat)
  | wearMove (die : Nat)
  | dieRetired (die : Nat)
  | rebuildComplete (die : Nat)
  | recordUnit (slot : Fin 8) (source : Nat)
  | channelWindow (channel : Fin 16)
  | pfailN (low : Bool) (cyc : Nat)
  | leavePark
  | storeBringup (geom : NandGeometry)
  -- frame memory (17)
  | refreshDue (channel : Fin 24)
  | mr4Poll (channel : Fin 24) (rates : List Nat) (cyc : Nat)
  | oscillatorPoll (channel : Fin 24) (counts : List Nat)
  | retraining (channel : Fin 24)
  | retrainsForced (channel : Fin 24)
  | frequencyChange (channel : Fin 24)
  | memoryEccError (memory : EccMemory) (corrected : Bool) (cyc : Nat)
  | eccHour
  | scrub
  -- raster (18)
  | rasterFrameStart (out : Fin 4) (cyc : Nat)
  | commitPoint (out : Fin 4) (cyc : Nat)
  | fetchEnd (out : Fin 4) (cyc : Nat)
  | retimeEnd (out : Fin 4) (cyc : Nat)
  | timeLockSteer (out : Fin 4) (errNs : Int)
  -- audio (19)
  | audioPortStart (port : Fin 28) (cyc : Nat)
  | audioPeriodBoundary (port : Fin 28) (samples : List Word) (cyc : Nat)
  | audioFetchLead (port : Fin 28) (cyc : Nat)
  | zeroCrossingTimeout (port : Fin 28) (channel : Fin 16)
  | audioClockWindow (clock : AudioClock) (window : ClockWindow) (cyc : Nat)
  | clockStop (clock : AudioClock) (cyc : Nat)
  | clockReturn (clock : AudioClock) (missed : Nat) (cyc : Nat)
  | longStop (clock : AudioClock) (cyc : Nat)
  | aes3Lock (receiver : Fin 4) (rateHz : Nat)
  | aes3Block (receiver : Fin 4) (zInPlace : Bool) (ch0 ch1 : List Byte)
  | steeringUpdate (txIndex : Nat) (cyc : Nat)
  -- time (20)
  | ppsIn (edgeNs : Nat) (cyc : Nat)
  | htpIn (edgeNs : Nat) (cyc : Nat)
  | syncMessage (port : Fin 2) (twoStep : Bool) (seqId : Nat) (t2ps : Int) (cyc : Nat)
  | followUp (port : Fin 2) (seqId : Nat) (t1ps : Int) (correctionPs : Int) (cyc : Nat)
  | pdelayReq (port : Fin 2) (seqId : Nat) (t2ps t3ps : Int)
  | pdelayRespFollowUp (port : Fin 2) (seqId : Nat) (t3ps : Int)
  | announce (port : Fin 2) (master hops : Nat)
  | syncInterval (port : Fin 2) (pdelay : Bool) (t1ps : Int)
  | holdover (cyc : Nat)
  -- chain (21)
  | helloTimer
  | hello (port : Fin 2) (addr hops source servo : Nat) (cyc : Nat)
  | addressAbsent (addr : Fin 256) (cyc : Nat)
  | ringBreak (port : Fin 2) (endA endB : Nat) (cyc : Nat)
  | courierFrame (f : Courier) (cyc : Nat)
  | forwardedDocket (src seq : Nat) (bytes : List Byte)
  | forwardedReceipt (src seq : Nat) (receipt : List Byte)
  | forwardTimeout (seq : Nat)
  | eventBroadcast (src code : Nat) (payload : List Byte) (cyc : Nat)
  | remoteFaultReport (src : Nat) (cls : Nat) (stampNs : Nat) (epoch : Nat) (endpoint : Nat) (detail : List Byte) (cyc : Nat)
  | echo (src seq : Nat) (reply : Bool) (elapsedNs : Nat)
  | proxyFrame (stream : Nat) (offset : Nat) (data : List Byte) (last : Bool)
  -- health (23)
  | clerkWatchdog (clerk : Fin 4) (selfTestOk : Bool) (cyc : Nat)
  | healthRecordWrite (hourly : Bool)
  | supplyOutOfRange (cyc : Nat)
  | thermalTrip (sensor : Fin 13) (tj : Int) (cyc : Nat)
  -- presence and start-up (13, 24)
  | presenceN (low : Bool) (cyc : Nat)
  | presenceWindowClose (cyc : Nat)
  | presenceStuck (cyc : Nat)
  | securityMinimumRaise
  | powerOnReset (b : BoardState)
  | deviceReset
  -- boundary scan (25 R586)
  | bypass
  | idcode
  | samplePreload (preload : List Bool)
  | extest
  | clamp
  | highz
  -- the table's last rows
  | hostReadComplete (sq idx : Nat) (data : List Byte)
  | pdelayResp (port : Fin 2) (seqId : Nat) (t4ps t2ps : Int)
  | nandTraining (channel : Fin 16)
  | poresetNLow
  | deviceResetRelease (devrstHigh : Bool) (tj : Int) (b : BoardState)
deriving DecidableEq, Repr

end Sys2Proof
end

