-- ==== Sys2Proof/WellFormed.lean ====
section
/-!
DEFINITION. Well-formed commands: what a command's operands must meet to be one that the outside world can send.
A docket is 64 bytes whose opcode is its row's (13 R329, 14 R357 to R364). The meanings answer a next state for every
term, well-formed or not.
-/
namespace Sys2Proof

/-- A docket as fetched: 64 bytes with opcode `op`, from a submission queue 0 to 63 or the chain queue (13 R329,
21 R508). -/
def Docket.wf (op : Nat) (d : Docket) : Bool :=
  decide (d.bytes.length = 64) && decide (d.bytes.head? = some (BitVec.ofNat 8 op)) && decide (d.sq ≤ 64)

/-- A command with the operands its rule gives it: a docket of the row's opcode; 64 bytes fetched or forwarded and 32
of a receipt (13 R329, R330; 21 R508); one byte of data a byte written (13 R325); 48 monitor readings of 16 bits and
twelve capacities (02 R43, R44, R58); member records of 48 bytes (14 R353); 24 bytes of channel status a channel
(19 R469); a word boundary of 0 to 9 (04 R101), CTLE settings 0 to 15 and five DFE taps (R103), and a preset of 0 to 7
(R105). -/
def Instr.wf : Instr → Bool
  | .noOperation d => d.wf 0x00
  | .createCq d => d.wf 0x01
  | .deleteCq d => d.wf 0x02
  | .createSq d => d.wf 0x03
  | .deleteSq d => d.wf 0x04
  | .setModeration d => d.wf 0x05
  | .mapAperture d => d.wf 0x06
  | .unmapAperture d => d.wf 0x07
  | .identify d => d.wf 0x08
  | .takeBuffer d => d.wf 0x09
  | .releaseBuffer d => d.wf 0x0A
  | .copy d => d.wf 0x0B
  | .writeParameter d => d.wf 0x10
  | .writeBulkParameter d => d.wf 0x11
  | .readParameter d => d.wf 0x12
  | .readParameterToHost d => d.wf 0x13
  | .describeParameter d => d.wf 0x14
  | .openEnv d => d.wf 0x20
  | .addMember d => d.wf 0x21
  | .addBulkMember d => d.wf 0x22
  | .addMemberList d => d.wf 0x23
  | .sealEnv d => d.wf 0x24
  | .withdraw d => d.wf 0x25
  | .abandon d => d.wf 0x26
  | .readHeadDescriptor d => d.wf 0x30
  | .readEmbeddedData d => d.wf 0x31
  | .readAes3ChannelStatus d => d.wf 0x70
  | .read d => d.wf 0x40
  | .write d => d.wf 0x41
  | .registeredWrite d => d.wf 0x42
  | .flush d => d.wf 0x43
  | .deallocate d => d.wf 0x44
  | .storeInformation d => d.wf 0x45
  | .clipExtents d => d.wf 0x46
  | .decodeFeed d => d.wf 0x50
  | .decodeDrain d => d.wf 0x51
  | .decodeRestart d => d.wf 0x52
  | .compress d => d.wf 0x60
  | .decompress d => d.wf 0x61
  | .rawDecode d => d.wf 0x62
  | .bolterFlush d => d.wf 0x63
  | .bolterJobComplete _ => true
  | .readTime d _ => d.wf 0x80
  | .stepTime d _ => d.wf 0x81
  | .adjustRate d => d.wf 0x82
  | .readLaunchRecord d => d.wf 0x83
  | .chainMap d => d.wf 0x84
  | .chainEcho d => d.wf 0x85
  | .readFaultLedger d => d.wf 0x90
  | .clearFaultLedger d => d.wf 0x91
  | .readHealthRecord d => d.wf 0x92
  | .stageFirmware d => d.wf 0x93
  | .firmwareActivation d => d.wf 0xE0
  | .activationFallback => true
  | .storeSanitize d => d.wf 0xE1
  | .storeKeyInstallation d => d.wf 0xE2
  | .chainAddressLock d => d.wf 0xE4
  | .calibrationDataReset d => d.wf 0xE5
  | .sqTail _ _ _ => true
  | .cqHead _ _ _ => true
  | .docketFetch bytes => decide (bytes.length = 64)
  | .docketFetchFailed => true
  | .hostReadFailed _ _ => true
  | .freeze _ => true
  | .retry _ => true
  | .skip _ => true
  | .queueFlush _ => true
  | .hostDriverReset _ => true
  | .admEnable _ => true
  | .dlogClear _ => true
  | .govCtrlWrite _ => true
  | .registerWrite _ _ _ => true
  | .readClearCounter _ => true
  | .tickCountLoRead => true
  | .timeNsRead _ => true
  | .audioIndexLoRead _ => true
  | .evtClaimRead _ => true
  | .bar2Access _ length data => data.all fun bs => decide (bs.length = length)
  | .msixPendingSend _ => true
  | .d3Entry _ => true
  | .d0Return => true
  | .pcieFundamentalReset _ => true
  | .tickClose _ => true
  | .shedRestore => true
  | .laneSlipApplied _ => true
  | .launchSlotFire _ _ => true
  | .monitorWindow readings => decide (readings.length = 48) && readings.all fun x => decide (x < 65536)
  | .marginProbe capacity90 v1 _ => decide (capacity90.length = 12) && decide (v1.length = 12)
  | .readVout _ _ => true
  | .pmbusPoll _ _ _ => true
  | .smbalert _ _ => true
  | .vcoreLowerStep => true
  | .chainPrepare _ _ records => records.all fun r => decide (r.length = 48)
  | .chainReady _ _ _ => true
  | .chainDecision _ _ => true
  | .decisionDeadline _ => true
  | .chainReport _ _ _ => true
  | .reportDeadline _ => true
  | .pllLock _ => true
  | .cdrLock _ => true
  | .sync _ boundary ctle dfe _ => decide (boundary < 10) && decide (ctle < 16) && decide (dfe.length = 5)
  | .alignmentOrderedSet _ _ _ _ _ => true
  | .presetRequest _ preset => decide (preset < 8)
  | .laneCodeError _ _ _ _ => true
  | .syncLost _ _ _ => true
  | .deskewRetry _ => true
  | .linkNotUp _ _ => true
  | .skipPair _ _ => true
  | .fomMeasure _ _ _ _ => true
  | .recalibration _ _ _ _ _ => true
  | .slicerSwap _ _ _ => true
  | .swapPostponed _ => true
  | .calibrationStarved _ _ => true
  | .frameMarker _ _ => true
  | .lineMarker _ _ => true
  | .frameHeader _ _ _ _ _ _ => true
  | .activeLineSegment _ _ _ _ _ _ _ => true
  | .opticalBlackLineSegment _ _ _ _ _ _ _ => true
  | .embeddedData _ _ _ _ _ _ => true
  | .frameTrailer _ _ _ _ _ _ => true
  | .letterAcknowledge _ _ _ _ => true
  | .headDescriptor _ _ _ => true
  | .headEvent _ _ _ _ => true
  | .unknownPacket _ _ _ => true
  | .abort _ _ => true
  | .frameTimeout _ _ => true
  | .letterResend _ _ => true
  | .letterCutoff _ _ => true
  | .descriptorRequest _ _ => true
  | .pipelineFrameComplete _ => true
  | .tapBufferFull _ _ => true
  | .statisticsBlockFull _ => true
  | .sourceBufferOverflow _ _ => true
  | .panic _ => true
  | .calm _ => true
  | .topWeir _ _ => true
  | .tileRun _ _ _ _ => true
  | .frameEndRun _ _ _ _ => true
  | .engineReset _ _ _ _ => true
  | .engineSelfTest _ _ _ _ _ => true
  | .encodePicture _ => true
  | .encodeOutputResume _ => true
  | .encodeStreamEnd _ => true
  | .decodeAccessUnit _ _ _ => true
  | .bolterRecord _ _ _ => true
  | .pigeonholeGrant _ => true
  | .writeBuffered _ => true
  | .pageProgramComplete _ _ _ _ => true
  | .blockEraseComplete _ _ _ => true
  | .codewordRead _ _ => true
  | .blockRefresh _ _ => true
  | .wearMove _ => true
  | .dieRetired _ => true
  | .rebuildComplete _ => true
  | .recordUnit _ _ => true
  | .channelWindow _ => true
  | .pfailN _ _ => true
  | .leavePark => true
  | .storeBringup _ => true
  | .refreshDue _ => true
  | .mr4Poll _ _ _ => true
  | .oscillatorPoll _ _ => true
  | .retraining _ => true
  | .retrainsForced _ => true
  | .frequencyChange _ => true
  | .memoryEccError _ _ _ => true
  | .eccHour => true
  | .scrub => true
  | .rasterFrameStart _ _ => true
  | .commitPoint _ _ => true
  | .fetchEnd _ _ => true
  | .retimeEnd _ _ => true
  | .timeLockSteer _ _ => true
  | .audioPortStart _ _ => true
  | .audioPeriodBoundary _ _ _ => true
  | .audioFetchLead _ _ => true
  | .zeroCrossingTimeout _ _ => true
  | .audioClockWindow _ _ _ => true
  | .clockStop _ _ => true
  | .clockReturn _ _ _ => true
  | .longStop _ _ => true
  | .aes3Lock _ _ => true
  | .aes3Block _ _ ch0 ch1 => decide (ch0.length = 24) && decide (ch1.length = 24)
  | .steeringUpdate _ _ => true
  | .ppsIn _ _ => true
  | .htpIn _ _ => true
  | .syncMessage _ _ _ _ _ => true
  | .followUp _ _ _ _ _ => true
  | .pdelayReq _ _ _ _ => true
  | .pdelayRespFollowUp _ _ _ => true
  | .announce _ _ _ => true
  | .syncInterval _ _ _ => true
  | .holdover _ => true
  | .helloTimer => true
  | .hello _ _ _ _ _ _ => true
  | .addressAbsent _ _ => true
  | .ringBreak _ _ _ _ => true
  | .courierFrame _ _ => true
  | .forwardedDocket _ _ bytes => decide (bytes.length = 64)
  | .forwardedReceipt _ _ receipt => decide (receipt.length = 32)
  | .forwardTimeout _ => true
  | .eventBroadcast _ _ _ _ => true
  | .remoteFaultReport _ _ _ _ _ _ _ => true
  | .echo _ _ _ _ => true
  | .proxyFrame _ _ _ _ => true
  | .clerkWatchdog _ _ _ => true
  | .healthRecordWrite _ => true
  | .supplyOutOfRange _ => true
  | .thermalTrip _ _ _ => true
  | .presenceN _ _ => true
  | .presenceWindowClose _ => true
  | .presenceStuck _ => true
  | .securityMinimumRaise => true
  | .powerOnReset _ => true
  | .deviceReset => true
  | .bypass => true
  | .idcode => true
  | .samplePreload _ => true
  | .extest => true
  | .clamp => true
  | .highz => true
  | .hostReadComplete _ _ _ => true
  | .pdelayResp _ _ _ _ => true
  | .nandTraining _ => true
  | .poresetNLow => true
  | .deviceResetRelease _ _ _ => true

end Sys2Proof
end

