-- ==== Sys2Proof/Decode.lean ====
section
/-!
DEFINITION. The command that a word spells. The block decodes no instruction words, and no row of
spec/opcode_table.json gives any bits: every row's list of fields is empty. So no word spells a command. A docket
reaches the block as its 64 bytes (13 R329), which its command carries.
-/
namespace Sys2Proof

/-- The command that the low `nbits` bits of `w` spell by the table's bits: none, since no row has bits. -/
def decodeTableWord (_nbits _w : Nat) : Option Instr := none

end Sys2Proof
end

