-- ==== Sys2Proof/Config.lean ====
section
/-!
DEFINITION. What one part fixes and the spec does not give, and the free values: constants with no body, so
that no proof can see a value of theirs (see notes/assumptions/2.md and 3.md).
-/
namespace Sys2Proof.Config

/-- A free value: applied to the counter `State.fresh`, which every use advances.
Used where the spec says that a value results but not which (coded HEVC bits, DEFLATE output, data keys). -/
opaque freeNat : Nat → Nat

/-- Whether a fraction `num/den` with no exact Q4.12 value is reported as the next value above it and not as the one
below; 02 R43 and R62 give the format and no rounding. -/
opaque q412Up (num : Int) (den : Nat) : Bool

/-- The inverse Aderos Log of a value outside 0 to 1, in units of 2^-192 both; 07 R182 gives it for 0 to 1 alone. -/
opaque inverseLogOutside (y : Int) : Int

/-- The mean word of a component over a statistics zone that covers no pixel, a frame of fewer than 32 columns or 18
rows; 09 R233 gives no mean of nothing. -/
opaque emptyZoneMean (zone component : Nat) : BitVec 24

/-- Silicon stepping, DEV_ID[15:8] (13 R341) and IDCODE[31:28] (25 R586); the spec gives no value. -/
opaque stepping : BitVec 8

/-- Manufacturer identity, IDCODE[11:1] (25 R586; IEEE 1149.1); the spec gives no value. -/
opaque manufacturer : BitVec 11

/-- Device serial number, identify bytes 4 to 11 (14 R357); the spec gives no value. -/
opaque serial : BitVec 64

/-- Whether the fuses hold a public key's digest under a key index, unrevoked (24 R554): the fuses are the part's own. -/
opaque keyFused : Nat → List (BitVec 8) → Bool

/-- Whether an ECDSA P-384 signature of a message verifies under a public key (24 R553, R554). The algorithm is that of
FIPS 186-5, which the spec names and does not give. -/
opaque signatureVerifies (key message signature : List (BitVec 8)) : Bool

end Sys2Proof.Config
end

