-- ==== Sys2Proof/Machine/Bits.lean ====
section
/-!
DEFINITION. Byte order, bit fields, saturating counts, exact fractions, fixed-point roots and logarithms, and
CRC-32C. Every multi-byte field is little-endian (00_scope R5).
-/
namespace Sys2Proof.Machine

/-! ### Bytes and fields -/

/-- The little-endian number that a byte list spells (R5). -/
def leNat : List Byte → Nat
  | [] => 0
  | b :: bs => b.toNat + 256 * leNat bs

/-- The `n` little-endian bytes of a number, cut to `n` bytes (R5). -/
def leBytes : Nat → Nat → List Byte
  | 0, _ => []
  | n + 1, v => BitVec.ofNat 8 v :: leBytes n (v / 256)

/-- Byte `i` of a byte list, 0 past its end. -/
def u8 (bs : List Byte) (i : Nat) : Nat := (bs.getD i 0).toNat

/-- The `n`-byte little-endian field at byte `i`. -/
def field (bs : List Byte) (i n : Nat) : Nat := leNat ((bs.drop i).take n)

def u16 (bs : List Byte) (i : Nat) : Nat := field bs i 2
def u32 (bs : List Byte) (i : Nat) : Nat := field bs i 4
def u48 (bs : List Byte) (i : Nat) : Nat := field bs i 6
def u64 (bs : List Byte) (i : Nat) : Nat := field bs i 8

/-- An `n`-bit two's complement value. -/
def toSigned (n v : Nat) : Int :=
  if v % 2 ^ n < 2 ^ (n - 1) then (v % 2 ^ n : Nat) else (v % 2 ^ n : Nat) - (2 ^ n : Nat)

/-- The `n`-bit two's complement encoding of an integer. -/
def ofSigned (n : Nat) (v : Int) : Nat := (v % ((2 ^ n : Nat) : Int)).toNat

/-- Bits [hi:lo] of a number. -/
def bits (v hi lo : Nat) : Nat := v / 2 ^ lo % 2 ^ (hi - lo + 1)

/-- Bit `i` of a number. -/
def bit (v i : Nat) : Bool := v / 2 ^ i % 2 == 1

/-- A register word from its fields, each placed by its lowest bit. -/
def packWord : List (Nat × Nat) → Nat
  | [] => 0
  | (lo, v) :: fs => v * 2 ^ lo + packWord fs

/-- All bytes of a list are 0. -/
def allZero (bs : List Byte) : Bool := bs.all (· == 0)

/-- A list of bytes cut or padded with 0 to `n` bytes. -/
def padTo (n : Nat) (bs : List Byte) : List Byte := (bs ++ List.replicate (n - bs.length) 0).take n

/-- A byte list cut into chunks of `n`, for at most `fuel` chunks. -/
def chunks {α : Type} (n : Nat) : Nat → List α → List (List α)
  | 0, _ => []
  | _ + 1, [] => []
  | fuel + 1, l => l.take n :: chunks n fuel (l.drop n)

/-- A byte written over a list at `i`. -/
def putBytes (bs : List Byte) (i : Nat) (v : List Byte) : List Byte :=
  bs.take i ++ v ++ bs.drop (i + v.length)

/-! ### Counts -/

/-- A count that stops at its largest value. -/
def bump {n : Nat} (c : BitVec n) : BitVec n := if c = BitVec.allOnes n then c else c + 1

/-- A count raised by `k` that stops at its largest value. -/
def bumpBy {n : Nat} (c : BitVec n) (k : Nat) : BitVec n :=
  if c.toNat + k < 2 ^ n then BitVec.ofNat n (c.toNat + k) else BitVec.allOnes n

/-- The smaller of a number and the largest `n`-bit value. -/
def capN (n v : Nat) : Nat := min v (2 ^ n - 1)

/-- `v` limited to `lo` to `hi`. -/
def clampI (lo hi v : Int) : Int := if v < lo then lo else if hi < v then hi else v

/-- Round up of a quotient; 0 for a zero divisor. -/
def ceilDiv (a b : Nat) : Nat := if b = 0 then 0 else (a + b - 1) / b

/-- A quotient rounded to the nearest integer, halves away from zero. -/
def roundAway (a : Int) (b : Nat) : Int :=
  if b = 0 then 0
  else if 0 ≤ a then (2 * a + b) / (2 * b) else -((-(2 * a) + b) / (2 * b))

/-- A quotient rounded to the nearest integer, halves to even. -/
def roundEven (a : Int) (b : Nat) : Int :=
  if b = 0 then 0
  else
    let q := a / (b : Int)
    let r := a % (b : Int)
    if 2 * r < b then q else if (b : Int) < 2 * r then q + 1 else if q % 2 = 0 then q else q + 1

/-- A quotient truncated toward zero. -/
def quotTrunc (a : Int) (b : Nat) : Int := if b = 0 then 0 else Int.tdiv a b

/-! ### Lists -/

/-- The first element that meets `p`, and the list without it. -/
def takeFirst {α : Type} (p : α → Bool) : List α → Option (α × List α)
  | [] => none
  | a :: as => if p a then some (a, as) else (takeFirst p as).map fun (b, bs) => (b, a :: bs)

/-- Insertion keeping a list sorted by a key; equal keys keep their order. -/
def insertBy {α : Type} (k : α → Nat) (a : α) : List α → List α
  | [] => [a]
  | b :: bs => if k b ≤ k a then b :: insertBy k a bs else a :: b :: bs

/-- Stable sort by a key. -/
def sortBy {α : Type} (k : α → Nat) : List α → List α :=
  fun l => l.foldl (fun acc a => insertBy k a acc) []

/-- Sum of a list of numbers. -/
def sumBy {α : Type} (f : α → Nat) (l : List α) : Nat := l.foldl (fun n a => n + f a) 0

/-- The last `n` elements. -/
def lastN {α : Type} (n : Nat) (l : List α) : List α := l.drop (l.length - n)

/-- The largest of a list of numbers, 0 for none. -/
def maxOf (l : List Nat) : Nat := l.foldl max 0

/-- The indices below `n` that meet `p`, ascending. -/
def which (n : Nat) (p : Nat → Bool) : List Nat := (List.range n).filter p

/-- A bit mask of `n` flags. -/
def maskOf (n : Nat) (p : Nat → Bool) : Nat :=
  (List.range n).foldl (fun m i => if p i then m + 2 ^ i else m) 0

/-! ### Exact fractions -/

def qOfNat (n : Nat) : Q := ⟨n, 1⟩
def qZero : Q := ⟨0, 1⟩
def qAdd (a b : Q) : Q :=
  if a.den = b.den then ⟨a.num + b.num, a.den⟩
  else if a.num = 0 then b else if b.num = 0 then a
  else ⟨a.num * b.den + b.num * a.den, a.den * b.den⟩
def qMul (a b : Q) : Q := ⟨a.num * b.num, a.den * b.den⟩
def qDivNat (a : Q) (n : Nat) : Q := ⟨a.num, a.den * n⟩
def qLe (a b : Q) : Bool := decide (a.num * b.den ≤ b.num * a.den)
def qLt (a b : Q) : Bool := decide (a.num * b.den < b.num * a.den)
def qMax (a b : Q) : Q := if qLe a b then b else a
/-- The fraction in lowest terms. -/
def qReduce (a : Q) : Q :=
  let g := Nat.gcd a.num.natAbs a.den
  if g = 0 then a else ⟨a.num / (g : Int), a.den / g⟩
def qSum (l : List Q) : Q := l.foldl (fun x y => qReduce (qAdd x y)) qZero
def qFloor (a : Q) : Int := if a.den = 0 then 0 else a.num / (a.den : Int)
def qCeil (a : Q) : Int := if a.den = 0 then 0 else -((-a.num) / (a.den : Int))

/-! ### Roots by bisection on bits -/

/-- The largest `r` below `2^k` with `r * r ≤ n`, from the bits at and below `k`. -/
def sqrtBits (n : Nat) : Nat → Nat → Nat
  | 0, r => r
  | k + 1, r => let t := r + 2 ^ k; if t * t ≤ n then sqrtBits n k t else sqrtBits n k r

/-- The number of bits of a number below `2^fuel`. -/
def bitLen : Nat → Nat → Nat
  | 0, _ => 0
  | fuel + 1, n => if n = 0 then 0 else 1 + bitLen fuel (n / 2)

/-! ### CRC-32C (the Castagnoli polynomial), as 12 R306 and 15 use it -/

/-- One bit of CRC-32C, reflected. -/
def crcBit (c : Nat) : Nat := if c % 2 = 1 then (c / 2) ^^^ 0x82F63B78 else c / 2

/-- One byte of CRC-32C. -/
def crcByte (c : Nat) (b : Byte) : Nat :=
  crcBit (crcBit (crcBit (crcBit (crcBit (crcBit (crcBit (crcBit (c ^^^ b.toNat))))))))

/-- CRC-32C with initial value and final inversion of all ones. -/
def crc32c (bs : List Byte) : Nat := (bs.foldl crcByte 0xFFFFFFFF) ^^^ 0xFFFFFFFF

end Sys2Proof.Machine
end

