-- ==== Sys2Proof/Machine/State.lean ====
section
/-!
DEFINITION. The state of the KT-4880 as plain data, one structure per part of the device, and the state after reset.
Register fields are bit vectors of the width the manual gives; what lives only inside the device is Nat, Int, Bool
or a named type. Device time is one number, in units of 2^-32 ns (20 R477).
-/
namespace Sys2Proof.Machine

/-- Why the machine stops. No command of this block stops it: the spec gives every one an effect. -/
inductive Fault where
deriving DecidableEq, Repr

/-- Why the model gives no meaning. -/
inductive Refusal where
  /-- Answered by a dispatch arm whose command has no meaning yet. Safe. -/
  | notModelled (mnemonic : String)
deriving DecidableEq, Repr

/-- What leaves the device: register read data, messages, letters, frames, edges. The model's own log, newest first. -/
inductive Output where
  | readData (value : Nat)
  | readBytes (data : List Byte)
  | completerAbort
  | unsupportedRequest
  | aerCorrectable
  | msix (vector : Nat)
  | pme
  | wakeN
  | hostRead (sq idx addr len : Nat)
  | letter (pipe seq cls addr : Nat) (data : List Byte)
  | trigger (pipe kind count : Nat)
  | pin (ball : Nat) (high : Bool)
  | courier (port cls : Nat) (bcast resent : Bool) (src dst hops seq : Nat) (payload : List Byte)
  | courierAbort (port : Nat)
  | pmbus (command value : Nat)
  | preset (lane preset : Nat)
  | ptp (port kind seqId : Nat) (timePs : Int)
  | raster (out frame : Nat) (bytes : List Byte)
  | pixels (out frame : Nat) (codes : List Nat)
  | audio (port : Nat) (samples : List Word)
  | refresh (channel count : Nat)
  | nandWork (channel : Nat) (recording maintenance : Nat) (host : List (Nat × Nat))
  | tdo (bits : List Bool)
deriving DecidableEq, Repr

/-! ### Frame-memory rings (08 R205 to R212, and the rings that follow them) -/

/-- The state of a buffer of a ring (08 R208). -/
inductive BufState where
  | free
  | filling
  | full
deriving DecidableEq, Repr

/-- A buffer descriptor of 32 bytes (08 R205). -/
structure BufDesc where
  pool    : Nat
  hdrOff  : Nat
  plane0  : Nat
  plane1  : Nat
  plane2  : Nat
  stride0 : Nat
  stride1 : Nat
deriving DecidableEq, Repr

/-- A buffer: its descriptor, its state, the slots it is still marked for, the slots that took it, and whether it
belongs to a retiring ring (08 R208, R212). `order` tells one filling from another. -/
structure Buf where
  desc    : BufDesc
  idx     : Nat            -- its number in its ring
  st      : BufState
  marks   : List Nat
  held    : List Nat
  pend    : List Nat       -- slots whose release waits for rank 8 or 9 (R209)
  begun   : Bool           -- a consumer has begun to read it (R210)
  old     : Bool
  order   : Nat
  frame   : Nat
  postmark : Nat           -- the 128 bits of R9
  pset    : Nat
  bytes   : Nat            -- bytes or samples the header reports
  spans   : List (Nat × Nat)  -- the pool bytes it uses: offset and length
  chain   : List Nat       -- overflow buffers chained from it (12 R308)
deriving DecidableEq, Repr

/-- A consumer slot (08 R208): endpoint, 0 when none is attached, and order latest. -/
structure Slot where
  endpoint : Nat
  latest   : Bool
deriving DecidableEq, Repr

/-- A ring of buffers with its four consumer slots. -/
structure Ring where
  bufs    : List Buf
  slots   : List Slot
  nextOrd : Nat
  gap     : Nat            -- frames skipped or reclaimed since the last full buffer (08 R207)
  skipped : BitVec 8
  reclaimed : BitVec 8
  dropped : BitVec 8
deriving DecidableEq, Repr

def Slot.none : Slot := ⟨0, false⟩
def Ring.empty : Ring := ⟨[], List.replicate 4 Slot.none, 0, 0, 0, 0, 0⟩

/-! ### Tick (01) -/

/-- A supply or thermal trip waiting for rank 1 (23 R535). -/
inductive Trip where
  | thermal
  | supply
  | pfail
deriving DecidableEq, Repr

/-- A link whose state changes at rank 4 (04 R97). -/
inductive LinkId where
  | capture (pipe : Nat)
  | chain (port : Nat)
  | raster (out : Nat)
deriving DecidableEq, Repr

/-- A receipt that a data-plane engine has ready for rank 8, or a host-side action for rank 9. -/
structure Completion where
  dk     : Docket
  status : Nat
  result : List Byte
  last   : Bool          -- the docket ends with it
  final  : Bool          -- final receipt of an envelope
  cause  : Nat           -- dead-letter cause (13 R335)
  freezes : Bool         -- may freeze its queue (13 R336)
  remote : Bool          -- it comes from another device (receipt flag [3], 21 R508)
deriving DecidableEq, Repr

/-- Host-side actions taken at rank 9 (01 R14, 13 R325, R337, R323, R334; 21 R497). -/
inductive HostAct where
  | doorbell (sq tail : Nat)
  | action (sq code : Nat)                              -- 1 retry, 2 skip, 3 flush, 4 freeze
  | moderation (dk : Docket) (cq vector count time : Nat)
  | aperture (dk : Docket) (i : Nat) (map : Option (Nat × Nat))
  | arb (low medium high : BitVec 8)
  | lockAddress (dk : Docket) (addr : Nat)
  | withdraw (dk : Docket) (env : Nat)
  | driverReset
deriving DecidableEq, Repr

/-- The tick collector (01 R30 to R40): period, count, and the events stamped in the tick that is running. -/
structure TickSt where
  count    : BitVec 64
  hiLatch  : BitVec 32
  overruns : BitVec 8
  overrun  : Bool
  storm    : Bool
  stepped  : Bool
  tclk     : Nat                       -- TCLK cycles since start-up, at the last tick boundary
  halfNext : Bool                      -- the next tick follows a step (R36)
  trips    : List (Trip × Nat)         -- with the stamp
  steps    : List (Int × Nat)          -- requested steps, with their cause (R480)
  links    : List (LinkId × Bool × Nat)
  markers  : List (Nat × Nat)          -- pipeline, stamp
  commits  : List (Nat × Nat)          -- output, stamp
  samples  : List (Int × Nat)          -- servo offset samples of this tick, ps, with the source
  done8    : List Completion
  rel8     : List (Nat × Nat × Nat)    -- ring, slot, buffer order: releases taken at rank 8 (08 R209)
  rel9     : List (Nat × Nat × Nat)    -- those taken at rank 9
  act9     : List HostAct
  bad      : List (Nat × Nat)          -- claimed units struck by an uncorrectable error: kind and unit (03 R593)
  inClose  : Bool                      -- a close is being taken
  w1c      : List Nat                  -- W1C bits that an event has set in this tick (00 R7): 32 × BAR0 offset + bit
deriving DecidableEq, Repr

/-! ### Governor (02) -/

structure GovSt where
  policy    : BitVec 2
  fixedMv   : BitVec 10
  voutMv    : BitVec 10
  lifeLow   : Bool
  hot       : Bool
  regFault  : Bool
  fixedLeft : Bool
  refused   : Bool
  pmbusAddr : BitVec 7
  readings  : List Nat          -- 48 monitor readings, Q4.12 (R43)
  curves    : List (List Nat)   -- 12 regions × 5 points, Q4.12
  requestMv : Nat               -- last VOUT_COMMAND
  finalMv   : Nat               -- where the raise or the lowering ends
  raising   : Bool
  retries   : Nat
  tj        : List Int          -- thirteen sensors
  probeTj   : Int               -- Tj at the last margin probe (R44)
  v1        : List Int          -- V1 per region (R58)
  probed    : Bool
  lifeRegion : BitVec 4
  lifeMv    : Int
  lifeBelow : Bool              -- the margin was below 10 mV at the last probe (R59)
  shedding  : Bool              -- in force (R55)
  shed      : List Nat          -- race numbers shed, newest first (R55, R56)
  voutModeOk : Bool             -- R52
  swept     : Bool              -- the sweep of R558 has ended
deriving DecidableEq, Repr

/-! ### Resources and streams (01) -/

/-- A spine link that a stream is placed on: region, direction, link 0 to 3, and the rate it adds there (01 R592). -/
structure SpineHop where
  region  : Nat
  inbound : Bool
  link    : Nat
  rate    : Q
deriving DecidableEq, Repr

/-- A stream of the millrace (01 R20 to R27, R592). `implied` marks one that exists because its block is configured,
with no stream-create member: a raster layer, a hold, an audio port or a store writer (R20). -/
structure Stream where
  race   : Nat
  src    : Nat           -- endpoint
  dst    : Nat
  rate   : Q             -- declared rate, bytes/s
  policy : Nat           -- 0 stall, 1 drop, 2 panic
  prio   : Nat
  prog   : Bool
  args   : List Byte     -- bytes 20 to 43 of the member record
  spine  : List SpineHop
  implied : Bool
deriving DecidableEq, Repr

/-- A claimed unit (03 R75, 14 R355). -/
structure Claim where
  kind : Nat
  unit : Nat
  size : Nat
  mask : Nat
deriving DecidableEq, Repr

structure ResSt where
  streams : List Stream
  claims  : List Claim
  links   : List (LinkId × List Nat)   -- configured links and their lanes, link lane 0 first (04 R92)
deriving DecidableEq, Repr

/-! ### Envelopes (03) -/

/-- A member as added: the 48-byte record of R353, and for a bulk member its staged value. -/
structure Member where
  record : List Byte
  bulk : Option (List Byte)
deriving DecidableEq, Repr

inductive EnvPhase where
  | free
  | opened
  | sealing
  | sealed
  | ended                -- landed or returned, its final receipt not yet written
deriving DecidableEq, Repr

/-- A control letter of an envelope (05 R132, 09 R226). -/
structure EnvLetter where
  member  : Nat
  pipe    : Nat
  cls     : Nat
  latency : Nat
  frame   : Option Nat    -- delivery frame D, for kind 1
  sent    : Bool
deriving DecidableEq, Repr

/-- A chain-wide envelope's part on this device (03 R84). -/
structure ChainPart where
  ref      : ChainRef
  isCoord  : Bool
  members  : List Nat               -- participants
  ready    : List Nat
  decision : Option Bool
  reports  : List (Nat × Bool)
  budget   : Nat                    -- B of R504, ns
  landed   : Bool
  holdRcpt : Bool                   -- final receipt waits for the reports
deriving DecidableEq, Repr

structure Env where
  phase   : EnvPhase
  members : List Member
  dk      : Docket                  -- the docket that sealed it
  lone    : Bool                    -- a lone parameter write (R14)
  kind    : Nat
  target  : Nat
  land    : Nat                     -- frame number, or ns of device time
  noLate  : Bool
  late    : Bool
  seq     : Nat                     -- seal sequence, 0 before seal
  sealedAt : Nat                    -- tick count at which the seal completed
  letters : List EnvLetter
  streams : List Stream             -- streams it creates
  failed  : Option (Nat × Nat)      -- member that makes it return with 0x40, and the device time that judges it (R593)
  chain   : Option ChainPart
  mism    : List Nat                -- pipelines whose DESC_MISMATCH was set before its seal completed (R593)
deriving DecidableEq, Repr

structure EnvSt where
  envs     : List Env
  nextSeq  : Nat
  late     : BitVec 8
  returned : BitVec 8
deriving DecidableEq, Repr

def Env.empty : Env :=
  ⟨.free, [], ⟨0, 0, []⟩, false, 0, 0, 0, false, false, 0, 0, [], [], none, none, []⟩

/-! ### Lanes (04) -/

structure Lane where
  cdrLock  : Bool
  sync     : Bool
  aligned  : Bool
  deskewed : Bool
  boundary : BitVec 4
  codeViol : BitVec 16
  dispErr  : BitVec 16
  fom      : BitVec 8
  ctle     : BitVec 4
  dfe      : List (BitVec 4)
  fomBefore : BitVec 8
  fomAfter : BitVec 8
  calTemp  : BitVec 8
  calResult : BitVec 4
  slip     : Nat            -- bits of a slip not yet applied (R101)
  aosCount : Option Nat
  preset   : BitVec 3       -- transmit preset in use
  band     : Nat            -- 0 good, 1 marginal, 2 low (R106)
  calDue   : Bool           -- triggered (R107)
  spare    : Option (Nat × Nat)  -- CTLE and FOM ready on the spare slicer (R108)
  skips    : Int            -- skip pairs repeated less those deleted (R100)
  tries    : List Nat       -- FOM under TP0, TP1 … of the far transmitter, in bring-up (R105)
  repDue   : Nat            -- symbol number from which the next error files a report (R96)
deriving DecidableEq, Repr

structure Quad where
  powered : Bool
  pllLock : Bool
  fwdOk   : Bool
deriving DecidableEq, Repr

/-- A link on the lanes: up, and in bring-up with initial adaptation pending. -/
structure Link where
  up      : Bool
  trained : Bool     -- has come up before, so a relock needs no initial adaptation (R141)
deriving DecidableEq, Repr

structure LaneSt where
  lanes  : List Lane
  quads  : List Quad
  caps   : List Link     -- capture links, 8
  chains : List Link     -- chain ports, 2
  outs   : List Link     -- raster outputs, 4
deriving DecidableEq, Repr

def Lane.reset : Lane :=
  ⟨false, false, false, false, 0, 0, 0, 0, 0, [0, 0, 0, 0, 0], 0, 0, 0, 0, 0, none, 0, 0, false, none, 0, [], 0⟩

/-! ### Capture links and frames (05 to 09) -/

/-- A segment of samples as received (05 R121). -/
structure Seg where
  line    : Nat
  offset  : Nat
  samples : List Nat
deriving DecidableEq, Repr

/-- What one die has sent of the open frame. -/
structure DieFrame where
  header   : Bool
  count    : Nat
  applied  : Nat
  exposure : Nat
  gain     : Nat
  trailer  : Bool
  hstatus  : Nat
  segs     : List Seg
  ob       : List Seg
  embed    : List Byte
  lastLine : Option Nat
  oos      : Bool
  filled   : Bool
  allFill  : Bool
deriving DecidableEq, Repr

def DieFrame.empty : DieFrame :=
  ⟨false, 0, 0, 0, 0, false, 0, [], [], [], none, false, false, false⟩

/-- Per-frame counts (06 R171, 07 R195, 10 R244). -/
structure FrameCounts where
  sat        : Nat
  dyn        : Nat
  rowClipped : Nat
  unresolved : Nat
  clampHeld  : Nat
  mfSat      : Nat
  lutClamp   : Nat
  xferClip   : Nat
  tapClip    : Nat       -- raw tap clip count
deriving DecidableEq, Repr

/-- A frame, from its marker to its completion in the pipeline. -/
structure Frame where
  stamp   : Nat            -- device time of the marker, units of 2^-32 ns
  epoch   : Nat
  gated   : Bool
  aborted : Bool           -- ended in abort before its gate
  settled : Bool           -- its header has been reconciled (09 R222, R223)
  number  : Nat
  pset    : Nat
  status  : BitVec 16
  lines   : Nat            -- K28.3 seen
  dies    : List DieFrame
  conv    : Bool
  cfa     : Nat            -- CFA code in force (07 R176)
  clamp   : List Nat       -- the stored clamp estimates that it started from, once it has completed (06 R150)
  params  : List (Nat × List Byte)   -- parameter values in force for it (R78)
  bufs    : List (Option Nat)        -- buffer orders in the rings of taps A to F, statistics, GS, and the bolter's slot
  written : List (Nat × Nat × Nat × Nat × Int) -- grist writes: point, component, x, y, resulting value; newest first
  gsRecs  : List (Nat × List Byte)   -- emissions, by tile index
  gsFault : Bool
  tiles   : List (Nat × Nat)         -- tiles run: point, index
  passing : List Nat                 -- points in pass mode for this frame
  holding : List Nat                 -- points in hold mode for it
  rawDrop : Bool                     -- the raw tap dropped it
deriving DecidableEq, Repr

/-- A control letter on the return path (05 R131 to R133). -/
structure Letter where
  seq     : Nat
  cls     : Nat
  addr    : Nat
  data    : List Byte
  env     : Option (Nat × Nat)     -- envelope number and member
  resends : Nat
  own     : Bool                   -- sent by the device itself
  request : Bool                   -- a descriptor request
  held    : Bool                   -- not sent: the link is down
  left    : Bool                   -- has been sent before
  frame   : Option Nat             -- frame in whose span it left
deriving DecidableEq, Repr

/-- A letter that was delivered (05 R133, 09 R223). -/
structure Delivered where
  seq   : Nat
  cls   : Nat
  frame : Nat
  first : Nat        -- D + L(c), first frame at which it applies
  env   : Option Nat
deriving DecidableEq, Repr

structure CapSt where
  lastCount    : BitVec 16
  dieOos       : BitVec 4
  silent       : Bool
  descMismatch : Bool
  capturing    : Bool
  discovered   : Bool
  dropped      : BitVec 16
  repaired     : BitVec 8
  retries      : BitVec 8
  desc         : List Byte          -- the valid descriptor held, 64 bytes, [] for none
  created      : List Byte          -- the descriptor held when the stream was created
  badDesc      : List Byte          -- the last invalid one
  requests     : Nat                -- requests sent since the link came up
  lastReq      : Nat                -- stamp of the last request
  gotAny       : Bool               -- a descriptor, valid or not, has arrived since the link came up
  freshDesc    : Bool               -- a valid descriptor has arrived since the link came up
  seq          : Nat                -- next letter sequence
  letters      : List Letter        -- outstanding
  triggers     : BitVec 8
  oosRun       : List Nat           -- consecutive out-of-step frames per die
  geometry     : List (List Nat)    -- per die: width, lines and depth of its last frame header, [] for none
  events       : List (Nat × List Byte)   -- last 16 head events, oldest first
  embed        : List (List Byte)   -- per die, of the last completed frame
  embedFrame   : Nat
  unknownSec   : Option Nat         -- second of the last unknown-packet report
  overSec      : Option Nat         -- second of the last overrate report
  lastMarker   : Option Nat         -- stamp of the last marker, gated or not
deriving DecidableEq, Repr

def CapSt.reset : CapSt :=
  ⟨0, 0, false, false, false, false, 0, 0, 0, [], [], [], 0, 0, false, false, 0, [], 0, [0, 0, 0, 0],
   [[], [], [], []], [], [[], [], [], []], 0, none, none, none⟩

structure PipeSt where
  cur      : Option Frame
  ended    : List Frame            -- in the pipeline, oldest first
  done     : Option Frame          -- the last frame to complete
  counts   : FrameCounts           -- of the last frame to complete
  tapClips : List Nat              -- CLIP_LAST of taps A to F
  -- front end (06)
  clamp    : List Nat              -- stored estimates, 4 dies × 4 channels, quarters
  candFull : Bool
  cands    : List (Nat × Nat)      -- row, column
  flagRuns : List (Nat × Nat × Nat)  -- row, column, consecutive completed frames flagged
  rejWhy   : BitVec 3
  rejIndex : BitVec 15
  -- frame numbers and settings (09)
  frame    : BitVec 32
  pset     : BitVec 32             -- at the last gate
  psetNow  : BitVec 32             -- seal sequence of the last envelope to change the pipeline
  prevStamp : Option Nat           -- stamp of the last gated marker
  prevPeriod : Nat                 -- declared period in force at that gate, ns
  nref     : BitVec 32
  href     : BitVec 16
  refValid : Bool
  expected : BitVec 16
  delivered : List Delivered
  armed    : Bool                  -- a mismatch may be reported (R223)
  slipRun  : Bool
  mismRun  : Bool
  slips    : BitVec 8
  mismatch : Bool
  countSlip : Bool
  missed   : BitVec 32
  orphans  : List (Nat × Nat × Nat) -- orphaned letters: class, first frame at which they apply, sequence (R228)
  convLeft : BitVec 16
  convOn   : Bool
  convNew  : Option Nat            -- count that takes effect at the next gate
  newCap   : Bool                  -- capture created since the last gate
  periodWait : Option Nat          -- a period that waits for its class 3 letter (R229)
  periodAt : Option (Nat × Nat)    -- a period that takes effect from a frame (R229)
  late     : Bool                  -- a kind 1 envelope landed late at this gate
  lastBlock : Option Nat           -- frame of the last statistics block (R234)
  lastRecord : Option Nat          -- frame of the last raw record
deriving DecidableEq, Repr

def FrameCounts.zero : FrameCounts := ⟨0, 0, 0, 0, 0, 0, 0, 0, 0⟩

def PipeSt.reset : PipeSt :=
  { cur := none, ended := [], done := none, counts := FrameCounts.zero, tapClips := [0, 0, 0, 0, 0, 0],
    clamp := List.replicate 16 0, candFull := false, cands := [], flagRuns := [], rejWhy := 0, rejIndex := 0,
    frame := 0xFFFFFFFF, pset := 0xFFFFFFFF, psetNow := 0xFFFFFFFF, prevStamp := none, prevPeriod := 0,
    nref := 0, href := 0, refValid := false, expected := 0, delivered := [], armed := false, slipRun := false,
    mismRun := false, slips := 0, mismatch := false, countSlip := false, missed := 0, orphans := [],
    convLeft := 0, convOn := false, convNew := none, newCap := false, periodWait := none, periodAt := none, late := false,
    lastBlock := none, lastRecord := none }

/-! ### Grist (10) -/

/-- A write of one granary word in a granary cycle (10 R254): the cycle is the beat count since start-up. -/
structure GranWrite where
  cluster : Nat
  word    : Nat
  port    : Nat
  beat    : Nat
  old     : Nat
deriving DecidableEq, Repr

/-- The last run of an engine (10 R243, R263): its unit is a tile number, or 2^32 + cluster for a frame-end run. -/
structure EngineRun where
  cluster : Nat
  engine  : Nat
  stop  : Nat           -- beat at which it ends
  point   : Nat
  frame   : Nat
  unit    : Nat
deriving DecidableEq, Repr

structure MillSt where
  overflow : Bool
  passing  : BitVec 4
  holding  : BitVec 4
  retired  : List (List Bool)       -- 4 clusters × 16 engines
  tested   : Bool                   -- the start-up self-test has ended
  faults   : BitVec 16
  saturated : BitVec 16
  collisions : BitVec 16
  reissued : BitVec 8
  granary  : List (List Host.Cell)  -- per cluster, canonical, zero when unlisted
  pages    : List (List (Nat × BitVec 32)) -- instruction stores: word index and word, per cluster
  collide  : List (Nat × Nat)       -- cluster and engine whose collision flag is set
  writes   : List GranWrite         -- writes of granary cycles not yet past (R254)
  busy     : List EngineRun         -- the last run of each engine
  resets   : List (Nat × Nat × Nat) -- cluster, engine, hour of reset (R264)
  reported : List (Nat × Nat)       -- points and frames whose fault was reported
  deferred : List (Nat × Nat × Bool) -- engines whose self-test is deferred: engine, hour since, reported (R539)
  failing  : BitVec 4               -- points that enter their failure mode at the next gate (R265)
  poison   : List Nat               -- clusters whose next tile meets an uncorrectable error (R262)
  zeroDue  : List (Bool × Nat × Nat) -- released pages (true) and banks not yet zeroed: unit, last frame that may use it (R255)
deriving DecidableEq, Repr

def MillSt.reset : MillSt :=
  { overflow := false, passing := 0, holding := 0, retired := List.replicate 4 (List.replicate 16 false),
    tested := false, faults := 0, saturated := 0, collisions := 0, reissued := 0,
    granary := [[], [], [], []], pages := [[], [], [], []], collide := [], writes := [], busy := [], resets := [],
    reported := [], deferred := [], failing := 0, poison := [], zeroDue := [] }

/-! ### Coding (11) -/

/-- A picture that an encode stream has taken (11 R277 to R280). -/
structure CodedPic where
  order : Nat              -- its input buffer
  frame : Nat
  type  : Nat              -- 0 I, 1 P, 2 B
  tid   : Nat              -- temporal level
  key   : Bool
  req   : Bool             -- a key on request
  gap   : Nat              -- frames gated before it and not coded
deriving DecidableEq, Repr

structure EncSt where
  active   : Bool
  ending   : Bool                 -- released: codes what it has taken, then ends (R290)
  cores    : BitVec 8
  level    : BitVec 8
  profile  : BitVec 3
  gop      : BitVec 2
  tier     : Bool
  subGop   : Nat                  -- M
  refs     : Nat                  -- r
  pipe     : Nat
  tap      : Nat
  keyPending : Bool
  keyFrom  : Nat                  -- frame from which the requested key is due
  stalled  : Bool
  qpMax    : BitVec 8
  qpMin    : BitVec 8
  qpPic    : BitVec 8
  lastBits : BitVec 32
  exhausted : BitVec 8
  capExceeded : BitVec 8
  keyReq   : BitVec 8
  filler   : BitVec 8
  f0       : Option Nat           -- frame of the first picture coded
  fKey     : Nat
  sinceKey : Nat                  -- pictures since the last key
  window   : List Nat             -- bits of earlier pictures, newest first
  cpb      : Int                  -- CPB fullness at the next removal, in 10^-9 bits (R284)
  last     : List (Nat × Nat × Nat) -- per type I, P, B: QP, bits, target; type absent until coded
  seen     : List Nat             -- types coded so far
  decOrder : Nat
  gapFrames : Nat                 -- frames gated and not coded since the last coded picture
  pendingAu : List (List Byte)    -- access-unit pieces, header then payload, waiting for buffers (R287)
  taken    : List CodedPic        -- pictures taken and not yet placed in a sub-GOP, oldest first
  plan     : List CodedPic        -- pictures to code next, in coding order
  sei      : List Byte            -- the 48-byte SEI payload of the last access unit (R288)
  vui      : List Nat             -- its VUI: primaries, transfer, matrix, full range, units in tick, time scale
  older    : List (Nat × Nat × List Byte) -- changed parameters: first frame of the new value, key, value before it (R290)
deriving DecidableEq, Repr

def EncSt.reset : EncSt :=
  { active := false, ending := false, cores := 0, level := 0, profile := 0, gop := 0, tier := false, subGop := 1,
    refs := 0, pipe := 0, tap := 0, keyPending := false, keyFrom := 0, stalled := false, qpMax := 0, qpMin := 0,
    qpPic := 0, lastBits := 0, exhausted := 0, capExceeded := 0, keyReq := 0, filler := 0, f0 := none, fKey := 0,
    sinceKey := 0, window := [], cpb := 0, last := [(0, 0, 0), (0, 0, 0), (0, 0, 0)], seen := [], decOrder := 0,
    gapFrames := 0, pendingAu := [], taken := [], plan := [], sei := [], vui := [], older := [] }

structure DecSt where
  active     : Bool
  level      : BitVec 8
  concealing : Bool
  stopped    : Bool
  synced     : Bool
  craStart   : Bool               -- decoding started at a CRA: its RASL pictures are discarded
  discarded  : BitVec 16
  errors     : BitVec 8
  hashBad    : BitVec 8
  input      : List (Nat × Nat)   -- fed NAL ranges: offset and length in the input pool
  pictures   : Nat                -- pictures output since the last drain
deriving DecidableEq, Repr

def DecSt.reset : DecSt := ⟨false, 0, false, false, false, false, 0, 0, 0, [], 0⟩

/-! ### Bolter (12) -/

/-- A job of a general lane (12 R312 to R314, R311). -/
structure BoltJob where
  op     : Nat                    -- 0x60, 0x61, 0x62 or 0x63
  dk     : Docket
  fresh  : Bool                   -- new stream
  mode   : Nat                    -- flush mode
  input  : Option (List Byte)     -- none until host memory has been read
  segs   : Option (List (Nat × Nat)) -- destination address and length
deriving DecidableEq, Repr

structure BoltSt where
  active     : Bool
  ratioLow   : Bool
  lowRun     : Bool
  storedOnly : Bool
  stored     : BitVec 16
  mismatches : BitVec 8
  dropped    : BitVec 8
  sizes      : List Nat           -- bytes of the last 16 records, newest first
  raws       : List Nat           -- their raw bytes
  mismAt     : List Nat           -- seconds of operation at the last mismatches, newest first
  ovf        : List Buf           -- overflow list (R308)
  flush      : List Docket        -- dockets waiting for the record in progress
  jobs       : List BoltJob
  history    : List Byte          -- last 32 KiB of the compress session, newest first
  heldBits   : List Bool          -- bits held for the start of the next job's output (R312)
  dead       : Bool               -- the compress session continues only from a new stream (R312)
  stream     : List Byte          -- input of the decompress stream that goes on (R313)
  written    : Nat                -- bytes of it already output
deriving DecidableEq, Repr

def BoltSt.reset : BoltSt :=
  { active := false, ratioLow := false, lowRun := false, storedOnly := false, stored := 0, mismatches := 0,
    dropped := 0, sizes := [], raws := [], mismAt := [], ovf := [], flush := [], jobs := [], history := [],
    heldBits := [], dead := false, stream := [], written := 0 }

/-! ### Host attachment (13) -/

inductive PciPower where
  | d0
  | d3hot
  | d3cold
deriving DecidableEq, Repr

/-- A docket that the device has fetched: waiting until the sorting office begins it, then begun (13 R328). -/
structure Fetched where
  idx      : Nat
  bytes    : List Byte
  begun    : Bool
  reserved : Nat          -- receipts it still reserves
  wrote    : Bool         -- its first receipt is written (or would have been, under QUIET)
deriving DecidableEq, Repr

structure SubQ where
  enabled  : Bool
  base     : BitVec 64
  entries  : Nat
  cq       : Nat
  cls      : Nat
  freezeOnErr : Bool
  frozen   : Bool
  hostFreeze : Bool        -- frozen by SQn_CTRL.FREEZE
  fetch    : Nat           -- fetch position, or the failing index while frozen
  limit    : Nat           -- tail released for fetch (rank 9)
  flushEnd : Option Nat    -- dockets up to here write 0x0601 as they are fetched (R337)
  tailReg  : BitVec 12     -- SQn_TAIL, last value accepted
  fetched  : List Fetched
  need     : Nat           -- room the docket at the fetch position needs (R327)
  deleting : Option Docket -- the delete docket that waits for the begun dockets (R337)
deriving DecidableEq, Repr

/-- A receipt made and its age (13 R330, R334). -/
structure Receipt where
  bytes  : List Byte       -- 32
  made   : Nat             -- TCLK count at which it was made
  irqNow : Bool
  froze  : Bool
deriving DecidableEq, Repr

structure CompQ where
  enabled : Bool
  base    : BitVec 64
  entries : Nat
  vector  : Nat
  count   : Nat
  timeUs  : Nat
  armed   : Bool
  phase   : Bool
  tail    : Nat
  head    : Nat
  pend    : List Receipt   -- written since the last message, oldest first
  reserved : Nat
  kept    : List (List Byte × Bool)  -- receipts kept across a host driver reset (R338), oldest first
deriving DecidableEq, Repr

def SubQ.none : SubQ :=
  ⟨false, 0, 0, 0, 0, false, false, false, 0, 0, Option.none, 0, [], 1, Option.none⟩
def CompQ.none : CompQ := ⟨false, 0, 0, 0, 0, 0, false, false, 0, 0, [], 0, []⟩

structure DlogEntry where
  docket  : List Byte
  receipt : List Byte
  tick    : Nat
  queue   : Nat
  cause   : Nat
  ring    : Nat
  froze   : Bool
deriving DecidableEq, Repr

structure MsixVec where
  addr   : BitVec 64
  data   : BitVec 32
  masked : Bool
deriving DecidableEq, Repr

/-- A docket begun that waits for host data (13 R319, R349). -/
structure Waiting where
  d    : Docket
  addr : Nat
  len  : Nat
deriving DecidableEq, Repr

/-- A docket that was begun when a host driver reset deleted its queue (13 R338). -/
structure Orphan where
  dk   : Docket
  cq   : Nat
  keep : Bool              -- its receipt is kept for the completion queue (03 R68, 16 R406)
  head : Nat
deriving DecidableEq, Repr

structure HostSt where
  power    : PciPower
  msixOn   : Bool
  funcMask : Bool
  msix     : List MsixVec
  pba      : List Bool
  ready    : Bool
  dbBad    : Bool
  presStuck : Bool
  presOpen : Bool
  presEnd  : Nat             -- TCLK count at which the window closes
  presLow  : Bool            -- PRESENCE_N asserted
  presDue  : Bool            -- an assertion opens or restarts the window at this tick's close
  hdrBusy  : Bool
  arbLow   : BitVec 8
  arbMed   : BitVec 8
  arbHigh  : BitVec 8
  admSqLo  : BitVec 32
  admSqHi  : BitVec 32
  admCqLo  : BitVec 32
  admCqHi  : BitVec 32
  cqLast   : BitVec 12
  sqLast   : BitVec 12
  admErr   : Bool
  admEn    : Bool
  dlog     : List DlogEntry
  dlogLost : BitVec 16
  bar2Err  : BitVec 16
  apertures : List (Option (Nat × Nat))    -- pool and offset in 16 MiB units
  sqs      : List SubQ
  cqs      : List CompQ
  shares   : List Nat        -- dockets left to high, medium and low in the round (R333)
  turn     : List Nat        -- next queue in turn, per class
  waitData : List Waiting
  heldRcpt : List (Nat × List Byte) -- receipts waiting in D3: completion queue and receipt
  heldWr   : List (Nat × List Byte) -- other DMA writes waiting in D3: address and bytes
  orphans  : List Orphan
  heldRaised : Bool           -- source 10 was raised in this stay in D3 (22 R526)
  d3Wake   : Bool             -- a wake was signalled in this stay in D3
deriving DecidableEq, Repr

/-! ### Clip store (15, 16) -/

/-- A NAND block that needs naming: its erase count, and whether it is bad, free or holds data. -/
structure NandBlk where
  die    : Nat
  block  : Nat
  erases : Nat
  bad    : Bool
  lbas   : List Nat          -- logical blocks whose valid data it holds
  refresh : Bool
deriving DecidableEq, Repr

inductive BandState where
  | host
  | clip (id : Nat)
deriving DecidableEq, Repr

structure Clip where
  id       : Nat
  source   : Nat
  slot     : Nat
  opened   : Bool
  continues : Bool
  continued : Bool
  trimmed  : Bool
  damaged  : Bool
  fullEnd  : Bool
  extents  : List (Nat × Nat) -- first block and blocks
  bands    : List Nat         -- bands allocated to it
  fill     : Nat              -- blocks used in its last band
  first    : Nat              -- postmark of the first unit
  last     : Nat
  bytes    : Nat
  units    : Nat
  take     : Nat
  safeBytes : Nat             -- of the units whose source buffers are released
  safeUnits : Nat
  safeLast : Nat
deriving DecidableEq, Repr

/-- A source of a recording slot (15 R383, R384). -/
structure RecSrc where
  ep       : Nat
  cslot    : Nat              -- its consumer slot in the source's ring
  clip     : Nat              -- 0 until the first unit
  take     : Nat
  fromFrame : Option Nat      -- kind 1: first frame
  waitKey  : Bool             -- an encode source that has not yet met its key
  stopOrd  : Option Nat       -- after a stop: the newest buffer that still belongs to the clip
  stopFrame : Option Nat      -- a stop of kind 1: the frame before which the clip ends
deriving DecidableEq, Repr

structure RecSlot where
  running : Bool
  sources : List RecSrc
deriving DecidableEq, Repr

/-- A unit that the writers of a slot are programming (15 R370, R384). -/
structure RecUnit where
  slot    : Nat
  ep      : Nat
  cslot   : Nat
  orders  : List Nat          -- the ring buffers that hold it
  clip    : Nat
  bytes   : Nat
  mark    : Nat               -- its postmark
  left    : List (Nat × List Byte)  -- blocks not yet programmed
deriving DecidableEq, Repr

/-- A host pigeonhole (16 R392 to R395). -/
structure Hole where
  lock    : Nat
  first   : Nat
  blocks  : Nat
  shared  : Bool
  granted : Bool
  d       : Docket
  cls     : Nat
  pages   : Option (List Nat) -- host pages of a LIST, once read
  need    : List Nat          -- blocks of a read whose codewords are not read yet
  failed  : List Nat
  moved   : Bool              -- the host data of a write is in the write buffer
  ended   : Bool              -- its receipt is due at the close, which releases it
deriving DecidableEq, Repr

/-- A block in the write buffer, not yet on the medium (16 R399, R400). -/
structure Dirty where
  lock     : Nat
  lba      : Nat
  data     : Option (List Byte)   -- none: deallocated
  receipted : Bool
  done     : Bool                 -- its page is programmed; its atomic unit is not yet whole on the medium
deriving DecidableEq, Repr

structure StoreSt where
  geom     : Option NandGeometry
  retired  : List Nat             -- dies retired
  lost     : List Nat             -- dies whose rebuild is not finished
  blocks   : List NandBlk         -- blocks with history; every other is good, free and erased `erases` times
  erases   : Nat
  good     : Nat                  -- G at format
  free     : Nat                  -- free spare blocks
  capacity : Nat                  -- C
  spare    : BitVec 2
  formatted : Bool
  dataKey  : Nat                  -- free value
  wrapKey  : List Byte            -- store key the data key is wrapped under
  keptKey  : List Byte
  wrapSeq  : Nat
  locked   : Bool
  online   : Bool
  offline  : Bool
  bands    : List (Nat × BandState)
  clips    : List Clip
  nextClip : Nat
  slots    : List RecSlot
  units    : List RecUnit
  lbas     : List (Nat × List Byte)   -- contents on the medium, sorted
  dirty    : List Dirty               -- oldest first
  holes    : List Hole                -- in lock order
  recHoles : List (Nat × Nat)         -- source endpoint, band
  lockSeq  : Nat
  early    : List Docket              -- dockets without a pigeonhole that wait for bring-up (24 R559)
  flushes  : List (Docket × List Nat) -- flush docket, and the locks it covers
  lostWr   : List (Nat × Nat)         -- lock and block of writes lost after their receipt
  recovered : Bool
  pfailSeen : Bool
  pfailKept : Bool                -- PFAIL_SEEN stored for the next start
  parked   : Bool
  pfailLow : Bool
  readFailed : BitVec 16
  relocated : BitVec 8
  lostCnt  : BitVec 4
  recovClips : BitVec 4
  nearly   : Bool
  wear100  : Bool
deriving DecidableEq, Repr

def RecSlot.idle : RecSlot := ⟨false, []⟩

/-! ### Frame memory (17) -/

structure Chan where
  populated : Bool
  gib      : Nat
  ranks    : Nat
  limit    : Nat          -- rate limit of its dies, MT/s
  debt     : Nat          -- owed per-bank commands
  ahead    : Nat          -- commands paid in advance
  mult     : Nat          -- refresh rate in force, quarters of 1×: tREFI is 3,906 ns × 4 ÷ mult
  cool     : Nat          -- consecutive reads at 1× or less
  oscBase  : List Nat     -- oscillator counts at the last training
  oscLast  : List Nat     -- those last read
  trainedAt : Nat         -- TCLK count of the last training
  retrain  : Bool
  retrainForced : Bool
  trained  : List Nat     -- rates with stored results
  setB     : Bool
  panics   : List Nat     -- race numbers in panic on this channel
deriving DecidableEq, Repr

structure Pool where
  num   : Nat
  size  : Nat
  mask  : Nat
  pages : List (Nat × Nat)     -- channel and page, in order
deriving DecidableEq, Repr

structure DramSt where
  rate     : BitVec 16
  switching : Bool
  setB     : Bool
  ready    : Bool
  chans    : List Chan
  pools    : List Pool
  target   : Option Nat
  nextRate : Option Nat
  panicsCnt : BitVec 16
  forcedRef : BitVec 8
  retrForced : BitVec 8
  marked   : List (Nat × Nat)      -- pages marked (R536)
  hourPage : List (Nat × Nat × Nat) -- channel, page, corrections this hour
deriving DecidableEq, Repr

def Chan.none : Chan := ⟨false, 0, 0, 0, 0, 0, 4, 0, [], [], 0, false, false, [], false, []⟩

/-! ### Raster (18) -/

structure RasterSt where
  force    : List (Nat × List Byte)   -- parameter values in force on the raster, by key
  waiting  : List (Nat × List Byte × Nat) -- landed and not yet in force: key, value, tick of the landing (R448)
  next     : List (Nat × List Byte)   -- timing, depth, lock and clone values that the coming retime brings in (R449)
  enabled  : Bool
  locked   : Bool
  subst    : Bool
  retiming : Bool
  holdValid : Bool
  suspect  : BitVec 4
  line     : BitVec 13
  frame    : BitVec 32
  lockErr  : Int
  missed   : BitVec 8
  substituted : BitVec 8
  torn     : BitVec 8
  underflow : BitVec 8
  window   : Bool                  -- the commit window of the current frame is open
  dropped  : List Nat              -- layers that reached the top weir in this frame
  shown    : List (Nat × Nat)      -- layer and tap buffer held for this frame
  lastGood : List Nat              -- hold: codes of the last good frame
  fetching : Bool
  timingNew : Bool                 -- the next descriptor sets "timing changed"
  retired  : List Nat              -- layers whose host buffer was replaced and awaits the end of fetch
  retimeDue : Bool
deriving DecidableEq, Repr

def RasterSt.reset : RasterSt :=
  { force := [], waiting := [], next := [], enabled := false, locked := false, subst := false, retiming := false, holdValid := false,
    suspect := 0, line := 0, frame := 0xFFFFFFFF, lockErr := 0, missed := 0, substituted := 0, torn := 0,
    underflow := 0, window := false, dropped := [], shown := [], lastGood := [], fetching := false,
    timingNew := false, retired := [], retimeDue := false }

/-! ### Audio (19) -/

structure PortSt where
  enabled  : Bool
  running  : Bool
  locked   : Bool
  rateWrong : Bool
  underrun : Bool
  leadShort : Bool
  rateHz   : BitVec 18
  index    : BitVec 64
  hiLatch  : BitVec 32
  parity   : BitVec 16
  underruns : BitVec 8
  discarded : BitVec 8
  glitches : BitVec 8
  zcTimeouts : BitVec 4
  csErrors : BitVec 4
  status   : BitVec 16            -- audio status of the next buffer (R463)
  started  : Nat                  -- stamp of the first frame sync
  enabledAt : Nat
  due      : Nat                  -- sample index at which the next period of an output falls due
  since    : Nat                  -- stamp of the first sample of the period under way
  source   : Nat                  -- what an output plays: an input port, or 0xFFFF for host buffers (R473)
  dueBase  : Option Nat           -- first index taken from the source less the due index then, modulo 2^64 (R470)
  newSource : Option Nat          -- a source that the channels change to one by one (R467)
  newBase  : Option Nat
  switched : List Nat             -- channels that have changed to it
  lastSample : List Word          -- last sample per channel
  gainNow  : List (Nat × Bool)    -- gain and mute in force, per channel
  pendGain : List (Nat × Nat × Bool) -- output: channel and the change it waits for; input: from which sample of the period
  fillPos  : Nat                  -- where in the period a stopped clock left off, and zero frames still to fill (R472)
  fillLeft : Nat
  offRun   : Nat                  -- consecutive windows off by more than 500 ppm
  goodCs   : List Byte            -- last good channel status, both channels
  stopAt   : Option Nat           -- stamp at which its clock stopped
  startReq : Bool                 -- starts at its next frame sync
  pset     : BitVec 32
  needEnable : Bool               -- stopped for good until disabled and enabled (R472)
deriving DecidableEq, Repr

def PortSt.reset : PortSt :=
  { enabled := false, running := false, locked := false, rateWrong := false, underrun := false, leadShort := false,
    rateHz := 0, index := 0, hiLatch := 0, parity := 0, underruns := 0, discarded := 0, glitches := 0,
    zcTimeouts := 0, csErrors := 0, status := 0, started := 0, enabledAt := 0, dueBase := none, due := 0, since := 0, source := 0xFFFF,
    newSource := none, newBase := none, switched := [], fillPos := 0, fillLeft := 0, lastSample := [],
    gainNow := [], pendGain := [], offRun := 0, goodCs := [], stopAt := none, startReq := false,
    pset := 0xFFFFFFFF, needEnable := false }

structure DomainSt where
  control  : BitVec 16
  error    : Int              -- e, in units of 2^-32 × 10^-9 of a sample
  clamped  : Bool
  steerLocked : Bool
  rateWrong : Bool
  clockOk  : Bool
  integral : Int              -- Σe, in the unit of `error`
  lockRun  : Nat              -- updates with |e| < 1
  startT   : Option Int       -- device time of the start frame sync, units of 2^-32 ns; a step moves it (R471)
  atLimit  : Bool             -- the last update was clamped
  offRun   : Nat
  stopAt   : Option Nat
deriving DecidableEq, Repr

structure AudioSt where
  ports   : List PortSt
  domains : List DomainSt
deriving DecidableEq, Repr

/-! ### Time (20) -/

inductive Servo where
  | free
  | acquiring
  | locked
  | holdover
deriving DecidableEq, Repr

inductive LaunchState where
  | idle
  | armed
  | fired
  | spent
deriving DecidableEq, Repr

structure LaunchSlot where
  state   : LaunchState
  target  : Nat             -- ns
  use     : Nat
  endpoint : Nat
  kind    : Nat
  ball    : Nat
  scheduled : Bool          -- its edge is placed in the tick that is running (R491)
  recTarget : Nat           -- what docket 0x83 reports
  recDiff : Int
  firings : Nat
  missed  : Nat
  emptyFire : Bool
  fired   : Bool            -- LSLOT_FIRED
  queue   : List (Nat × List Byte)  -- broadcasts queued for it (21 R511)
  ever    : Bool            -- fired before (a step back never fires it again)
deriving DecidableEq, Repr

def LaunchSlot.idle : LaunchSlot :=
  ⟨.idle, 0, 0, 0, 0, 0, false, 0, 0, 0, 0, false, false, [], false⟩

structure StepEntry where
  tick   : Nat
  offset : Int
  secs   : Nat
  epoch  : Nat
  cause  : Nat
deriving DecidableEq, Repr

/-- Peer delay measurement and Sync in progress on a chain port (20 R484 to R486), times in ps. -/
structure PtpPort where
  t1 : Option (Nat × Int)
  t2 : Option (Nat × Int)
  t4 : Option (Nat × Int)
  delayPs : Int
  syncT2 : Option (Nat × Int)
  seqId  : Nat
  pseqId : Nat
deriving DecidableEq, Repr

structure TimeSt where
  dev      : Nat             -- device time at the last tick boundary, units of 2^-32 ns
  epoch    : BitVec 8
  addend   : BitVec 40
  newAddend : Option (BitVec 40)
  rate     : Int             -- rate correction r, in units of 10^-12 ÷ 65,536
  secLo    : BitVec 32
  secHi    : BitVec 32
  fracL    : BitVec 32
  steps    : List StepEntry
  outliers : BitVec 16
  holdoverF : Bool
  stepped  : Bool
  servo    : Servo
  offset   : Int             -- last sample offset, ps
  integral : Int             -- Σ offset, ps
  lockRun  : Nat
  outRun   : Nat
  prev     : Option Int      -- previous PPS sample, ps
  everLocked : Bool
  rHist    : List Int        -- r of recent samples, newest first
  lastSample : Nat           -- device time of the last usable sample
  ppsCap   : Nat             -- postmark
  htpCap   : Nat
  ppsCount : Nat
  htpCount : Nat
  ppsLast  : Option Nat      -- TCLK time of the last stamped edge, ns since start-up
  htpLast  : Option Nat
  slots    : List LaunchSlot
  ptp      : List PtpPort
deriving DecidableEq, Repr

/-! ### Chain (21) -/

/-- What the chain map holds of an address: the hops by each port, 255 for no route. -/
structure ChainEntry where
  present : Bool
  h0      : Nat
  h1      : Nat
  tick    : Nat
  source  : Nat
  servo   : Nat
  conflict : Bool
deriving DecidableEq, Repr

def ChainEntry.absent : ChainEntry := ⟨false, 255, 255, 0, 0, 0, false⟩

structure ChainPort where
  neighbour : BitVec 8
  nbValid   : Bool
  framesBad : BitVec 16
  hopsExp   : BitVec 8
  resent    : BitVec 8
deriving DecidableEq, Repr

/-- A forwarded docket that waits for its receipt (21 R508, R509). -/
structure Forwarded where
  seq : Nat
  dk  : Docket
deriving DecidableEq, Repr

/-- A docket of the chain queue (21 R508). -/
structure ChainDocket where
  src   : Nat
  seq   : Nat
  bytes : List Byte
  begun : Bool
deriving DecidableEq, Repr

/-- A courier frame kept for a resend after a failover (21 R500, R513). -/
structure SentFrame where
  port  : Nat
  cls   : Nat
  src   : Nat
  dst   : Nat
  seq   : Nat
  bcast : Bool
  data  : List Byte
  sent  : Nat              -- when, ns since start-up
deriving DecidableEq, Repr

/-- A fault report of another device that the collector holds (23 R534). -/
structure RemoteReport where
  src      : Nat
  cls      : Nat
  stampNs  : Nat
  epoch    : Nat
  endpoint : Nat
  detail   : List Byte
  arrival  : Nat
deriving DecidableEq, Repr

/-- A proxy stream (21 R512): its race number, its number 0 to 3, source and destination, port, and whether it has
stopped. At its origin the destination is a chain port; at its destination the source is one. -/
structure Proxy where
  race : Nat
  num  : Nat
  src  : Nat
  dst  : Nat
  port : Nat
  stopped : Bool
deriving DecidableEq, Repr

structure ChainSt where
  conflict : Bool
  broken   : Bool             -- a ring link has failed
  upstream : Nat
  map      : List ChainEntry
  duplicates : BitVec 16
  failovers : BitVec 8
  lateRcpt : BitVec 8
  ports    : List ChainPort
  seen     : List (Nat × Nat × Nat × Nat)  -- source, class, sequence, when seen (ns since start-up)
  taken    : List (Nat × Nat × Nat × Nat)  -- the same of unicast frames taken
  ran      : List (Nat × Nat)              -- source and sequence of forwarded dockets taken (R509)
  sent     : List SentFrame
  seqs     : List Nat                      -- next sequence, per class
  queue    : List ChainDocket
  credit   : List ChainDocket              -- held back while the queue is full
  fwd      : List Forwarded
  masters  : List (Nat × Nat × Nat)        -- announces: port, master, hops
  echoes   : List (Nat × Docket × Nat)     -- outstanding echoes: sequence, docket, when sent
  bcasts   : List (Nat × Nat × Nat × Nat × List Byte) -- source, epoch, event code, time ns, payload; oldest first
  remote   : List RemoteReport
  proxies  : List Proxy
  mismatch : Bool
deriving DecidableEq, Repr

/-! ### Events (22) -/

structure Source where
  pending : Bool
  raises  : BitVec 32
  stampNs : Nat              -- ns of device time
  epoch   : Nat
deriving DecidableEq, Repr

structure Target where
  sent    : Bool
  wakeSent : Bool
  brought : Bool             -- a claim since the message returned a source
deriving DecidableEq, Repr

structure EvtSt where
  sources : List Source
  targets : List Target
  raised  : List (Nat × Nat × Nat)  -- source, stamp (ns), epoch: raised in the tick that is running
  spurious : BitVec 16
  wakes    : BitVec 8
deriving DecidableEq, Repr

/-! ### Faults and health (23) -/

/-- A fault report (23 R531). -/
structure Report where
  cls      : Nat
  stampNs  : Nat
  epoch    : Nat
  endpoint : Nat
  detail   : List Nat
deriving DecidableEq, Repr

structure LedgerEntry where
  cls      : Nat
  stampNs  : Nat
  epoch    : Nat
  storm    : Bool
  fromChain : Bool
  extended : Bool
  avail    : Bool
  addr     : Nat
  count    : Nat
  endpoint : Nat
  firstTick : Nat
  lastTick : Nat
  detail   : List Byte        -- 16 bytes
deriving DecidableEq, Repr

structure LedgerSt where
  entries : List LedgerEntry
  lost    : BitVec 16
deriving DecidableEq, Repr

structure FaultSt where
  reports     : List Report       -- filed in the tick that is running, oldest first
  supplyHalt  : Bool
  thermalHalt : Bool
deriving DecidableEq, Repr

/-- The life and availability counts of the health record (23 R541, R542; 02 R65). Times in ns. -/
structure LifeCounts where
  hours    : Nat
  confNs   : Nat             -- time with a service configured, and interrupted by each cause
  devNs    : Nat
  boardNs  : Nat
  hostNs   : Nat
  highvNs  : Nat             -- time with VCORE above 0.85 V
  meanTj   : Int
deriving DecidableEq, Repr

def LifeCounts.zero : LifeCounts := ⟨0, 0, 0, 0, 0, 0, 0⟩

structure HealthSt where
  failovers : BitVec 8
  active    : List Bool
  standby   : List Bool
  clerksRetired : List Bool
  clerkFails : List (Nat × Nat)     -- clerk, hour of failure
  corrDram  : BitVec 16
  corrSram  : BitVec 8
  uncorr    : BitVec 8
  hourDram  : Nat
  hourSram  : Nat
  -- the health record (kept across resets)
  life      : LifeCounts      -- as they stand
  kept      : LifeCounts      -- as the last write of the record left them (24 R552; 02 R65)
  chainAddr : Option Nat
  copies    : List (Nat × Nat)      -- sequence number of copies A and B, and hours stored
  scrubs    : Nat
  imageSec  : Nat                   -- seconds the running image has run
  interrupted : List (Nat × Nat)    -- service (endpoint) interrupted, with its cause 0 board, 1 host, 2 device
deriving DecidableEq, Repr

/-! ### Boot (24) and boundary scan (25) -/

structure Directory where
  seq    : Nat
  active : Nat
  valid  : Bool
deriving DecidableEq, Repr

structure BootSt where
  minSecurity : BitVec 6
  security : BitVec 6
  failedStep : BitVec 4
  phase    : BitVec 4
  noImage  : Bool
  fallback : Bool
  activating : Bool
  staged   : Option Image
  slot     : Nat
  version  : BitVec 32
  startMs  : BitVec 16
  halt     : Bool
  pcie     : Bool
  device   : Bool
  powerOn  : Bool
  dirs     : List Directory          -- copies A and B
  images   : List (Option Image)     -- slots 0 and 1
  prevDirs : List Directory          -- before an activation, for the fallback
  actDocket : Option Docket          -- the activation docket
  actAt    : Nat                     -- TCLK count at which the activation began
  inReset  : Bool                    -- PORESET_N low, or a device reset not yet released
  devReset : Bool                    -- DEVRST_N low
  storeSeq : Bool                    -- the store sequence of a device reset has run
deriving DecidableEq, Repr

inductive Tap where
  | bypass
  | idcode
  | samplePreload
  | extest
  | clamp
  | highz
deriving DecidableEq, Repr

structure JtagSt where
  instr   : Tap           -- the instruction in effect
  cells   : List Bool     -- boundary cells
  driven  : Bool          -- outputs driven from the cells
  floated : Bool          -- outputs floated
deriving DecidableEq, Repr

/-- Everything of the device but the command queue, the tick period, the fault ledger and the boundary-scan
port, which few commands write and `State` holds beside it. -/
structure Dev where
  tick    : TickSt
  time    : TimeSt
  gov     : GovSt
  res     : ResSt
  env     : EnvSt
  lanes   : LaneSt
  cap     : List CapSt
  pipe    : List PipeSt
  taps    : List Ring          -- 8 × pipeline + k: taps A to F, statistics, GS records
  mills   : List MillSt
  enc     : List EncSt
  encRings : List Ring
  dec     : List DecSt
  decRings : List Ring
  bolt    : List BoltSt        -- raw lanes 0 to 7, general lanes 0 and 1
  boltRings : List Ring
  host    : HostSt
  params  : List (Nat × List Byte)   -- parameter values set, by key, sorted; others at their value after reset
  mem     : List Host.Cell     -- frame memory, key 2^40 × channel + byte address; unlisted bytes read 0
  hostMem : List Host.Cell     -- what the device has written to host memory
  out     : List Output
  store   : StoreSt
  dram    : DramSt
  raster  : List RasterSt
  audio   : AudioSt
  audioRings : List Ring
  chain   : ChainSt
  evt     : EvtSt
  faults  : FaultSt
  health  : HealthSt
  boot    : BootSt
  fresh   : Nat
deriving DecidableEq, Repr

/-- The whole state: the waiting commands (first in, first out), the tick period in force (01 R30, R38), the
fault ledger (23 R531), the boundary-scan port (25 R586) and the rest of the device. -/
structure State where
  pending  : List Instr
  periodNs : BitVec 13
  ledger   : LedgerSt
  jtag     : JtagSt
  dev      : Dev
deriving DecidableEq, Repr

/-! ### The state after reset

Each register at the value its rule gives; where the rule gives none, at the value notes/assumptions names. -/

def TickSt.reset : TickSt :=
  { count := 0, hiLatch := 0, overruns := 0, overrun := false, storm := false, stepped := false,
    tclk := 0, halfNext := false, trips := [], steps := [], links := [], markers := [], commits := [], samples := [],
    done8 := [], rel8 := [], rel9 := [], act9 := [], bad := [], inClose := false, w1c := [] }

def GovSt.reset : GovSt :=
  { policy := 1, fixedMv := 900, voutMv := 0, lifeLow := false, hot := false, regFault := false, fixedLeft := false,
    refused := false, pmbusAddr := 0x40, readings := List.replicate 48 0,
    curves := List.replicate 12 [0, 0, 0, 0, 0], requestMv := 900, finalMv := 900, raising := false, retries := 0,
    tj := List.replicate 13 25, probeTj := 25, v1 := List.replicate 12 0, probed := false,
    lifeRegion := 0, lifeMv := 0, lifeBelow := false, shedding := false, shed := [], voutModeOk := true, swept := false }

def EnvSt.reset : EnvSt :=
  { envs := List.replicate 64 Env.empty, nextSeq := 1, late := 0, returned := 0 }

def Quad.reset : Quad := ⟨false, false, false⟩
def Link.reset : Link := ⟨false, false⟩

def LaneSt.reset : LaneSt :=
  { lanes := List.replicate 64 Lane.reset, quads := List.replicate 16 Quad.reset,
    caps := List.replicate 8 Link.reset, chains := List.replicate 2 Link.reset,
    outs := List.replicate 4 Link.reset }

def MsixVec.reset : MsixVec := ⟨0, 0, true⟩

def HostSt.reset : HostSt :=
  { power := .d0, msixOn := false, funcMask := false, msix := List.replicate 64 MsixVec.reset,
    pba := List.replicate 64 false, ready := false, dbBad := false, presStuck := false, presOpen := false,
    presEnd := 0, presLow := false, presDue := false, hdrBusy := false, arbLow := 1, arbMed := 4, arbHigh := 8, admSqLo := 0,
    admSqHi := 0, admCqLo := 0, admCqHi := 0, cqLast := 0, sqLast := 0, admErr := false, admEn := false,
    dlog := [], dlogLost := 0, bar2Err := 0, apertures := List.replicate 64 none,
    sqs := List.replicate 64 SubQ.none, cqs := List.replicate 64 CompQ.none, shares := [8, 4, 1],
    turn := [63, 63, 63, 63],
    waitData := [], heldRcpt := [], heldWr := [], orphans := [], heldRaised := false, d3Wake := false }

def StoreSt.reset : StoreSt :=
  { geom := none, retired := [], lost := [], blocks := [], erases := 0, good := 0, free := 0, capacity := 0, spare := 0,
    formatted := false, dataKey := 0, wrapKey := List.replicate 64 0, keptKey := List.replicate 64 0, wrapSeq := 0,
    locked := false, online := false, offline := false, bands := [], clips := [], nextClip := 1,
    slots := List.replicate 8 RecSlot.idle, units := [], lbas := [], dirty := [], holes := [], recHoles := [],
    lockSeq := 0, early := [], flushes := [], lostWr := [], recovered := false, pfailSeen := false,
    pfailKept := false, parked := false, pfailLow := false, readFailed := 0, relocated := 0, lostCnt := 0,
    recovClips := 0, nearly := false, wear100 := false }

def DramSt.reset : DramSt :=
  { rate := 0, switching := false, setB := false, ready := false, chans := List.replicate 24 Chan.none, pools := [],
    target := none, nextRate := none, panicsCnt := 0, forcedRef := 0, retrForced := 0, marked := [], hourPage := [] }

def DomainSt.reset (control : BitVec 16) : DomainSt :=
  { control := control, error := 0, clamped := false, steerLocked := false, rateWrong := false, clockOk := false,
    integral := 0, lockRun := 0, startT := none, atLimit := false, offRun := 0, stopAt := none }

def AudioSt.reset : AudioSt :=
  { ports := List.replicate 28 PortSt.reset, domains := [DomainSt.reset 0x8000, DomainSt.reset 0] }

def PtpPort.reset : PtpPort := ⟨none, none, none, 0, none, 0, 0⟩

def TimeSt.reset : TimeSt :=
  { dev := 0, epoch := 0, addend := 8 * 2 ^ 32, newAddend := none, rate := 0, secLo := 0, secHi := 0, fracL := 0,
    steps := [], outliers := 0, holdoverF := false, stepped := false, servo := .free, offset := 0,
    integral := 0, lockRun := 0, outRun := 0, prev := none, everLocked := false, rHist := [], lastSample := 0,
    ppsCap := 0, htpCap := 0, ppsCount := 0, htpCount := 0, ppsLast := none, htpLast := none,
    slots := List.replicate 64 LaunchSlot.idle, ptp := [PtpPort.reset, PtpPort.reset] }

def ChainPort.reset : ChainPort := ⟨0, false, 0, 0, 0⟩

def ChainSt.reset : ChainSt :=
  { conflict := false, broken := false, upstream := 0, map := List.replicate 256 ChainEntry.absent, duplicates := 0,
    failovers := 0, lateRcpt := 0, ports := [ChainPort.reset, ChainPort.reset], seen := [], taken := [], ran := [], sent := [],
    seqs := List.replicate 12 0, queue := [], credit := [], fwd := [], masters := [], echoes := [], bcasts := [],
    remote := [], proxies := [], mismatch := false }

def Source.reset : Source := ⟨false, 0, 0, 0⟩
def Target.reset : Target := ⟨false, false, false⟩

def EvtSt.reset : EvtSt :=
  { sources := List.replicate 320 Source.reset, targets := List.replicate 16 Target.reset, raised := [],
    spurious := 0, wakes := 0 }

def FaultSt.reset : FaultSt := ⟨[], false, false⟩
def LedgerSt.reset : LedgerSt := ⟨[], 0⟩

def HealthSt.reset : HealthSt :=
  { failovers := 0, active := List.replicate 4 false, standby := List.replicate 4 false,
    clerksRetired := List.replicate 4 false, clerkFails := [], corrDram := 0, corrSram := 0, uncorr := 0,
    hourDram := 0, hourSram := 0, life := LifeCounts.zero, kept := LifeCounts.zero, chainAddr := none, copies := [], scrubs := 0, imageSec := 0,
    interrupted := [] }

def BootSt.reset : BootSt :=
  { minSecurity := 0, security := 0, failedStep := 0, phase := 1, noImage := false, fallback := false,
    activating := false, staged := none, slot := 0, version := 0, startMs := 0, halt := false, pcie := false,
    device := false, powerOn := true, dirs := [], images := [none, none], prevDirs := [], actDocket := none, actAt := 0,
    inReset := false, devReset := false, storeSeq := false }

def JtagSt.reset : JtagSt := ⟨.idcode, [], false, false⟩

/-- The device after reset, before start-up has run: phase 1, no queue, no envelope, nothing landed. -/
def Dev.reset : Dev :=
  { tick := TickSt.reset, time := TimeSt.reset, gov := GovSt.reset, res := ⟨[], [], []⟩,
    env := EnvSt.reset, lanes := LaneSt.reset, cap := List.replicate 8 CapSt.reset,
    pipe := List.replicate 8 PipeSt.reset, taps := List.replicate 64 Ring.empty,
    mills := List.replicate 8 MillSt.reset, enc := List.replicate 32 EncSt.reset,
    encRings := List.replicate 32 Ring.empty, dec := List.replicate 2 DecSt.reset,
    decRings := List.replicate 2 Ring.empty, bolt := List.replicate 10 BoltSt.reset,
    boltRings := List.replicate 10 Ring.empty, host := HostSt.reset, params := [], mem := [], hostMem := [],
    out := [], store := StoreSt.reset, dram := DramSt.reset, raster := List.replicate 4 RasterSt.reset,
    audio := AudioSt.reset, audioRings := List.replicate 28 Ring.empty, chain := ChainSt.reset, evt := EvtSt.reset,
    faults := FaultSt.reset, health := HealthSt.reset, boot := BootSt.reset,
    fresh := 0 }

/-- The whole state right after reset. -/
def State.reset : State :=
  { pending := [], periodNs := 250, ledger := LedgerSt.reset, jtag := JtagSt.reset, dev := Dev.reset }

end Sys2Proof.Machine
end

