-- ==== Sys2Proof/Machine/Ops.lean ====
section
/-!
DEFINITION. The named operations over the device: updates of each part, device time and stamps, memory cells,
outputs, fault reports (23 R531, R532), event raises (22 R519, R520), host memory writes and free values.
-/
namespace Sys2Proof.Machine

/-! ### Updates of one part -/

def Dev.onTick (d : Dev) (f : TickSt → TickSt) : Dev := { d with tick := f d.tick }
def Dev.onTime (d : Dev) (f : TimeSt → TimeSt) : Dev := { d with time := f d.time }
def Dev.onGov (d : Dev) (f : GovSt → GovSt) : Dev := { d with gov := f d.gov }
def Dev.onRes (d : Dev) (f : ResSt → ResSt) : Dev := { d with res := f d.res }
def Dev.onEnv (d : Dev) (f : EnvSt → EnvSt) : Dev := { d with env := f d.env }
def Dev.onLanes (d : Dev) (f : LaneSt → LaneSt) : Dev := { d with lanes := f d.lanes }
def Dev.onCap (d : Dev) (f : List CapSt → List CapSt) : Dev := { d with cap := f d.cap }
def Dev.onPipe (d : Dev) (f : List PipeSt → List PipeSt) : Dev := { d with pipe := f d.pipe }
def Dev.onTaps (d : Dev) (f : List Ring → List Ring) : Dev := { d with taps := f d.taps }
def Dev.onMills (d : Dev) (f : List MillSt → List MillSt) : Dev := { d with mills := f d.mills }
def Dev.onEnc (d : Dev) (f : List EncSt → List EncSt) : Dev := { d with enc := f d.enc }
def Dev.onEncRings (d : Dev) (f : List Ring → List Ring) : Dev := { d with encRings := f d.encRings }
def Dev.onDec (d : Dev) (f : List DecSt → List DecSt) : Dev := { d with dec := f d.dec }
def Dev.onDecRings (d : Dev) (f : List Ring → List Ring) : Dev := { d with decRings := f d.decRings }
def Dev.onBolt (d : Dev) (f : List BoltSt → List BoltSt) : Dev := { d with bolt := f d.bolt }
def Dev.onBoltRings (d : Dev) (f : List Ring → List Ring) : Dev := { d with boltRings := f d.boltRings }
def Dev.onHost (d : Dev) (f : HostSt → HostSt) : Dev := { d with host := f d.host }
def Dev.onParams (d : Dev) (f : List (Nat × List Byte) → List (Nat × List Byte)) : Dev := { d with params := f d.params }
def Dev.onMem (d : Dev) (f : List Host.Cell → List Host.Cell) : Dev := { d with mem := f d.mem }
def Dev.onHostMem (d : Dev) (f : List Host.Cell → List Host.Cell) : Dev := { d with hostMem := f d.hostMem }
def Dev.onOut (d : Dev) (f : List Output → List Output) : Dev := { d with out := f d.out }
def Dev.onStore (d : Dev) (f : StoreSt → StoreSt) : Dev := { d with store := f d.store }
def Dev.onDram (d : Dev) (f : DramSt → DramSt) : Dev := { d with dram := f d.dram }
def Dev.onRaster (d : Dev) (f : List RasterSt → List RasterSt) : Dev := { d with raster := f d.raster }
def Dev.onAudio (d : Dev) (f : AudioSt → AudioSt) : Dev := { d with audio := f d.audio }
def Dev.onAudioRings (d : Dev) (f : List Ring → List Ring) : Dev := { d with audioRings := f d.audioRings }
def Dev.onChain (d : Dev) (f : ChainSt → ChainSt) : Dev := { d with chain := f d.chain }
def Dev.onEvt (d : Dev) (f : EvtSt → EvtSt) : Dev := { d with evt := f d.evt }
def Dev.onFaults (d : Dev) (f : FaultSt → FaultSt) : Dev := { d with faults := f d.faults }
def Dev.onHealth (d : Dev) (f : HealthSt → HealthSt) : Dev := { d with health := f d.health }
def Dev.onBoot (d : Dev) (f : BootSt → BootSt) : Dev := { d with boot := f d.boot }
def Dev.onFresh (d : Dev) (f : Nat → Nat) : Dev := { d with fresh := f d.fresh }

/-! ### Device time (20 R477) -/

/-- Device time, in units of 2^-32 ns, at the TCLK cycle `cyc` of the tick that is running (01 R33). -/
def Dev.timeAt (d : Dev) (cyc : Nat) : Nat := d.time.dev + cyc * d.time.addend.toNat

/-- Whole nanoseconds of device time at a cycle of the running tick. -/
def Dev.nsAt (d : Dev) (cyc : Nat) : Nat := d.timeAt cyc / 2 ^ 32

/-- Whole nanoseconds of device time at the last tick boundary. -/
def Dev.nowNs (d : Dev) : Nat := d.time.dev / 2 ^ 32

/-- TCLK cycles since start-up at a cycle of the running tick. -/
def Dev.tclkAt (d : Dev) (cyc : Nat) : Nat := d.tick.tclk + cyc

/-- Nanoseconds of TCLK since start-up, which no step moves, at a cycle of the running tick (20 R478). -/
def Dev.upNs (d : Dev) (cyc : Nat) : Nat := 8 * (d.tick.tclk + cyc)

/-- The tick count of the close that the present moment belongs to: the one being taken, or the next (01 R32, R33). -/
def Dev.closeCount (d : Dev) : Nat := if d.tick.inClose then d.tick.count.toNat else (d.tick.count + 1).toNat

/-- Seconds and nanoseconds fields of a time in ns. -/
def secOf (ns : Nat) : Nat := ns / 1000000000
def nsOf (ns : Nat) : Nat := ns % 1000000000

/-- The 16 bytes of a postmark (00_scope R9). -/
def postmark (ns epoch frame source : Nat) : List Byte :=
  leBytes 1 source ++ leBytes 4 frame ++ leBytes 1 epoch ++ leBytes 4 (nsOf ns) ++ leBytes 6 (secOf ns)

/-- The postmark as a 128-bit number. -/
def postmarkNat (ns epoch frame source : Nat) : Nat := leNat (postmark ns epoch frame source)

/-! ### Cells of memory, in one canonical form -/

/-- Addresses strictly rise. -/
def cellsSorted : List Host.Cell → Bool
  | [] => true
  | [_] => true
  | a :: b :: cs => decide (a.1 < b.1) && cellsSorted (b :: cs)

/-- The canonical form of frame memory: addresses strictly rise, and no entry is 0, which is what an unlisted
address reads as. -/
def cellsWf (cs : List Host.Cell) : Bool := cellsSorted cs && cs.all (fun c => c.2 != 0)

/-- The byte at an address; 0 when nothing has written it. -/
def cellRead (cs : List Host.Cell) (a : Nat) : Byte :=
  match cs.find? (fun c => c.1 == a) with
  | some c => c.2
  | none => 0

/-- `n` bytes from an address. -/
def cellReads (cs : List Host.Cell) (a n : Nat) : List Byte := (List.range n).map fun i => cellRead cs (a + i)

/-- Bytes placed at consecutive addresses. -/
def place (a : Nat) : List Byte → List Host.Cell
  | [] => []
  | b :: bs => (a, b) :: place (a + 1) bs

/-- Writing bytes from address `a` on: what lies below and above stays; a 0 removes its entry. -/
def cellWrite (cs : List Host.Cell) (a : Nat) (bs : List Byte) : List Host.Cell :=
  cs.filter (fun c => decide (c.1 < a)) ++ (place a bs).filter (fun c => c.2 != 0) ++
    cs.filter (fun c => decide (a + bs.length ≤ c.1))

/-- The same for host memory, of which the device knows only what it has written: a 0 is listed too. -/
def hostCellWrite (cs : List Host.Cell) (a : Nat) (bs : List Byte) : List Host.Cell :=
  cs.filter (fun c => decide (c.1 < a)) ++ place a bs ++ cs.filter (fun c => decide (a + bs.length ≤ c.1))

/-! ### Outputs -/

/-- Something leaves the device. -/
def Dev.emit (d : Dev) (o : Output) : Dev := d.onOut (o :: ·)

/-- A DMA write to host memory (13 R319); asleep the device makes no DMA, and the write waits (R320). -/
def Dev.hostWrite (d : Dev) (addr : Nat) (bs : List Byte) : Dev :=
  if d.host.power = .d0 then d.onHostMem (hostCellWrite · addr bs)
  else d.onHost fun h => { h with heldWr := h.heldWr ++ [(addr, bs)] }

/-! ### Fault reports and event raises -/

/-- A fault report filed with its stamp; it is entered in the ledger at rank 3 (23 R531, 01 R590). -/
def Dev.report (d : Dev) (cls endpoint ns : Nat) (detail : List Nat) : Dev :=
  d.onFaults fun f =>
    { f with reports := f.reports ++ [⟨cls, ns, d.time.epoch.toNat, endpoint, detail⟩] }

/-- A report stamped now, at the last tick boundary. -/
def Dev.reportNow (d : Dev) (cls endpoint : Nat) (detail : List Nat) : Dev :=
  d.report cls endpoint d.nowNs detail

/-- A raise of an event source with its stamp; rank 10 takes it (22 R520). -/
def Dev.raise (d : Dev) (src ns : Nat) : Dev :=
  d.onEvt fun e => { e with raised := e.raised ++ [(src, ns, d.time.epoch.toNat)] }

def Dev.raiseNow (d : Dev) (src : Nat) : Dev := d.raise src d.nowNs

/-- An endpoint: block and instance number (14 R346). -/
def endpoint (block inst : Nat) : Nat := 256 * block + inst

/-- A thermal or supply halt holds (23 R535). -/
def Dev.halted (d : Dev) : Bool := d.faults.thermalHalt || d.faults.supplyHalt

/-- A stream is stopped: it is shed, from its next frame boundary until it is restored (02 R55, R56), or a halt holds. -/
def Dev.isShed (d : Dev) (race : Nat) : Bool := d.halted || d.gov.shed.contains race

/-- A hardware event sets a W1C bit: host software cannot clear it in the same tick (00_scope R7). -/
def Dev.mark (d : Dev) (offset bit : Nat) : Dev := d.onTick fun t => { t with w1c := (32 * offset + bit) :: t.w1c }

/-- Host software's clear of a W1C bit takes effect: no event set the bit in this tick (R7). -/
def Dev.clears (d : Dev) (offset bit : Nat) : Bool := !d.tick.w1c.contains (32 * offset + bit)

/-! ### Services and their interruptions (23 R540)

A service is named by its endpoint (a raster output or an encode stream), or by `recordService` for a source of a
recording slot. Causes: 0 board, 1 host, 2 device. -/

/-- The service of a recording source that reads ring `r`. -/
def recordService (r : Nat) : Nat := 65536 * (1 + r)

/-- A service fails to deliver; its interruption keeps the cause that began it (R540). -/
def Dev.interrupt (d : Dev) (svc cause : Nat) : Dev :=
  d.onHealth fun h =>
    if h.interrupted.any (fun x => x.1 == svc) then h else { h with interrupted := h.interrupted ++ [(svc, cause)] }

/-- A service delivers, which ends its interruption (R540). -/
def Dev.deliver (d : Dev) (svc : Nat) : Dev :=
  d.onHealth fun h => { h with interrupted := h.interrupted.filter fun x => x.1 != svc }

/-! ### Free values -/

/-- The next free value: nothing constrains it (Config.freeNat applied to the counter `fresh`). -/
def Dev.free (d : Dev) : Nat := Config.freeNat d.fresh

/-- Free value `k` of those that one command takes. -/
def Dev.freeAt (d : Dev) (k : Nat) : Nat := Config.freeNat (d.fresh + k)

/-- `k` free values have been taken. -/
def Dev.used (d : Dev) (k : Nat) : Dev := d.onFresh (· + k)

/-- Free bytes: `n` of them, taken from the free values on. -/
def Dev.freeBytes (d : Dev) (n : Nat) : List Byte :=
  (List.range n).map fun i => BitVec.ofNat 8 (Config.freeNat (d.fresh + i))

/-! ### Lists of numbered parts -/

/-- Part `i` of a list changed, the list unchanged when there is none. -/
def upd {α : Type} (l : List α) (i : Nat) (f : α → α) : List α := l.modify i f

def Dev.capI (d : Dev) (p : Nat) : CapSt := d.cap.getD p CapSt.reset
def Dev.onCapI (d : Dev) (p : Nat) (f : CapSt → CapSt) : Dev := d.onCap (upd · p f)
def Dev.pipeI (d : Dev) (p : Nat) : PipeSt := d.pipe.getD p PipeSt.reset
def Dev.onPipeI (d : Dev) (p : Nat) (f : PipeSt → PipeSt) : Dev := d.onPipe (upd · p f)
def Dev.millI (d : Dev) (p : Nat) : MillSt := d.mills.getD p MillSt.reset
def Dev.onMillI (d : Dev) (p : Nat) (f : MillSt → MillSt) : Dev := d.onMills (upd · p f)
def Dev.encI (d : Dev) (n : Nat) : EncSt := d.enc.getD n EncSt.reset
def Dev.onEncI (d : Dev) (n : Nat) (f : EncSt → EncSt) : Dev := d.onEnc (upd · n f)
def Dev.decI (d : Dev) (n : Nat) : DecSt := d.dec.getD n DecSt.reset
def Dev.onDecI (d : Dev) (n : Nat) (f : DecSt → DecSt) : Dev := d.onDec (upd · n f)
def Dev.boltI (d : Dev) (n : Nat) : BoltSt := d.bolt.getD n BoltSt.reset
def Dev.onBoltI (d : Dev) (n : Nat) (f : BoltSt → BoltSt) : Dev := d.onBolt (upd · n f)
def Dev.rasterI (d : Dev) (n : Nat) : RasterSt := d.raster.getD n RasterSt.reset
def Dev.onRasterI (d : Dev) (n : Nat) (f : RasterSt → RasterSt) : Dev := d.onRaster (upd · n f)
def Dev.portI (d : Dev) (n : Nat) : PortSt := d.audio.ports.getD n PortSt.reset
def Dev.onPortI (d : Dev) (n : Nat) (f : PortSt → PortSt) : Dev :=
  d.onAudio fun a => { a with ports := upd a.ports n f }
def Dev.domI (d : Dev) (n : Nat) : DomainSt := d.audio.domains.getD n (DomainSt.reset 0)
def Dev.onDomI (d : Dev) (n : Nat) (f : DomainSt → DomainSt) : Dev :=
  d.onAudio fun a => { a with domains := upd a.domains n f }
def Dev.laneI (d : Dev) (n : Nat) : Lane := d.lanes.lanes.getD n Lane.reset
def Dev.onLaneI (d : Dev) (n : Nat) (f : Lane → Lane) : Dev :=
  d.onLanes fun a => { a with lanes := upd a.lanes n f }
def Dev.quadI (d : Dev) (n : Nat) : Quad := d.lanes.quads.getD n Quad.reset
def Dev.onQuadI (d : Dev) (n : Nat) (f : Quad → Quad) : Dev :=
  d.onLanes fun a => { a with quads := upd a.quads n f }
def Dev.sqI (d : Dev) (n : Nat) : SubQ := d.host.sqs.getD n SubQ.none
def Dev.onSqI (d : Dev) (n : Nat) (f : SubQ → SubQ) : Dev :=
  d.onHost fun h => { h with sqs := upd h.sqs n f }
def Dev.cqI (d : Dev) (n : Nat) : CompQ := d.host.cqs.getD n CompQ.none
def Dev.onCqI (d : Dev) (n : Nat) (f : CompQ → CompQ) : Dev :=
  d.onHost fun h => { h with cqs := upd h.cqs n f }
def Dev.envI (d : Dev) (n : Nat) : Env := d.env.envs.getD n Env.empty
def Dev.onEnvI (d : Dev) (n : Nat) (f : Env → Env) : Dev :=
  d.onEnv fun e => { e with envs := upd e.envs n f }
def Dev.slotI (d : Dev) (n : Nat) : LaunchSlot := d.time.slots.getD n LaunchSlot.idle
def Dev.onSlotI (d : Dev) (n : Nat) (f : LaunchSlot → LaunchSlot) : Dev :=
  d.onTime fun t => { t with slots := upd t.slots n f }
def Dev.chanI (d : Dev) (n : Nat) : Chan := d.dram.chans.getD n Chan.none
def Dev.onChanI (d : Dev) (n : Nat) (f : Chan → Chan) : Dev :=
  d.onDram fun t => { t with chans := upd t.chans n f }
def Dev.cportI (d : Dev) (n : Nat) : ChainPort := d.chain.ports.getD n ChainPort.reset
def Dev.onCportI (d : Dev) (n : Nat) (f : ChainPort → ChainPort) : Dev :=
  d.onChain fun c => { c with ports := upd c.ports n f }
def Dev.ptpI (d : Dev) (n : Nat) : PtpPort := d.time.ptp.getD n PtpPort.reset
def Dev.onPtpI (d : Dev) (n : Nat) (f : PtpPort → PtpPort) : Dev :=
  d.onTime fun t => { t with ptp := upd t.ptp n f }

/-- The operations of a list, from left to right. -/
def Dev.each {α : Type} (d : Dev) (l : List α) (f : Dev → α → Dev) : Dev := l.foldl f d

end Sys2Proof.Machine
end

