-- ==== Sys2Proof/Machine/Link.lean ====
section
/-!
DEFINITION. Sending courier frames on the Choly chain: addresses, routes and the frames kept for a resend
(21 R497 to R502, R506).
-/
namespace Sys2Proof.Machine

/-- The device's locked chain address (R497). -/
def Dev.address (d : Dev) : Option Nat := d.health.chainAddr

/-- The address the device reports: 0xFF while unlocked (R497). -/
def Dev.addressByte (d : Dev) : Nat := d.address.getD 0xFF

/-- A device originates frames, and takes frames addressed to it, only with a locked address and no address
conflict (R497, R498). -/
def Dev.mayOriginate (d : Dev) : Bool := d.address.isSome && !d.chain.conflict

def Dev.mapEntry (d : Dev) (a : Nat) : ChainEntry := d.chain.map.getD a ChainEntry.absent

/-- The port that a route uses: the one with the fewest hops, CP0 on a tie; 255 with none, as for this device
(R502, R515). -/
def ChainEntry.port (e : ChainEntry) : Nat :=
  if !e.present then 255 else if e.h0 < 255 && e.h0 ≤ e.h1 then 0 else if e.h1 < 255 then 1 else 255

def ChainEntry.hops (e : ChainEntry) : Nat := if e.port = 1 then e.h1 else e.h0
def ChainEntry.other (e : ChainEntry) : Nat := if e.port = 1 then e.h0 else e.h1

/-- The number of devices present in the chain map, this one included (R504, R516). -/
def Dev.devices (d : Dev) : Nat := d.chain.map.countP (·.present)

/-- The latency budget B, ns (R504). -/
def Dev.budget (d : Dev) : Nat := (d.devices - 1) * 400 + 4800

def Dev.chainUp (d : Dev) (p : Nat) : Bool := (d.lanes.chains.getD p Link.reset).up

/-- The next sequence number of a class, per source and class, wrapping at 2^16 (R499). -/
def Dev.takeSeq (d : Dev) (cls : Nat) : Nat × Dev :=
  let n := d.chain.seqs.getD cls 0
  (n, d.onChain fun c => { c with seqs := upd c.seqs cls fun x => (x + 1) % 65536 })

/-- A frame leaves on a port; classes 1, 2 and 3 are kept for 50 µs (R506). -/
def Dev.putFrame (d : Dev) (port cls : Nat) (bcast resent : Bool) (src dst hops seq : Nat)
    (payload : List Byte) : Dev :=
  let d := d.emit (.courier port cls bcast resent src dst hops seq payload)
  if 1 ≤ cls ∧ cls ≤ 3 then
    d.onChain fun c =>
      { c with sent := c.sent.filter (fun f => decide (d.upNs 0 ≤ f.sent + 50000)) ++
                 [⟨port, cls, src, dst, seq, bcast, payload, d.upNs 0⟩] }
  else d

/-- A unicast frame from this device, on the port of its route; nothing leaves when the device may not originate
or has no route (R497, R502, R507). -/
def Dev.sendTo (d : Dev) (cls dst : Nat) (payload : List Byte) : Dev :=
  let e := d.mapEntry dst
  if d.mayOriginate && e.present && decide (e.port < 2) then
    let (seq, d) := d.takeSeq cls
    d.putFrame e.port cls false false d.addressByte dst 255 seq payload
  else d

/-- A broadcast from this device, on every port whose link is up (R502). -/
def Dev.broadcast (d : Dev) (cls : Nat) (payload : List Byte) : Dev :=
  if d.mayOriginate then
    let (seq, d) := d.takeSeq cls
    d.each ((List.range 2).filter d.chainUp) fun d p =>
      d.putFrame p cls true false d.addressByte 0 255 seq payload
  else d

end Sys2Proof.Machine
end

