-- ==== Sys2Proof/Machine/Queues.lean ====
section
/-!
DEFINITION. The docket queues: rings, receipts, dead-letter log, freeze, fetch and arbitration, and MSI-X messages
(13 R324 to R338; 21 R508, R509 for forwarded dockets and the chain queue).
-/
namespace Sys2Proof.Machine

/-! ### Fields of a docket (R329) -/

def dkOp (k : Docket) : Nat := u8 k.bytes 0
def dkFlags (k : Docket) : Nat := u8 k.bytes 1
def dkFence (k : Docket) : Bool := bit (dkFlags k) 0
def dkQuiet (k : Docket) : Bool := bit (dkFlags k) 1
def dkForward (k : Docket) : Bool := bit (dkFlags k) 2
def dkIrqNow (k : Docket) : Bool := bit (dkFlags k) 3
def dkTag (k : Docket) : Nat := u16 k.bytes 2

/-- The number of the chain queue in `Docket.sq` (21 R508). -/
def chainSq : Nat := 64

/-- Dockets whose queue a host driver reset deleted carry their queue number plus this (R338). -/
def orphanBase : Nat := 128

/-- The queue number that a receipt or a dead-letter entry names. -/
def dkQueue (k : Docket) : Nat := if orphanBase ≤ k.sq then k.sq - orphanBase else k.sq

/-! ### MSI-X (R334) -/

def Dev.msixVec (d : Dev) (v : Nat) : MsixVec := d.host.msix.getD v MsixVec.reset

/-- A message on a vector: sent, or its pending bit set while it cannot be sent (R334). -/
def Dev.message (d : Dev) (v : Nat) : Dev :=
  if d.host.power = .d0 && d.host.msixOn && !d.host.funcMask && !(d.msixVec v).masked then d.emit (.msix v)
  else d.onHost fun h => { h with pba := h.pba.set v true }

/-! ### Completion queues (R326, R327, R330) -/

/-- Receipts written and not consumed. -/
def cqUsed (q : CompQ) : Nat := if q.entries = 0 then 0 else (q.tail + q.entries - q.head) % q.entries

/-- Room for receipts (R327). -/
def cqRoom (q : CompQ) : Nat := q.entries - 1 - cqUsed q - q.reserved

/-- A receipt put at the device's tail of a completion queue; in D3 it waits in the device, and counts as pending
from now (R320, R326, R330, 22 R526). `bytes` has the phase bit clear. -/
def Dev.putReceipt (d : Dev) (cq : Nat) (bytes : List Byte) (irqNow froze : Bool) : Dev :=
  let q := d.cqI cq
  let note := fun (q : CompQ) => { q with pend := q.pend ++ [⟨bytes, d.tick.tclk, irqNow, froze⟩] }
  if d.host.power = .d0 then
    let phased := putBytes bytes 7 [bytes.getD 7 0 ||| (if q.phase then 1 else 0)]
    let tail := if q.entries ≤ q.tail + 1 then 0 else q.tail + 1
    let d := d.hostWrite (q.base.toNat + 32 * q.tail) phased
    d.onCqI cq fun q => note { q with tail := tail, phase := if tail = 0 then !q.phase else q.phase }
  else (d.onHost fun h => { h with heldRcpt := h.heldRcpt ++ [(cq, bytes)] }).onCqI cq note

/-- Kept receipts of a host driver reset are written first, as room allows (R338). -/
def Dev.drainKept (fuel : Nat) (d : Dev) (cq : Nat) : Dev :=
  match fuel with
  | 0 => d
  | fuel + 1 =>
    let q := d.cqI cq
    match q.kept with
    | [] => d
    | (bytes, irq) :: rest =>
      if q.enabled && decide (0 < cqRoom q) then
        ((d.onCqI cq fun q => { q with kept := rest }).putReceipt cq bytes irq false).drainKept fuel cq
      else d

/-! ### Submission queues -/

/-- The lowest ring index that host software may not yet reuse: the oldest docket that still waits, or the fetch
position; the failing index while frozen (R330, R336). DEDUCED: notes/assumptions/11.md. -/
def sqHead (q : SubQ) : Nat :=
  if q.frozen then q.fetch
  else match q.fetched.find? (fun f => !f.begun) with
    | some f => f.idx
    | none => q.fetch

/-- Waiting dockets are forgotten and their reservations freed (R336, R337). -/
def Dev.forget (d : Dev) (n : Nat) : Dev :=
  let q := d.sqI n
  let freed := sumBy (·.reserved) (q.fetched.filter (fun f => !f.begun))
  (d.onCqI q.cq fun c => { c with reserved := c.reserved - freed }).onSqI n fun q =>
    { q with fetched := q.fetched.filter (·.begun) }

/-- Queue `n` freezes with failing index `idx` (R336). -/
def Dev.freezeQueue (d : Dev) (n idx : Nat) (byHost : Bool) : Dev :=
  (d.forget n).onSqI n fun q =>
    { q with frozen := true, hostFreeze := byHost, fetch := idx, flushEnd := none, need := 1 }

/-- The dead-letter log takes an entry, or counts it as lost (R335). -/
def Dev.deadLetter (d : Dev) (e : DlogEntry) : Dev :=
  d.onHost fun h =>
    if h.dlog.length < 128 then { h with dlog := h.dlog ++ [e] } else { h with dlogLost := bump h.dlogLost }

/-- A refused doorbell value: DB_BAD and a dead-letter entry of cause 3 (R325, R326). -/
def Dev.badDoorbell (d : Dev) (queue value : Nat) : Dev :=
  ((d.onHost fun h => { h with dbBad := true }).mark 0x0008 4).deadLetter
    ⟨List.replicate 64 0, List.replicate 32 0, d.closeCount, queue, 3, value, false⟩

/-- The bytes of a receipt, phase bit clear (R330). -/
def receiptBytes (status tag head queue : Nat) (logged froze forwarded final : Bool) (result : List Byte) :
    List Byte :=
  leBytes 2 status ++ leBytes 2 tag ++ leBytes 2 head ++ leBytes 1 queue ++
    leBytes 1 (packWord [(1, logged.toNat), (2, froze.toNat), (3, forwarded.toNat), (4, final.toNat)]) ++
    padTo 24 result

/-- Status class: bits [15:8] (R330). -/
def statusClass (status : Nat) : Nat := status / 256

/-- The receipt of a docket of the chain queue goes back as a class 3 frame, and held-back dockets move up
(21 R508). The payload is the receipt and the sequence of the docket: notes/assumptions/41.md. -/
def Dev.chainReply (d : Dev) (c : Completion) : Dev :=
  let src := c.dk.idx / 65536
  let seq := c.dk.idx % 65536
  let bytes := receiptBytes c.status (dkTag c.dk) 0 0 false false false c.final c.result
  let quiet := dkQuiet c.dk && (c.status == 0 || c.status == 0x100)
  let d := if quiet && !c.last then d else d.sendTo 3 src (bytes ++ leBytes 2 seq)
  if c.last then
    d.onChain fun ch =>
      { ch with queue := ch.queue.filter (fun q => !(q.src == src && q.seq == seq)) ++ ch.credit.take 1,
                credit := ch.credit.drop 1 }
  else d

/-- The receipt of a docket whose queue a host driver reset deleted: kept for its completion queue, or discarded
(R338, 03 R68). -/
def Dev.orphanReply (d : Dev) (c : Completion) : Dev :=
  match takeFirst (fun (o : Orphan) => o.dk.sq == c.dk.sq && o.dk.idx == c.dk.idx) d.host.orphans with
  | none => d
  | some (o, rest) =>
    let d := if c.last then d.onHost fun h => { h with orphans := rest } else d
    let quiet := dkQuiet c.dk && (c.status == 0 || c.status == 0x100)
    if o.keep && !quiet then
      let log := decide (2 ≤ statusClass c.status)
      let bytes := receiptBytes c.status (dkTag c.dk) o.head (dkQueue c.dk) (log && decide (d.host.dlog.length < 128))
        false false c.final c.result
      let d := if log then
          d.deadLetter ⟨c.dk.bytes, bytes, d.closeCount, dkQueue c.dk, 1, c.dk.idx, false⟩ else d
      let d := d.onCqI o.cq fun q => { q with kept := q.kept ++ [(bytes, dkIrqNow c.dk)] }
      d.drainKept 1 o.cq
    else d

/-- The receipt of a docket of a submission queue, with `froze` telling whether it freezes the queue
(R327, R329, R330, R335, R336). -/
def Dev.sqReply (d : Dev) (c : Completion) (froze : Bool) : Dev :=
  let n := c.dk.sq
  let q := d.sqI n
  let cq := q.cq
  let quiet := dkQuiet c.dk && (c.status == 0 || c.status == 0x100)
  -- its reservation
  let held := (q.fetched.find? (fun f => f.idx == c.dk.idx && f.begun)).elim 0 (·.reserved)
  let spend := if c.last then held else if quiet then 0 else min held 1
  let d := d.onCqI cq fun x => { x with reserved := x.reserved - spend }
  let d := d.onSqI n fun q =>
    { q with fetched :=
        if c.last then q.fetched.filter (fun f => !(f.idx == c.dk.idx && f.begun))
        else q.fetched.map fun f =>
          if f.idx == c.dk.idx && f.begun then { f with wrote := true, reserved := f.reserved - spend } else f }
  let d := if froze then d.freezeQueue n c.dk.idx false else d
  -- the dead-letter log and the receipt
  let log := c.cause == 2 || decide (2 ≤ statusClass c.status)
  let made := log && decide (d.host.dlog.length < 128)
  let tag := if c.cause = 2 then 0xFFFF else dkTag c.dk
  let bytes := receiptBytes c.status tag (sqHead (d.sqI n)) n made froze c.remote c.final
    c.result
  let d :=
    if log then
      d.deadLetter ⟨if c.cause = 2 then List.replicate 64 0 else c.dk.bytes, bytes, d.closeCount, n, c.cause,
        c.dk.idx, froze⟩
    else d
  if quiet || !(d.cqI cq).enabled then d else d.putReceipt cq bytes (dkIrqNow c.dk) froze

/-- A queue being deleted goes when none of its begun dockets is left, and only then is the delete docket
answered (R337). -/
def Dev.finishDelete (d : Dev) (n : Nat) : Dev :=
  let q := d.sqI n
  match q.deleting with
  | some dk =>
    if q.fetched.isEmpty then (d.onSqI n fun _ => SubQ.none).sqReply ⟨dk, 0, [], true, false, 1, false, false⟩ false
    else d
  | none => d

/-- A receipt is written (R319). -/
def Dev.writeReceipt (d : Dev) (c : Completion) (froze : Bool) : Dev :=
  if c.dk.sq = chainSq then d.chainReply c
  else if orphanBase ≤ c.dk.sq then d.orphanReply c
  else
    let d := d.sqReply c froze
    if c.last then d.finishDelete c.dk.sq else d

/-- Whether a receipt freezes its queue when nothing earlier in the ring does (R336). -/
def Dev.wouldFreeze (d : Dev) (c : Completion) : Bool :=
  decide (c.dk.sq < 64) && !(d.sqI c.dk.sq).frozen && (d.sqI c.dk.sq).enabled &&
    (c.cause == 2 || (c.freezes && (d.sqI c.dk.sq).freezeOnErr && decide (2 ≤ statusClass c.status)))

/-- A receipt that the close writes at rank 8 (01 R35). -/
def Dev.atClose (d : Dev) (c : Completion) : Dev := d.onTick fun t => { t with done8 := t.done8 ++ [c] }

/-- A receipt of the sorting office: written at once, but held for the close when it would freeze its queue, since a
freeze happens in a close, where the lowest ring index decides (R336). -/
def Dev.answer (d : Dev) (c : Completion) : Dev := if d.wouldFreeze c then d.atClose c else d.writeReceipt c false

/-- The one receipt of a docket, which ends it. -/
def Dev.finish (d : Dev) (dk : Docket) (status : Nat) (result : List Byte := []) : Dev :=
  d.answer ⟨dk, status, result, true, false, 1, true, false⟩

/-- The receipt of a docket that handed work to a data-plane engine: written at rank 8 (01 R14, R35). -/
def Dev.finish8 (d : Dev) (dk : Docket) (status : Nat) (result : List Byte := []) : Dev :=
  d.atClose ⟨dk, status, result, true, false, 1, true, false⟩

/-- Position of a docket in its queue's fetch order. -/
def Dev.fetchOrder (d : Dev) (dk : Docket) : Nat :=
  (d.sqI dk.sq).fetched.findIdx (fun f => f.idx == dk.idx)

/-- Rank 8: the receipts of the tick are written; in each queue the failing docket of the lowest ring index
freezes it (01 R35, 13 R336). -/
def Dev.closeReceipts (d : Dev) : Dev :=
  let list := d.tick.done8
  let winners := list.filterMap fun c =>
    if d.wouldFreeze c &&
        list.all (fun e => !(e.dk.sq == c.dk.sq && d.wouldFreeze e && decide (d.fetchOrder e.dk < d.fetchOrder c.dk)))
    then some (c.dk.sq, c.dk.idx) else none
  let d := d.onTick fun t => { t with done8 := [] }
  d.each list fun d c => d.writeReceipt c (d.wouldFreeze c && winners.contains (c.dk.sq, c.dk.idx))

/-! ### Beginning a docket (R328) -/

/-- Whether the docket at a place in a queue may begin: every earlier one has begun, and under FENCE every earlier
one has written its first receipt (R328). -/
def mayBegin (fence : Bool) (earlier : List Fetched) : Bool :=
  earlier.all fun f => f.begun && (!fence || f.wrote)

/-- What stands before the waiting docket of ring index `idx`; none when no docket of that index waits. -/
def before (idx : Nat) : List Fetched → Option (List Fetched)
  | [] => none
  | f :: fs => if f.idx == idx && !f.begun then some [] else (before idx fs).map (f :: ·)

/-- A docket may begin now: the sorting office takes dockets (R341, 24 R562) and the order of R328 allows it. A docket that its queue does not hold as fetched is taken as the sorting office's own
and begins: notes/assumptions/12.md. -/
def Dev.canBegin (d : Dev) (k : Docket) : Bool :=
  if !d.host.ready then false
  else if k.sq < 64 then
    let q := d.sqI k.sq
    match before k.idx q.fetched with
    | some earlier => mayBegin (dkFence k) earlier
    | none => !q.fetched.any (fun f => f.idx == k.idx)
  else if k.sq = chainSq then
    match takeFirst (fun (c : ChainDocket) => !c.begun) d.chain.queue with
    | some (c, _) => c.src * 65536 + c.seq == k.idx && (!dkFence k || d.chain.queue.all (fun c => !c.begun))
    | none => true
  else true

/-- The docket begins. -/
def Dev.begin (d : Dev) (k : Docket) : Dev :=
  if k.sq < 64 then
    d.onSqI k.sq fun q =>
      { q with fetched := q.fetched.map fun f => if f.idx == k.idx && !f.begun then { f with begun := true } else f }
  else if k.sq = chainSq then
    d.onChain fun c =>
      { c with queue := c.queue.map fun q =>
          if q.src * 65536 + q.seq == k.idx then { q with begun := true } else q }
  else d

/-! ### Forwarding (21 R508, R509; 14 R352) -/

/-- Opcodes that name host memory (14 R357 to R364). -/
def namesHostMemory (op : Nat) : Bool :=
  [0x08, 0x0B, 0x11, 0x13, 0x22, 0x23, 0x30, 0x31, 0x40, 0x41, 0x42, 0x45, 0x46, 0x60, 0x61, 0x62, 0x84, 0x90,
    0x92, 0x93, 0xE2].contains op

/-- Opcodes of 14 R357 to R364. -/
def knownOpcode (op : Nat) : Bool :=
  decide (op ≤ 0x0B) || (decide (0x10 ≤ op) && decide (op ≤ 0x14)) || (decide (0x20 ≤ op) && decide (op ≤ 0x26)) ||
    [0x30, 0x31, 0x70, 0x50, 0x51, 0x52, 0x60, 0x61, 0x62, 0x63].contains op ||
    (decide (0x40 ≤ op) && decide (op ≤ 0x46)) || (decide (0x80 ≤ op) && decide (op ≤ 0x85)) ||
    (decide (0x90 ≤ op) && decide (op ≤ 0x93)) || (decide (0xE0 ≤ op) && decide (op ≤ 0xE4))

/-- A docket with FORWARD set that is not for this device: refused, or sent to its address as a class 2 frame
(21 R508, R509; 14 R352). -/
def Dev.forwardDocket (d : Dev) (k : Docket) : Dev :=
  let dst := u8 k.bytes 4
  if dkOp k < 0x10 then d.finish k 0x8005
  else if namesHostMemory (dkOp k) then d.finish k 0x0603 [1]
  else if !(d.mapEntry dst).present then d.finish k 0x0603 [2]
  else if d.address = none then d.finish k 0x0603 [3]
  else
    let (seq, d) := d.takeSeq 2
    let d := if d.mayOriginate then
        d.putFrame (d.mapEntry dst).port 2 false false d.addressByte dst 255 seq k.bytes else d
    d.onChain fun c => { c with fwd := c.fwd ++ [⟨seq, k⟩] }

/-- The docket goes to another device: FORWARD is set and names an address that is not this device's (21 R508). A
docket of group 0x0_ with FORWARD set is refused whatever the address (14 R352). -/
def Dev.forwards (d : Dev) (k : Docket) : Bool :=
  dkForward k && (decide (dkOp k < 0x10) || (decide (k.sq < 64) && d.address != some (u8 k.bytes 4)))

/-- The bytes of a docket that no row of its table uses are 0: the reserved header bits and every operand byte
outside `used`, a list of (first, last) (R329, 14 R348). -/
def reservedZero (k : Docket) (used : List (Nat × Nat)) : Bool :=
  decide (dkFlags k / 16 = 0) && u8 k.bytes 5 == 0 && u8 k.bytes 6 == 0 && u8 k.bytes 7 == 0 &&
    (List.range 56).all fun i =>
      used.any (fun r => decide (r.1 ≤ i + 8) && decide (i + 8 ≤ r.2)) || u8 k.bytes (i + 8) == 0

/-- A docket of queue `n` of an unknown opcode never runs: it is refused when it would begin (R332). -/
def refuseUnknown (fuel : Nat) (d : Dev) (n : Nat) : Dev :=
  match fuel with
  | 0 => d
  | fuel + 1 =>
    match takeFirst (fun (f : Fetched) => !f.begun) (d.sqI n).fetched with
    | some (f, _) =>
      let k : Docket := ⟨n, f.idx, f.bytes⟩
      if !knownOpcode (dkOp k) && d.canBegin k then
        let d := d.begin k
        refuseUnknown fuel (if d.forwards k then d.forwardDocket k else d.finish k 0x0201) n
      else d
    | none => d

/-- The common course of a docket: it begins when its queue's order allows, goes to another device under FORWARD,
is refused for a reserved byte that is not 0, and otherwise does its work (R328, R329, 14 R348, 21 R508). -/
def Dev.runDocket (d : Dev) (k : Docket) (used : List (Nat × Nat)) (work : Dev → Dev) : Dev :=
  if !d.canBegin k then d
  else
    let d := d.begin k
    let d := if d.forwards k then d.forwardDocket k
      else if !reservedZero k used then d.finish k 0x0202
      else work d
    refuseUnknown 64 d k.sq

/-! ### Fetch (R325, R327, R333) -/

/-- Receipts that a docket reserves (R327). -/
def reserveOf (bytes : List Byte) (cqEntries : Nat) : Nat :=
  if u8 bytes 0 = 0x24 ∧ bit (u8 bytes 1) 1 = false ∧ 3 ≤ cqEntries then 2 else 1

/-- A queue is ready for arbitration (R327, R333). -/
def Dev.sqReady (d : Dev) (n : Nat) : Bool :=
  let q := d.sqI n
  let c := d.cqI q.cq
  q.enabled && !q.frozen && q.deleting.isNone && c.enabled && c.kept.isEmpty && q.fetch != q.limit &&
    decide (q.need ≤ cqRoom c)

/-- The next of `ready` after `last` in number order, around. -/
def roundRobin (ready : List Nat) (last : Nat) : Option Nat :=
  match ready.find? (fun n => decide (last < n)) with
  | some n => some n
  | none => ready.head?

/-- Which queue the next docket comes from, and the shares left of the round (R333): urgent first, else high, medium
and low by their weights. Index 0, 1, 2 of the shares is high, medium, low. -/
def Dev.arbitrate (d : Dev) : Option (Nat × List Nat) :=
  let ready := which 64 d.sqReady
  let of := fun c => ready.filter fun n => (d.sqI n).cls == c
  let weights := [d.host.arbHigh.toNat, d.host.arbMed.toNat, d.host.arbLow.toNat]
  let turn := fun c => d.host.turn.getD c 63
  match roundRobin (of 0) (turn 0) with
  | some n => some (n, d.host.shares)
  | none =>
    let pick := fun (shares : List Nat) =>
      [0, 1, 2].findSome? fun i =>
        if shares.getD i 0 = 0 then none
        else (roundRobin (of (i + 1)) (turn (i + 1))).map fun n =>
          -- an earlier class with no ready queue forfeits the rest of its share
          (n, (List.range 3).map fun j =>
            if j < i then 0 else if j = i then shares.getD j 0 - 1 else shares.getD j 0)
    match pick d.host.shares with
    | some r => some r
    | none => pick weights

/-- A round ends when no queue is ready: the next one starts with whole shares (R333). -/
def Dev.roundOver (d : Dev) : Dev :=
  if d.arbitrate.isNone then d.onHost fun h => { h with shares := [h.arbHigh.toNat, h.arbMed.toNat, h.arbLow.toNat] } else d

/-- The device fetches one docket: the queue that arbitration gives reads `slot`, its ring's next slot, or fails to
(`none`) (R319, R327, R333, R336, R337; paused while
every host pigeonhole is held, 16 R393). -/
def Dev.fetchOne (d : Dev) (slot : Option (List Byte)) : Dev :=
  if !d.host.ready || d.host.power != .d0 || decide (384 ≤ d.store.holes.length) then d
  else match d.arbitrate with
  | none => d.roundOver
  | some (n, shares) =>
    let q := d.sqI n
    let c := d.cqI q.cq
    let need := match slot with
      | some b => if q.flushEnd.isSome then 1 else reserveOf b c.entries
      | none => 1
    if cqRoom c < need then (d.onSqI n fun q => { q with need := need }).roundOver
    else
      let next := if q.entries ≤ q.fetch + 1 then 0 else q.fetch + 1
      let d := d.onHost fun h => { h with shares := shares, turn := h.turn.set q.cls n }
      let d := d.onCqI q.cq fun c => { c with reserved := c.reserved + need }
      let bytes := padTo 64 (slot.getD [])
      let k : Docket := ⟨n, q.fetch, bytes⟩
      let flushing := q.flushEnd.isSome
      let d := d.onSqI n fun q =>
        { q with fetch := next, need := 1,
                 flushEnd := if q.flushEnd = some next then none else q.flushEnd,
                 fetched := q.fetched ++ [⟨k.idx, bytes, flushing || slot.isNone, need, false⟩] }
      let d := if slot.isNone then d.answer ⟨k, 0x0502, [], true, false, 2, true, false⟩
        else if flushing then d.answer ⟨k, 0x0601, [], true, false, 1, false, false⟩
        else refuseUnknown 64 d n
      d.roundOver

end Sys2Proof.Machine
end

