-- ==== Sys2Proof/Machine/Params.lean ====
section
/-!
DEFINITION. The parameter keys: length, range, landing kinds and value after reset of every parameter
(14 R344 to R347 and the chapters it names).
-/
namespace Sys2Proof.Machine

/-- A parameter as a describe docket shows it (14 R344, R358). `least` and `most` bound a numeric parameter. -/
structure PInfo where
  lo      : Nat
  hi      : Nat
  ro      : Bool
  kinds   : Nat
  numeric : Bool
  signed  : Bool
  least   : Int
  most    : Int
  dflt    : List Byte
deriving DecidableEq, Repr

/-- Landing kinds as masks: bit k for kind k (14 R358). -/
def k034 : Nat := 0x19
def k0134 : Nat := 0x1B
def k0234 : Nat := 0x1D
def k03 : Nat := 0x09
def k34 : Nat := 0x18

/-- A number of `n` bytes from `least` to `most`. -/
def pNum (n kinds : Nat) (least most dflt : Nat) : PInfo :=
  ⟨n, n, false, kinds, true, false, least, most, leBytes n dflt⟩

/-- A signed number of `n` bytes. -/
def pInt (n kinds : Nat) (least most dflt : Int) : PInfo :=
  ⟨n, n, false, kinds, true, true, least, most, leBytes n (ofSigned (8 * n) dflt)⟩

/-- A value of several fields, `n` bytes. -/
def pRec (n kinds : Nat) (dflt : List Byte) : PInfo := ⟨n, n, false, kinds, false, false, 0, 0, padTo n dflt⟩

/-- A value of variable length, empty after reset. -/
def pVar (lo hi kinds : Nat) : PInfo := ⟨lo, hi, false, kinds, false, false, 0, 0, []⟩

/-- A read-only value. -/
def pRo (n : Nat) : PInfo := ⟨n, n, true, 0, false, false, 0, 0, []⟩
def pRoVar (n : Nat) : PInfo := ⟨0, n, true, 0, false, false, 0, 0, []⟩

/-- A key from its block, instance number and index (14 R344). -/
def pkey (block inst idx : Nat) : Nat := block * 2 ^ 24 + inst * 2 ^ 16 + idx

def keyBlock (k : Nat) : Nat := k / 2 ^ 24 % 256
def keyInst (k : Nat) : Nat := k / 2 ^ 16 % 256
def keyIdx (k : Nat) : Nat := k % 2 ^ 16

/-- Index `i` lies in `a` to `b`. -/
def within (a i b : Nat) : Bool := decide (a ≤ i) && decide (i ≤ b)

/-- TICK (14 R347): the period lands only at an absolute or chain-wide time (01 R31). -/
def tickParam : Nat → Option PInfo
  | 0 => some (pNum 2 k34 100 8000 250)
  | _ => none

/-- GOV (14 R347), all read only. -/
def govParam (i : Nat) : Option PInfo :=
  if within 0 i 4 || within 8 i 13 then some (pRo 2) else none

/-- LANE (14 R347; 04 R588). -/
def laneParam : Nat → Option PInfo
  | 0 | 1 | 2 => some (pNum 1 k034 0 1 0)
  | 3 => some (pNum 1 k034 0 255 255)
  | 4 => some (pNum 1 k034 0 7 0)
  | _ => none

/-- QUAD (14 R347; 04 R88, R90, R107). Values after reset of M and the clocking: notes/assumptions/14.md. -/
def quadParam : Nat → Option PInfo
  | 0 => some (pNum 1 k034 25 160 25)
  | 1 => some (pNum 1 k034 1 3 1)
  | 2 => some (pNum 1 k034 0 32 8)
  | _ => none

/-- CAP (14 R347; 05 R129, R589). Values after reset of the arrangement, die count, depth and die sizes:
notes/assumptions/14.md. -/
def capParam (i : Nat) : Option PInfo :=
  match i with
  | 0 => some (pNum 1 k0134 0 2 0)
  | 1 => some (pNum 1 k0134 1 4 1)
  | 2 => some (pNum 1 k0134 0 3 0)
  | 3 => some (pNum 1 k0134 0 1 0)
  | 4 => some (pNum 1 k0134 0 64 16)
  | 5 => some (pNum 4 k0134 0 4000000000 0)
  | 6 => some (pNum 2 k0134 0 65535 0)
  | 7 => some (pRec 2 k034 [0xFF, 0])
  | 0x100 => some (pRo 64)
  | _ =>
    if within 0x10 i 0x13 then some (pNum 2 k0134 0 24576 0)
    else if within 0x14 i 0x17 then some (pNum 2 k0134 0 16384 0)
    else if within 0x110 i 0x11F then some (pRo 36)
    else none

/-- A value of fixed length, empty (all 0) after reset. -/
def pBulk (n kinds : Nat) : PInfo := ⟨n, n, false, kinds, false, false, 0, 0, []⟩

/-- FRONT (14 R347; 06 R148 to R165). -/
def frontParam (i : Nat) : Option PInfo :=
  match i with
  | 0 => some (pNum 1 k0134 0 2 1)
  | 0x30 => some (pRec 2 k0134 [])
  | 0x38 => some (pNum 2 k0134 0 16383 1024)
  | 0x39 => some (pNum 1 k0134 0 7 2)
  | 0x44 => some (pRec 4 k0134 [0, 0, 0, 1])
  | 0x50 => some (pVar 0 131072 k0134)
  | 0x51 => some (pRec 7 k0134 [])
  | 0x68 => some (pRec 4 k0134 [])
  | 0x69 => some (pNum 2 k0134 0 65535 0x2000)
  | 0x70 => some (pNum 2 k0134 0 16383 4096)
  | 0x110 => some (pRoVar 1024)
  | _ =>
    if within 0x10 i 0x1F then some (pNum 4 k0134 0 262140 0)
    else if within 0x20 i 0x2F then some (pInt 2 k0134 (-4096) 4095 0)
    else if within 0x34 i 0x37 then some (pRec 4 k0134 [])
    else if within 0x40 i 0x43 then some (pRec 2 k0134 [])
    else if within 0x60 i 0x67 then some (pBulk 17160 k0134)
    else if within 0x100 i 0x10F then some (pRo 4)
    else none

/-- Mill-float words 1.0, and identity matrix rows. -/
def mfOneBytes : List Byte := [0, 0, 0x3F, 0]
def mfZeroBytes : List Byte := [0, 0, 0, 0]
def unitRow (i : Nat) : List Byte := (List.range 3).flatMap fun j => if j = i then mfOneBytes else mfZeroBytes

/-- COLOUR (14 R347; 07 R175 to R188). -/
def colourParam (i : Nat) : Option PInfo :=
  match i with
  | 0 => some (pNum 1 k0134 0 4 0)
  | 1 => some (pNum 1 k0134 0 255 255)
  | 0x10 => some (pRec 12 k0134 (mfOneBytes ++ mfOneBytes ++ mfOneBytes))
  | 0x11 | 0x12 | 0x13 => some (pRec 12 k0134 (unitRow (i - 0x11)))
  | 0x14 => some (pRec 12 k0134 [])
  | 0x20 | 0x28 => some (pNum 1 k0134 0 2 0)
  | 0x21 | 0x29 => some (pBulk 49152 k0134)
  | 0x22 | 0x2A => some (pRec 8 k0134 (mfZeroBytes ++ mfOneBytes))
  | 0x30 => some (pNum 1 k0134 0 1 0)
  | 0x31 => some (pBulk 1647750 k0134)
  | _ =>
    if within 0x100 i 0x15F then
      match i % 16 with
      | 0 => some (pNum 1 k0134 0 5 0)
      | 1 => some (pNum 1 k0134 0 6 1)
      | 2 | 3 | 4 => some (pRec 12 k0134 (unitRow (i % 16 - 2)))
      | 5 => some (pNum 2 k0134 1 10000 203)
      | 6 => some (pRec 4 k0134 [0x5C, 0x0F, 0x3D, 0])
      | _ => none
    else none

/-- TAP (14 R347; 08 R196 to R210). -/
def tapParam (i : Nat) : Option PInfo :=
  match i with
  | 0 => some (pNum 1 k0134 0 1 0)
  | 1 => some (pRec 8 k0134 [])
  | 2 => some (pRec 4 k0134 [])
  | 3 => some (pNum 1 k0134 0 3 0)
  | 4 => some (pBulk 1792 k0134)
  | 5 => some (pRec 4 k0134 [])
  | 9 => some (pVar 64 512 k0134)
  | 0xA => some (pNum 1 k0134 0 1 0)
  | _ => if within 0x10 i 0x13 then some (pRec 4 k0134 []) else none

/-- A consumer slot: endpoint (2), order (1), reserved (1) (08 R208). -/
def slotParam : PInfo := pRec 4 k0134 []

/-- STATS (14 R347; 09 R230 to R233). -/
def statsParam (i : Nat) : Option PInfo :=
  match i with
  | 0 => some (pVar 64 512 k0134)
  | 1 => some (pRec 2 k0134 [0, 1])
  | 2 => some (pNum 4 k0134 0 131071 65280)
  | _ => if within 0x10 i 0x13 then some slotParam else none

/-- MILL (14 R347; 10 R256, R257, R261). -/
def millParam (inst : Nat) (i : Nat) : Option PInfo :=
  match i with
  | 0 => some (pVar 36 278560 k0134)
  | 1 => some (pBulk 256 k0134)
  | 2 => some (pNum 4 k0134 16 65536 16)
  | 3 => some (pVar 64 512 k0134)
  | _ => if inst % 4 = 3 ∧ within 0x10 i 0x13 then some slotParam else none

/-- ENC (14 R347; 11 R277 to R290). -/
def encParam : Nat → Option PInfo
  | 0 => some (pNum 1 k0134 1 16 1)
  | 1 => some (pNum 1 k0134 0 1 0)
  | 2 => some (pRec 6 k0134 [27, 0xFE, 0, 1, 0, 51])
  | 3 => some (pRec 10 k0134 (leBytes 8 0 ++ leBytes 2 12))
  | 4 => some (pRec 17 k0134 (leBytes 16 0 ++ [1]))
  | 5 => some (pNum 2 k0134 0 65535 0)
  | 6 => some (pNum 1 k0134 0 1 0)
  | 7 => some (pNum 1 k0134 0 3 0)
  | 8 => some (pNum 1 k0134 0 1 1)
  | 9 => some (pNum 1 k0134 0 255 0)
  | 0xA => some (pVar 64 512 k0134)
  | 0xB => some (pNum 2 k0134 0 255 0)
  | _ => none

/-- DEC (14 R347; 11 R291, R292). -/
def decParam : Nat → Option PInfo
  | 0 => some (pNum 1 k0134 0 1 0)
  | 1 => some (pVar 64 512 k0134)
  | 2 => some (pNum 2 k0134 0 255 0)
  | _ => none

/-- BOLT, raw lanes only (14 R347; 12 R301, R308). -/
def boltParam (inst : Nat) (i : Nat) : Option PInfo :=
  if 8 ≤ inst then none
  else match i with
  | 0 => some (pVar 64 512 k0134)
  | 1 => some (pVar 0 8192 k0134)
  | 2 => some (pNum 1 k0134 4 16 8)
  | _ => none

/-- RASTER (18 R453). Values after reset that the manual does not give: notes/assumptions/13.md. -/
def rasterParam (i : Nat) : Option PInfo :=
  match i with
  | 0 => some (pNum 1 k0234 0 1 0)
  | 1 => some (pRec 21 k0234 [])
  | 2 => some (pNum 1 k0234 8 12 8)
  | 3 => some (pRec 13 k0234 [])
  | 4 => some (pNum 1 k0234 0 255 255)
  | 5 => some (pRec 6 k0234 [])
  | 6 => some (pNum 2 k0234 0 255 0)
  | _ =>
    if within 0x10 i 0x13 then some (pRec 9 k0234 [0, 0xFF, 0xFF, 0, 0, 0, 0, 0, 0xFF])
    else if within 0x20 i 0x23 then some (pRec 18 k0234 [])
    else if within 0x30 i 0x33 then some (pRec 16 k0234 [])
    else none

/-- AUDIO (19 R473). Values after reset that the manual does not give: notes/assumptions/13.md. -/
def audioParam (inst : Nat) (i : Nat) : Option PInfo :=
  if 28 ≤ inst then
    match i with
    | 0 => some (pNum 4 k034 48000 96000 48000)
    | 1 => if inst = 28 then some (pNum 1 k034 0 2 0) else none
    | 2 => if inst = 28 then some (pRec 3 k034 []) else none
    | 3 => if inst = 28 then some (pRec 4 k034 []) else none
    | 4 => if inst = 28 then some (pNum 2 k034 0 65535 0x8000) else none
    | _ => none
  else match i with
  | 0 => some (pNum 1 k034 0 1 0)
  | 1 => some (pNum 1 k034 0 255 255)
  | 2 => some (pVar 64 512 k034)
  | 3 => some (pNum 2 k034 0 0xFFFF 0xFFFF)
  | 4 => some (pNum 2 k034 64 4800 64)
  | 5 => some (pRec 3 k034 [0, 0x10, 0])
  | 6 => some (pNum 1 k034 0 100 10)
  | 7 => some (pNum 2 k034 1 1000 20)
  | 8 => if within 16 inst 23 then some (pNum 1 k034 0 1 0) else none
  | 9 => if within 20 inst 23 then some (pBulk 48 k034) else none
  | 0xA => if inst < 16 then some (pNum 1 k034 0 1 0) else none
  | 0xB => if within 24 inst 27 then some (pNum 2 k034 0 65535 0) else none
  | 0x10 => if within 16 inst 19 then some (pRo 48) else none
  | _ => none

/-- STORE (15 R388; 16 R401). The reserve is bounded by C_w, which validation checks. -/
def storeParam : Nat → Option PInfo
  | 0 => some (pNum 8 k034 0 32000000000 0)
  | 1 => some (pNum 2 k034 64 4096 512)
  | 2 => some (pNum 2 k034 1 600 2)
  | 3 => some (pNum 4 k034 0 100000 0)
  | _ => none

/-- POOL (17 R431, R432). -/
def poolParam (inst i : Nat) : Option PInfo :=
  if i = 0 then some (pRo 8) else if i = 1 then some (pRo 4) else if i = 2 then some (pRo 8)
  else if inst = 0 ∧ i = 0x8000 then some (pNum 2 k034 3200 8533 0)
  else if inst = 0 ∧ i = 0x8001 then some (pRo 48)
  else none

/-- TIME (20 R492, R485). -/
def timeParam : Nat → Option PInfo
  | 0 => some (pNum 1 k03 0 3 0)
  | 1 => some (pNum 4 k03 100 1000000000 500)
  | 2 => some (pNum 1 k03 0 2 0)
  | 3 => some (pNum 2 k03 0 10000 50)
  | 4 => some (pRec 8 k03 (leBytes 4 0x4000 ++ leBytes 4 0x800))
  | 5 => some (pInt 1 k03 (-6) 0 (-4))
  | 8 | 9 => some (pInt 2 k03 (-10000) 10000 0)
  | 0x10 | 0x11 => some (pInt 4 k03 (-1000000) 1000000 0)
  | 0x20 => some (pRo 384)
  | 0x30 | 0x31 => some (pRo 16)
  | _ => none

/-- CHAIN, on instance number 0 (21 R514). -/
def chainParam (inst i : Nat) : Option PInfo :=
  if inst ≠ 0 then none
  else match i with
  | 1 => some (pNum 2 k034 1 1000 100)
  | 2 => some (pNum 2 k034 0 0xFFFF 0xFFFF)
  | 3 => some (pNum 1 k034 1 2 2)
  | 8 => some (pRec 19 k034 [])
  | _ => none

/-- EVT and EVT2 (22 R527): `src` is the event source. -/
def evtParam (block inst i : Nat) : Option PInfo :=
  let src := if block = 0x17 then 256 + inst else inst
  if i = 0 then some (pNum 1 k034 0 15 0)
  else if i = 1 then some (pNum 2 k034 0 0xFFFF 0)
  else if i = 2 then some (pNum 1 k034 0 1 0)
  else if i = 0x10 then some (pRo 16)
  else if i = 0x20 ∧ src = 302 then some (pRo 512)
  else if block = 0x14 ∧ inst = 0 ∧ within 0x8000 i 0x800F then some (pRec 4 k034 [0, BitVec.ofNat 8 (i - 0x8000)])
  else none

/-- LSLOT (20 R493). -/
def lslotParam : Nat → Option PInfo
  | 0 => some (pNum 1 k034 0 1 0)
  | 1 => some (pRec 8 k034 [])
  | 2 => some (pRec 5 k034 (leBytes 4 1000))
  | 0x10 => some (pRo 10)
  | _ => none

/-- The instances of each block (14 R346): whether `inst` is one of block `b`; none when no block has that number. -/
def blockHas (b inst : Nat) : Option Bool :=
  match b with
  | 0x01 => some (inst == 0)
  | 0x02 => some (decide (inst < 12))
  | 0x03 => some (decide (inst < 64))
  | 0x04 => some (decide (inst < 16))
  | 0x05 | 0x06 | 0x07 | 0x09 => some (decide (inst < 8))
  | 0x08 => some (decide (inst < 64) && decide (inst % 8 < 6))
  | 0x0A | 0x0B => some (decide (inst < 32))
  | 0x0C => some (decide (inst < 2))
  | 0x0D => some (decide (inst < 10))
  | 0x0E | 0x12 | 0x15 => some (inst == 0)
  | 0x0F | 0x14 => some true
  | 0x10 => some (decide (inst < 4))
  | 0x11 => some (decide (inst < 30))
  | 0x13 => some (decide (inst < 2))
  | 0x16 | 0x17 => some (decide (inst < 64))
  | _ => none

/-- The parameter a key names, if any (R344). -/
def paramInfo (k : Nat) : Option PInfo :=
  let i := keyIdx k
  if blockHas (keyBlock k) (keyInst k) ≠ some true then none
  else match keyBlock k with
  | 0x01 => tickParam i
  | 0x02 => govParam i
  | 0x03 => laneParam i
  | 0x04 => quadParam i
  | 0x05 => capParam i
  | 0x06 => frontParam i
  | 0x07 => colourParam i
  | 0x08 => tapParam i
  | 0x09 => statsParam i
  | 0x0A => millParam (keyInst k) i
  | 0x0B => encParam i
  | 0x0C => decParam i
  | 0x0D => boltParam (keyInst k) i
  | 0x0E => storeParam i
  | 0x0F => poolParam (keyInst k) i
  | 0x10 => rasterParam i
  | 0x11 => audioParam (keyInst k) i
  | 0x12 => timeParam i
  | 0x13 => chainParam (keyInst k) i
  | 0x14 => evtParam 0x14 (keyInst k) i
  | 0x16 => lslotParam i
  | 0x17 => evtParam 0x17 (keyInst k) i
  | _ => none

/-- The value in force of a parameter that can be set: the value last landed, or its value after reset (R345). -/
def parOf (params : List (Nat × List Byte)) (k : Nat) : List Byte :=
  match params.find? (fun p => p.1 == k) with
  | some p => p.2
  | none => (paramInfo k).elim [] (·.dflt)

def Dev.par (d : Dev) (k : Nat) : List Byte := parOf d.params k

/-- A numeric parameter in force. -/
def Dev.parN (d : Dev) (block inst idx : Nat) : Nat := leNat (d.par (pkey block inst idx))

/-- A signed parameter of `n` bytes in force. -/
def Dev.parI (d : Dev) (n block inst idx : Nat) : Int := toSigned (8 * n) (d.parN block inst idx)

/-- The keys whose values hold a reserved byte in every word: consumer slots (14 R347), and the mill-float words of
COLOUR (07 R173), a table word apart, which is refused (07 R192). -/
def topByteReserved (k : Nat) : Bool :=
  let i := keyIdx k
  match keyBlock k with
  | 0x07 => within 0x10 i 0x14 || i == 0x22 || i == 0x2A || (decide (0x100 ≤ i) && within 2 (i % 16) 6 && i % 16 != 5)
  | 0x08 | 0x09 | 0x0A => within 0x10 i 0x13
  | _ => false

/-- A value as it is kept: what is written to a reserved byte is ignored, and it reads as 0 (00 R8). -/
def keptForm (k : Nat) (v : List Byte) : List Byte :=
  if topByteReserved k then v.zipIdx.map fun x => if x.2 % 4 = 3 then 0 else x.1 else v

/-- A value set in a parameter list, kept sorted by key. -/
def setPar (params : List (Nat × List Byte)) (k : Nat) (v : List Byte) : List (Nat × List Byte) :=
  insertBy (·.1) (k, v) (params.filter (fun p => p.1 != k))

end Sys2Proof.Machine
end

