-- ==== Sys2Proof/Machine/Lanes.lean ====
section
/-!
DEFINITION. Serial lanes: bring-up, alignment, deskew, errors, presets and recalibration (04).
-/
namespace Sys2Proof.Machine

/-! ### Links on lanes -/

def Dev.linkI (d : Dev) : LinkId → Link
  | .capture p => d.lanes.caps.getD p Link.reset
  | .chain p => d.lanes.chains.getD p Link.reset
  | .raster o => d.lanes.outs.getD o Link.reset

def Dev.onLink (d : Dev) (l : LinkId) (f : Link → Link) : Dev :=
  d.onLanes fun a => match l with
    | .capture p => { a with caps := upd a.caps p f }
    | .chain p => { a with chains := upd a.chains p f }
    | .raster o => { a with outs := upd a.outs o f }

/-- The link that a lane belongs to, with its lanes and the lane's place in it (R92). -/
def Dev.linkOfLane (d : Dev) (n : Nat) : Option (LinkId × List Nat × Nat) :=
  (d.res.links.find? (fun l => l.2.contains n)).map fun l => (l.1, l.2, l.2.findIdx (· == n))

/-- A raster link uses only the transmit direction of its lanes (R93). -/
def receives : LinkId → Bool
  | .raster _ => false
  | _ => true

/-- The endpoint that names a lane. -/
def laneEp (n : Nat) : Nat := endpoint 0x03 n

/-- A link goes up or down; the change takes effect at rank 4 of the close of its tick (R97). -/
def Dev.linkEvent (d : Dev) (l : LinkId) (up : Bool) (cyc : Nat) : Dev :=
  d.onTick fun t => { t with links := t.links ++ [(l, up, d.timeAt cyc)] }

def Dev.quadMode (d : Dev) (q : Nat) : Nat := d.parN 0x04 q 1
def Dev.quadM (d : Dev) (q : Nat) : Nat := d.parN 0x04 q 0

/-- In forwarded-clock mode lane 4n+3 carries the clock and no data (R91). -/
def Dev.carriesData (d : Dev) (n : Nat) : Bool := !(d.quadMode (n / 4) == 3 && n % 4 == 3)

/-- Timing of the quad is there: its PLL is locked, or its forwarded clock is present (R102). -/
def Dev.quadReady (d : Dev) (q : Nat) : Bool :=
  (d.quadI q).powered && ((d.quadI q).pllLock || (d.quadI q).fwdOk)

/-- PLL_LOCK (R102, step 2): the PLL locks, or in forwarded-clock mode the clock is detected. A raster link, which
has no receive direction (R93), is up once its lanes have their timing: notes/assumptions/15.md. -/
def Dev.pllLocks (d : Dev) (q : Nat) : Dev :=
  if (d.quadI q).powered then
    let d := d.onQuadI q fun x => if d.quadMode q = 3 then { x with fwdOk := true } else { x with pllLock := true }
    d.each d.res.links fun d l =>
      if !receives l.1 && !(d.linkI l.1).up && l.2.any (fun n => n / 4 == q) && l.2.all (fun n => d.quadReady (n / 4))
      then d.linkEvent l.1 true 0 else d
  else d

def execPllLock (quad : Fin 16) (s : State) : Host.Outcome State Fault Refusal :=
  .next { s with dev := s.dev.pllLocks quad }

/-- CDR_LOCK (R102, step 3). On a chain port the search for the far transmitter's preset begins with TP0 (R105). -/
def Dev.cdrLocks (d : Dev) (n : Nat) : Dev :=
  match d.linkOfLane n with
  | some (l, _, _) =>
    if receives l && d.quadReady (n / 4) && d.carriesData n then
      let d := d.onLaneI n fun x => { x with cdrLock := true, tries := [] }
      match l with
      | .chain _ => d.emit (.preset n 0)
      | _ => d
    else d
  | none => d

def execCdrLock (lane : Fin 64) (s : State) : Host.Outcome State Fault Refusal :=
  .next { s with dev := s.dev.cdrLocks lane }

/-- SYNC (R97, R102 step 4, R103): initial adaptation ends; in automatic mode three clean commas put the lane in
sync. A lane whose link has come up before keeps its settings (05 R141). -/
def Dev.laneSync (d : Dev) (n boundary ctle : Nat) (dfe : List Int) : Dev :=
  match d.linkOfLane n with
  | some (l, _, _) =>
    if receives l && (d.laneI n).cdrLock then
      let fixed := d.parN 0x03 n 3
      let first := !(d.linkI l).trained
      let auto := d.parN 0x03 n 2 == 0
      d.onLaneI n fun x =>
        let x := if first then
            { x with ctle := BitVec.ofNat 4 (if fixed < 16 then fixed else ctle),
                     dfe := (List.range 5).map fun i => BitVec.ofInt 4 (dfe.getD i 0) } else x
        if auto then { x with sync := true, boundary := BitVec.ofNat 4 (boundary % 10) } else x
    else d
  | none => d

def execSync (lane : Fin 64) (boundary ctle : Nat) (dfe : List Int) (_cyc : Nat) (s : State) :
    Host.Outcome State Fault Refusal :=
  .next { s with dev := s.dev.laneSync lane boundary ctle dfe }

/-- Two AOS counts that one pass over the lanes of a link can show: equal, or one apart (R98). -/
def countsClose (a b : Nat) : Bool :=
  let k := (a + 256 - b % 256) % 256
  k == 0 || k == 1 || k == 255

/-- ALIGNMENT_ORDERED_SET (R98, R99): lane `n` shows a link lane index and a count, and `skew` is the skew measured
on the link. A wrong index or a skew of 65 symbols or more fails deskew with a report; in service a disagreement
takes the link down; when every lane shows the same count the link is deskewed and comes up. -/
def Dev.aos (d : Dev) (n index count skew cyc : Nat) : Dev :=
  match d.linkOfLane n with
  | some (l, lanes, pos) =>
    if receives l && (d.laneI n).sync then
      let single := lanes.length == 1
      let up := (d.linkI l).up
      let d := d.onLaneI n fun x => { x with aosCount := some (count % 256), aligned := index == pos }
      let disagree := !single && lanes.any fun m =>
        match (d.laneI m).aosCount with
        | some c => !countsClose c (count % 256)
        | none => false
      if index ≠ pos then
        let d := d.report 0x0003 (laneEp (lanes.headD n)) (d.nsAt cyc) [index]
        let d := d.onLaneI n fun x => { x with deskewed := false }
        if up then d.linkEvent l false cyc else d
      else if up then if disagree then d.linkEvent l false cyc else d
      else if !single && decide (65 ≤ skew) then d.report 0x0003 (laneEp (lanes.headD n)) (d.nsAt cyc) [skew]
      else
        let all := lanes.all fun m =>
          let x := d.laneI m
          !d.carriesData m || (x.sync && x.aligned && (single || x.aosCount == some (count % 256)))
        if all then
          (d.each lanes fun d m => d.onLaneI m fun x => { x with deskewed := true }).linkEvent l true cyc
        else d
    else d
  | none => d

def execAlignmentOrderedSet (lane : Fin 64) (index count skew cyc : Nat) (s : State) :
    Host.Outcome State Fault Refusal :=
  .next { s with dev := s.dev.aos lane index count skew cyc }

/-- PRESET_REQUEST (R105): taken on a chain port in step 4 of bring-up only; a preset of 8 or more is ignored. -/
def Dev.presetAsked (d : Dev) (n preset : Nat) : Dev :=
  match d.linkOfLane n with
  | some (.chain p, _, _) =>
    if preset < 8 ∧ (d.linkI (.chain p)).up = false ∧ (d.laneI n).cdrLock = true ∧ (d.laneI n).sync = false then
      d.onLaneI n fun x => { x with preset := BitVec.ofNat 3 preset }
    else d
  | _ => d

def execPresetRequest (lane : Fin 64) (preset : Nat) (s : State) : Host.Outcome State Fault Refusal :=
  .next { s with dev := s.dev.presetAsked lane preset }

/-- LANE_CODE_ERROR (R94, R96): counted, and reported for the first error in each run of 64 symbols. The packet it
strikes ends as an ABORT command does. -/
def Dev.codeError (d : Dev) (n : Nat) (kind : CodeError) (symbol cyc : Nat) : Dev :=
  match d.linkOfLane n with
  | some (l, _, _) =>
    if receives l then
      let due := decide ((d.laneI n).repDue ≤ symbol)
      let d := d.onLaneI n fun x =>
        { x with codeViol := if kind = .violation then bump x.codeViol else x.codeViol,
                 dispErr := if kind = .disparity then bump x.dispErr else x.dispErr,
                 repDue := if due then (symbol / 64 + 1) * 64 else x.repDue }
      if due then d.report 0x0001 (laneEp n) (d.nsAt cyc) [] else d
    else d
  | none => d

def execLaneCodeError (lane : Fin 64) (kind : CodeError) (symbol cyc : Nat) (s : State) :
    Host.Outcome State Fault Refusal :=
  .next { s with dev := s.dev.codeError lane kind symbol cyc }

/-- A lane leaves sync (R97). -/
def Dev.laneLoses (d : Dev) (n cyc : Nat) : Dev :=
  let d := d.onLaneI n fun x => { x with sync := false, aligned := false, deskewed := false, aosCount := none }
  match d.linkOfLane n with
  | some (l, _, _) => if receives l && (d.linkI l).up then d.linkEvent l false cyc else d
  | none => d

/-- SYNC_LOST (R97): one lane, or every lane of the quad when its forwarded clock is lost (R91). -/
def Dev.syncLoss (d : Dev) (n : Nat) (fwdClock : Bool) (cyc : Nat) : Dev :=
  if fwdClock && d.quadMode (n / 4) == 3 then
    (d.onQuadI (n / 4) fun q => { q with fwdOk := false }).each (List.range 4) fun d i =>
      d.laneLoses (4 * (n / 4) + i) cyc
  else d.laneLoses n cyc

def execSyncLost (lane : Fin 64) (fwdClock : Bool) (cyc : Nat) (s : State) : Host.Outcome State Fault Refusal :=
  .next { s with dev := s.dev.syncLoss lane fwdClock cyc }

/-- DESKEW_RETRY (R99, R102): alignment starts again on a link that is configured and not up. -/
def Dev.deskewAgain (d : Dev) (n : Nat) : Dev :=
  match d.linkOfLane n with
  | some (l, lanes, _) =>
    if (d.linkI l).up then d
    else d.each lanes fun d m =>
      d.onLaneI m fun x => { x with aligned := false, deskewed := false, aosCount := none }
  | none => d

def execDeskewRetry (lane : Fin 64) (s : State) : Host.Outcome State Fault Refusal :=
  .next { s with dev := s.dev.deskewAgain lane }

/-- The first step of R102 that a lane has not passed. -/
def Dev.failingStep (d : Dev) (n : Nat) : Nat :=
  if !d.quadReady (n / 4) then 2
  else if !(d.laneI n).cdrLock then 3
  else if !(d.laneI n).sync then 4
  else 5

/-- LINK_NOT_UP (R102): 50 ms after bring-up began, a report names the first lane and step that failed. -/
def Dev.notUp (d : Dev) (n cyc : Nat) : Dev :=
  match d.linkOfLane n with
  | some (l, lanes, _) =>
    if (d.linkI l).up || !receives l then d
    else
      let data := lanes.filter d.carriesData
      let first := (data.find? fun m => d.failingStep m < 5).getD (lanes.headD n)
      d.report 0x0003 (laneEp first) (d.nsAt cyc) [d.failingStep first]
  | none => d

def execLinkNotUp (lane : Fin 64) (cyc : Nat) (s : State) : Host.Outcome State Fault Refusal :=
  .next { s with dev := s.dev.notUp lane cyc }

/-- SKIP_PAIR (R100): on chain ports only, a buffer that runs high deletes a pair and one that runs low repeats
one. -/
def Dev.skipPairs (d : Dev) (n : Nat) (high : Bool) : Dev :=
  match d.linkOfLane n with
  | some (.chain _, _, _) => d.onLaneI n fun x => { x with skips := if high then x.skips - 1 else x.skips + 1 }
  | _ => d

def execSkipPair (lane : Fin 64) (high : Bool) (s : State) : Host.Outcome State Fault Refusal :=
  .next { s with dev := s.dev.skipPairs lane high }

/-- The eye figure of merit (R106). -/
def fomOf (w h : Nat) : Nat := min 255 (4 * min w h)

/-- The band of a FOM: 0 good, 1 marginal, 2 low (R106). -/
def fomBand (fom : Nat) : Nat := if 96 ≤ fom then 0 else if 48 ≤ fom then 1 else 2

/-- A measured FOM is held; entry to the marginal or low band raises an event, and entry to the low band files a
report (R106, 22 R519). -/
def Dev.fomSeen (d : Dev) (n fom ns : Nat) : Dev :=
  let was := (d.laneI n).band
  let band := fomBand fom
  let d := d.onLaneI n fun x => { x with fom := BitVec.ofNat 8 fom, band := band }
  if band = was ∨ band = 0 then d
  else
    let d := d.raise (282 + n / 4) ns
    if band = 2 then d.report 0x0002 (laneEp n) ns [fom] else d

/-- The preset with the highest FOM, the lowest-numbered on a tie (R105). -/
def bestPreset (foms : List Nat) : Nat := foms.findIdx (· == maxOf foms)

/-- FOM_MEASURE (R106). In step 4 of a chain port's bring-up each measurement is of the preset asked for last, and
after TP7 the best one is asked for (R105). -/
def Dev.fomMeasured (d : Dev) (n w h cyc : Nat) : Dev :=
  match d.linkOfLane n with
  | some (l, _, _) =>
    let x := d.laneI n
    if (d.linkI l).up then if receives l then d.fomSeen n (fomOf w h) (d.nsAt cyc) else d
    else match l with
      | .chain _ =>
        if x.cdrLock && !x.sync && decide (x.tries.length < 8) then
          let tries := x.tries ++ [fomOf w h]
          let d := d.onLaneI n fun x => { x with tries := tries }
          d.emit (.preset n (if tries.length < 8 then tries.length else bestPreset tries))
        else if receives l && x.sync then d.fomSeen n (fomOf w h) (d.nsAt cyc) else d
      | _ => if receives l && x.sync then d.fomSeen n (fomOf w h) (d.nsAt cyc) else d
  | none => d

def execFomMeasure (lane : Fin 64) (w h cyc : Nat) (s : State) : Host.Outcome State Fault Refusal :=
  .next { s with dev := s.dev.fomMeasured lane w h cyc }

/-- A trigger of R107 is there: an action, a relock, or Tj moved past the delta. -/
def Dev.calTriggered (d : Dev) (n : Nat) (tj : Int) : Bool :=
  let delta : Int := d.parN 0x04 (n / 4) 2
  let last := (d.laneI n).calTemp.toInt
  (d.laneI n).calDue || (decide (delta ≠ 0) && decide (delta < (tj - last).natAbs))

/-- RECALIBRATION (R107, R108 steps 1 to 4, 23 R539): a triggered lane of a link that is up, when fewer than two
lanes of its quad and fewer than eight in the device are recalibrating. -/
def Dev.recalibrate (d : Dev) (n : Nat) (tj : Int) (ctle w h : Nat) : Dev :=
  match d.linkOfLane n with
  | some (l, _, _) =>
    let busy := which 64 fun m => m != n && (d.laneI m).spare.isSome
    if receives l && (d.linkI l).up && d.calTriggered n tj && decide (busy.length < 8) &&
        decide ((busy.filter fun m => m / 4 == n / 4).length < 2) then
      let x := d.laneI n
      let now := x.ctle.toNat
      let fixed := d.parN 0x03 n 3
      let near := max (now - 3) (min (min (now + 3) 15) ctle)
      let fom := fomOf w h
      let x' := { x with calDue := false, calTemp := BitVec.ofInt 8 tj, fomBefore := x.fom }
      if x.fom.toNat ≤ fom + 4 then
        d.onLaneI n fun _ => { x' with spare := some (if fixed < 16 then fixed else near, fom) }
      else (d.onLaneI n fun _ => { x' with calResult := 4, fomAfter := x.fom, spare := none }).raiseNow 9
    else d
  | none => d

def execRecalibration (lane : Fin 64) (tj : Int) (ctle w h : Nat) (s : State) : Host.Outcome State Fault Refusal :=
  .next { s with dev := s.dev.recalibrate lane tj ctle w h }

/-- SLICER_SWAP (R108 steps 4 and 5): the settings ready on the spare slicer come into use and the FOM is measured
again. -/
def Dev.swapSlicers (d : Dev) (n w h : Nat) : Dev :=
  match (d.laneI n).spare with
  | some (ctle, _) =>
    let d := d.onLaneI n fun x =>
      { x with ctle := BitVec.ofNat 4 ctle, spare := none, fomAfter := BitVec.ofNat 8 (fomOf w h), calResult := 1 }
    (d.fomSeen n (fomOf w h) d.nowNs).raiseNow 9
  | none => d

def execSlicerSwap (lane : Fin 64) (w h : Nat) (s : State) : Host.Outcome State Fault Refusal :=
  .next { s with dev := s.dev.swapSlicers lane w h }

/-- SWAP_POSTPONED (R109): no idle run for 100 ms. -/
def Dev.swapLater (d : Dev) (n : Nat) : Dev :=
  if (d.laneI n).spare.isSome then d.onLaneI n fun x => { x with calResult := 2 } else d

def execSwapPostponed (lane : Fin 64) (s : State) : Host.Outcome State Fault Refusal :=
  .next { s with dev := s.dev.swapLater lane }

/-- CALIBRATION_STARVED (R109): no idle run for 1 s; the old settings stay and a report is filed. -/
def Dev.calStarved (d : Dev) (n cyc : Nat) : Dev :=
  if (d.laneI n).spare.isSome then
    let d := d.onLaneI n fun x => { x with calResult := 3, spare := none, fomAfter := x.fom }
    ((d.report 0x0004 (laneEp n) (d.nsAt cyc) []).raise (282 + n / 4) (d.nsAt cyc)).raise 9 (d.nsAt cyc)
  else d

def execCalibrationStarved (lane : Fin 64) (cyc : Nat) (s : State) : Host.Outcome State Fault Refusal :=
  .next { s with dev := s.dev.calStarved lane cyc }

/-- LANE_SLIP_APPLIED (R101): a landed slip moves the word boundary later, modulo 10, and clears the lane's error
counters. A lane in manual mode regains sync by it. -/
def Dev.slipDone (d : Dev) (n : Nat) : Dev :=
  let x := d.laneI n
  if x.slip = 0 then d
  else d.onLaneI n fun x =>
    { x with boundary := BitVec.ofNat 4 ((x.boundary.toNat + x.slip) % 10), slip := 0, codeViol := 0, dispErr := 0,
             sync := x.sync || x.cdrLock }

def execLaneSlipApplied (lane : Fin 64) (s : State) : Host.Outcome State Fault Refusal :=
  .next { s with dev := s.dev.slipDone lane }

end Sys2Proof.Machine
end

