-- ==== Sys2Proof/Machine/Rings.lean ====
section
/-!
DEFINITION. Frame-memory pools as byte spaces (17 R415, R416), and the rings of buffers with their consumer slots
(08 R205 to R212), which taps, statistics, GS records, coders, bolter lanes and audio ports share.
-/
namespace Sys2Proof.Machine

/-! ### Pools (17 R416) -/

def Dev.pool (d : Dev) (n : Nat) : Option Pool := d.dram.pools.find? (fun p => p.num == n)

/-- The channels of a mask, ascending. -/
def maskChans (mask : Nat) : List Nat := which 24 (fun c => bit mask c)

/-- The cell key of byte `off` of a pool: unit o div 256 on channel g mod k, in that channel's pages in order. -/
def poolAddr (p : Pool) (off : Nat) : Nat :=
  let chans := maskChans p.mask
  let k := chans.length
  let g := off / 256
  let ch := chans.getD (g % k) 0
  let b := g / k * 256 + off % 256
  let page := ((p.pages.filter (fun x => x.1 == ch)).getD (b / 2 ^ 20) (ch, 0)).2
  2 ^ 40 * ch + page * 2 ^ 20 + b % 2 ^ 20

/-- Bytes written at an offset of a pool, one interleave unit at a time. -/
def poolWrite (p : Pool) (fuel : Nat) (cells : List Host.Cell) (off : Nat) (bs : List Byte) : List Host.Cell :=
  match fuel, bs with
  | 0, _ => cells
  | _, [] => cells
  | fuel + 1, bs =>
    let n := 256 - off % 256
    poolWrite p fuel (cellWrite cells (poolAddr p off) (bs.take n)) (off + n) (bs.drop n)

/-- Bytes read from an offset of a pool. -/
def poolRead (p : Pool) (cells : List Host.Cell) (off n : Nat) : List Byte :=
  (List.range n).map fun i => cellRead cells (poolAddr p (off + i))

/-- A data-plane write into a pool; a pool that is no longer claimed takes nothing. -/
def Dev.memWrite (d : Dev) (pool off : Nat) (bs : List Byte) : Dev :=
  match d.pool pool with
  | some p => d.onMem fun m => poolWrite p bs.length m off (bs.take (p.size - off))
  | none => d

def Dev.memRead (d : Dev) (pool off n : Nat) : List Byte :=
  match d.pool pool with
  | some p => poolRead p d.mem off n
  | none => List.replicate n 0

/-! ### Ring numbers

Rings are numbered for the releases that a close takes: taps, statistics and GS 0 to 63, encode streams 64 to 95,
decode cores 96 and 97, bolter lanes 98 to 107, audio ports 108 to 135. -/

def ringEnc : Nat := 64
def ringDec : Nat := 96
def ringBolt : Nat := 98
def ringAudio : Nat := 108

def Dev.ringI (d : Dev) (r : Nat) : Ring :=
  if r < ringEnc then d.taps.getD r Ring.empty
  else if r < ringDec then d.encRings.getD (r - ringEnc) Ring.empty
  else if r < ringBolt then d.decRings.getD (r - ringDec) Ring.empty
  else if r < ringAudio then d.boltRings.getD (r - ringBolt) Ring.empty
  else d.audioRings.getD (r - ringAudio) Ring.empty

def Dev.onRingI (d : Dev) (r : Nat) (f : Ring → Ring) : Dev :=
  if r < ringEnc then d.onTaps (upd · r f)
  else if r < ringDec then d.onEncRings (upd · (r - ringEnc) f)
  else if r < ringBolt then d.onDecRings (upd · (r - ringDec) f)
  else if r < ringAudio then d.onBoltRings (upd · (r - ringBolt) f)
  else d.onAudioRings (upd · (r - ringAudio) f)

/-! ### Descriptors (08 R205) -/

def bufDesc (b : List Byte) : BufDesc := ⟨u16 b 0, u32 b 4, u32 b 8, u32 b 12, u32 b 16, u32 b 20, u32 b 24⟩

def ringDescs (v : List Byte) : List BufDesc := (chunks 32 (v.length / 32) v).map bufDesc

/-- Two byte ranges (offset, length) overlap. -/
def spanMeets (a b : Nat × Nat) : Bool := decide (a.1 < b.1 + b.2) && decide (b.1 < a.1 + a.2)

def spansMeet (a b : List (Nat × Nat)) : Bool := a.any fun x => b.any fun y => spanMeets x y

/-! ### Filling, full, taken, released (08 R208 to R212) -/

/-- Slots with a consumer attached. -/
def Ring.attached (r : Ring) : List Nat := which 4 fun k => (r.slots.getD k Slot.none).endpoint != 0

def Ring.count (r : Ring) (s : BufState) : Nat := r.bufs.countP fun b => b.st == s && !b.old

/-- An old buffer is retired once every consumer has released it (R212). -/
def Ring.retire (r : Ring) : Ring := { r with bufs := r.bufs.filter fun b => !(b.old && b.st == .free) }

/-- A new ring lands: frames gated from now on use only its buffers; a buffer of the old ring keeps its state until
every consumer has released it (R212). -/
def Ring.replace (r : Ring) (v : List Byte) : Ring :=
  let fresh := (ringDescs v).zipIdx.map fun (dsc, i) =>
    (⟨dsc, i, .free, [], [], [], false, false, 0, 0, 0, 0, 0, [], []⟩ : Buf)
  ({ r with bufs := fresh ++ r.bufs.map fun b => { b with old := true } } : Ring).retire

/-- The lowest-numbered free buffer; one that overlaps an old buffer still held is not free (R208, R212). -/
def Ring.freeBuf (r : Ring) (spans : BufDesc → List (Nat × Nat)) : Option Buf :=
  r.bufs.find? fun b =>
    b.st == .free && !b.old &&
      r.bufs.all fun o => !(o.old && o.desc.pool == b.desc.pool && spansMeet (spans b.desc) o.spans)

/-- Buffer number `i` of the ring in force starts to fill, with a new order. -/
def Ring.begin (r : Ring) (i frame : Nat) (spans : BufDesc → List (Nat × Nat)) : Ring :=
  { r with
    nextOrd := r.nextOrd + 1,
    bufs := r.bufs.map fun b =>
      if b.idx == i && !b.old then
        { b with st := .filling, marks := r.attached, held := [], pend := [], begun := false, order := r.nextOrd + 1,
                 frame := frame, postmark := 0, pset := 0, bytes := 0, spans := spans b.desc, chain := [] }
      else b }

/-- What a gate finds for a frame (R208, R210). -/
inductive GateBuf where
  | taken (order : Nat)
  | reclaimed (order : Nat)
  | skipped
deriving DecidableEq, Repr

/-- The gate of a frame: the lowest-numbered free buffer, else under reclaim the oldest full buffer that no consumer
has begun to read, else a skip (R208, R210). -/
def Ring.gate (r : Ring) (frame : Nat) (reclaim : Bool) (spans : BufDesc → List (Nat × Nat)) : GateBuf × Ring :=
  match r.freeBuf spans with
  | some b => (.taken (r.nextOrd + 1), r.begin b.idx frame spans)
  | none =>
    let cand := r.bufs.filter fun b => b.st == .full && !b.begun && !b.old
    let oldest := cand.foldl (fun (m : Option Buf) b => match m with
      | some o => if b.order < o.order then some b else m
      | none => some b) none
    match reclaim, oldest with
    | true, some b =>
      (.reclaimed (r.nextOrd + 1),
        { r.begin b.idx frame spans with reclaimed := bump r.reclaimed, gap := r.gap + 1 })
    | _, _ => (.skipped, { r with skipped := bump r.skipped, gap := r.gap + 1 })

def Ring.byOrder (r : Ring) (o : Nat) : Option Buf := r.bufs.find? fun b => b.order == o && b.st != .free

def Ring.onOrder (r : Ring) (o : Nat) (f : Buf → Buf) : Ring :=
  { r with bufs := r.bufs.map fun b => if b.order == o && b.st != .free then f b else b }

/-- A buffer becomes full once its header is written; with no consumer marked, every marked consumer has released it,
and it is free (R207, R208). -/
def Ring.fill (r : Ring) (o postmark pset bytes : Nat) : Ring :=
  ({ r.onOrder o fun b =>
      { b with st := if b.marks.isEmpty then .free else .full, postmark := postmark, pset := pset, bytes := bytes }
     with gap := 0 } : Ring).retire

/-- A filling buffer returns to free without a header (R211). -/
def Ring.dropBuf (r : Ring) (o : Nat) : Ring :=
  ({ r.onOrder o fun b => { b with st := .free, marks := [], held := [] } with dropped := bump r.dropped } :
    Ring).retire

/-- A consumer's release is taken (R208). -/
def Ring.release (r : Ring) (slot o : Nat) : Ring :=
  (r.onOrder o fun b =>
    if b.marks.contains slot then
      let marks := b.marks.filter (· != slot)
      { b with marks := marks, held := b.held.filter (· != slot), pend := b.pend.filter (· != slot),
               st := if marks.isEmpty && b.st == .full then .free else b.st }
    else b).retire

/-- Full buffers marked for a slot and not yet taken by it. -/
def Ring.waitingFor (r : Ring) (slot : Nat) : List Buf :=
  r.bufs.filter fun b => b.st == .full && b.marks.contains slot && !b.held.contains slot

/-- The buffer a consumer takes: the oldest under order every, the newest under latest (R208). -/
def Ring.pickFor (r : Ring) (slot : Nat) : Option Buf :=
  let later := (r.slots.getD slot Slot.none).latest
  (r.waitingFor slot).foldl (fun (m : Option Buf) b => match m with
    | some o => if (b.order < o.order) != later then some b else m
    | none => some b) none

/-- A consumer takes a buffer: it has begun to read it (R208, R210). -/
def Ring.take (r : Ring) (slot o : Nat) : Ring :=
  r.onOrder o fun b => { b with held := b.held ++ [slot], begun := true }

/-- The orders of the buffers older than `o` that are marked for a slot and whose release does not wait yet. -/
def Ring.older (r : Ring) (slot o : Nat) : List Nat :=
  (r.bufs.filter fun b =>
    decide (b.order < o) && b.st == .full && b.marks.contains slot && !b.pend.contains slot).map (·.order)

/-- A release waits for the close: at rank 8 for engines, at rank 9 for host software (R209). -/
def Dev.queueRelease (d : Dev) (ring slot o : Nat) (byHost : Bool) : Dev :=
  let d := d.onRingI ring fun r => r.onOrder o fun b => { b with pend := b.pend ++ [slot] }
  d.onTick fun t =>
    if byHost then { t with rel9 := t.rel9 ++ [(ring, slot, o)] } else { t with rel8 := t.rel8 ++ [(ring, slot, o)] }

/-- A consumer takes its next buffer; under order latest every older buffer marked for it is released (R208). -/
def Dev.takeFrom (d : Dev) (ring slot : Nat) (byHost : Bool) : Option Buf × Dev :=
  match (d.ringI ring).pickFor slot with
  | none => (none, d)
  | some b =>
    let later := ((d.ringI ring).slots.getD slot Slot.none).latest
    let d := if later then
        d.each ((d.ringI ring).older slot b.order) fun d o => d.queueRelease ring slot o byHost
      else d
    (some b, d.onRingI ring fun r => r.take slot b.order)

/-- A consumer is detached: its slot is empty, and what it holds or is marked for, but for the orders of `keep`, is
released at rank 8 of this close (R208). -/
def Dev.detach (d : Dev) (ring slot : Nat) (keep : List Nat) : Dev :=
  let orders := ((d.ringI ring).bufs.filter fun b =>
    b.st != .free && b.marks.contains slot && !b.pend.contains slot && !keep.contains b.order).map (·.order)
  let d := d.each orders fun d o => d.queueRelease ring slot o false
  d.onRingI ring fun r => { r with slots := r.slots.set slot Slot.none }

/-- A consumer slot parameter lands (R208): attaching puts the consumer in the slot, and detaching empties it. -/
def Dev.landSlot (d : Dev) (ring slot : Nat) (v : List Byte) : Dev :=
  let ep := u16 v 0
  if ep = 0 then d.detach ring slot []
  else d.onRingI ring fun r => { r with slots := r.slots.set slot ⟨ep, u8 v 2 == 1⟩ }

/-- The buffers that a frame of pipeline `p` took return to free without a header, and the events of its taps are
raised (R211, R230). -/
def Dev.dropBuffer (d : Dev) (p k : Nat) (f : Frame) (ns : Nat) : Dev :=
  match f.bufs.getD k none with
  | some o =>
    if ((d.ringI (8 * p + k)).byOrder o).elim true (fun b => b.st != .filling) then d
    else
      let d := d.onRingI (8 * p + k) (·.dropBuf o)
      if k < 6 then d.raise (128 + 6 * p + k) ns else d
  | none => d

def Dev.dropBuffers (d : Dev) (p : Nat) (f : Frame) (ns : Nat) : Dev :=
  d.each (List.range 8) fun d k => d.dropBuffer p k f ns

/-- The slot that the bolter took for a frame returns to free (12 R300, 08 R211). -/
def Dev.dropRaw (d : Dev) (p : Nat) (f : Frame) : Dev :=
  match f.bufs.getD 8 none with
  | some o => d.onRingI (ringBolt + p) (·.dropBuf o)
  | none => d

/-- The slot of a ring that an endpoint consumes by, if any. -/
def Ring.slotOf (r : Ring) (ep : Nat) : Option Nat :=
  (List.range 4).find? fun k => (r.slots.getD k Slot.none).endpoint == ep

/-- The services that a ring's consumers make of it miss a frame: encode streams, with the recordings of their output,
raster outputs, and recordings (23 R540). -/
def Dev.missRing (d : Dev) (ring cause : Nat) : Dev :=
  d.each ((d.ringI ring).slots.map (·.endpoint)) fun d ep =>
    if ep / 256 = 0x0B then
      let d := d.interrupt ep cause
      if (d.ringI (ringEnc + ep % 256)).slots.any (fun s => s.endpoint / 256 == 0x0E) then
        d.interrupt (recordService (ringEnc + ep % 256)) cause else d
    else if ep / 256 = 0x10 then d.interrupt ep cause
    else if ep / 256 = 0x0E then d.interrupt (recordService ring) cause
    else d

/-- Every service fed from pipeline `p` misses a frame (23 R540). -/
def Dev.missPipe (d : Dev) (p cause : Nat) : Dev :=
  (d.each (List.range 8) fun d k => d.missRing (8 * p + k) cause).missRing (ringBolt + p) cause

/-- A ring lands (R212). -/
def Dev.landRing (d : Dev) (ring : Nat) (v : List Byte) : Dev := d.onRingI ring (·.replace v)

end Sys2Proof.Machine
end

