-- ==== Sys2Proof/Machine/Capture.lean ====
section
/-!
DEFINITION. Capture links: frames and packets from the head, control letters and head discovery (05), with the
reconciliation of frame counts and letter sequences (09 R222, R223).
-/
namespace Sys2Proof.Machine

/-! ### The configured capture -/

/-- The capture parameters of a pipeline (14 R347). -/
structure CapCfg where
  arr    : Nat
  dies   : Nat
  depth  : Nat       -- bits of a sample
  fill   : Bool      -- die policy: fill
  limit  : Nat       -- line fill limit
  period : Nat       -- ns
  total  : Nat
  widths : List Nat
  lines  : List Nat
deriving DecidableEq, Repr

def capCfg (params : List (Nat × List Byte)) (p : Nat) : CapCfg :=
  let n := fun i => leNat (parOf params (pkey 0x05 p i))
  { arr := n 0, dies := n 1, depth := 10 + 2 * n 2, fill := n 3 == 1, limit := n 4, period := n 5, total := n 6,
    widths := (List.range 4).map fun d => n (0x10 + d), lines := (List.range 4).map fun d => n (0x14 + d) }

def dieW (c : CapCfg) (i : Nat) : Nat := c.widths.getD i 0
def dieH (c : CapCfg) (i : Nat) : Nat := c.lines.getD i 0

/-- Width of the merged frame (R124). -/
def mergedW (c : CapCfg) : Nat :=
  match c.arr with
  | 0 => sumBy (dieW c) (List.range c.dies)
  | 1 => dieW c 0
  | _ => dieW c 0 + dieW c 1

/-- Lines of the merged frame (R124). -/
def mergedH (c : CapCfg) : Nat :=
  match c.arr with
  | 0 => dieH c 0
  | 1 => sumBy (dieH c) (List.range c.dies)
  | _ => dieH c 0 + dieH c 2

/-- Total lines sent by the head; 0 means the merged active lines (14 R347). -/
def totalLines (c : CapCfg) : Nat := if c.total = 0 then mergedH c else c.total

/-- First merged line and first merged column of a die (R124). -/
def dieTop (c : CapCfg) (i : Nat) : Nat :=
  match c.arr with
  | 0 => 0
  | 1 => sumBy (dieH c) (List.range i)
  | _ => if i < 2 then 0 else dieH c 0
def dieLeft (c : CapCfg) (i : Nat) : Nat :=
  match c.arr with
  | 0 => sumBy (dieW c) (List.range i)
  | 1 => 0
  | _ => if i % 2 = 0 then 0 else dieW c 0

/-- The dies that send a segment set for merged line `n` (R124). -/
def diesOfLine (c : CapCfg) (n : Nat) : List Nat :=
  (List.range c.dies).filter fun i => decide (dieTop c i ≤ n) && decide (n < dieTop c i + dieH c i)

/-- Pixels and bytes of a sample group (R121). -/
def groupPx (depth : Nat) : Nat := if depth = 12 then 2 else if depth = 16 then 1 else 4
def groupBytes (depth : Nat) : Nat := groupPx depth * depth / 8

/-- Samples unpacked from whole groups: pixel 0 in the least significant bits (R121). -/
def unpackSamples (depth : Nat) (bs : List Byte) : List Nat :=
  (chunks (groupBytes depth) bs.length bs).flatMap fun g =>
    let v := leNat g
    (List.range (groupPx depth)).map fun i => v / 2 ^ (i * depth) % 2 ^ depth

/-! ### Frame status bits (R127, 09 R224) -/

def stShortLine : Nat := 0
def stLongLine : Nat := 1
def stShortFrame : Nat := 2
def stLongFrame : Nat := 3
def stDieFilled : Nat := 4
def stNoTrailer : Nat := 5
def stHeadStatus : Nat := 6
def stEmbedTrunc : Nat := 7
def stUnknown : Nat := 8
def stMismatch : Nat := 9
def stSlip : Nat := 10
def stMissed : Nat := 11
def stLate : Nat := 12
def stOrphaned : Nat := 13
def stConvergence : Nat := 14

def setStatus (f : Frame) (b : Nat) : Frame := { f with status := f.status ||| BitVec.ofNat 16 (2 ^ b) }
def hasStatus (f : Frame) (b : Nat) : Bool := f.status.getLsbD b

def capEp (p : Nat) : Nat := endpoint 0x05 p

/-- The race number of a capture link is that of its lane 0 (01 R20). -/
def Dev.capRace (d : Dev) (p : Nat) : Nat := u8 (d.par (pkey 0x05 p 7)) 0

/-- A capture ingress stream of the pipeline exists. -/
def Dev.hasCapture (d : Dev) (p : Nat) : Bool := d.res.streams.any fun s => s.src == capEp p

/-- The parameters in force for a frame: those of its gate, or those landed before it is gated (03 R78). -/
def Dev.frameCfg (d : Dev) (p : Nat) (f : Frame) : CapCfg := capCfg (if f.gated then f.params else d.params) p

def Dev.setCur (d : Dev) (p : Nat) (f : Option Frame) : Dev := d.onPipeI p fun x => { x with cur := f }

def Dev.curDie (f : Frame) (i : Nat) : DieFrame := f.dies.getD i DieFrame.empty
def onDie (f : Frame) (i : Nat) (g : DieFrame → DieFrame) : Frame := { f with dies := upd f.dies i g }

/-! ### Frames that are lost -/

/-- A frame is lost: the dropped count, event 96 + 4p + 3 and a report that names the stream and the frame number
(01 R25). -/
def Dev.frameLost (d : Dev) (p race number ns : Nat) : Dev :=
  ((d.onCapI p fun c => { c with dropped := bump c.dropped }).raise (96 + 4 * p + 3) ns).report 0x0020
    (capEp p) ns [race, number]

/-- The open frame ends in abort (01 R23), for a cause of 23 R540. Before its gate it is kept, to take its number there. -/
def Dev.abortFrame (d : Dev) (p cyc cause : Nat) : Dev :=
  match (d.pipeI p).cur with
  | some f =>
    if f.aborted then d
    else if f.gated then
      (((d.setCur p none).dropBuffers p f (d.nsAt cyc)).dropRaw p f).frameLost p (d.capRace p) f.number (d.nsAt cyc)
        |>.missPipe p cause
    else d.setCur p (some { f with aborted := true })
  | none => d

/-- A bad packet, or an abort: the open frame ends in abort; outside a frame it is counted (R117). -/
def Dev.badPacket (d : Dev) (p cyc : Nat) : Dev :=
  match (d.pipeI p).cur with
  | some _ => d.abortFrame p cyc 0
  | none => d.onCapI p fun c => { c with dropped := bump c.dropped }

/-! ### Letters (R131 to R133, R142) -/

/-- A letter leaves, or is held while the link is down (R140). -/
def Dev.sendLetter (d : Dev) (p cls addr : Nat) (data : List Byte) (env : Option (Nat × Nat)) (own request : Bool) :
    Dev :=
  let up := (d.linkI (.capture p)).up
  let seq := (d.capI p).seq
  let pipe := d.pipeI p
  let n := if pipe.prevStamp.isSome then some pipe.frame.toNat else none
  let l : Letter := ⟨seq, cls, addr, data, env, 0, own, request, !up, up, n⟩
  let d := d.onCapI p fun c => { c with seq := (c.seq + 1) % 65536, letters := c.letters ++ [l] }
  if up then d.emit (.letter p seq cls addr data) else d

/-- A descriptor request of the device's own (R137). -/
def Dev.requestDescriptor (d : Dev) (p : Nat) : Dev := d.sendLetter p 5 0xF000 [0] none true true

/-- The declared latency of class `c` (R138); 0 while no descriptor is held. -/
def Dev.latency (d : Dev) (p c : Nat) : Nat := u32 (d.capI p).desc 40 / 16 ^ c % 16
def Dev.cutoffUs (d : Dev) (p : Nat) : Nat := u16 (d.capI p).desc 44
def Dev.ackUs (d : Dev) (p : Nat) : Nat := u16 (d.capI p).desc 46

/-- The declared frame period in force, ns. -/
def Dev.period (d : Dev) (p : Nat) : Nat := d.parN 0x05 p 5

/-- The cutoff of the last gated frame, in units of 2^-32 ns, with the declared period of its gate (R133; 09 R227). -/
def Dev.cutoffAt (d : Dev) (p : Nat) : Option Nat :=
  (d.pipeI p).prevStamp.map fun st => st + ((d.pipeI p).prevPeriod - 1000 * d.cutoffUs p) * 2 ^ 32

/-- A letter fails; its envelope, when it has not landed, will be returned with 0x40 naming it (R132, 03 R593). -/
def Dev.failLetter (d : Dev) (p : Nat) (l : Letter) : Dev :=
  let d := d.onCapI p fun c => { c with letters := c.letters.filter (fun x => x.seq != l.seq) }
  match l.env with
  | some (e, m) =>
    let at' := (d.cutoffAt p).getD 0
    d.onEnvI e fun x => if x.phase = .sealed && x.failed.isNone then { x with failed := some (m, at') } else x
  | none => d

/-- LETTER_ACKNOWLEDGE (R132, R133; 09 R226). A letter of a kind 1 envelope is delivered in the frame that it was aimed at
when its acknowledge comes before that frame's cutoff; any other letter is delivered in the last gated frame, and after its
cutoff in the frame that comes next (notes/assumptions/121.md); refused, unknown or late, the letter fails. After a head
reset letter the applied sequence is not judged until a later letter applies (09 R223). A delivered class 3 letter gives a
waiting period its frame (09 R229). A letter of an envelope that has been returned (number 64) leaves its class orphaned
from then on (09 R228). -/
def Dev.letterAck (d : Dev) (p seq result cyc : Nat) : Dev :=
  match takeFirst (fun (l : Letter) => l.seq == seq) (d.capI p).letters with
  | none => d
  | some (l, rest) =>
    let lat := d.latency p l.cls
    let pipe := d.pipeI p
    let past := match d.cutoffAt p with
      | some c => decide (c ≤ d.timeAt cyc)
      | none => false
    let late := l.env.isSome && (past || l.frame != some pipe.frame.toNat)
    if result ≠ 0 || late then d.failLetter p l
    else
      let d := d.onCapI p fun c => { c with letters := rest }
      let d := if l.addr = 0xF002 then d.onPipeI p fun x => { x with delivered := [], armed := false } else d
      if lat = 0 ∨ pipe.prevStamp = none then d
      else
        let n := (pipe.frame.toNat + (if past then 1 else 0)) % 2 ^ 32
        let first := (n + lat) % 2 ^ 32
        let d := if l.env.any (fun x => decide (64 ≤ x.1)) then
            d.onPipeI p fun x => { x with orphans := x.orphans ++ [(l.cls, first, seq)] } else d
        d.onPipeI p fun x =>
          { x with delivered := x.delivered ++ [⟨seq, l.cls, n, first, l.env.map (·.1)⟩],
                   periodAt := if l.cls = 3 then x.periodWait.map (fun ns => (first, ns)) else x.periodAt,
                   periodWait := if l.cls = 3 then none else x.periodWait }

def execLetterAcknowledge (pipe : Fin 8) (seq result cyc : Nat) (s : State) : Host.Outcome State Fault Refusal :=
  .next { s with dev := s.dev.letterAck pipe seq result cyc }

/-- LETTER_RESEND (R132): no acknowledge by the acknowledge time: sent again up to 3 times, then it fails. The
device's own descriptor requests are never resent so, and no letter is while the link is down (R140). -/
def Dev.letterAgain (d : Dev) (p seq : Nat) : Dev :=
  match (d.capI p).letters.find? (fun l => l.seq == seq) with
  | some l =>
    if l.held || l.request then d
    else if 3 ≤ l.resends then d.failLetter p l
    else
      (d.onCapI p fun c =>
        { c with retries := bump c.retries,
                 letters := c.letters.map fun x => if x.seq == seq then { x with resends := x.resends + 1 } else x
        }).emit (.letter p seq l.cls l.addr l.data)
  | none => d

def execLetterResend (pipe : Fin 8) (seq : Nat) (s : State) : Host.Outcome State Fault Refusal :=
  .next { s with dev := s.dev.letterAgain pipe seq }

/-- LETTER_CUTOFF (R132, R133): the cutoff comes with the letter unacknowledged, and it fails. -/
def Dev.letterCut (d : Dev) (p seq : Nat) : Dev :=
  match (d.capI p).letters.find? (fun l => l.seq == seq) with
  | some l => d.failLetter p l
  | none => d

def execLetterCutoff (pipe : Fin 8) (seq : Nat) (s : State) : Host.Outcome State Fault Refusal :=
  .next { s with dev := s.dev.letterCut pipe seq }

/-! ### Reconciling a frame with its header (09 R222, R223) -/

/-- `a` is at or before `b`, compared modulo 2^`n`. -/
def seqLe (n a b : Nat) : Bool := decide ((b + 2 ^ n - a % 2 ^ n) % 2 ^ n < 2 ^ (n - 1))

/-- The expected sequence E(N): the latest among the delivered letters that apply at or before frame N; the value 0
while none does (R223). -/
def expectedSeq (x : PipeSt) (n : Nat) : Nat :=
  (x.delivered.filter fun l => seqLe 32 l.first n).foldl
    (fun acc l => if seqLe 16 acc l.seq then l.seq else acc) ((x.delivered.find? fun l => seqLe 32 l.first n).elim 0 (·.seq))

/-- Frame `f` with number and die 0's header known: the count check, the letter check and their reports. -/
def Dev.settleFrame (d : Dev) (p ns : Nat) : Dev :=
  match (d.pipeI p).cur with
  | none => d
  | some f =>
    let die := f.dies.getD 0 DieFrame.empty
    if !f.gated || f.settled || !die.header then d
    else
      let x := d.pipeI p
      let h := die.count
      let expect := (x.href.toNat + f.number + 2 ^ 32 - x.nref.toNat) % 2 ^ 16
      let slip := x.refValid && h != expect
      let someDue := x.delivered.any fun l => seqLe 32 l.first f.number
      let armed := x.armed || someDue
      let mism := armed && die.applied != expectedSeq x f.number
      let f := { f with settled := true }
      let f := if slip then setStatus f stSlip else f
      let f := if mism then setStatus f stMismatch else f
      let newSlip := slip && !x.slipRun
      let newMism := mism && !x.mismRun
      let d := d.onPipeI p fun x =>
        { x with cur := some f, nref := BitVec.ofNat 32 f.number, href := BitVec.ofNat 16 h, refValid := true,
                 slipRun := slip, mismRun := mism, armed := armed,
                 slips := if slip then bump x.slips else x.slips,
                 countSlip := x.countSlip || slip, mismatch := x.mismatch || mism }
      let d := if slip then d.mark (0xA00C + 0x20 * p) 2 else d
      let d := if mism then d.mark (0xA00C + 0x20 * p) 3 else d
      let d := if newSlip then d.report 0x0018 (capEp p) ns [f.number, h, expect] else d
      if newMism then d.report 0x0019 (capEp p) ns [f.number, die.applied] else d

/-! ### Ends of frames (R126 to R129) -/

/-- Die `i` is out of step at merged line `line`: a report; under the drop policy the frame ends in abort, under
the fill policy the die's missing segments are filled (R126). -/
def Dev.outOfStep (d : Dev) (p i line cyc : Nat) (whole : Bool) : Dev :=
  match (d.pipeI p).cur with
  | none => d
  | some f =>
    if f.aborted || (f.dies.getD i DieFrame.empty).oos then d
    else
      let d := d.report 0x0012 (capEp p) (d.nsAt cyc) [i, line]
      let f := onDie f i fun x => { x with oos := true, filled := true, allFill := whole }
      if (d.frameCfg p f).fill then d.setCur p (some (setStatus f stDieFilled))
      else
        (d.onCapI p fun c =>
          { c with dieOos := (f.dies.zipIdx).foldl (fun m x => if x.1.oos then m ||| BitVec.ofNat 4 (2 ^ x.2) else m) 0,
                   oosRun := c.oosRun.zipIdx.map fun x => if (f.dies.getD x.2 DieFrame.empty).oos then x.1 + 1 else 0
          }).setCur p (some f) |>.abortFrame p cyc 2

/-- After 8 consecutive frames with a die out of step, and after each further 8, a die resync letter (R126). -/
def Dev.resyncLetters (d : Dev) (p : Nat) : Dev :=
  d.each (List.range 4) fun d i =>
    let n := (d.capI p).oosRun.getD i 0
    if 8 ≤ n ∧ n % 8 = 0 then d.sendLetter p 5 0xF001 [BitVec.ofNat 8 i] none true false else d

/-- The pixels of die line `l` that its segments fill. -/
def lineFilled (die : DieFrame) (l x : Nat) : Bool :=
  die.segs.any fun s => s.line == l && decide (s.offset ≤ x) && decide (x < s.offset + s.samples.length)

/-- Whether the segments of die line `l` leave any pixel of the die's width unfilled. -/
def lineShort (die : DieFrame) (l w : Nat) : Bool :=
  let covered := sumBy (fun (s : Seg) => s.samples.length) (die.segs.filter (fun s => s.line == l))
  decide (covered < w) || !(List.range (w / 8)).all fun i => lineFilled die l (8 * i)

/-- The open frame ends complete: by its trailers, the next marker or the timeout (R126, R128, R129). -/
def Dev.endFrame (d : Dev) (p cyc : Nat) : Dev :=
  match (d.pipeI p).cur with
  | none => d
  | some f0 =>
    if f0.aborted then d
    else
      let c := d.frameCfg p f0
      let got := min f0.lines (mergedH c)
      -- a die that sent no segment for a merged line is out of step
      let d := d.each (List.range c.dies) fun d i =>
        match (List.range got).find? fun n =>
            decide (dieTop c i ≤ n) && decide (n < dieTop c i + dieH c i) &&
            !(f0.dies.getD i DieFrame.empty).segs.any (fun s => s.line == n - dieTop c i) with
        | some n => d.outOfStep p i n cyc false
        | none => d
      match (d.pipeI p).cur with
      | none => d.resyncLetters p
      | some f =>
        if f.aborted then d.resyncLetters p
        else
          let missing := mergedH c - got
          let short := (List.range c.dies).any fun i =>
            let die := f.dies.getD i DieFrame.empty
            !die.allFill && (die.segs.map (·.line)).eraseDups.any fun l => lineShort die l (dieW c i)
          let f := if short then setStatus f stShortLine else f
          let f := if (List.range c.dies).any fun i => !(f.dies.getD i DieFrame.empty).trailer then
              setStatus f stNoTrailer else f
          let f := if f.gated && !(f.dies.getD 0 DieFrame.empty).header then setStatus f stUnknown else f
          let d := (d.onCapI p fun k =>
            { k with dieOos := (f.dies.zipIdx).foldl (fun m x => if x.1.oos then m ||| BitVec.ofNat 4 (2 ^ x.2) else m) 0,
                     oosRun := k.oosRun.zipIdx.map fun x =>
                       if (f.dies.getD x.2 DieFrame.empty).oos then x.1 + 1 else 0 }).resyncLetters p
          if c.limit < missing ∨ (0 < missing ∧ got < 2) then (d.setCur p (some f)).abortFrame p cyc 2
          else
            let f := if 0 < missing then setStatus f stShortFrame else f
            let repaired := f.status.toNat % 32 != 0
            let d := if repaired then
                (d.onCapI p fun k => { k with repaired := bump k.repaired }).raise (96 + 4 * p + 3) (d.nsAt cyc) else d
            d.onPipeI p fun x => { x with cur := none, ended := x.ended ++ [f] }

/-! ### Markers and packets -/

/-- Frames are accepted: no halt holds, the link is up, a capture stream exists, and a valid descriptor that matches has arrived
since the link came up (R140, R141). -/
def Dev.accepts (d : Dev) (p : Nat) : Bool :=
  !d.halted && (d.linkI (.capture p)).up && d.hasCapture p && !(d.capI p).descMismatch && (d.capI p).freshDesc

def Frame.opened (stamp epoch dies : Nat) : Frame :=
  { stamp := stamp, epoch := epoch, gated := false, aborted := false, settled := false, number := 0xFFFFFFFF,
    pset := 0xFFFFFFFF, status := 0, lines := 0, dies := List.replicate dies DieFrame.empty, conv := false, cfa := 0, clamp := [],
    params := [], bufs := List.replicate 9 none, written := [], gsRecs := [], gsFault := false, tiles := [],
    passing := [], holding := [], rawDrop := false }

/-- FRAME_MARKER (R120, R128, R130; 01 R34): an open frame ends; the new one is gated at the close. -/
def Dev.marker (d : Dev) (p cyc : Nat) : Dev :=
  let t := d.timeAt cyc
  let d := d.endFrame p cyc
  if d.accepts p then
    let c := d.capI p
    let fast := match c.lastMarker with
      | some m => decide ((t - m) * 100 < d.period p * 99 * 2 ^ 32)
      | none => false
    let due := fast && (match c.overSec with
      | some s => decide (s + 1000000000 ≤ t / 2 ^ 32)
      | none => true)
    let d := if due then
        (d.report 0x0014 (capEp p) (t / 2 ^ 32) []).onCapI p fun c => { c with overSec := some (t / 2 ^ 32) } else d
    let d := d.onCapI p fun c => { c with lastMarker := some t, capturing := true }
    let d := d.onTick fun k => { k with markers := k.markers ++ [(p, t)] }
    d.setCur p (some (Frame.opened t d.time.epoch.toNat (capCfg d.params p).dies))
  else d

def execFrameMarker (pipe : Fin 8) (cyc : Nat) (s : State) : Host.Outcome State Fault Refusal :=
  .next { s with dev := s.dev.marker pipe cyc }

/-- LINE_MARKER (R120, R125, R126, R128): it opens the next merged line; a die with no segment for the line three
back is out of step; a marker past the configured lines starts a long frame. -/
def Dev.lineMark (d : Dev) (p cyc : Nat) : Dev :=
  match (d.pipeI p).cur with
  | some f =>
    if f.aborted then d
    else
      let c := d.frameCfg p f
      if mergedH c ≤ f.lines then d.setCur p (some (setStatus f stLongFrame))
      else
        let f := { f with lines := f.lines + 1 }
        let d := d.setCur p (some f)
        if f.lines < 4 then d
        else
          let n := f.lines - 4
          d.each (diesOfLine c n) fun d i =>
            if (f.dies.getD i DieFrame.empty).segs.any (fun s => s.line == n - dieTop c i) then d
            else d.outOfStep p i n cyc false
  | none => d

def execLineMarker (pipe : Fin 8) (cyc : Nat) (s : State) : Host.Outcome State Fault Refusal :=
  .next { s with dev := s.dev.lineMark pipe cyc }

/-- A packet of the open frame: bad, it aborts the frame; outside a frame it is discarded (R117, R141). -/
def Dev.framePacket (d : Dev) (p cyc : Nat) (good : Bool) (take : Frame → Dev → Dev) : Dev :=
  if !good then d.badPacket p cyc
  else match (d.pipeI p).cur with
  | some f => if f.aborted then d else take f d
  | none => d

/-- FRAME_HEADER (R122, R126). -/
def Dev.header (d : Dev) (p die count : Nat) (payload : List Byte) (chk : PacketCheck) (cyc : Nat) : Dev :=
  d.framePacket p cyc (chk == .good && decide (payload.length ≤ 16)) fun f d =>
    let c := d.frameCfg p f
    let f := onDie f die fun x =>
      { x with header := true, count := count % 65536, applied := u16 payload 6, exposure := u32 payload 8,
               gain := u16 payload 12 }
    let values := [u16 payload 0, u16 payload 2, u8 payload 4]
    let wrong := decide (u16 payload 0 ≠ dieW c die) || decide (u16 payload 2 ≠ dieH c die) ||
      decide (10 + 2 * u8 payload 4 ≠ c.depth)
    let d := d.setCur p (some f)
    let d := d.onCapI p fun k => { k with lastCount := BitVec.ofNat 16 count }
    let d := if wrong && (d.capI p).geometry.getD die [] != values then
        d.report 0x0011 (capEp p) (d.nsAt cyc) (die :: values) else d
    let d := d.onCapI p fun k => { k with geometry := k.geometry.set die values }
    let zero := f.dies.getD 0 DieFrame.empty
    let d := if die ≠ 0 && zero.header && zero.count != count % 65536 then d.outOfStep p die 0 cyc true else d
    d.settleFrame p (d.nsAt cyc)

def execFrameHeader (pipe : Fin 8) (die : Fin 4) (count : Nat) (payload : List Byte) (chk : PacketCheck) (cyc : Nat)
    (s : State) : Host.Outcome State Fault Refusal :=
  .next { s with dev := s.dev.header pipe die count payload chk cyc }

/-- A segment's form is good: whole groups, and offset and count multiples of 8 (R117, R121). -/
def segGood (depth offset : Nat) (payload : List Byte) (chk : PacketCheck) : Bool :=
  chk == .good && decide (payload.length ≤ 49152) && decide (payload.length % groupBytes depth = 0) &&
    decide (payload.length / groupBytes depth * groupPx depth % 8 = 0) && decide (offset % 8 = 0)

/-- The depth of the open frame's capture. -/
def Dev.openDepth (d : Dev) (p : Nat) : Nat :=
  match (d.pipeI p).cur with
  | some f => (d.frameCfg p f).depth
  | none => (capCfg d.params p).depth

/-- ACTIVE_LINE_SEGMENT (R121, R125, R126, R128). -/
def Dev.segment (d : Dev) (p die line offset : Nat) (payload : List Byte) (chk : PacketCheck) (cyc : Nat) : Dev :=
  d.framePacket p cyc (segGood (d.openDepth p) offset payload chk) fun f d =>
    let c := d.frameCfg p f
    let x := f.dies.getD die DieFrame.empty
    if c.dies ≤ die || hasStatus f stLongFrame then d
    else if dieH c die ≤ line ∨ (x.lastLine.elim false fun l => decide (line < l)) = true then
      d.outOfStep p die (dieTop c die + line) cyc false
    else
      let samples := unpackSamples c.depth payload
      let keep := samples.take (dieW c die - offset)
      let f := onDie f die fun x => { x with lastLine := some line, segs := x.segs ++ [⟨line, offset, keep⟩] }
      d.setCur p (some (if keep.length < samples.length then setStatus f stLongLine else f))

def execActiveLineSegment (pipe : Fin 8) (die : Fin 4) (line offset : Nat) (payload : List Byte) (chk : PacketCheck)
    (cyc : Nat) (s : State) : Host.Outcome State Fault Refusal :=
  .next { s with dev := s.dev.segment pipe die line offset payload chk cyc }

/-- OPTICAL_BLACK_LINE_SEGMENT (R119, R121): held for the clamp estimate of its die (06 R150). -/
def Dev.blackSegment (d : Dev) (p die row offset : Nat) (payload : List Byte) (chk : PacketCheck) (cyc : Nat) : Dev :=
  d.framePacket p cyc (segGood (d.openDepth p) offset payload chk && decide (row < 64)) fun f d =>
    let c := d.frameCfg p f
    if c.dies ≤ die then d
    else
      let keep := (unpackSamples c.depth payload).take (dieW c die - offset)
      d.setCur p (some (onDie f die fun x => { x with ob := x.ob ++ [⟨row, offset, keep⟩] }))

def execOpticalBlackLineSegment (pipe : Fin 8) (die : Fin 4) (row offset : Nat) (payload : List Byte)
    (chk : PacketCheck) (cyc : Nat) (s : State) : Host.Outcome State Fault Refusal :=
  .next { s with dev := s.dev.blackSegment pipe die row offset payload chk cyc }

/-- EMBEDDED_DATA (R119): up to 4,096 bytes per die per frame; the rest is discarded. -/
def Dev.embedded (d : Dev) (p die : Nat) (payload : List Byte) (chk : PacketCheck) (cyc : Nat) : Dev :=
  d.framePacket p cyc (chk == .good && decide (payload.length ≤ 4096)) fun f d =>
    let x := f.dies.getD die DieFrame.empty
    let all := x.embed ++ payload
    let f := onDie f die fun x => { x with embed := all.take 4096 }
    d.setCur p (some (if 4096 < all.length then setStatus f stEmbedTrunc else f))

def execEmbeddedData (pipe : Fin 8) (die : Fin 4) (_chunk : Nat) (payload : List Byte) (chk : PacketCheck) (cyc : Nat)
    (s : State) : Host.Outcome State Fault Refusal :=
  .next { s with dev := s.dev.embedded pipe die payload chk cyc }

/-- FRAME_TRAILER (R120, R127): the frame ends with the trailer of its last die. -/
def Dev.trailer (d : Dev) (p die status : Nat) (chk : PacketCheck) (cyc : Nat) : Dev :=
  d.framePacket p cyc (chk == .good) fun f d =>
    let c := d.frameCfg p f
    let f := onDie f die fun x => { x with trailer := true, hstatus := status % 65536 }
    let f := if status % 65536 ≠ 0 then setStatus f stHeadStatus else f
    let d := d.setCur p (some f)
    if (List.range c.dies).all fun i => (f.dies.getD i DieFrame.empty).trailer then d.endFrame p cyc else d

def execFrameTrailer (pipe : Fin 8) (die : Fin 4) (_count status : Nat) (chk : PacketCheck) (cyc : Nat) (s : State) :
    Host.Outcome State Fault Refusal :=
  .next { s with dev := s.dev.trailer pipe die status chk cyc }

/-- FRAME_TIMEOUT (R130): the frame ends there as a short frame, with a report. -/
def Dev.frameTimesOut (d : Dev) (p cyc : Nat) : Dev :=
  match (d.pipeI p).cur with
  | some f =>
    if f.aborted then d
    else (d.report 0x0013 (capEp p) (d.nsAt cyc) [f.number]).endFrame p cyc
  | none => d

def execFrameTimeout (pipe : Fin 8) (cyc : Nat) (s : State) : Host.Outcome State Fault Refusal :=
  .next { s with dev := s.dev.frameTimesOut pipe cyc }

/-- ABORT (R95, R117): K30.7 ends the open packet incomplete. -/
def execAbort (pipe : Fin 8) (cyc : Nat) (s : State) : Host.Outcome State Fault Refusal :=
  .next { s with dev := s.dev.badPacket pipe cyc }

/-- UNKNOWN_PACKET (R119): counted, and reported at most once per second per link. Its count is DROPPED:
notes/assumptions/16.md. -/
def Dev.unknown (d : Dev) (p type cyc : Nat) : Dev :=
  let ns := d.nsAt cyc
  let due := match (d.capI p).unknownSec with
    | some s => decide (s + 1000000000 ≤ ns)
    | none => true
  let d := d.onCapI p fun c => { c with dropped := bump c.dropped }
  if due then (d.report 0x0010 (capEp p) ns [type]).onCapI p fun c => { c with unknownSec := some ns } else d

def execUnknownPacket (pipe : Fin 8) (type : Nat) (cyc : Nat) (s : State) : Host.Outcome State Fault Refusal :=
  .next { s with dev := s.dev.unknown pipe type cyc }

/-- HEAD_EVENT (R119): the last 16 are kept, oldest first, and event 96 + 4p + 2 is raised. -/
def Dev.headEvt (d : Dev) (p code : Nat) (payload : List Byte) (cyc : Nat) : Dev :=
  if 32 < payload.length then d.badPacket p cyc
  else
    (d.onCapI p fun c => { c with events := lastN 16 (c.events ++ [(code % 65536, padTo 32 payload)]) }).raise
      (96 + 4 * p + 2) (d.nsAt cyc)

def execHeadEvent (pipe : Fin 8) (code : Nat) (payload : List Byte) (cyc : Nat) (s : State) :
    Host.Outcome State Fault Refusal :=
  .next { s with dev := s.dev.headEvt pipe code payload cyc }

/-! ### Discovery (R137 to R141) -/

/-- The declared latency of class `c` keeps R134; 0xF, not supported, is allowed for every class but 5 (R137). -/
def latencyOk (c v : Nat) : Bool :=
  if c < 4 then within 1 v 3 || v == 15
  else if c = 5 then v == 0
  else if c = 6 then v == 0 || v == 15
  else decide (v ≤ 3) || v == 15

/-- A valid descriptor: major version 0x01 and latencies that keep R134 (R137). -/
def descValid (b : List Byte) : Bool :=
  u8 b 1 == 1 && (List.range 8).all fun c => latencyOk c (u32 b 40 / 16 ^ c % 16)

/-- The fields that the capture uses: bytes 16 to 47 and 50 to 52 (R141). -/
def descUsed (b : List Byte) : List Byte := (b.drop 16).take 32 ++ (b.drop 50).take 3

/-- HEAD_DESCRIPTOR (R137, R141). -/
def Dev.descriptor (d : Dev) (p : Nat) (payload : List Byte) (cyc : Nat) : Dev :=
  let b := padTo 64 payload
  let ns := d.nsAt cyc
  let c := d.capI p
  if 64 < payload.length then d.badPacket p cyc
  else if descValid b then
    let first := !c.freshDesc
    let differs := d.hasCapture p && descUsed b != descUsed c.created
    let d := d.onCapI p fun c =>
      { c with desc := b, freshDesc := true, gotAny := true, discovered := true, silent := false,
               letters := c.letters.filter (fun l => !l.request),
               descMismatch := c.descMismatch || differs }
    let d := if first then d.raise (96 + 4 * p + 1) ns else d
    if differs then (d.report 0x0016 (capEp p) ns []).raise (96 + 4 * p + 1) ns else d
  else
    let new := c.badDesc != b
    let d := d.onCapI p fun c =>
      { c with badDesc := b, gotAny := true, letters := c.letters.filter (fun l => !l.request) }
    if new then (d.report 0x0016 (capEp p) ns []).raise (96 + 4 * p + 1) ns else d

def execHeadDescriptor (pipe : Fin 8) (payload : DescBytes) (cyc : Nat) (s : State) :
    Host.Outcome State Fault Refusal :=
  .next { s with dev := s.dev.descriptor pipe payload cyc }

/-- DESCRIPTOR_REQUEST (R137): the request falls due again while no valid descriptor has come since the link came
up: every 10 ms, four in all; 10 ms after the fourth with no descriptor the head is silent. -/
def Dev.requestDue (d : Dev) (p cyc : Nat) : Dev :=
  let c := d.capI p
  if !(d.linkI (.capture p)).up || c.freshDesc then d
  else
    let silentNow := decide (4 ≤ c.requests) && !c.gotAny && !c.silent
    let d := if silentNow then
        (d.onCapI p fun c => { c with silent := true }).report 0x0015 (capEp p) (d.nsAt cyc) [] else d
    (d.onCapI p fun c => { c with requests := c.requests + 1, lastReq := d.nsAt cyc }).requestDescriptor p

def execDescriptorRequest (pipe : Fin 8) (cyc : Nat) (s : State) : Host.Outcome State Fault Refusal :=
  .next { s with dev := s.dev.requestDue pipe cyc }

/-! ### Link changes at rank 4 -/

/-- A frame that is open before its gate is lost when its link drops: it is gated no more, so the number that its report
names is free (R140; notes/assumptions/126.md). -/
def Dev.dropUngated (d : Dev) (p ns : Nat) : Dev :=
  match (d.pipeI p).cur with
  | some f => if f.gated then d else ((d.setCur p none).frameLost p (d.capRace p) (d.free % 2 ^ 32) ns).used 1
  | none => d

/-- A capture link goes down (R140): the open frame ends in abort, letters are held, and each down change files a
report of class 0x001A (23 R532). -/
def Dev.captureDown (d : Dev) (p ns : Nat) : Dev :=
  let d := ((d.dropUngated p ns).abortFrame p 0 0).missPipe p 0
  let d := d.onCapI p fun c =>
    { c with capturing := false, freshDesc := false, letters := c.letters.map fun l => { l with held := true } }
  (d.report 0x001A (capEp p) ns []).raise (96 + 4 * p) ns

/-- A capture link comes up (R137, R141): a descriptor request, then the held letters in sequence order, each that had
left before counted as a resend. -/
def Dev.captureUp (d : Dev) (p ns : Nat) : Dev :=
  let held := (d.capI p).letters.filter fun l => l.held && !l.request
  let d := d.onCapI p fun c =>
    { c with requests := 1, lastReq := ns, gotAny := false, freshDesc := false,
             retries := bumpBy c.retries (held.countP (·.left)),
             letters := (c.letters.filter (fun l => !l.request)).map fun l =>
               { l with held := false, left := true, resends := l.resends + if l.held && l.left then 1 else 0 } }
  let d := d.onPipeI p fun x => { x with refValid := false }
  let d := d.requestDescriptor p
  (d.each held fun d l => d.emit (.letter p l.seq l.cls l.addr l.data)).raise (96 + 4 * p) ns

end Sys2Proof.Machine
end

