-- ==== Sys2Proof/Machine/MillFloat.lean ====
section
/-!
DEFINITION. Mill-float (07 R173, R174) and the transfer functions' real arithmetic (07 R182, R188, R189).
A mill-float value is held as its integer multiple of 2^-78, the smallest non-zero value. Roots, powers and
logarithms are taken in fixed point with 192 fractional bits: notes/assumptions/20.md.
-/
namespace Sys2Proof.Machine

/-! ### Mill-float -/

/-- A mill-float value in units of 2^-78. -/
abbrev Mf := Int

def mfOne : Mf := 2 ^ 78

/-- The value of a word: sign in bit 23, exponent in [22:16], fraction in [15:0] (R173). -/
def mfDecode (w : Nat) : Mf :=
  let m := w % 2 ^ 16
  let e := w / 2 ^ 16 % 2 ^ 7
  let v : Nat := if e = 0 then m else (2 ^ 16 + m) * 2 ^ (e - 1)
  if bit w 23 then -v else v

/-- The word of a mill-float value; zero is +0 (R174). -/
def mfEncode (v : Mf) : Nat :=
  let a := v.natAbs
  let s := if v < 0 then 2 ^ 23 else 0
  if a < 2 ^ 16 then s * (min a 1) + a
  else
    let e := Nat.log2 a - 15
    s + e * 2 ^ 16 + (a / 2 ^ (e - 1) - 2 ^ 16)

/-- The largest mill-float value, 2^64 × (2 − 2^-16). -/
def mfMax : Nat := (2 ^ 17 - 1) * 2 ^ 126

/-- A positive quotient in units of 2^-78, rounded to the nearest mill-float value, ties to an even fraction
(R174). -/
def mfRoundNat (num den : Nat) : Nat :=
  let q := num / den
  if q < 2 ^ 17 then (roundEven num den).toNat
  else
    let k := Nat.log2 q - 16
    (roundEven num (den * 2 ^ k)).toNat * 2 ^ k

/-- The value `num ÷ den`, in units of 2^-78, rounded once; and whether it saturated (R174). -/
def mfRound (num : Int) (den : Nat) : Mf × Bool :=
  if mfMax * den < num.natAbs then ((if num < 0 then -(mfMax : Int) else mfMax), true)
  else
    let r := mfRoundNat num.natAbs (if den = 0 then 1 else den)
    ((if num < 0 then -(r : Int) else r), false)

/-- A front word as mill-float: front word ÷ 65,536, exact (R174). -/
def mfOfFront (v : Int) : Mf := v * 2 ^ 62

/-! ### Fixed point with 192 fractional bits -/

abbrev Fx := Int

def fxBits : Nat := 192
def fxOne : Fx := 2 ^ 192
/-- ln 2, log2 0.18 and π to 192 fractional bits. -/
def fxLn2 : Nat := 4350955369971217654477563090224794165364344896676135745069
def fxLog018 : Int := -15529117755508618812743991616562649256252226414735501429236
def fxPi : Nat := 19720096697726538562396133364228268891463450865190089732560

def fxOfMf (v : Mf) : Fx := v * 2 ^ 114
def fxOfQ (num : Int) (den : Nat) : Fx := num * 2 ^ 192 / (den : Int)

/-- Σ z^(2k+1) ÷ (2k+1): half of ln((1 + z) ÷ (1 − z)). -/
def fxAtanh (fuel k z2 t : Nat) : Nat :=
  match fuel with
  | 0 => 0
  | fuel + 1 => t / (2 * k + 1) + fxAtanh fuel (k + 1) z2 (t * z2 / 2 ^ 192)

/-- ln of a value from 1 to 2. -/
def fxLn (m : Nat) : Nat :=
  let z := (m - 2 ^ 192) * 2 ^ 192 / (m + 2 ^ 192)
  2 * fxAtanh 70 0 (z * z / 2 ^ 192) z

/-- log2 of a positive fixed-point value. -/
def fxLog2 (x : Nat) : Fx :=
  if x = 0 then 0
  else
    let k := Nat.log2 x
    let m := if 192 ≤ k then x / 2 ^ (k - 192) else x * 2 ^ (192 - k)
    ((k : Int) - 192) * 2 ^ 192 + (fxLn m * 2 ^ 192 / fxLn2 : Nat)

/-- Σ t ÷ n!, the exponential series. -/
def fxExpSeries (fuel n x t : Nat) : Nat :=
  match fuel with
  | 0 => 0
  | fuel + 1 => t + fxExpSeries fuel (n + 1) x (t * x / 2 ^ 192 / (n + 1))

/-- 2 to a fixed-point power. -/
def fxExp2 (y : Fx) : Nat :=
  let k := y / 2 ^ 192
  let f := (y % 2 ^ 192).toNat
  let r := fxExpSeries 60 0 (f * fxLn2 / 2 ^ 192) (2 ^ 192)
  if 0 ≤ k then r * 2 ^ k.toNat else r / 2 ^ (-k).toNat

/-- x to the power num ÷ den, for x at least 0; 0 for 0. -/
def fxPow (x : Fx) (num den : Nat) : Nat := if x ≤ 0 then 0 else fxExp2 (fxLog2 x.toNat * num / (den : Int))

/-- The sine series. -/
def fxSinSeries (fuel n : Nat) (x2 t : Int) : Int :=
  match fuel with
  | 0 => 0
  | fuel + 1 => t + fxSinSeries fuel (n + 2) x2 (-(t * x2 / 2 ^ 192) / ((n + 1) * (n + 2) : Nat))

/-- sinc(t) = sin(π t) ÷ (π t), for t in fixed point with |t| at most 8. -/
def fxSinc (t : Fx) : Fx :=
  if t = 0 then fxOne
  else
    let x := t * fxPi / 2 ^ 192
    fxSinSeries 90 1 (x * x / 2 ^ 192) x * 2 ^ 192 / x

/-- Limited to 0 to 1. -/
def fxUnit (x : Fx) : Fx := clampI 0 fxOne x

/-! ### Transfer functions (R182, R188) -/

/-- Aderos Log of a linear value, before the limit to 0 to 1 (R182). -/
def aderosLog (x : Fx) : Fx :=
  let a := x + 2 ^ 182
  if a ≤ 0 then -fxOne else (fxLog2 a.toNat - fxLog018) / 17 + fxOfQ 46 100

/-- Inverse Aderos Log (R182). The rule gives it for y in 0 to 1; elsewhere it is a free value:
notes/assumptions/132.md. -/
def aderosInv (y : Fx) : Fx :=
  if y < 0 ∨ fxOne < y then Config.inverseLogOutside y
  else fxExp2 ((y - fxOfQ 46 100) * 17 + fxLog018) - 2 ^ 182

/-- BT.709 OETF (R188). -/
def bt709 (x : Fx) : Fx :=
  if x < fxOfQ 18 1000 then 9 * x / 2
  else 1099 * (fxPow x 45 100 : Int) / 1000 - fxOfQ 99 1000

/-- PQ of Y from 0 to 1, with the constants of BT.2100 (R188). -/
def pqOf (y : Fx) : Fx :=
  let p : Int := fxPow y 2610 16384
  let num := fxOfQ 3424 4096 + p * 2413 / 128
  let den := fxOne + p * 2392 / 128
  fxPow (num * 2 ^ 192 / den) 252300 3200

/-- HLG of E from 0 to 1, with the constants of BT.2100 (R188). -/
def hlgOf (e : Fx) : Fx :=
  if 12 * e ≤ fxOne then fxPow (3 * e) 1 2
  else
    let v := 12 * e - fxOfQ 28466892 100000000
    let ln := fxLog2 v.toNat * fxLn2 / 2 ^ 192
    ln * 17883277 / 100000000 + fxOfQ 55991073 100000000

/-- The encoded value of a linear one, and whether it was clipped (R188). `lw` is in cd/m², `k` in mill-float. -/
def transfer (code lw : Nat) (k : Mf) (x : Mf) : Fx × Bool :=
  let v := fxOfMf x
  let pos := max 0 v
  let clip := fun (e : Fx) => (fxUnit e, decide (e < 0) || decide (fxOne < e))
  match code with
  | 0 => (v, false)
  | 1 => clip (aderosLog v)
  | 2 => clip (bt709 v)
  | 3 => let e : Fx := fxPow pos 10 24; (fxUnit e, decide (fxOne < e))
  | 4 => (fxUnit (pqOf (min (pos * lw) (10000 * fxOne) / 10000)), false)
  | 5 => (fxUnit (hlgOf (min (pos * k / 2 ^ 78) fxOne)), false)
  | _ => let e : Fx := fxPow pos 10 26; (fxUnit e, decide (fxOne < e))

/-- IEEE 754 binary16 of a mill-float value, round to nearest even, and whether its magnitude was limited to
65,504 (R190). -/
def binary16 (v : Mf) : Nat × Bool :=
  let s := if v < 0 then 2 ^ 15 else 0
  let a := v.natAbs
  -- units of 2^-24 are subnormal steps: 2^54 units of 2^-78
  if 65504 * 2 ^ 78 < a then (s + 0x7BFF, true)
  else
    let k := if a < 2 ^ 65 then 54 else Nat.log2 a - 10
    let m := (roundEven a (2 ^ k)).toNat
    (s + ((k - 54) * 1024 + m), false)

end Sys2Proof.Machine
end

