-- ==== Sys2Proof/Machine/Front.lean ====
section
/-!
DEFINITION. The raw front end of a frame: alignment, black level, defects, shading and the raw tap (06 R145 to
R166), as functions of the frame as received and the parameters of its gate.
-/
namespace Sys2Proof.Machine

/-! ### Planes -/

/-- A plane of values. -/
structure Plane where
  w  : Nat
  h  : Nat
  px : Array Int

def Plane.make (w h : Nat) (f : Nat → Nat → Int) : Plane :=
  ⟨w, h, ((List.range (w * h)).map fun i => f (i % w) (i / w)).toArray⟩

def Plane.at (p : Plane) (x y : Nat) : Int := p.px.getD (y * p.w + x) 0

/-- The mirror of a position about the nearest edge: −k reads k, n − 1 + k reads n − 1 − k (07 R176). -/
def mirror (n : Nat) (i : Int) : Nat :=
  if i < 0 then min i.natAbs (n - 1)
  else if i < n then i.toNat
  else (2 * ((n : Int) - 1) - i).toNat

def Plane.mir (p : Plane) (x y : Int) : Int := p.at (mirror p.w x) (mirror p.h y)

/-- Saturation to a range, and whether it acted (R147). -/
def satTo (lo hi v : Int) : Int × Nat := if v < lo then (lo, 1) else if hi < v then (hi, 1) else (v, 0)

/-- A plane from values that carry a count, and the sum of the counts. -/
def Plane.counted (w h : Nat) (f : Nat → Nat → Int × Nat) : Plane × Nat :=
  let l := (List.range (w * h)).map fun i => f (i % w) (i / w)
  (⟨w, h, (l.map (·.1)).toArray⟩, sumBy (·.2) l)

/-! ### Parameters -/

def frontN (params : List (Nat × List Byte)) (p i : Nat) : Nat := leNat (parOf params (pkey 0x06 p i))
def frontB (params : List (Nat × List Byte)) (p i : Nat) : List Byte := parOf params (pkey 0x06 p i)

/-- A defect table entry: kind, row, column (R154). -/
structure Defect where
  kind : Nat
  row  : Nat
  col  : Nat
deriving DecidableEq, Repr

def defectOf (w : Nat) : Defect := ⟨bits w 31 29, bits w 28 15, bits w 14 0⟩
def defectWord (r c : Nat) : Nat := r * 2 ^ 15 + c

def defectTable (bs : List Byte) : List Defect :=
  (chunks 4 (bs.length / 4) bs).map fun b => defectOf (leNat b)

/-- Dark columns L and R of a die (R152). -/
def darkL (params : List (Nat × List Byte)) (p i : Nat) : Nat := u8 (frontB params p (0x40 + i)) 0
def darkR (params : List (Nat × List Byte)) (p i : Nat) : Nat := u8 (frontB params p (0x40 + i)) 1

/-- The dies of one row of dies (R152). -/
def rowDies (c : CapCfg) : List Nat :=
  match c.arr with
  | 0 => List.range c.dies
  | 1 => [0]
  | _ => [0, 1]

/-- Merged columns that remain once the dark columns are removed (R152). -/
def devCols (params : List (Nat × List Byte)) (p : Nat) (c : CapCfg) : List Nat :=
  (rowDies c).flatMap fun i =>
    (List.range (dieW c i - darkL params p i - darkR params p i)).map fun x => dieLeft c i + darkL params p i + x

/-- The size of the developed frame (R152). -/
def devW (params : List (Nat × List Byte)) (p : Nat) (c : CapCfg) : Nat :=
  sumBy (fun i => dieW c i - darkL params p i - darkR params p i) (rowDies c)
def devH (c : CapCfg) : Nat := mergedH c

/-- The die of a merged position (05 R124). -/
def dieOf (c : CapCfg) (x y : Nat) : Nat :=
  ((List.range c.dies).find? fun i =>
    decide (dieLeft c i ≤ x) && decide (x < dieLeft c i + dieW c i) && decide (dieTop c i ≤ y) &&
    decide (y < dieTop c i + dieH c i)).getD 0

/-! ### Received samples (05 R126 to R129) -/

/-- A pixel of a die line, from the segments received. -/
def segPixel (segs : List Seg) (l x : Nat) : Option Nat :=
  (segs.find? fun s => s.line == l && decide (s.offset ≤ x) && decide (x < s.offset + s.samples.length)).bind
    fun s => s.samples[x - s.offset]?

/-- A missing pixel takes the nearest received pixel two places to its left, and so on, or 0 (05 R128). -/
def leftPixel (segs : List Seg) (l : Nat) : Nat → Nat
  | x + 2 => match segPixel segs l x with
    | some v => v
    | none => leftPixel segs l x
  | _ => 0

/-- The source line of merged line `y`: missing lines repeat the last two complete lines alternately (05 R129). -/
def sourceLine (f : Frame) (y : Nat) : Nat := if y < f.lines then y else f.lines - 2 + (y - f.lines) % 2

/-- The sample at a merged position. -/
def rawSample (f : Frame) (c : CapCfg) (x y : Nat) : Nat :=
  let y := sourceLine f y
  let i := dieOf c x y
  let die := f.dies.getD i DieFrame.empty
  if die.allFill then 0
  else
    let l := y - dieTop c i
    let lx := x - dieLeft c i
    match segPixel die.segs l lx with
    | some v => v
    | none => leftPixel die.segs l lx

/-! ### Clamp (R150) -/

/-- The aligned optical-black samples of channel `ch` of a die that lie in the clamp rows and window. -/
def clampSamples (params : List (Nat × List Byte)) (p : Nat) (c : CapCfg) (die : DieFrame) (i ch : Nat) : List Nat :=
  let rows := frontB params p 0x30
  let win := frontB params p (0x34 + i)
  let r0 := u8 rows 0
  let rn := u8 rows 1
  let c0 := u16 win 0
  let cn := u16 win 2
  die.ob.flatMap fun s =>
    if s.line < r0 ∨ r0 + rn ≤ s.line then []
    else (s.samples.zipIdx.filter fun v =>
        let col := s.offset + v.2
        decide (c0 ≤ col) && decide (col < c0 + cn) && 2 * (s.line % 2) + (dieLeft c i + col) % 2 == ch).map
          fun v => 4 * (v.1 * 2 ^ (16 - c.depth))

/-- The new estimate of one channel, and whether it was held (R150). -/
def clampStep (samples : List Nat) (est reject k : Nat) : Nat × Bool :=
  let ok := samples.filter fun (a : Nat) => reject == 0 || decide (((a : Int) - (est : Int)).natAbs ≤ 4 * reject)
  if ok.length < 256 then (est, true)
  else
    let sum := sumBy id ok
    let m : Int := ((2 * sum + ok.length) / (2 * ok.length) : Nat)
    (((est : Int) + (m - est) / (2 ^ k : Nat)).toNat, false)

/-- Estimates of the 16 channels after this frame's optical-black rows, and the dies held. -/
def frameClamp (f : Frame) (p : Nat) (c : CapCfg) (base : List Nat) : List Nat × List Nat :=
  if frontN f.params p 0 ≠ 2 then (base, [])
  else
    let reject := frontN f.params p 0x38
    let k := frontN f.params p 0x39
    let l := (List.range 16).map fun j =>
      if j / 4 < c.dies then
        clampStep (clampSamples f.params p c (f.dies.getD (j / 4) DieFrame.empty) (j / 4) (j % 4)) (base.getD j 0)
          reject k
      else (base.getD j 0, false)
    (l.map (·.1), (List.range 4).filter fun i => (List.range 4).any fun ch => (l.getD (4 * i + ch) (0, false)).2)

/-- The black subtracted, in quarters, per die and channel (R148). -/
def blackOf (params : List (Nat × List Byte)) (p : Nat) (est : List Nat) (j : Nat) : Int :=
  match frontN params p 0 with
  | 0 => 0
  | 1 => frontN params p (0x10 + j)
  | _ => (est.getD j 0 : Int) + toSigned 16 (frontN params p (0x20 + j))

/-! ### The stages -/

/-- What the front end makes of a frame. -/
structure FrontOut where
  cols  : Array Nat
  d3    : Plane           -- after stage 3
  s4    : Plane           -- after stage 4
  sat   : Nat
  dyn   : Nat
  rowClip : Nat
  unres : Nat
  held  : List Nat        -- dies whose clamp was held
  est   : List Nat
  flags : List (Nat × Nat) -- row and column, merged, of the dynamic flags

/-- Distance of same-colour neighbours (R156). -/
def cfaStep (cfa : Nat) : Nat := if cfa = 5 then 1 else if cfa = 4 then 4 else 2

/-- The eight neighbour offsets, in the order H, V, D1, D2 as pairs (R157). -/
def neighbourPairs (s : Int) : List ((Int × Int) × (Int × Int)) :=
  [((-s, 0), (s, 0)), ((0, -s), (0, s)), ((-s, -s), (s, s)), ((s, -s), (-s, s))]

/-- The value that replaces a pixel, from the usable neighbours' B2 values; none when there is none (R157). -/
def replaceValue (pairs : List (Option Int × Option Int)) : Option Int :=
  let full := pairs.filterMap fun pr => match pr with
    | (some a, some b) => some (a, b)
    | _ => none
  match full with
  | pr :: rest =>
    let best := rest.foldl (fun (m : Int × Int) x => if (x.1 - x.2).natAbs < (m.1 - m.2).natAbs then x else m) pr
    some ((best.1 + best.2 + 1) / 2)
  | [] =>
    let vs := pairs.flatMap fun pr => pr.1.toList ++ pr.2.toList
    if vs.isEmpty then none
    else
      let n : Int := vs.length
      some ((2 * vs.foldl (· + ·) 0 + n) / (2 * n))

/-- Row-noise correction of a die's line: the correction and whether it was clipped (R153). -/
def rowNoise (darks : List Int) (strength limit : Nat) : Int × Nat :=
  if darks.length < 8 then (0, 0)
  else
    let n : Int := darks.length
    let m := (2 * darks.foldl (· + ·) 0 + n) / (2 * n)
    let rc := (m * strength + 32) / 64
    if rc < -(limit : Int) then (-(limit : Int), 1) else if (limit : Int) < rc then ((limit : Int), 1) else (rc, 0)

/-- A shading set: its words, none when it was never loaded (R160). -/
def shadingSet (params : List (Nat × List Byte)) (p i : Nat) : Option (Array Nat) :=
  match frontB params p (0x60 + i) with
  | [] => none
  | bs => some ((chunks 2 (bs.length / 2) bs).map leNat).toArray

/-- The gain of one grid node: a set alone, or the blend of two (R162). A set that was never loaded stands for
gain 0x4000: notes/assumptions/21.md. -/
def gridGain (a b : Option (Array Nat)) (alpha i : Nat) : Int :=
  let ga : Int := (a.elim 0x4000 (·.getD i 0x4000) : Nat)
  let gb : Int := (b.elim 0x4000 (·.getD i 0x4000) : Nat)
  ga + ((gb - ga) * alpha + 128) / 256

/-- The shading gain at a developed position (R161). -/
def shadeGain (node : Nat → Nat → Int) (w h x y : Nat) : Int :=
  let xq := if w ≤ 1 then 0 else x * 64 * 65536 / (w - 1)
  let yq := if h ≤ 1 then 0 else y * 32 * 65536 / (h - 1)
  let i := if xq / 65536 = 64 then 63 else xq / 65536
  let u : Int := if xq / 65536 = 64 then 65536 else xq % 65536
  let j := if yq / 65536 = 32 then 31 else yq / 65536
  let v : Int := if yq / 65536 = 32 then 65536 else yq % 65536
  (node i j * (65536 - u) * (65536 - v) + node (i + 1) j * u * (65536 - v) + node i (j + 1) * (65536 - u) * v +
    node (i + 1) (j + 1) * u * v + 2 ^ 31) / 2 ^ 32

/-- The shading plane of a position (R160). -/
def shadePlane (cfa x y : Nat) : Nat :=
  if cfa = 5 then 0 else if cfa = 4 then 2 * (y / 2 % 2) + x / 2 % 2 else 2 * (y % 2) + x % 2

/-- Stages 1 to 4 of a frame (R145). `base` is the stored clamp estimates before it. -/
def frontEnd (f : Frame) (p : Nat) (base : List Nat) : FrontOut :=
  let c := capCfg f.params p
  let cols := (devCols f.params p c).toArray
  let w := cols.size
  let h := devH c
  let table := defectTable (frontB f.params p 0x50)
  let (est, held) := frameClamp f p c base
  let quarters := fun (x y : Nat) =>
    let i := dieOf c x y
    4 * ((rawSample f c x y * 2 ^ (16 - c.depth) : Nat) : Int) - blackOf f.params p est (4 * i + 2 * (y % 2) + x % 2)
  -- stage 2: black
  let (b, sat1) := Plane.counted w h fun x y => satTo (-32768) 65535 ((quarters (cols.getD x 0) y + 2) / 4)
  -- row noise
  let noise := frontB f.params p 0x44
  let listed := fun (x y : Nat) => table.any fun e => e.row == y && e.col == x
  let rcs := (List.range h).map fun y => (rowDies c).map fun i0 =>
    let i := dieOf c (dieLeft c i0) y
    if u8 noise 0 = 0 then ((0 : Int), 0)
    else
      let wd := dieW c i
      let dark := (List.range (darkL f.params p i)) ++
        (List.range (darkR f.params p i)).map fun k => wd - darkR f.params p i + k
      rowNoise ((dark.filter fun x => !listed (dieLeft c i + x) y).map fun x => quarters (dieLeft c i + x) y)
        (u8 noise 1) (u16 noise 2)
  let rcArr := (rcs.map fun l => (l.map (·.1)).toArray).toArray
  let colDie := fun (x : Nat) => (rowDies c).findIdx fun i =>
    decide (dieLeft c i ≤ cols.getD x 0) && decide (cols.getD x 0 < dieLeft c i + dieW c i)
  let (b2, sat2) := Plane.counted w h fun x y =>
    satTo (-32768) 65535 (b.at x y - (rcArr.getD y #[]).getD (colDie x) 0)
  -- stage 3: defects
  let step := cfaStep f.cfa
  let inside := fun (x y : Int) => decide (0 ≤ x) && decide (x < w) && decide (0 ≤ y) && decide (y < h)
  let tableAt := fun (x y : Nat) => table.find? fun e => e.row == y && e.col == cols.getD x 0
  let marked := Plane.make w h fun x y => match tableAt x y with
    | some e => if e.kind = 0 then 2 else 1
    | none => 0
  let usable0 := fun (x y : Int) => inside x y && marked.at x.toNat y.toNat == 0
  let dynP := frontB f.params p 0x51
  let mode := u8 dynP 0
  let flags := Plane.make w h fun x y =>
    if mode = 0 ∨ marked.at x y ≠ 0 then 0
    else
      let vs := (neighbourPairs step).flatMap fun pr => [pr.1, pr.2].filterMap fun o =>
        if usable0 (x + o.1) (y + o.2) then some (b2.at (x + o.1 : Int).toNat (y + o.2 : Int).toNat) else none
      match vs with
      | v :: rest =>
        if vs.length < 4 then 0
        else
          let mx := rest.foldl max v
          let mn := rest.foldl min v
          let t := b2.at x y
          let hot := mx + (u16 dynP 1 : Int) + (u8 dynP 3 * mx.natAbs : Nat) / 256
          let cold := mn - (u16 dynP 4 : Int) - ((u8 dynP 6 * mn.natAbs / 256 : Nat) : Int)
          if (bit mode 0 && decide (hot < t)) || (bit mode 1 && decide (t < cold)) then 1 else 0
      | [] => 0
  let usable := fun (x y : Int) => usable0 x y && flags.at x.toNat y.toNat == 0
  let d3u := (List.range (w * h)).map fun k =>
    let x := k % w
    let y := k / w
    if marked.at x y = 2 ∨ flags.at x y = 1 then
      let get := fun (o : Int × Int) =>
        if usable (x + o.1) (y + o.2) then some (b2.at (x + o.1 : Int).toNat (y + o.2 : Int).toNat) else none
      match replaceValue ((neighbourPairs step).map fun pr => (get pr.1, get pr.2)) with
      | some v => (v, 0)
      | none => (0, 1)
    else (b2.at x y, 0)
  let d3 : Plane := ⟨w, h, (d3u.map (·.1)).toArray⟩
  -- stage 4: shading and gain
  let sel := frontB f.params p 0x68
  let sa := shadingSet f.params p (u8 sel 0)
  let sb := shadingSet f.params p (u8 sel 1)
  let alpha := u16 sel 2
  let dg : Int := frontN f.params p 0x69
  let flat := sa.isNone && (sb.isNone || alpha == 0)
  let (s4, sat4) := Plane.counted w h fun x y =>
    let g := if flat then 0x4000 else
      shadeGain (fun i j => gridGain sa sb alpha (shadePlane f.cfa x y * 2145 + j * 65 + i)) w h x y
    satTo (-32768) 131071 ((d3.at x y * g * dg + 2 ^ 26) / 2 ^ 27)
  { cols := cols, d3 := d3, s4 := s4, sat := sat1 + sat2 + sat4,
    dyn := sumBy (fun v => v.toNat) flags.px.toList,
    rowClip := sumBy (fun l => sumBy (·.2) l) rcs, unres := sumBy (·.2) d3u, held := held, est := est,
    flags := (List.range (w * h)).filterMap fun k =>
      if flags.at (k % w) (k / w) = 1 then some (k / w, cols.getD (k % w) 0) else none }

/-- The raw tap's sample at points 1 and 2, and whether it was clipped (R165). -/
def rawTapValue (v : Int) (pedestal depth : Nat) : Nat × Nat :=
  let t := v + pedestal
  let k := 16 - depth
  let h : Int := if k = 0 then 0 else 2 ^ (k - 1)
  let c1 := if t < 0 ∨ 65535 < t then 1 else 0
  let r := ((clampI 0 65535 t + h) / (2 ^ k : Nat)).toNat
  if 2 ^ depth ≤ r then (2 ^ depth - 1, 1) else (r, c1)

/-- The raw tap's samples of a frame, its size and its clip count (R164, R165). -/
def rawTap (f : Frame) (p point depth : Nat) (o : FrontOut) : Nat × Nat × List Nat × Nat :=
  let c := capCfg f.params p
  if point = 0 then
    let w := mergedW c
    let h := mergedH c
    (w, h, (List.range (w * h)).map fun k => rawSample f c (k % w) (k / w), 0)
  else
    let pl := if point = 1 then o.d3 else o.s4
    let l := pl.px.toList.map fun v => rawTapValue v (frontN f.params p 0x70) depth
    (pl.w, pl.h, l.map (·.1), sumBy (·.2) l)

end Sys2Proof.Machine
end

