-- ==== Sys2Proof/Machine/Colour.lean ====
section
/-!
DEFINITION. Colour science of a frame: demosaic, the colour matrix, the look stage and the six output conversions
(07 R172 to R190), with the pixels that grist programs wrote at G0, G1 and G2 (10 R244).
-/
namespace Sys2Proof.Machine

def colourB (params : List (Nat × List Byte)) (p i : Nat) : List Byte := parOf params (pkey 0x07 p i)
def colourN (params : List (Nat × List Byte)) (p i : Nat) : Nat := leNat (colourB params p i)

/-- Mill-float word `j` of a parameter value. -/
def mfWord (bs : List Byte) (j : Nat) : Mf := mfDecode (u32 bs (4 * j))

/-- A three-component value. -/
abbrev V3 := Int × Int × Int
def v3 (v : V3) : Nat → Int
  | 0 => v.1
  | 1 => v.2.1
  | _ => v.2.2

/-- A three-component picture. -/
structure Img where
  w  : Nat
  h  : Nat
  px : Array V3

def Img.make (w h : Nat) (f : Nat → Nat → V3) : Img :=
  ⟨w, h, ((List.range (w * h)).map fun i => f (i % w) (i / w)).toArray⟩
def Img.at (p : Img) (x y : Nat) : V3 := p.px.getD (y * p.w + x) (0, 0, 0)
def Img.mir (p : Img) (x y : Int) : V3 := p.at (mirror p.w x) (mirror p.h y)

/-- The value that a grist program wrote at a point (10 R244). -/
def writtenAt (f : Frame) (point comp x y : Nat) : Option Int :=
  (f.written.find? fun w => w.1 == point && w.2.1 == comp && w.2.2.1 == x && w.2.2.2.1 == y).map (·.2.2.2.2)

def rewritten (f : Frame) (point x y : Nat) (v : V3) : V3 :=
  if f.written.any (fun w => w.1 == point) then
    ((writtenAt f point 0 x y).getD v.1, (writtenAt f point 1 x y).getD v.2.1, (writtenAt f point 2 x y).getD v.2.2)
  else v

/-! ### Demosaic (R175 to R179) -/

/-- Colour of a position in a Bayer mosaic: 0 red, 1 green, 2 blue (05 R138, R176). -/
def bayerColour (cfa x y : Nat) : Nat :=
  let bx := (x + cfa % 2) % 2
  let by' := (y + cfa / 2 % 2) % 2
  if bx = 0 ∧ by' = 0 then 0 else if bx = 1 ∧ by' = 1 then 2 else 1

def sat18 (v : Int) : Int := clampI (-32768) 131071 v

/-- The completed green plane of mode 0x0 (R177). -/
def greenEdge (m : Plane) (cfa : Nat) : Plane :=
  Plane.make m.w m.h fun x y =>
    if bayerColour cfa x y = 1 then m.at x y
    else
      let g := fun (dx dy : Int) => m.mir (x + dx) (y + dy)
      let c := m.at x y
      let gh : Nat := (g (-1) 0 - g 1 0).natAbs + (2 * c - g (-2) 0 - g 2 0).natAbs
      let gv : Nat := (g 0 (-1) - g 0 1).natAbs + (2 * c - g 0 (-2) - g 0 2).natAbs
      let eh := 2 * (g (-1) 0 + g 1 0) + 2 * c - g (-2) 0 - g 2 0
      let ev := 2 * (g 0 (-1) + g 0 1) + 2 * c - g 0 (-2) - g 0 2
      sat18 (if gh < gv then (eh + 2) / 4 else if gv < gh then (ev + 2) / 4 else (eh + ev + 4) / 8)

/-- Colour `k`, red or blue, at a site, from the plane `d` of known values over the base plane (R177, R178). -/
def chromaAt (cfa : Nat) (d : Int → Int → Int) (base : Int) (k x y : Nat) : Int :=
  if bayerColour cfa x y = 1 then
    if bayerColour cfa (x + 1) y = k then base + (d (x - 1) y + d (x + 1) y + 1) / 2
    else base + (d x (y - 1) + d x (y + 1) + 1) / 2
  else
    base + (d (x - 1) (y - 1) + d (x + 1) (y - 1) + d (x - 1) (y + 1) + d (x + 1) (y + 1) + 2) / 4

/-- Mode 0x0, edge-directed (R177). -/
def demosaicEdge (m : Plane) (cfa : Nat) : Img :=
  let g := greenEdge m cfa
  Img.make m.w m.h fun x y =>
    let own := bayerColour cfa x y
    let other := fun k =>
      if own = k then m.at x y
      else sat18 (chromaAt cfa (fun a b => m.mir a b - g.mir a b) (g.at x y) k x y)
    (other 0, g.at x y, other 2)

/-- Mode 0x1, bilinear (R178). -/
def demosaicLinear (m : Plane) (cfa : Nat) : Img :=
  Img.make m.w m.h fun x y =>
    let own := bayerColour cfa x y
    let other := fun k => if own = k then m.at x y else sat18 (chromaAt cfa m.mir 0 k x y)
    let g := if own = 1 then m.at x y
      else sat18 ((m.mir (x - 1) y + m.mir (x + 1) y + m.mir x (y - 1) + m.mir x (y + 1) + 2) / 4)
    (other 0, g, other 2)

/-- Mode 0x2: a quad-Bayer mosaic turned into a Bayer RGGB one (R179). -/
def remosaic (m : Plane) : Plane :=
  let offs : List (Int × Int) := (List.range 81).map fun i => ((i % 9 : Nat) - 4, (i / 9 : Nat) - 4)
  Plane.make m.w m.h fun x y =>
    let t := bayerColour 0 x y
    if bayerColour 0 (x / 2) (y / 2) = t then m.at x y
    else
      let cand := offs.filterMap fun o =>
        let a := (x : Int) + o.1
        let b := (y : Int) + o.2
        if 0 ≤ a ∧ a < m.w ∧ 0 ≤ b ∧ b < m.h ∧ bayerColour 0 (a.toNat / 2) (b.toNat / 2) = t then
          some ((o.1 * o.1 + o.2 * o.2).toNat, m.at a.toNat b.toNat)
        else none
      let best := cand.foldl (fun n c => min n c.1) 1000
      let vs := (cand.filter fun c => c.1 == best).map (·.2)
      let n : Int := vs.length
      if vs.isEmpty then m.at x y else sat18 ((2 * vs.foldl (· + ·) 0 + n) / (2 * n))

/-- Mode 0x3: each aligned 2 × 2 group becomes one Bayer sample (R179). -/
def binned (m : Plane) : Plane :=
  Plane.make (m.w / 2) (m.h / 2) fun x y =>
    sat18 ((m.at (2 * x) (2 * y) + m.at (2 * x + 1) (2 * y) + m.at (2 * x) (2 * y + 1) +
      m.at (2 * x + 1) (2 * y + 1) + 2) / 4)

/-- The demosaic stage by mode (R175). -/
def demosaic (mode cfa : Nat) (m : Plane) : Img :=
  match mode with
  | 0 => demosaicEdge m cfa
  | 1 => demosaicLinear m cfa
  | 2 => demosaicEdge (remosaic m) 0
  | 3 => demosaicEdge (binned m) 0
  | _ => Img.make m.w m.h fun x y => (m.at x y, m.at x y, m.at x y)

/-- The size of the frame that leaves demosaic (R175, 08 R197). -/
def picW (params : List (Nat × List Byte)) (p : Nat) : Nat :=
  let w := devW params p (capCfg params p)
  if colourN params p 0 = 3 then w / 2 else w
def picH (params : List (Nat × List Byte)) (p : Nat) : Nat :=
  let h := devH (capCfg params p)
  if colourN params p 0 = 3 then h / 2 else h

/-! ### White balance, matrix and look (R180 to R185) -/

/-- Three results and how many of them saturated. -/
def mf3 (f : Nat → Mf × Bool) : V3 × Nat :=
  (((f 0).1, (f 1).1, (f 2).1), (f 0).2.toNat + (f 1).2.toNat + (f 2).2.toNat)

/-- A row of coefficients times a value, plus an offset, as one operation. -/
def mfRow (row : List Byte) (v : V3) (off : Mf) : Mf × Bool :=
  mfRound (mfWord row 0 * v.1 + mfWord row 1 * v.2.1 + mfWord row 2 * v.2.2 + off * mfOne) (2 ^ 78)

/-- White balance and the colour matrix (R180). -/
def linear (params : List (Nat × List Byte)) (p : Nat) (v : V3) : V3 × Nat :=
  let gains := colourB params p 0x10
  let offs := colourB params p 0x14
  let (w, n1) := mf3 fun j => mfRound (mfOfFront (v3 v j) * mfWord gains j) (2 ^ 78)
  let (o, n2) := mf3 fun i => mfRow (colourB params p (0x11 + i)) w (mfWord offs i)
  (o, n1 + n2)

/-- One channel of a table shaper (R183). -/
def shaperTable (table : List Byte) (lo hi : Mf) (ch : Nat) (x : Mf) : Mf × Bool :=
  if hi ≤ lo then (x, false)
  else
    let c := clampI lo hi x
    let t := ((2 * (c - lo) * 4095 * 65536 + (hi - lo)) / (2 * (hi - lo))).toNat
    let i := min (t / 65536) 4094
    let f : Int := (t : Int) - 65536 * i
    let e0 := mfWord table (4096 * ch + i)
    let e1 := mfWord table (4096 * ch + i + 1)
    mfRound (e0 * 65536 + (e1 - e0) * f) 65536

/-- The pre-shaper (`base` 0x20) or the post-shaper (`base` 0x28) on one channel (R183). -/
def shaper (params : List (Nat × List Byte)) (p base ch : Nat) (x : Mf) : Mf × Bool :=
  match colourN params p base with
  | 0 => (x, false)
  | 1 =>
    let r := colourB params p (base + 2)
    shaperTable (colourB params p (base + 1)) (mfWord r 0) (mfWord r 1) ch x
  | _ =>
    let y := if base = 0x20 then fxUnit (aderosLog (fxOfMf x)) else aderosInv (fxOfMf x)
    mfRound y (2 ^ 114)

/-- The weights and corners of the tetrahedron of R185, each corner as (a, b, c). -/
def lutCorners (fr fg fb : Nat) : List (Nat × (Nat × Nat × Nat)) :=
  let o := 65536
  if fg ≤ fr ∧ fb ≤ fg then
    [(o - fr, 0, 0, 0), (fr - fg, 1, 0, 0), (fg - fb, 1, 1, 0), (fb, 1, 1, 1)]
  else if fb ≤ fr ∧ fg < fb then
    [(o - fr, 0, 0, 0), (fr - fb, 1, 0, 0), (fb - fg, 1, 0, 1), (fg, 1, 1, 1)]
  else if fr < fb ∧ fg ≤ fr then
    [(o - fb, 0, 0, 0), (fb - fr, 0, 0, 1), (fr - fg, 1, 0, 1), (fg, 1, 1, 1)]
  else if fr < fg ∧ fb ≤ fr then
    [(o - fg, 0, 0, 0), (fg - fr, 0, 1, 0), (fr - fb, 1, 1, 0), (fb, 1, 1, 1)]
  else if fb ≤ fg ∧ fr < fb then
    [(o - fg, 0, 0, 0), (fg - fb, 0, 1, 0), (fb - fr, 0, 1, 1), (fr, 1, 1, 1)]
  else
    [(o - fb, 0, 0, 0), (fb - fg, 0, 0, 1), (fg - fr, 0, 1, 1), (fr, 1, 1, 1)]

/-- The 3D LUT on one pixel, and whether a component was clamped (R184, R185). -/
def lut3 (lut : List Byte) (v : V3) : V3 × Bool :=
  let q := fun j => min ((2 * clampI 0 mfOne (v3 v j) * 64 * 65536 + mfOne) / (2 * mfOne)).toNat (64 * 65536)
  let idx := fun j => min (q j / 65536) 63
  let fr := fun j => q j - idx j * 65536
  let corners := lutCorners (fr 0) (fr 1) (fr 2)
  let out := fun j =>
    let s := sumBy (fun (w : Nat × Nat × Nat × Nat) =>
      w.1 * u16 lut ((((idx 2 + w.2.2.2) * 65 + idx 1 + w.2.2.1) * 65 + idx 0 + w.2.1) * 6 + 2 * j)) corners
    (mfRound ((s : Int) * 2 ^ 78) (65536 * 65535)).1
  let clamped := [0, 1, 2].any fun j => decide (v3 v j < 0) || decide (mfOne < v3 v j)
  ((out 0, out 1, out 2), clamped)

/-- The look stage on one pixel: value, mill-float saturations, pixels clamped at the LUT (R183 to R185). -/
def look (params : List (Nat × List Byte)) (p : Nat) (v : V3) : V3 × Nat × Nat :=
  let (a, n1) := mf3 fun j => shaper params p 0x20 j (v3 v j)
  let (b, c) := if colourN params p 0x30 = 1 then lut3 (colourB params p 0x31) a else (a, false)
  let (o, n2) := mf3 fun j => shaper params p 0x28 j (v3 b j)
  (o, n1 + n2, c.toNat)

/-! ### Output conversions (R186 to R189) -/

/-- Off-diagonal coefficients in ten-thousandths, row by row (R187). -/
def primCoef (code i j : Nat) : Int :=
  let t : List Int := match code with
    | 1 => [0, -6515, -98, -1323, 0, -1812, -219, -1464, 0]
    | 2 => [0, 173, -152, -71, 0, -1540, -40, -262, 0]
    | 3 => [0, -3028, -403, -727, 0, -1755, -11, -493, 0]
    | 4 => [0, 1906, 1335, 395, 0, -352, -47, 76, 0]
    | _ => []
  t.getD (3 * i + j) 0

/-- The coefficient rounded to mill-float (R187). -/
def primMf (code i j : Nat) : Mf := (mfRound (primCoef code i j * 2 ^ 78) 10000).1

/-- Output primaries of tap `k` (R186). -/
def primaries (params : List (Nat × List Byte)) (p k : Nat) (v : V3) : V3 × Nat :=
  let base := 0x100 + 16 * k
  match colourN params p base with
  | 0 => (v, 0)
  | 5 => mf3 fun i => mfRow (colourB params p (base + 2 + i)) v 0
  | code => mf3 fun i =>
      mfRound (v3 v i * mfOne + primMf code i 0 * (v3 v 0 - v3 v i) + primMf code i 1 * (v3 v 1 - v3 v i) +
        primMf code i 2 * (v3 v 2 - v3 v i)) (2 ^ 78)

def xferCode (params : List (Nat × List Byte)) (p k : Nat) : Nat := colourN params p (0x101 + 16 * k)

/-- E′ of a pixel on tap `k`'s conversion, in fixed point: value, mill-float saturations, clipped components
(R186, R188, R189). -/
def convert (params : List (Nat × List Byte)) (p k : Nat) (v : V3) : V3 × Nat × Nat :=
  let (o, n) := primaries params p k v
  let t := fun j => transfer (xferCode params p k) (colourN params p (0x105 + 16 * k))
    (mfWord (colourB params p (0x106 + 16 * k)) 0) (v3 o j)
  (((t 0).1, (t 1).1, (t 2).1), n, (t 0).2.toNat + (t 1).2.toNat + (t 2).2.toNat)

/-! ### A frame through the colour stages -/

/-- What a frame's pixels are at each stage. -/
structure Developed where
  front : FrontOut
  g0    : Plane            -- before demosaic, with G0's writes
  dem   : Img              -- after demosaic, before G1
  lin   : Img              -- after the colour matrix, mill-float
  lookI : Img              -- after the post-shaper
  mfSat : Nat              -- through the post-shaper
  lutClamp : Nat

/-- The mosaic that enters demosaic. -/
def mosaicG0 (f : Frame) (o : FrontOut) : Plane :=
  if f.written.any (fun w => w.1 == 0) then
    Plane.make o.s4.w o.s4.h fun x y => (writtenAt f 0 0 x y).getD (o.s4.at x y)
  else o.s4

/-- A frame's pixels with a count carried along. -/
def Img.counted (m : Img) (g : Nat → Nat → V3 → V3 × Nat × Nat) : Img × Nat × Nat :=
  let l := (List.range (m.w * m.h)).map fun i => g (i % m.w) (i / m.w) (m.at (i % m.w) (i / m.w))
  (⟨m.w, m.h, (l.map (·.1)).toArray⟩, sumBy (·.2.1) l, sumBy (·.2.2) l)

/-- Stages 1 to 6 of R172 for a frame. -/
def develop (f : Frame) (p : Nat) (base : List Nat) : Developed :=
  let o := frontEnd f p base
  let g0 := mosaicG0 f o
  let dem := demosaic (colourN f.params p 0) f.cfa g0
  let (lin, n1, _) := dem.counted fun x y v => let r := linear f.params p (rewritten f 1 x y v); (r.1, r.2, 0)
  let (lk, n2, c) := lin.counted fun _ _ v => look f.params p v
  ⟨o, g0, dem, lin, lk, n1 + n2, c⟩

/-- The conversion of tap `k` over a frame: E′ before G2, mill-float saturations and clips (R186, R188). -/
def conversion (f : Frame) (p k : Nat) (d : Developed) : Img × Nat × Nat :=
  d.lookI.counted fun _ _ v => convert f.params p k v

/-- The image of the placement at a point, [] for none (10 R257). -/
def placedImage (params : List (Nat × List Byte)) (p point : Nat) : List Byte :=
  parOf params (pkey 0x0A (4 * p + point) 0)

/-- E′ of tap `k` as its tap receives it: G2's writes replace the components of the tap it names (10 R241, R244). -/
def tapInput (f : Frame) (p k : Nat) (d : Developed) : Img :=
  let (m, _, _) := conversion f p k d
  if f.written.any (fun w => w.1 == 2) && u8 (placedImage f.params p 2) 2 == k then
    Img.make m.w m.h fun x y =>
      let v := m.at x y
      let o := fun j => match writtenAt f 2 j x y with
        | some w => fxOfQ w 65535
        | none => v3 v j
      (o 0, o 1, o 2)
  else m

/-- The frame's counts of 06 R171 and 07 R195, each stopping at its largest value. -/
def developCounts (f : Frame) (p : Nat) (d : Developed) (rawClip : Nat) : FrameCounts :=
  let cs := (List.range 6).map fun k => (conversion f p k d).2
  { sat := capN 16 d.front.sat, dyn := capN 16 d.front.dyn, rowClipped := capN 16 d.front.rowClip,
    unresolved := capN 8 d.front.unres, clampHeld := maskOf 4 fun i => d.front.held.contains i,
    mfSat := capN 16 (d.mfSat + sumBy (·.1) cs), lutClamp := capN 16 d.lutClamp, xferClip := capN 16 (sumBy (·.2) cs),
    tapClip := capN 16 rawClip }

end Sys2Proof.Machine
end

