-- ==== Sys2Proof/Machine/Taps.lean ====
section
/-!
DEFINITION. Output taps: crop, scaling, Y′CbCr, codes, packing and buffer headers (08 R196 to R211, R216 to R218).
-/
namespace Sys2Proof.Machine

/-! ### Configuration of a tap -/

/-- The parameters of a tap (14 R347). -/
structure TapCfg where
  enabled : Bool
  x  : Nat
  y  : Nat
  w  : Nat
  h  : Nat
  ow : Nat
  oh : Nat
  kernel : Nat
  custom : List Byte
  fmt : Nat
  depth : Nat
  bt2020 : Bool
  narrow : Bool
  reclaim : Bool

def tapKey (p k i : Nat) : Nat := pkey 0x08 (8 * p + k) i

def tapCfg (params : List (Nat × List Byte)) (p k : Nat) : TapCfg :=
  let v := fun i => parOf params (tapKey p k i)
  let c := v 1
  let f := v 5
  { enabled := u8 (v 0) 0 == 1, x := u16 c 0, y := u16 c 2, w := u16 c 4, h := u16 c 6, ow := u16 (v 2) 0,
    oh := u16 (v 2) 2, kernel := u8 (v 3) 0, custom := v 4, fmt := u8 f 0, depth := u8 f 1, bt2020 := u8 f 2 == 1,
    narrow := u8 f 3 == 1, reclaim := u8 (v 0xA) 0 == 1 }

/-- Row bytes and rows of each plane (R202). -/
def planesOf (fmt depth w h : Nat) : List (Nat × Nat) :=
  let s := if depth = 8 then 1 else 2
  match fmt with
  | 0 | 3 => [(w * s, h), (w * s, h), (w * s, h)]
  | 1 => [(w * s, h), (w * s, h)]
  | 2 => [(w * s, h), (w * s, h / 2)]
  | 4 => [(w * (if depth = 8 then 3 else 4), h)]
  | _ => [(w * 8, h)]

/-- The extents of a buffer: header and planes (R206). -/
def tapSpans (c : TapCfg) (b : BufDesc) : List (Nat × Nat) :=
  (b.hdrOff, 64) :: (planesOf c.fmt c.depth c.ow c.oh).zipIdx.map fun (pl, i) =>
    ([b.plane0, b.plane1, b.plane2].getD i 0, (if i = 0 then b.stride0 else b.stride1) * (pl.2 - 1) + pl.1)

/-- Bytes of a frame that a tap writes (01 R27). -/
def tapBytes (c : TapCfg) : Nat := sumBy (fun pl => pl.1 * pl.2) (planesOf c.fmt c.depth c.ow c.oh)

/-! ### Scaling (R198 to R201) -/

/-- The mirror of a position inside 0 to n − 1 (R198). -/
def axisInc (c n : Nat) : Nat := if n = 0 then 65536 else c * 65536 / n

/-- Source index and phase of output `k` (R198). -/
def axisPos (inc k : Nat) : Int × Nat :=
  let pos : Int := ((inc : Int) - 65536) / 2 + (k * inc : Nat)
  (pos / 65536, ((pos % 65536).toNat) / 1024)

/-- The kernel at `n` ÷ `s`, in units common to all its coefficients (R199, R200). -/
def kernelAt (code taps : Nat) (n : Int) (s : Nat) : Int :=
  let a : Int := n.natAbs
  let s : Int := s
  match code with
  | 0 =>
    if a < s then 3 * a * a * a - 5 * a * a * s + 2 * s * s * s
    else if a < 2 * s then -(a * a * a) + 5 * a * a * s - 8 * a * s * s + 4 * s * s * s
    else 0
  | 1 =>
    let half : Int := (taps / 2 : Nat)
    if a < half * s then
      let t : Fx := n * 2 ^ 192 / s
      fxSinc t * fxSinc (t / half)
    else 0
  | _ => max 0 (s - a)

/-- The coefficients of phase `ph`, for `taps` taps and stretch limit `smax` in 1 ÷ 65,536 (R199, R200). -/
def kernelCoefs (code taps inc smax ph : Nat) : List Int :=
  let s := if code = 1 then 65536 else max 65536 (min inc smax)
  let num := (List.range taps).map fun (k : Nat) =>
    kernelAt code taps ((64 * ((k : Int) - ((taps / 2 : Nat) - 1)) - ph) * 1024) s
  let sigma := num.foldl (· + ·) 0
  let cs := num.map fun v => if sigma = 0 then 0 else (2 * 1024 * v + sigma) / (2 * sigma)
  let best := (List.range taps).foldl (fun m k => if cs.getD m 0 < cs.getD k 0 then k else m) 0
  let diff := 1024 - cs.foldl (· + ·) 0
  cs.zipIdx.map fun (v, i) => if i = best then v + diff else v

/-- Coefficients of a custom kernel: 64 phases of 8, then 64 of 6, as signed words (R200). -/
def customCoefs (table : List Byte) (vertical : Bool) (ph : Nat) : List Int :=
  let at' := fun i => toSigned 16 (u16 table (2 * i))
  if vertical then (List.range 6).map fun j => at' (512 + 6 * ph + j)
  else (List.range 8).map fun j => at' (8 * ph + j)

def axisCoefs (c : TapCfg) (vertical : Bool) (inc ph : Nat) : List Int :=
  if c.kernel = 3 then customCoefs c.custom vertical ph
  else if vertical then kernelCoefs c.kernel 6 inc 98304 ph
  else kernelCoefs c.kernel 8 inc 131072 ph

/-- One pass along an axis: from `n` inputs to `m` outputs, with `get` reading input `i` of line `l`; each output
is one mill-float operation (R201). -/
def scaleAxis (c : TapCfg) (vertical : Bool) (n m lines : Nat) (get : Nat → Nat → V3) : Array V3 × Nat :=
  let inc := axisInc n m
  let first : Int := if vertical then -2 else -3
  let plan := (List.range m).map fun k => let (i, ph) := axisPos inc k; (i, (axisCoefs c vertical inc ph).zipIdx)
  let planA := plan.toArray
  let out := (List.range (lines * m)).map fun t =>
    let l := t / m
    let (i, cs) : Int × List (Int × Nat) := planA.getD (t % m) (0, [])
    let vs : List (Int × V3) := cs.map fun (cj : Int × Nat) => (cj.1, get l (mirror n (i + first + cj.2)))
    mf3 fun ch => mfRound (vs.foldl (fun (acc : Int) (cv : Int × V3) => acc + cv.1 * v3 cv.2 ch) 0) 1024
  ((out.map (·.1)).toArray, sumBy (·.2) out)

/-- The cropped and scaled pixels of a tap: E′ in fixed point, and mill-float saturations (R196 to R201). -/
def scaled (c : TapCfg) (m : Img) : Img × Nat :=
  let crop : Img := Img.make c.w c.h fun x y => m.at (c.x + x) (c.y + y)
  if c.w = c.ow ∧ c.h = c.oh then (crop, 0)
  else
    let r := crop.counted fun _ _ v => let a := mf3 fun j => mfRound (v3 v j) (2 ^ 114); (a.1, a.2, 0)
    let (h, n1) : Img × Nat :=
      if c.w = c.ow then (r.1, 0)
      else
        let (a, n) := scaleAxis c false c.w c.ow c.h fun l i => r.1.at i l
        (⟨c.ow, c.h, a⟩, n)
    let (v, n2) : Img × Nat :=
      if c.h = c.oh then (h, 0)
      else
        let (a, n) := scaleAxis c true c.h c.oh c.ow fun l i => h.at l i
        (Img.make c.ow c.oh fun x y => a.getD (x * c.oh + y) (0, 0, 0), n)
    (Img.make c.ow c.oh fun x y => let p := v.at x y; (p.1 * 2 ^ 114, p.2.1 * 2 ^ 114, p.2.2 * 2 ^ 114),
      r.2.1 + n1 + n2)

/-! ### Codes (R190, R203, R204) -/

/-- A code clipped to its range, and whether it was clipped (R204). -/
def clipCode (n : Nat) (narrow : Bool) (v : Int) : Nat × Nat :=
  let lo : Int := if narrow then (2 ^ (n - 8) : Nat) else 0
  let hi : Int := if narrow then (2 ^ n - 2 ^ (n - 8) - 1 : Nat) else (2 ^ n - 1 : Nat)
  if v < lo then (lo.toNat, 1) else if hi < v then (hi.toNat, 1) else (v.toNat, 0)

/-- The R, G, B or luma code of E′ = num ÷ den (R190). -/
def lumaCode (n : Nat) (narrow : Bool) (num : Int) (den : Nat) : Nat × Nat :=
  let d : Int := den
  clipCode n narrow
    (if narrow then (2 * (219 * num + 16 * d) * (2 ^ (n - 8) : Nat) + d) / (2 * d)
     else (2 * num * (2 ^ n - 1 : Nat) + d) / (2 * d))

/-- The chroma code of C = num ÷ den (R204). -/
def chromaCode (n : Nat) (narrow : Bool) (num : Int) (den : Nat) : Nat × Nat :=
  let d : Int := den
  clipCode n narrow
    (if narrow then (2 * (224 * num + 128 * d) * (2 ^ (n - 8) : Nat) + d) / (2 * d)
     else (2 * num * (2 ^ n - 1 : Nat) + 2 * d * (2 ^ (n - 1) : Nat) + d) / (2 * d))

/-- Kr and Kb in ten-thousandths (R203). -/
def krOf (bt2020 : Bool) : Int := if bt2020 then 2627 else 2126
def kbOf (bt2020 : Bool) : Int := if bt2020 then 593 else 722

/-- Y′ of a pixel, over 10,000 (R203). -/
def lumaOf (bt2020 : Bool) (v : V3) : Int :=
  krOf bt2020 * v.1 + (10000 - krOf bt2020 - kbOf bt2020) * v.2.1 + kbOf bt2020 * v.2.2

/-- Numerators of Cb over 20,000 − 2 Kb and of Cr over 20,000 − 2 Kr, each in units of E′ (R203). -/
def cbNum (bt2020 : Bool) (v : V3) : Int := 10000 * v.2.2 - lumaOf bt2020 v
def crNum (bt2020 : Bool) (v : V3) : Int := 10000 * v.1 - lumaOf bt2020 v

/-- Chroma filtered to even columns, over 4 (R203). -/
def chroma422 (m : Img) (f : V3 → Int) (x y : Nat) : Int :=
  f (m.mir ((x : Int) - 1) y) + 2 * f (m.at x y) + f (m.mir ((x : Int) + 1) y)

/-- The bytes of one code (R202). -/
def codeBytes (depth c : Nat) : List Byte := leBytes (if depth = 8 then 1 else 2) c

/-- A row of samples: bytes and clips. -/
def codeRow (depth : Nat) (l : List (Nat × Nat)) : List Byte × Nat :=
  (l.flatMap fun c => codeBytes depth c.1, sumBy (·.2) l)

/-- The rows of each plane of a tap's frame with the codes clipped in each row, and components limited by binary16
(R190, R202 to R204). -/
def tapPlanes (c : TapCfg) (m : Img) : List (List (List Byte × Nat)) × Nat :=
  let n := c.depth
  let one : Nat := 2 ^ 192
  let rows := fun (h : Nat) (f : Nat → List (Nat × Nat)) => (List.range h).map fun y => codeRow n (f y)
  let cols := fun (w : Nat) (f : Nat → List (Nat × Nat)) => (List.range w).flatMap f
  let luma := rows c.oh fun y => cols c.ow fun x => [lumaCode n c.narrow (lumaOf c.bt2020 (m.at x y)) (10000 * one)]
  let dB := (20000 - 2 * kbOf c.bt2020).toNat * one
  let dR := (20000 - 2 * krOf c.bt2020).toNat * one
  let cb := cbNum c.bt2020
  let cr := crNum c.bt2020
  match c.fmt with
  | 0 =>
    ([luma, rows c.oh fun y => cols c.ow fun x => [chromaCode n c.narrow (cb (m.at x y)) dB],
      rows c.oh fun y => cols c.ow fun x => [chromaCode n c.narrow (cr (m.at x y)) dR]], 0)
  | 1 =>
    ([luma, rows c.oh fun y => cols (c.ow / 2) fun x =>
      [chromaCode n c.narrow (chroma422 m cb (2 * x) y) (4 * dB),
       chromaCode n c.narrow (chroma422 m cr (2 * x) y) (4 * dR)]], 0)
  | 2 =>
    ([luma, rows (c.oh / 2) fun y => cols (c.ow / 2) fun x =>
      [chromaCode n c.narrow (chroma422 m cb (2 * x) (2 * y) + chroma422 m cb (2 * x) (2 * y + 1)) (8 * dB),
       chromaCode n c.narrow (chroma422 m cr (2 * x) (2 * y) + chroma422 m cr (2 * x) (2 * y + 1)) (8 * dR)]], 0)
  | 3 =>
    ((List.range 3).map fun ch => rows c.oh fun y => cols c.ow fun x => [lumaCode n c.narrow (v3 (m.at x y) ch) one], 0)
  | 4 =>
    ([(List.range c.oh).map fun y =>
      let px := (List.range c.ow).map fun x =>
        let code := fun ch => lumaCode n c.narrow (v3 (m.at x y) ch) one
        (if n = 8 then leBytes 3 ((code 2).1 + 256 * (code 1).1 + 65536 * (code 0).1)
         else leBytes 4 (packWord [(0, (code 2).1), (10, (code 1).1), (20, (code 0).1), (30, 3)]),
         (code 0).2 + (code 1).2 + (code 2).2)
      (px.flatMap (·.1), sumBy (·.2) px)], 0)
  | _ =>
    let l := (List.range c.oh).map fun y =>
      let px := (List.range c.ow).map fun x =>
        let w := fun ch => binary16 (mfRound (v3 (m.at x y) ch) (2 ^ 114)).1
        (leBytes 2 (w 0).1 ++ leBytes 2 (w 1).1 ++ leBytes 2 (w 2).1 ++ leBytes 2 0x3C00,
          (w 0).2.toNat + (w 1).2.toNat + (w 2).2.toNat)
      (px.flatMap (·.1), sumBy (·.2) px)
    ([l.map fun r => (r.1, 0)], sumBy (·.2) l)

/-! ### Writing a frame -/

/-- The pixels that tap `k` writes for a frame, with mill-float saturations of its scaling. -/
def tapPixels (f : Frame) (p k : Nat) (d : Developed) : Img × Nat := scaled (tapCfg f.params p k) (tapInput f p k d)

/-- The tap's header (R207). -/
def tapHeader (f : Frame) (p k gap : Nat) (clipped : Bool) : List Byte :=
  let c := tapCfg f.params p k
  padTo 64 (postmark (f.stamp / 2 ^ 32) f.epoch f.number (8 * p + k) ++ leBytes 2 f.status.toNat ++ leBytes 2 0 ++
    leBytes 4 f.pset ++ leBytes 2 c.ow ++ leBytes 2 c.oh ++ leBytes 1 c.fmt ++ leBytes 1 clipped.toNat ++
    leBytes 2 0 ++ leBytes 4 gap)

def tapEvent (p k : Nat) : Nat := 128 + 6 * p + k

/-- Buffer order that the frame took in ring `k` of its pipeline. -/
def Frame.buf (f : Frame) (k : Nat) : Option Nat := (f.bufs.getD k none)

/-- A tap writes a frame into its buffer: planes, then the header, and the buffer is full (R202, R207). -/
def Dev.tapWrite (d : Dev) (p k : Nat) (f : Frame) (base : List Nat) : Dev :=
  let r := 8 * p + k
  match (f.buf k).bind (d.ringI r).byOrder with
  | none => d
  | some b =>
    let c := tapCfg f.params p k
    let planes := (tapPlanes c (tapPixels f p k (develop f p base)).1).1
    let offs := [b.desc.plane0, b.desc.plane1, b.desc.plane2]
    let d := d.each planes.zipIdx fun d (rows, i) =>
      d.each rows.zipIdx fun d (row, y) =>
        d.memWrite b.desc.pool (offs.getD i 0 + y * (if i = 0 then b.desc.stride0 else b.desc.stride1)) row.1
    let clips := sumBy (fun rows => sumBy (·.2) rows) planes
    let d := Dev.memWrite d b.desc.pool b.desc.hdrOff (tapHeader f p k (d.ringI r).gap (clips != 0))
    let d := d.onPipeI p fun x => { x with tapClips := x.tapClips.set k (capN 16 clips) }
    d.onRingI r fun r => r.fill b.order (postmarkNat (f.stamp / 2 ^ 32) f.epoch f.number (8 * p + k)) f.pset (tapBytes c)

/-- TAP_BUFFER_FULL: the tap writes the header of the frame that has completed last and the buffer is full. -/
def Dev.tapFull (d : Dev) (p k : Nat) : Dev :=
  match (d.pipeI p).done with
  | some f => d.tapWrite p k f f.clamp
  | none => d

def execTapBufferFull (pipe : Fin 8) (tap : Fin 6) (s : State) : Host.Outcome State Fault Refusal :=
  .next { s with dev := s.dev.tapFull pipe tap }

/-- Mill-float saturations of the scaling, and binary16 limits, of the taps that write the frame. -/
def tapCounts (f : Frame) (p : Nat) (d : Developed) : Nat × Nat :=
  ((List.range 6).filter fun k => (f.buf k).isSome).foldl (fun acc k =>
    let (m, n) := tapPixels f p k d
    let c := tapCfg f.params p k
    let b := if c.fmt = 5 then (tapPlanes c m).2 else 0
    (acc.1 + n, acc.2 + b)) (0, 0)

end Sys2Proof.Machine
end

