-- ==== Sys2Proof/Machine/Stats.lean ====
section
/-!
DEFINITION. Statistics blocks (09 R230 to R234), the completion of a frame in its pipeline (06 R151, R159, R171;
07 R195), and drops, panic and weirs of its streams (01 R25, 17 R422).
-/
namespace Sys2Proof.Machine

/-! ### Statistics (R232 to R234) -/

/-- Bin of a value num ÷ den among `n` (R232). -/
def binOf (n : Nat) (num : Int) (den : Nat) : Nat := (clampI 0 ((n : Int) - 1) (num * n / (den : Int))).toNat

/-- Counts of a list of bins. -/
def tally (n : Nat) (bins : List Nat) : List Nat :=
  (bins.foldl (fun (a : Array Nat) b => a.modify b (· + 1)) (Array.replicate n 0)).toList

/-- The pixels that the histograms count: the source tap's crop window, subsampled (R232). -/
def histPixels (c : TapCfg) (sub : Nat) (m : Img) : List V3 :=
  let s := max 1 sub
  (List.range (ceilDiv c.h s)).flatMap fun j => (List.range (ceilDiv c.w s)).map fun i =>
    m.at (c.x + s * i) (c.y + s * j)

def histBytes (c : TapCfg) (px : List V3) : List Byte :=
  let one : Nat := 2 ^ 192
  let luma := tally 1024 (px.map fun v => binOf 1024 (lumaOf c.bt2020 v) (10000 * one))
  let comp := fun ch => tally 256 (px.map fun v => binOf 256 (v3 v ch) one)
  (luma ++ comp 0 ++ comp 1 ++ comp 2).flatMap (leBytes 4)

/-- One zone: three means, each rounded once, and the clip count (R233). A zone of no pixel has a free mean:
notes/assumptions/133.md. -/
def zoneBytes (lin dem : Img) (level : Int) (i j : Nat) : List Byte :=
  let x0 := i * lin.w / 32
  let x1 := (i + 1) * lin.w / 32
  let y0 := j * lin.h / 18
  let y1 := (j + 1) * lin.h / 18
  let pos := (List.range (y1 - y0)).flatMap fun y => (List.range (x1 - x0)).map fun x => (x0 + x, y0 + y)
  let mean := fun ch =>
    let s := pos.foldl (fun (acc : Int) xy => acc + v3 (lin.at xy.1 xy.2) ch) 0
    leBytes 4 (if pos.isEmpty then (Config.emptyZoneMean (32 * j + i) ch).toNat else mfEncode (mfRound s pos.length).1)
  let clips := pos.countP fun xy =>
    let v := dem.at xy.1 xy.2
    decide (level ≤ v.1) || decide (level ≤ v.2.1) || decide (level ≤ v.2.2)
  mean 0 ++ mean 1 ++ mean 2 ++ leBytes 4 (min clips 65535)

def zonesBytes (lin dem : Img) (level : Int) : List Byte :=
  (List.range 18).flatMap fun j => (List.range 32).flatMap fun i => zoneBytes lin dem level i j

/-- The block of a frame (R234). -/
def statsBlock (f : Frame) (p gap : Nat) (dv : Developed) (n : FrameCounts) : List Byte :=
  let src := parOf f.params (pkey 0x09 p 1)
  let tap := u8 src 0
  let sub := u8 src 1
  let c := tapCfg f.params p tap
  let px := histPixels c sub (tapInput f p tap dv)
  let die := f.dies.getD 0 DieFrame.empty
  let unknown := hasStatus f stUnknown
  let head := postmark (f.stamp / 2 ^ 32) f.epoch f.number (8 * p + 6) ++ leBytes 2 f.status.toNat ++
    leBytes 1 f.conv.toNat ++ leBytes 1 0 ++ leBytes 4 f.pset ++ leBytes 2 (if unknown then 0 else die.applied) ++
    leBytes 2 die.count ++ leBytes 4 die.exposure ++ leBytes 2 die.gain ++ leBytes 1 tap ++ leBytes 1 sub ++
    leBytes 2 n.sat ++ leBytes 2 n.dyn ++ leBytes 2 n.rowClipped ++ leBytes 1 n.unresolved ++ leBytes 1 n.clampHeld ++
    leBytes 2 n.mfSat ++ leBytes 2 n.lutClamp ++ leBytes 2 n.xferClip ++ leBytes 2 n.tapClip ++
    leBytes 4 px.length ++ leBytes 4 gap ++ leBytes 4 0
  let level := leNat (parOf f.params (pkey 0x09 p 2))
  head ++ histBytes c px ++ (if f.conv then zonesBytes dv.lin dv.dem level else List.replicate 9216 0)

/-- STATISTICS_BLOCK_FULL: the block of the frame that has completed last is written, bytes 0 to 15 last, and is
full (R230); event 184 + p. -/
def Dev.statsFull (d : Dev) (p : Nat) : Dev :=
  match (d.pipeI p).done with
  | none => d
  | some f =>
    match (f.buf 6).bind (d.ringI (8 * p + 6)).byOrder with
    | none => d
    | some b =>
      let x := d.pipeI p
      let gap := x.lastBlock.elim 0 fun l => (f.number + 2 ^ 32 - l - 1) % 2 ^ 32
      let block := statsBlock f p gap (develop f p f.clamp) x.counts
      let d := d.memWrite b.desc.pool (b.desc.hdrOff + 16) (block.drop 16)
      let d := d.memWrite b.desc.pool b.desc.hdrOff (block.take 16)
      let d := d.onPipeI p fun x => { x with lastBlock := some f.number }
      (d.onRingI (8 * p + 6) fun r => r.fill b.order (leNat (block.take 16)) f.pset 16448).raiseNow (184 + p)

def execStatisticsBlockFull (pipe : Fin 8) (s : State) : Host.Outcome State Fault Refusal :=
  .next { s with dev := s.dev.statsFull pipe }

/-! ### A frame completes in the pipeline -/

/-- Where a frame keeps, beside its parameters, the raw tap of its gate: point, record depth, and the ratio of the
bolter output (06 R164, 12 R298; 03 R78). Nothing is there when it has no raw tap. -/
def rawKey (p : Nat) : Nat := pkey 0xFF p 0
def frameRaw (f : Frame) (p : Nat) : List Byte := parOf f.params (rawKey p)

/-- A frame is lost downstream of its front end: its buffers return to free, and it is counted and reported
(01 R23, R25; 08 R211; 10 R242). The raw tap is not affected. -/
def Dev.lostDownstream (d : Dev) (p race : Nat) (f : Frame) (ns : Nat) : Dev :=
  ((d.dropBuffers p f ns).frameLost p race f.number ns).missPipe p 2

/-- The next run of each flagged pixel, and those flagged in 8 consecutive completed frames (06 R159). -/
def flagRuns (old : List (Nat × Nat × Nat)) (flags : List (Nat × Nat)) : List (Nat × Nat × Nat) :=
  flags.map fun (r, c) => (r, c, ((old.find? fun o => o.1 == r && o.2.1 == c).elim 0 (·.2.2)) + 1)

/-- Candidates added once each, at most 256 (R159). -/
def addCands (cands : List (Nat × Nat)) (new : List (Nat × Nat)) : List (Nat × Nat) × Bool :=
  new.foldl (fun (acc : List (Nat × Nat) × Bool) c =>
    if acc.1.contains c then acc
    else if acc.1.length < 256 then (acc.1 ++ [c], acc.2) else (acc.1, true)) (cands, false)

/-- The oldest frame in the pipeline completes. Its clamp estimates are stored, its flags
enter the candidate list and its counts become those of the last frame (06 R151, R159, R171; 07 R195). A frame that
a placement in hold drops ends in abort instead (10 R265, R242). -/
def Dev.frameComplete (d : Dev) (p : Nat) : Dev :=
  let x := d.pipeI p
  match x.ended with
  | [] => d
  | f :: rest =>
    if !f.gated then d else
    let d := d.onPipeI p fun x => { x with ended := rest }
    match f.holding.find? fun pt => decide (pt < 3) with
    | some pt =>
      (d.onPipeI p fun x => { x with done := some { f with clamp := x.clamp, bufs := (List.replicate 8 none) ++ f.bufs.drop 8 }
        }).lostDownstream p (320 + 8 * p + 2 * pt) f d.nowNs
    | none =>
      let dv := develop f p x.clamp
      let raw := frameRaw f p
      let rawClip := if f.rawDrop || raw.isEmpty then 0 else (rawTap f p (u8 raw 0) (u8 raw 1) dv.front).2.2.2
      let (scaleSat, halfClip) := tapCounts f p dv
      let n0 := developCounts f p dv rawClip
      let n := { n0 with mfSat := capN 16 (n0.mfSat + scaleSat), xferClip := capN 16 (n0.xferClip + halfClip) }
      let runs := flagRuns x.flagRuns dv.front.flags
      let (cands, lost) := addCands x.cands ((runs.filter fun r => 8 ≤ r.2.2).map fun r => (r.1, r.2.1))
      let kept := (List.range 4).map fun i => if i < f.dies.length then (f.dies.getD i DieFrame.empty).embed else []
      let d := d.onCapI p fun c => { c with embed := kept, embedFrame := f.number }
      let d := if lost then d.mark (0x7000 + 0x20 * p) 8 else d
      d.onPipeI p fun x =>
        { x with done := some { f with clamp := x.clamp }, counts := n, clamp := dv.front.est, flagRuns := runs,
                 cands := cands, candFull := x.candFull || lost }

/-! ### Drops (01 R25) -/

/-- The frames of a pipeline that may still lose a buffer, oldest first. -/
def Dev.pipeFrames (d : Dev) (p : Nat) : List Frame :=
  let x := d.pipeI p
  x.done.toList ++ x.ended ++ (x.cur.filter fun f => f.gated && !f.aborted).toList

/-- Whether a frame's buffer in ring `k` is still filling. -/
def Dev.stillFilling (d : Dev) (p k : Nat) (f : Frame) : Bool :=
  ((f.buf k).bind (d.ringI (8 * p + k)).byOrder).elim false fun b => b.st == .filling

/-- The frame that stream `race` is carrying is lost whole: the rest of it is discarded and it ends in abort, or
only its buffer of one tap, its statistics block, its raw copy or its record block is lost (01 R25; 06 R166;
08 R211; 09 R230; 10 R242; 18 R444). -/
def Dev.dropOnStream (d : Dev) (race ns : Nat) : Dev :=
  if race < 64 then
    match (List.range 8).find? fun p => d.hasCapture p && d.capRace p == race with
    | some p =>
      match (d.pipeI p).cur with
      | some f =>
        if f.aborted then d
        else if f.gated then (((d.setCur p none).dropBuffers p f ns).dropRaw p f).frameLost p race f.number ns |>.missPipe p 2
        else d.setCur p (some { f with aborted := true })
      | none => d
    | none => d
  else if 256 ≤ race ∧ race < 320 then
    let p := (race - 256) / 8
    let k := race % 8
    if k = 7 then
      match (d.pipeFrames p).find? fun f => !f.rawDrop && (f.buf 8).isSome with
      | some f =>
        let mark := fun (g : Frame) => if g.number == f.number then { g with rawDrop := true } else g
        ((d.onPipeI p fun x =>
          { x with done := x.done.map mark, ended := x.ended.map mark, cur := x.cur.map mark }).dropRaw p f).frameLost
            p race f.number ns |>.missRing (ringBolt + p) 2
      | none => d
    else
      match (d.pipeFrames p).find? (d.stillFilling p k) with
      | some f => ((d.dropBuffer p k f ns).frameLost p race f.number ns).missRing (8 * p + k) 2
      | none => d
  else if 320 ≤ race ∧ race < 384 then
    let p := (race - 320) / 8
    let point := race % 8 / 2
    if point = 3 then
      match (d.pipeFrames p).find? (d.stillFilling p 7) with
      | some f => (d.dropBuffer p 7 f ns).frameLost p race f.number ns
      | none => d
    else
      match (d.pipeI p).ended with
      | f :: rest => (d.onPipeI p fun x => { x with ended := rest }).lostDownstream p race f ns
      | [] => d
  else if 448 ≤ race ∧ race < 480 then
    let o := (race - 448) / 8
    let layer := race % 8
    ((d.onRasterI o fun x =>
      { x with underflow := bump x.underflow,
               dropped := if x.dropped.contains layer then x.dropped else x.dropped ++ [layer] }).raise (245 + 2 * o)
      ns).report 0x0020 (endpoint 0x10 o) ns [race, (d.rasterI o).frame.toNat] |>.interrupt (endpoint 0x10 o) 2
  else
    match d.res.streams.find? fun s => s.race == race with
    | some s => d.report 0x0020 s.src ns [race, 0xFFFFFFFF]
    | none => d

/-- SOURCE_BUFFER_OVERFLOW (01 R25): a drop source's buffer overflows in mid-frame. -/
def execSourceBufferOverflow (race cyc : Nat) (s : State) : Host.Outcome State Fault Refusal :=
  .next { s with dev := s.dev.dropOnStream race (s.dev.nsAt cyc) }

/-! ### Panic (17 R422) -/

/-- The channels of the pools that a stream's own writes or reads use: the pools of its rings. -/
def Dev.ringPool (d : Dev) (r : Nat) : Option Nat := (d.ringI r).bufs.head?.map (·.desc.pool)

/-- The ring through which a panic source meets frame memory: a raw tap raises panic through its bolter raw output
(R422). -/
def panicRing (race : Nat) : Option Nat :=
  if 256 ≤ race ∧ race < 320 then
    if race % 8 = 7 then some (ringBolt + (race - 256) / 8) else some (race - 256)
  else if 420 ≤ race ∧ race < 428 then some (ringBolt + race - 420)
  else if 608 ≤ race ∧ race < 608 + 28 then some (ringAudio + race - 608)
  else none

/-- The pool of a raster layer: that of its tap's ring, or of its host buffer (18 R441). -/
def Dev.layerPool (d : Dev) (o l : Nat) : Option Nat :=
  let ep := u16 (d.par (pkey 0x10 o (0x10 + l))) 1
  if ep = 0xFFFF then some (u16 (d.par (pkey 0x10 o (0x20 + l))) 0) else d.ringPool (ep % 256)

def Dev.panicChannels (d : Dev) (race : Nat) : List Nat :=
  let pool := match panicRing race with
    | some r => d.ringPool r
    | none => if 448 ≤ race ∧ race < 480 then d.layerPool ((race - 448) / 8) (race % 8) else none
  (pool.bind d.pool).elim [] fun p => maskChans p.mask

/-- PANIC: a source of the panic policy crosses its panic weir, and panic is raised on every channel of its pool;
PANICS counts each raising (R422). -/
def Dev.panicOn (d : Dev) (race : Nat) : Dev :=
  if d.res.streams.any (fun s => s.race == race && s.policy == 2) then
    let chans := d.panicChannels race
    let d := d.onDram fun t => { t with panicsCnt := bump t.panicsCnt }
    d.each chans fun d c => d.onChanI c fun x =>
      { x with panics := if x.panics.contains race then x.panics else x.panics ++ [race] }
  else d

def execPanic (race : Nat) (s : State) : Host.Outcome State Fault Refusal :=
  .next { s with dev := s.dev.panicOn race }

/-- CALM: the level falls back to the calm weir, and the source's panic ends (R422). -/
def Dev.calm (d : Dev) (race : Nat) : Dev :=
  d.onDram fun t => { t with chans := t.chans.map fun c => { c with panics := c.panics.filter (· != race) } }

def execCalm (race : Nat) (s : State) : Host.Outcome State Fault Refusal := .next { s with dev := s.dev.calm race }

/-- TOP_WEIR: the buffer reaches its top weir and the current frame is dropped (R422, 01 R25). -/
def execTopWeir (race : Nat) (cyc : Nat) (s : State) : Host.Outcome State Fault Refusal :=
  .next { s with dev := s.dev.dropOnStream race (s.dev.nsAt cyc) }

end Sys2Proof.Machine
end

