-- ==== Sys2Proof/Machine/Grist.lean ====
section
/-!
DEFINITION. Grist programs: images and their checks, demand, tile runs, frame-end runs, record blocks, and the
retirement of engines (10 R240 to R265; 23 R539).
-/
namespace Sys2Proof.Machine

/-! ### Instructions (R246, R247) -/

/-- An instruction word's fields. -/
structure GI where
  op  : Nat
  d   : Nat
  a   : Nat
  b   : Nat
  p   : Nat
  z   : Nat
  n   : Nat
  imm : Nat
deriving DecidableEq, Repr

def giOf (w : Nat) : GI := ⟨bits w 31 24, bits w 23 20, bits w 19 16, bits w 15 12, bits w 11 9, bits w 8 4, bits w 3 0, bits w 15 0⟩

def giWord (i : GI) : Nat := i.op * 2 ^ 24 + i.d * 2 ^ 20 + i.a * 2 ^ 16 + i.imm

inductive GFmt where
  | scalar
  | vector
  | imm
  | mem
  | tile
  | branch
  | loop
deriving DecidableEq, Repr

/-- The format of an opcode (R247); scalar and vector are the two uses of format R (R248). -/
def gFmt (op : Nat) : Option GFmt :=
  if within 0x00 op 0x0B ∨ op = 0x72 then some .scalar
  else if within 0x10 op 0x12 ∨ op = 0x62 ∨ op = 0x63 then some .imm
  else if within 0x20 op 0x39 ∨ within 0x40 op 0x42 ∨ op = 0x54 ∨ op = 0x64 then some .vector
  else if within 0x50 op 0x53 ∨ op = 0x55 then some .mem
  else if op = 0x60 ∨ op = 0x61 then some .tile
  else if op = 0x70 then some .branch
  else if op = 0x71 then some .loop
  else none

/-- Cost in beats (R247). -/
def gBeats (op : Nat) : Nat :=
  if [0x03, 0x26, 0x27, 0x28, 0x39, 0x50, 0x52].contains op then 2
  else if op = 0x54 then 8 else if op = 0x55 then 4 else 1

def gLoopCount (w : Nat) : Nat := bits w 23 12
def gLoopBody (w : Nat) : Nat := bits w 11 0
def gCond (w : Nat) : Nat := bits w 19 16
def gTileRow (w : Nat) : Int := (bits w 15 12 : Int) - 4
def gTileCol (w : Nat) : Int := (bits w 11 8 : Int) - 4
def gTileComp (w : Nat) : Nat := bits w 19 18
def gTilePred (w : Nat) : Nat := bits w 7 5

/-! ### Images (R257) -/

structure Image10 where
  point : Nat
  src   : Nat
  mask  : Nat
  apron : Nat
  shift : Nat
  pass  : Bool
  n     : Nat
  fe    : Nat
  pages : Nat
  banks : Nat
  gran  : Nat
deriving DecidableEq, Repr

def imageOf (v : List Byte) : Image10 :=
  { point := u8 v 1, src := u8 v 2, mask := u8 v 3, apron := u8 v 4, shift := u8 v 5, pass := u8 v 6 == 1,
    n := u16 v 8, fe := u16 v 10, pages := u16 v 12, banks := u16 v 14, gran := u32 v 16 }

/-- Clusters of a placement, ascending (R243). -/
def imageClusters (i : Image10) : List Nat := which 4 fun c => bit i.mask c

/-- Instruction `k` of an image. -/
def imageWord (v : List Byte) (k : Nat) : Nat := u32 v (32 + 4 * k)

/-- Components of the point's data (R240). -/
def imageComps (i : Image10) : Nat := if i.point = 0 ∨ (i.point = 3 ∧ i.src = 0) then 1 else 3

/-- The tap whose E′ the placement sees, if it works on G2 data. -/
def imageTap (i : Image10) : Option Nat :=
  if i.point = 2 then some i.src else if i.point = 3 ∧ 2 ≤ i.src then some (i.src - 2) else none

/-- The end of an entry: the first END that no branch or loop passed on the way leads beyond (R250, R251). -/
def entryEnd (code : Nat → Nat) (n : Nat) : Nat → Nat → Nat → Option Nat
  | 0, _, _ => none
  | fuel + 1, i, reach =>
    if n ≤ i then none
    else
      let w := code i
      let reach := match bits w 31 24 with
        | 0x70 => max reach (i + bits w 15 0)
        | 0x71 => max reach (i + gLoopBody w)
        | _ => reach
      if bits w 31 24 = 0x72 ∧ reach ≤ i then some i else entryEnd code n fuel (i + 1) reach

/-- The loops that enclose each instruction of an entry, as (last index, count), innermost first, with each
instruction's own word; none when loops do not nest or nest more than 4 deep (R250). -/
def nesting (code : Nat → Nat) (stop : Nat) : Nat → Nat → List (Nat × Nat) → Option (List (Nat × List (Nat × Nat)))
  | 0, _, _ => some []
  | fuel + 1, i, stack =>
    if stop < i then some []
    else
      let stack := stack.filter fun l => decide (i ≤ l.1)
      let w := code i
      let here := (i, stack)
      if bits w 31 24 = 0x71 then
        let last := i + gLoopBody w
        if 4 ≤ stack.length ∨ stop < last ∨ stack.any (fun l => decide (l.1 < last)) = true then none
        else (nesting code stop fuel (i + 1) ((last, gLoopCount w) :: stack)).map (here :: ·)
      else (nesting code stop fuel (i + 1) stack).map (here :: ·)

/-- The bound of an entry (R251). -/
def boundOf (code : Nat → Nat) (nest : List (Nat × List (Nat × Nat))) : Nat :=
  sumBy (fun (x : Nat × List (Nat × Nat)) => gBeats (bits (code x.1) 31 24) * (x.2.map (·.2)).foldl (· * ·) 1) nest

/-- The rules on one instruction at index `k` (R246, R248, R250). -/
def instrOk (im : Image10) (k w : Nat) (frameEnd : Bool) (loops : List (Nat × Nat)) : Bool :=
  let i := giOf w
  match gFmt i.op with
  | none => false
  | some .scalar => i.p == 0 && i.z == 0
  | some .vector =>
    i.z == 0 && (i.op != 0x35 || (decide (i.d < 8) && decide (i.n < 6))) &&
      (!(within 0x40 i.op 0x42) || (decide (i.d < 8) && decide (i.a < 8) && decide (i.b < 8))) &&
      (i.op != 0x64 || im.point == 3)
  | some .imm => i.op != 0x63 || decide (i.imm < 64)
  | some .mem => true
  | some .tile =>
    let row := gTileRow w
    let col := gTileCol w
    bits w 17 16 == 0 && bits w 4 0 == 0 && !frameEnd && decide (gTileComp w < imageComps im) &&
      (if i.op = 0x60 then
        decide (-(im.apron : Int) ≤ row) && decide (row ≤ 7 + im.apron) && decide (-(im.apron : Int) ≤ col) &&
          decide (col ≤ im.apron)
      else im.point != 3 && decide (0 ≤ row) && decide (row ≤ 7) && col == 0)
  | some .branch =>
    let off := bits w 15 0
    decide (gCond w ≤ 4) && decide (1 ≤ off) && decide (off ≤ 4095) && decide (k + off < im.n) &&
      loops.head?.elim true (fun l => decide (k + off ≤ l.1))
  | some .loop => decide (1 ≤ gLoopCount w) && decide (1 ≤ gLoopBody w) && decide (k + gLoopBody w < im.n)

/-- The nesting and bound of an entry, if it keeps R250. -/
def entryBound (v : List Byte) (im : Image10) (entry : Nat) (frameEnd : Bool) : Option Nat := do
  let code := imageWord v
  let stop ← entryEnd code im.n (im.n + 1) entry entry
  let nest ← nesting code stop (im.n + 1) entry []
  if nest.all fun x => instrOk im x.1 (code x.1) frameEnd x.2 then some (boundOf code nest) else none

def tileBound (v : List Byte) : Nat := (entryBound v (imageOf v) 0 false).getD 0
def feBound (v : List Byte) : Nat :=
  if (imageOf v).fe = 0xFFFF then 0 else (entryBound v (imageOf v) (imageOf v).fe true).getD 0

/-- The check of an image at seal for instance 4 × pipeline + `point`: 0, 0x11 or 0x13 (R250, R251, R257). -/
def imageCode (v : List Byte) (point : Nat) (xfer : Nat → Nat) : Nat :=
  let im := imageOf v
  let nbanks := (which 16 fun b => bit im.banks b).length
  let npages := (which 16 fun b => bit im.pages b).length
  if v.length ≠ 32 + 4 * im.n + im.gran then 0x13
  else if u8 v 0 ≠ 1 ∨ im.point ≠ point ∨ 3 < im.point then 0x11
  else if (im.point = 2 ∧ 5 < im.src) ∨ (im.point = 3 ∧ 7 < im.src) ∨ (im.point < 2 ∧ im.src ≠ 0) then 0x11
  else if im.mask = 0 ∨ 15 < im.mask ∨ 4 < im.apron ∨ 2 < im.shift then 0x11
  else if (imageTap im).isSome ∧ im.shift ≠ 0 then 0x11
  else if 1 < u8 v 6 ∨ u8 v 7 ≠ 0 then 0x11
  else if im.n = 0 ∨ 4096 < im.n ∨ (im.fe ≠ 0xFFFF ∧ im.n ≤ im.fe) then 0x11
  else if npages ≠ ceilDiv im.n 256 ∨ nbanks = 0 then 0x11
  else if im.gran % 16 ≠ 0 ∨ 16384 * nbanks < im.gran then 0x11
  else if !allZero ((v.drop 20).take 12) then 0x11
  else if bits (imageWord v (im.n - 1)) 31 24 ≠ 0x72 then 0x11
  else if (imageTap im).any (fun k => xfer k == 0) then 0x11
  else if !(List.range im.n).all (fun k => (gFmt (bits (imageWord v k) 31 24)).isSome) then 0x11
  else
    match entryBound v im 0 false with
    | none => 0x11
    | some b =>
      if 65535 < b then 0x11
      else if im.fe = 0xFFFF then 0
      else match entryBound v im im.fe true with
        | none => 0x11
        | some b => if 65535 < b then 0x11 else 0

/-! ### Demand (R260, R265) -/

def retiredIn (l : List (List Bool)) (c : Nat) : List Bool := l.getD c (List.replicate 16 false)

/-- Healthy engines of a cluster. -/
def MillSt.healthy (m : MillSt) (c : Nat) : Nat := (retiredIn m.retired c).countP (!·)

/-- Demand of a cluster with `h` healthy engines, under a set of parameters; none when the cluster is in use and has
no engine (R260). -/
def clusterDemand (params : List (Nat × List Byte)) (p j h : Nat) : Option Q :=
  let c := capCfg params p
  let frame := if c.period = 0 then 0 else 1000000000
  let per := max 1 c.period
  let used := (List.range 4).filterMap fun pt =>
    let v := placedImage params p pt
    if v.isEmpty || !bit (imageOf v).mask j then none else some v
  if used.isEmpty then some qZero
  else if h = 0 then none
  else
    let half := colourN params p 0 == 3
    let one := fun v =>
      let im := imageOf v
      let later := im.point = 1 ∨ im.point = 2 ∨ (im.point = 3 ∧ im.src ≠ 0)
      let w := if later then picW params p else devW params p c
      let t := if later ∧ half = true then totalLines c / 2 else totalLines c
      let cl := (imageClusters im).length
      -- beats per second × per × cl
      (⟨((tileBound v * ceilDiv w 8 * ceilDiv t 8 + feBound v * h * cl) * frame : Nat), per * cl⟩ : Q)
    some (qDivNat (qSum (used.map one)) (600000000 * h))

def demandFits (q : Option Q) : Bool := q.elim false fun q => qLe q ⟨1, 1⟩

/-- The highest demand of a mill's clusters and its cluster, the lowest-numbered on a tie (R260, R269). -/
def millDemand (params : List (Nat × List Byte)) (p : Nat) (healthy : Nat → Nat) : Q × Nat :=
  (List.range 4).foldl (fun acc j => match clusterDemand params p j (healthy j) with
    | some q => if qLt acc.1 q then (q, j) else acc
    | none => acc) (qZero, 0)

/-- After a retirement: every placement that uses a cluster whose demand no longer fits enters its failure mode from
the next gate, and a report names the cluster (R265). -/
def Dev.recheckMill (d : Dev) (p j ns : Nat) : Dev :=
  if demandFits (clusterDemand d.params p j ((d.millI p).healthy j)) then d
  else
    let pts := (List.range 4).filter fun pt =>
      let v := placedImage d.params p pt
      !v.isEmpty && bit (imageOf v).mask j
    let d := d.onMillI p fun m =>
      { m with failing := m.failing ||| BitVec.ofNat 4 (maskOf 4 fun pt => pts.contains pt) }
    (d.report 0x0042 (endpoint 0x0A (4 * p)) ns [p, j]).raise (192 + p) ns

/-! ### A run (R245, R247, R248) -/

/-- The state of a run. -/
structure Run where
  pc    : Nat
  s     : List Nat
  v     : List (List Nat)
  p     : List Nat
  loops : List (Nat × Nat × Nat)       -- first, last, runs left
  beat  : Nat
  gran  : List Host.Cell
  log   : List GranWrite
  coll  : List Nat                     -- ports whose collision flag is set
  lost  : Nat                          -- writes lost in this run
  emits : List Byte
  outs  : List (Nat × Nat × Nat × Nat) -- component, x, y, word; newest first
  fault : Bool
  done  : Bool

/-- What a run sees. -/
structure RunEnv where
  code    : Nat → Nat
  banks   : Nat
  cluster : Nat
  engine  : Nat
  start   : Nat                        -- beat at which it starts
  info    : Nat → Nat
  consts  : List Byte
  tile    : Nat → Int → Int → Nat      -- component, row, column: tile word
  out     : Nat → Nat → Nat → Option (Nat × Nat)   -- row, column, component: frame position inside the frame

def Run.sr (r : Run) (i : Nat) : Nat := if i = 0 then 0 else r.s.getD i 0
def Run.vr (r : Run) (i : Nat) : List Nat := r.v.getD i (List.replicate 8 0)
def Run.pr (r : Run) (i : Nat) : Nat := if i = 0 then 0xFF else r.p.getD i 0
def Run.setS (r : Run) (i v : Nat) : Run := if i = 0 then r else { r with s := r.s.set i (v % 2 ^ 32) }
def Run.setP (r : Run) (i v : Nat) : Run := if i = 0 then r else { r with p := r.p.set i (v % 256) }

/-- A predicate written in the lanes whose bit in `mask` is set. -/
def Run.setPm (r : Run) (i mask v : Nat) : Run := r.setP i ((v &&& mask) ||| (r.pr i &&& (mask ^^^ 0xFF)))

/-- A vector register written in the lanes whose bit in `mask` is set. -/
def Run.setV (r : Run) (i mask : Nat) (f : Nat → Nat) : Run :=
  { r with v := r.v.modify i fun old => (List.range 8).map fun k => if bit mask k then f k % 65536 else old.getD k 0 }

def s16 (w : Nat) : Int := toSigned 16 w
def satS (v : Int) : Nat := ofSigned 16 (clampI (-32768) 32767 v)
def satU (v : Int) : Nat := (clampI 0 65535 v).toNat

/-- A product rounded and shifted (R247). -/
def mulShift (a b : Int) (n : Nat) : Int := (a * b + (if n = 0 then 0 else 2 ^ (n - 1))) / 2 ^ n

/-- A vector lane operation on lanes `x` and `y` with the old destination `o` (R247). -/
def laneOp (op n x y o : Nat) : Nat :=
  let a := s16 x
  let b := s16 y
  match op with
  | 0x20 => x + y
  | 0x21 => satS (a + b)
  | 0x22 => satU (x + y : Nat)
  | 0x23 => x + 65536 - y
  | 0x24 => satS (a - b)
  | 0x25 => satU ((x : Int) - y)
  | 0x26 => satS (mulShift a b n)
  | 0x27 => satU (mulShift x y n)
  | 0x28 => satS (s16 o + mulShift a b n)
  | 0x29 => if a ≤ b then x else y
  | 0x2A => if a ≤ b then y else x
  | 0x2B => min x y
  | 0x2C => max x y
  | 0x2D => x &&& y
  | 0x2E => x ||| y
  | 0x2F => x ^^^ y
  | 0x30 => x * 2 ^ n
  | 0x31 => ofSigned 16 (a / (2 ^ n : Nat))
  | 0x32 => x / 2 ^ n
  | 0x33 => satS a.natAbs
  | _ => o

def cmpOp (n x y : Nat) : Bool :=
  match n with
  | 0 => x == y
  | 1 => x != y
  | 2 => decide (s16 x < s16 y)
  | 3 => decide (s16 x ≤ s16 y)
  | 4 => decide (x < y)
  | _ => decide (x ≤ y)

/-- The plain address and window of an effective address, if the access is allowed (R252, R253). -/
def granAddr (banks ea align : Nat) : Option (Nat × Nat) :=
  let win := ea / 2 ^ 18
  let a := ea % 2 ^ 18
  if 0x100000 ≤ ea ∨ win = 3 ∨ bit banks (a / 0x4000) = false ∨ ea % align ≠ 0 then none else some (a, win)

def granWord (g : List Host.Cell) (a : Nat) : Nat := leNat (cellReads g a 4)

/-- A write of part of one aligned word: `f` gives the new word from the old one. Two writes of one word in one
granary cycle collide: the lower-numbered port wins (R254). -/
def Run.writeWord (e : RunEnv) (r : Run) (a : Nat) (f : Nat → Nat) : Run :=
  let now := e.start + r.beat
  match r.log.find? fun g => g.cluster == e.cluster && g.word == a && g.beat == now with
  | some g =>
    if g.port < e.engine then { r with coll := r.coll ++ [e.engine], lost := r.lost + 1 }
    else if g.port = e.engine then
      { r with gran := cellWrite r.gran a (leBytes 4 (f (granWord r.gran a))) }
    else
      { r with gran := cellWrite r.gran a (leBytes 4 (f g.old)), coll := r.coll ++ [g.port], lost := r.lost + 1,
               log := r.log.map fun x => if x = g then { g with port := e.engine } else x }
  | none =>
    let old := granWord r.gran a
    { r with gran := cellWrite r.gran a (leBytes 4 (f old)), log := r.log ++ [⟨e.cluster, a, e.engine, now, old⟩] }

/-- The stored value of a window (R252). -/
def windowed (win old data : Nat) : Nat :=
  match win with
  | 0 => data
  | 1 => old ||| data
  | _ => old &&& (data ^^^ 0xFFFFFFFF)

def Run.stop (r : Run) : Run := { r with fault := true, done := true }

/-- A memory instruction (R247, R252, R253). -/
def Run.memOp (e : RunEnv) (r : Run) (i : GI) : Run :=
  let ea := ofSigned 32 ((r.sr i.a : Int) + toSigned 16 i.imm)
  let vec := i.op == 0x52 || i.op == 0x53
  match granAddr e.banks ea (if vec then 16 else 4) with
  | none => r.stop
  | some (a, win) =>
    match i.op with
    | 0x50 => r.setS i.d (granWord r.gran a)
    | 0x51 => r.writeWord e a fun old => windowed win old (r.sr i.d)
    | 0x52 => r.setV i.d 0xFF fun k => leNat (cellReads r.gran (a + 2 * k) 2)
    | 0x53 =>
      (List.range 4).foldl (fun r w =>
        let m0 := bit (r.pr 7) (2 * w)
        let m1 := bit (r.pr 7) (2 * w + 1)
        if m0 || m1 then
          r.writeWord e (a + 4 * w) fun old =>
            let data := (r.vr i.d).getD (2 * w) 0 + 65536 * (r.vr i.d).getD (2 * w + 1) 0
            let new := windowed win old data
            (if m0 then new % 65536 else old % 65536) + 65536 * (if m1 then new / 65536 else old / 65536)
        else r) r
    | _ =>
      if win ≠ 0 then r.stop
      else
        let old := granWord r.gran a
        (r.writeWord e a fun o => (o + r.sr i.d) % 2 ^ 32).setS i.d old

/-- A vector instruction in format R (R247, R248). -/
def Run.vecOp (e : RunEnv) (r : Run) (i : GI) : Run :=
  let m := r.pr i.p
  let x := fun k => (r.vr i.a).getD k 0
  let y := fun k => (r.vr i.b).getD k 0
  let o := fun k => (r.vr i.d).getD k 0
  match i.op with
  | 0x34 => r.setV i.d 0xFF fun k => if bit m k then x k else y k
  | 0x35 =>
    let old := r.pr (i.d % 8)
    r.setP (i.d % 8) (maskOf 8 fun k => if bit m k then cmpOp i.n (x k) (y k) else bit old k)
  | 0x36 => r.setV i.d m fun _ => r.sr i.a
  | 0x37 =>
    let w := x (i.n % 8)
    if bit m (i.n % 8) then r.setS i.d (if 8 ≤ i.n then ofSigned 32 (s16 w) else w) else r
  | 0x38 => r.setV i.d (if bit m (i.n % 8) then 2 ^ (i.n % 8) else 0) fun _ => r.sr i.a
  | 0x39 => r.setS i.d (ofSigned 32 ((List.range 8).foldl (fun (t : Int) k => if bit m k then t + s16 (x k) else t) 0))
  | 0x40 => r.setPm (i.d % 8) m (r.pr (i.a % 8) &&& r.pr (i.b % 8))
  | 0x41 => r.setPm (i.d % 8) m (r.pr (i.a % 8) ||| r.pr (i.b % 8))
  | 0x42 => r.setPm (i.d % 8) m (r.pr (i.a % 8) ^^^ 0xFF)
  | 0x54 =>
    let addr := fun k => granAddr e.banks ((r.sr i.a + 2 * y k) % 2 ^ 32) 1
    if (List.range 8).all fun k => !bit m k || (addr k).isSome then
      r.setV i.d m fun k => (addr k).elim 0 fun a => leNat (cellReads r.gran a.1 2)
    else r.stop
  | 0x64 => { r with emits := r.emits ++ (List.range 8).flatMap fun k => leBytes 2 (x k) }
  | op => r.setV i.d m fun k => laneOp op i.n (x k) (y k) (o k)

/-- A scalar instruction in format R (R247). -/
def Run.scalarOp (r : Run) (i : GI) : Run :=
  let a := r.sr i.a
  let b := r.sr i.b
  match i.op with
  | 0x01 => r.setS i.d (a + b)
  | 0x02 => r.setS i.d (a + 2 ^ 32 - b)
  | 0x03 => r.setS i.d (a * b)
  | 0x04 => r.setS i.d (a &&& b)
  | 0x05 => r.setS i.d (a ||| b)
  | 0x06 => r.setS i.d (a ^^^ b)
  | 0x07 => r.setS i.d (a * 2 ^ (b % 32))
  | 0x08 => r.setS i.d (a / 2 ^ (b % 32))
  | 0x09 => r.setS i.d (ofSigned 32 (toSigned 32 a / (2 ^ (b % 32) : Nat)))
  | 0x0A => r.setS i.d (if toSigned 32 a < toSigned 32 b then 1 else 0)
  | 0x0B => r.setS i.d (if a < b then 1 else 0)
  | 0x72 => { r with done := true }
  | _ => r

/-- An immediate instruction (R247, R248). -/
def Run.immOp (e : RunEnv) (r : Run) (i : GI) : Run :=
  match i.op with
  | 0x10 => r.setS i.d (ofSigned 32 (toSigned 32 (r.sr i.a) + toSigned 16 i.imm))
  | 0x11 => r.setS i.d i.imm
  | 0x12 => r.setS i.d (i.imm * 65536 + r.sr i.d % 65536)
  | 0x62 =>
    if i.imm = 7 then
      ({ r with coll := r.coll.filter (· != e.engine) }).setS i.d (if r.coll.contains e.engine then 1 else 0)
    else r.setS i.d (e.info i.imm)
  | _ => r.setS i.d (u32 e.consts (4 * i.imm))

/-- A tile instruction (R247). -/
def Run.tileOp (e : RunEnv) (r : Run) (w : Nat) : Run :=
  let vi := bits w 23 20
  let c := gTileComp w
  if bits w 31 24 = 0x60 then r.setV vi 0xFF fun k => e.tile c (gTileRow w) (gTileCol w + k)
  else
    let m := r.pr (gTilePred w)
    let outs := (List.range 8).filterMap fun k =>
      if bit m k then (e.out (gTileRow w).toNat k c).map fun xy => (c, xy.1, xy.2, (r.vr vi).getD k 0) else none
    { r with outs := outs ++ r.outs }

/-- After an instruction: a finished loop body runs again, or the run goes on past it. -/
def Run.advance (r : Run) : List (Nat × Nat × Nat) → Nat → Run
  | [], next => { r with pc := next, loops := [] }
  | (first, last, left) :: rest, next =>
    if next ≤ last then { r with pc := next, loops := (first, last, left) :: rest }
    else if 1 < left then { r with pc := first, loops := (first, last, left - 1) :: rest }
    else r.advance rest next

/-- One instruction. -/
def Run.step (e : RunEnv) (r : Run) : Run :=
  let w := e.code r.pc
  let i := giOf w
  let after := fun (r : Run) (next : Nat) =>
    if r.done then { r with beat := r.beat + gBeats i.op }
    else ({ r with beat := r.beat + gBeats i.op }).advance r.loops next
  match gFmt i.op with
  | some .scalar => after (r.scalarOp i) (r.pc + 1)
  | some .vector => after (r.vecOp e i) (r.pc + 1)
  | some .imm => after (r.immOp e i) (r.pc + 1)
  | some .mem => after (r.memOp e i) (r.pc + 1)
  | some .tile => after (r.tileOp e w) (r.pc + 1)
  | some .branch =>
    let a := i.d
    let go := match gCond w with
      | 0 => true
      | 1 => r.sr a != 0
      | 2 => r.sr a == 0
      | 3 => r.pr (a % 8) != 0
      | _ => r.pr (a % 8) == 0
    after r (if go then r.pc + bits w 15 0 else r.pc + 1)
  | some .loop =>
    after { r with loops := (r.pc + 1, r.pc + gLoopBody w, gLoopCount w) :: r.loops } (r.pc + 1)
  | none => r.stop

/-- A run, to its end or fault. -/
def Run.go (e : RunEnv) : Nat → Run → Run
  | 0, r => r
  | fuel + 1, r => if r.done then r else Run.go e fuel (r.step e)

def Run.start (entry : Nat) (gran : List Host.Cell) (log : List GranWrite) (coll : List Nat) : Run :=
  { pc := entry, s := List.replicate 16 0, v := List.replicate 16 (List.replicate 8 0),
    p := List.replicate 8 0xFF, loops := [], beat := 0, gran := gran, log := log, coll := coll, lost := 0,
    emits := [], outs := [], fault := false, done := false }

/-! ### Tile data (R243, R244) -/

/-- The picture a placement sees: size and value of component, x, y. -/
structure PointData where
  w : Nat
  h : Nat
  val : Nat → Nat → Nat → Int

def pointData (f : Frame) (p : Nat) (im : Image10) (dv : Developed) : PointData :=
  match imageTap im with
  | some k =>
    let m := (conversion f p k dv).1
    ⟨m.w, m.h, fun c x y => v3 (m.at x y) c⟩
  | none =>
    if imageComps im = 1 then ⟨dv.front.s4.w, dv.front.s4.h, fun _ x y => dv.front.s4.at x y⟩
    else ⟨dv.dem.w, dv.dem.h, fun c x y => v3 (dv.dem.at x y) c⟩

/-- A pixel as a tile word, and whether it saturated (R244). -/
def tileWord (im : Image10) (v : Int) : Nat × Bool :=
  if (imageTap im).isSome then (((2 * v * 65535 + 2 ^ 192) / 2 ^ 193).toNat % 65536, false)
  else
    let h : Int := if im.shift = 0 then 0 else 2 ^ (im.shift - 1)
    let w := (v + h) / (2 ^ im.shift : Nat)
    (satS w, decide (w < -32768) || decide (32767 < w))

/-- The value that a written word stands for (R244): a front word, or w over 65,535 at G2. -/
def wordValue (im : Image10) (w : Nat) : Int :=
  if (imageTap im).isSome then w else s16 w * (2 ^ im.shift : Nat)

/-! ### Running tiles -/

/-- Beats at 600 Mbeat/s since start-up, at a TCLK cycle of the running tick (R249). -/
def Dev.beatAt (d : Dev) (cyc : Nat) : Nat := d.tclkAt cyc * 24 / 5

/-- An engine is in a run. -/
def MillSt.running (m : MillSt) (c e beat : Nat) : Bool :=
  m.busy.any fun b => b.cluster == c && b.engine == e && decide (beat < b.stop)

/-- The lowest-numbered healthy engine of a cluster that is idle (R243). -/
def MillSt.idleEngine (m : MillSt) (c beat : Nat) : Option Nat :=
  (List.range 16).find? fun e =>
    !(retiredIn m.retired c).getD e true && !m.running c e beat

/-- The engine of a frame-end run: the lowest-numbered healthy one of the cluster, once it is idle (R261). -/
def MillSt.endEngine (m : MillSt) (c beat : Nat) : Option Nat :=
  ((List.range 16).find? fun e => !(retiredIn m.retired c).getD e true).filter fun e => !m.running c e beat

/-- The constants of a placement (R256). -/
def placedConsts (params : List (Nat × List Byte)) (p pt : Nat) : List Byte := parOf params (pkey 0x0A (4 * p + pt) 1)

/-- A frame of the pipeline is changed, by number. -/
def Dev.onEnded (d : Dev) (p n : Nat) (g : Frame → Frame) : Dev :=
  d.onPipeI p fun x => { x with ended := x.ended.map fun f => if f.number == n then g f else f }

/-- Instruction `k` of a placement as its cluster's instruction store holds it (R257, R258). -/
def MillSt.codeWord (m : MillSt) (c : Nat) (pages k : Nat) : Nat :=
  let page := (which 16 fun b => bit pages b).getD (k / 256) 0
  ((m.pages.getD c []).find? fun w => w.1 == 256 * page + k % 256).elim 0 (·.2.toNat)

def RunEnv.make (m : MillSt) (v : List Byte) (f : Frame) (p pt c e start tx ty : Nat) (pd : PointData) : RunEnv :=
  let im := imageOf v
  { code := m.codeWord c im.pages, banks := im.banks, cluster := c, engine := e, start := start,
    info := fun i => match i with
      | 0 => tx
      | 1 => ty
      | 2 => pd.w
      | 3 => pd.h
      | 4 => f.number
      | 5 => f.cfa
      | 6 => 64 * p + 16 * c + e
      | _ => 0,
    consts := placedConsts f.params p pt,
    tile := fun comp row col =>
      (tileWord im (pd.val comp (mirror pd.w (8 * tx + col)) (mirror pd.h (8 * ty + row)))).1,
    out := fun row col _ =>
      if 8 * tx + col < pd.w ∧ 8 * ty + row < pd.h then some (8 * tx + col, 8 * ty + row) else none }

/-- What a run leaves in the mill: granary, writes of cycles not yet past, collision flags and counts, and the run of
its engine. -/
def Dev.afterRun (d : Dev) (p pt : Nat) (f : Frame) (c e start unit : Nat) (r : Run) : Dev :=
  d.onMillI p fun m =>
    { m with granary := m.granary.set c r.gran,
             writes := r.log.filter (fun g => decide (start ≤ g.beat)),
             collide := (m.collide.filter (fun x => x.1 != c)) ++ r.coll.map fun k => (c, k),
             collisions := bumpBy m.collisions r.lost,
             busy := (m.busy.filter fun b => !(b.cluster == c && b.engine == e)) ++
               [⟨c, e, start + r.beat, pt, f.number, unit⟩] }

def collOf (m : MillSt) (c : Nat) : List Nat := (m.collide.filter (·.1 == c)).map (·.2)

/-- A run that faults: FAULTS rises, and one report per frame and placement names the tile and the instruction
(R262). -/
def Dev.gristFault (d : Dev) (p pt : Nat) (f : Frame) (tile pc ns : Nat) : Dev :=
  let told := (d.millI p).reported.contains (pt, f.number)
  let d := d.onMillI p fun m =>
    { m with faults := bump m.faults, reported := if told then m.reported else lastN 64 (m.reported ++ [(pt, f.number)]) }
  let d := d.raise (192 + p) ns
  if told then d else d.report 0x0040 (endpoint 0x0A (4 * p + pt)) ns [tile, pc]

/-- Tiles of a frame at a point. -/
def tileCount (w h : Nat) : Nat := ceilDiv w 8 * ceilDiv h 8

/-- The clusters whose last tile of the frame has run. -/
def tilesDone (im : Image10) (f : Frame) (pt total c : Nat) : Bool :=
  let cl := imageClusters im
  (List.range total).all fun k => cl.getD (k % cl.length) 4 != c || f.tiles.contains (pt, k)

/-- A tile of the frame is still running in the cluster. -/
def MillSt.busyWith (m : MillSt) (pt frame c beat : Nat) : Bool :=
  m.busy.any fun b => b.cluster == c && b.point == pt && b.frame == frame && decide (beat < b.stop)

/-- The GS header (R261). -/
def gsHeader (f : Frame) (p : Nat) (overflowed : Bool) (n : Nat) : List Byte :=
  padTo 64 (postmark (f.stamp / 2 ^ 32) f.epoch f.number (0xA0 + p) ++ leBytes 2 f.status.toNat ++
    leBytes 1 (packWord [(0, overflowed.toNat), (1, f.gsFault.toNat)]) ++ leBytes 1 0 ++ leBytes 4 f.pset ++ leBytes 4 n)

/-- The record block of a frame is written and becomes full: emissions in tile order, then those of the frame-end
runs in cluster order; an emission past the limit is discarded (R261). -/
def Dev.gsBlock (d : Dev) (p : Nat) (f : Frame) : Dev :=
  match (f.buf 7).bind (d.ringI (8 * p + 7)).byOrder with
  | none => d
  | some b =>
    let limit := leNat (parOf f.params (pkey 0x0A (4 * p + 3) 2))
    let parts := (sortBy (·.1) f.gsRecs).flatMap fun r => chunks 16 r.2.length r.2
    let kept := (parts.take (limit / 16)).flatMap id
    let overflowed := decide (limit / 16 < parts.length)
    let d := d.memWrite b.desc.pool (b.desc.hdrOff + 64) kept
    let d := d.memWrite b.desc.pool b.desc.hdrOff (gsHeader f p overflowed kept.length)
    let d := if overflowed then
        ((d.onMillI p fun m => { m with overflow := true }).mark (0xB000 + 0x40 * p) 12).raiseNow (192 + p) else d
    d.onRingI (8 * p + 7) fun r =>
      r.fill b.order (postmarkNat (f.stamp / 2 ^ 32) f.epoch f.number (0xA0 + p)) f.pset (64 + kept.length)

/-- Whether every tile and every frame-end run of the GS placement is done for a frame. Frame-end runs stand in
`tiles` past the tile numbers, at 2^32 + cluster. -/
def gsComplete (im : Image10) (f : Frame) (total : Nat) : Bool :=
  (List.range total).all (fun k => f.tiles.contains (3, k)) &&
    (im.fe == 0xFFFF || (imageClusters im).all fun c => f.tiles.contains (3, 2 ^ 32 + c))

/-- One run of a placement on a frame: `unit` is a tile number, or 2^32 + cluster for a frame-end run. -/
def Dev.runUnit (d : Dev) (p pt : Nat) (f : Frame) (v : List Byte) (c unit : Nat) (pd : PointData) (cyc : Nat) : Dev :=
  let im := imageOf v
  let m := d.millI p
  let start := d.beatAt cyc
  let frameEnd := decide (2 ^ 32 ≤ unit)
  match if frameEnd then m.endEngine c start else m.idleEngine c start with
  | none => d
  | some e =>
    let cols := ceilDiv pd.w 8
    let tx := if frameEnd then 0 else unit % cols
    let ty := if frameEnd then 0 else unit / cols
    let env := RunEnv.make m v f p pt c e start tx ty pd
    let r0 := Run.start (if frameEnd then im.fe else 0) (m.granary.getD c []) m.writes (collOf m c)
    -- an uncorrectable error in a fetch or a granary read stops the tile at once (R262)
    let hurt := m.poison.contains c
    let r := if hurt then { r0 with fault := true } else Run.go env 65536 r0
    let d := (d.afterRun p pt f c e start unit r).onMillI p fun m => { m with poison := m.poison.filter (· != c) }
    -- pixels that saturated on the way in
    let sat := if frameEnd then 0 else
      sumBy (fun k => (List.range (imageComps im)).countP fun ch =>
        match env.out (k / 8) (k % 8) ch with
        | some xy => (tileWord im (pd.val ch xy.1 xy.2)).2
        | none => false) (List.range 64)
    let d := d.onMillI p fun m => { m with saturated := bumpBy m.saturated sat }
    let d := if r.fault then d.gristFault p pt f unit r.pc (d.nsAt cyc) else d
    let d := d.onEnded p f.number fun g =>
      { g with tiles := g.tiles ++ [(pt, unit)], gsFault := g.gsFault || (pt == 3 && r.fault),
               written := if r.fault ∨ pt = 3 then g.written
                 else (r.outs.map fun o => (pt, o.1, o.2.1, o.2.2.1, wordValue im o.2.2.2)) ++ g.written,
               gsRecs := if r.fault ∨ r.emits.isEmpty then g.gsRecs else g.gsRecs ++ [(unit, r.emits)] }
    if pt = 3 then
      match (d.pipeI p).ended.find? fun g => g.number == f.number with
      | some g => if gsComplete im g (tileCount pd.w pd.h) then d.gsBlock p g else d
      | none => d
    else d

/-- A tile of frame `f` waits in its cluster: the frame-end run of an earlier frame at its point is due there, or one is
in progress (R261). -/
def Dev.awaitsEnd (d : Dev) (p pt c beat : Nat) (f : Frame) : Bool :=
  ((d.pipeI p).ended.takeWhile (·.number != f.number)).any (fun g =>
    let im := imageOf (placedImage g.params p pt)
    !(placedImage g.params p pt).isEmpty && im.fe != 0xFFFF && bit im.mask c && !g.passing.contains pt &&
      !g.holding.contains pt && !g.tiles.contains (pt, 2 ^ 32 + c)) ||
    (d.millI p).busy.any fun b => b.cluster == c && b.unit == 2 ^ 32 + c && b.frame != f.number && decide (beat < b.stop)

/-- TILE_RUN (R243 to R245, R262): the oldest frame of the pipeline in which this tile has not run at the point. A
point in hold or pass runs nothing (R265). -/
def Dev.tileRun (d : Dev) (p pt tile cyc : Nat) : Dev :=
  let x := d.pipeI p
  match x.ended.find? fun f =>
      !(placedImage f.params p pt).isEmpty && !f.tiles.contains (pt, tile) && !f.passing.contains pt &&
        !f.holding.contains pt with
  | none => d
  | some f =>
    let v := placedImage f.params p pt
    let im := imageOf v
    let pd := pointData f p im (develop f p x.clamp)
    let cl := imageClusters im
    let c := cl.getD (tile % cl.length) 0
    if tileCount pd.w pd.h ≤ tile ∨ d.awaitsEnd p pt c (d.beatAt cyc) f = true then d
    else d.runUnit p pt f v c tile pd cyc

def execTileRun (pipe : Fin 8) (point : Fin 4) (tile cyc : Nat) (s : State) : Host.Outcome State Fault Refusal :=
  .next { s with dev := s.dev.tileRun pipe point tile cyc }

/-- FRAME_END_RUN (R261): once a cluster has finished its last tile of the frame, the frame-end entry runs there. -/
def Dev.frameEndRun (d : Dev) (p pt c cyc : Nat) : Dev :=
  let x := d.pipeI p
  match x.ended.find? fun f =>
      !(placedImage f.params p pt).isEmpty && !f.tiles.contains (pt, 2 ^ 32 + c) && !f.passing.contains pt &&
        !f.holding.contains pt with
  | none => d
  | some f =>
    let v := placedImage f.params p pt
    let im := imageOf v
    let pd := pointData f p im (develop f p x.clamp)
    if im.fe = 0xFFFF ∨ bit im.mask c = false ∨ tilesDone im f pt (tileCount pd.w pd.h) c = false ∨
        (d.millI p).busyWith pt f.number c (d.beatAt cyc) = true then d
    else d.runUnit p pt f v c (2 ^ 32 + c) pd cyc

def execFrameEndRun (pipe : Fin 8) (point cluster : Fin 4) (cyc : Nat) (s : State) :
    Host.Outcome State Fault Refusal :=
  .next { s with dev := s.dev.frameEndRun pipe point cluster cyc }

/-! ### Engines (R263 to R265; 23 R539) -/

/-- Whether a point's unit of a frame can still be run again: the frame is in the pipeline, and its record block, if the
unit is one of the GS placement, is not yet written. -/
def Dev.notReturned (d : Dev) (p : Nat) (b : EngineRun) : Option Frame :=
  ((d.pipeI p).ended.find? fun f => f.number == b.frame && f.tiles.contains (b.point, b.unit)).filter fun f =>
    b.point != 3 || d.stillFilling p 7 f

/-- The run of an engine is withdrawn, if it has not returned, and its tile goes to another healthy engine of the
cluster; with none idle it waits for the next TILE_RUN of its tile. Granary stores made remain (R263). -/
def Dev.reissue (d : Dev) (p c e cyc : Nat) : Dev :=
  let forget := fun (d : Dev) =>
    d.onMillI p fun m => { m with busy := m.busy.filter fun b => !(b.cluster == c && b.engine == e) }
  match (d.millI p).busy.find? fun b => b.cluster == c && b.engine == e with
  | none => d
  | some b =>
    match d.notReturned p b with
    | none => forget d
    | some f =>
      let v := placedImage f.params p b.point
      let pd := pointData f p (imageOf v) (develop f p (d.pipeI p).clamp)
      let cols := ceilDiv pd.w 8
      let own := fun (w : Nat × Nat × Nat × Nat × Int) =>
        w.1 == b.point && w.2.2.1 / 8 == b.unit % cols && w.2.2.2.1 / 8 == b.unit / cols
      let undo := fun (g : Frame) =>
        { g with tiles := g.tiles.filter (· != (b.point, b.unit)), written := g.written.filter fun w => !own w,
                 gsRecs := if b.point = 3 then g.gsRecs.filter (·.1 != b.unit) else g.gsRecs }
      let d := d.onEnded p f.number undo
      -- the engine itself is not idle while the tile is handed on
      let d := d.onMillI p fun m =>
        { m with busy := m.busy.map fun x => if x.cluster == c && x.engine == e then
            { x with stop := d.beatAt cyc + 1 } else x }
      forget (d.runUnit p b.point (undo f) v c b.unit pd cyc)

/-- An engine is retired for good, and a tile running on it is re-issued (R264). -/
def Dev.retireEngine (d : Dev) (p c e cyc : Nat) : Dev :=
  if (retiredIn (d.millI p).retired c).getD e true then d
  else
    let ns := d.nsAt cyc
    let runs := (d.millI p).running c e (d.beatAt cyc)
    let d := d.onMillI p fun m =>
      { m with retired := m.retired.modify c fun l => l.set e true,
               deferred := m.deferred.filter fun x => x.1 != 16 * c + e,
               reissued := if runs then bump m.reissued else m.reissued }
    let d := (d.report 0x0041 (endpoint 0x0A (4 * p)) ns [64 * p + 16 * c + e]).raise (192 + p) ns
    let d := if runs then d.reissue p c e cyc else d
    d.recheckMill p c ns

/-- ENGINE_RESET (R263, R264): the engine is reset and its tile re-issued; the second reset within 24 hours of
operation retires it. -/
def Dev.resetEngine (d : Dev) (p c e cyc : Nat) : Dev :=
  if (retiredIn (d.millI p).retired c).getD e true then d
  else
    let hour := d.health.life.hours
    let again := (d.millI p).resets.any fun r => r.1 == c && r.2.1 == e && decide (hour < r.2.2 + 24)
    let d := d.onMillI p fun m =>
      { m with reissued := bump m.reissued,
               resets := (m.resets.filter fun r => !(r.1 == c && r.2.1 == e)) ++ [(c, e, hour)] }
    let d := d.reissue p c e cyc
    if again then d.retireEngine p c e cyc else d

def execEngineReset (mill : Fin 8) (cluster : Fin 4) (engine : Fin 16) (cyc : Nat) (s : State) :
    Host.Outcome State Fault Refusal :=
  .next { s with dev := s.dev.resetEngine mill cluster engine cyc }

/-- ENGINE_SELF_TEST (23 R539, R264): deferred while one engine fewer would fail R260, with one report after 48
hours; otherwise the engine is tested, and retired when it fails. -/
def Dev.selfTest (d : Dev) (p c e : Nat) (pass : Bool) (cyc : Nat) : Dev :=
  let ns := d.nsAt cyc
  let m := d.millI p
  if (retiredIn m.retired c).getD e true then d
  else if !demandFits (clusterDemand d.params p c (m.healthy c - 1)) then
    match m.deferred.find? fun x => x.1 == 16 * c + e with
    | none => d.onMillI p fun m => { m with deferred := m.deferred ++ [(16 * c + e, d.health.life.hours, false)] }
    | some (k, since, told) =>
      if !told && decide (since + 48 ≤ d.health.life.hours) then
        (d.onMillI p fun m =>
          { m with deferred := m.deferred.map fun x => if x.1 == k then (k, since, true) else x }).report 0x0043
            (endpoint 0x0A (4 * p)) ns [64 * p + 16 * c + e]
      else d
  else
    let d := (d.onMillI p fun m => { m with deferred := m.deferred.filter fun x => x.1 != 16 * c + e }).raise 9 ns
    if pass then d else d.retireEngine p c e cyc

def execEngineSelfTest (mill : Fin 8) (cluster : Fin 4) (engine : Fin 16) (pass : Bool) (cyc : Nat) (s : State) :
    Host.Outcome State Fault Refusal :=
  .next { s with dev := s.dev.selfTest mill cluster engine pass cyc }

/-! ### The end of a frame (R241, R243) -/

/-- Width and height of the data at a placement's point (R243). -/
def pointSize (params : List (Nat × List Byte)) (p : Nat) (im : Image10) : Nat × Nat :=
  if imageComps im = 1 then (devW params p (capCfg params p), devH (capCfg params p)) else (picW params p, picH params p)

/-- Every tile and every frame-end run of a frame has come back from the mill; a cluster with no engine left gives
none back, and a point in hold or pass waits for none. -/
def Dev.tilesBack (d : Dev) (p : Nat) (f : Frame) : Bool :=
  (List.range 4).all fun pt =>
    let v := placedImage f.params p pt
    v.isEmpty || f.passing.contains pt || f.holding.contains pt ||
      (let im := imageOf v
       let size := pointSize f.params p im
       let cl := imageClusters im
       let dead := fun c => (d.millI p).healthy c == 0
       (List.range (tileCount size.1 size.2)).all (fun k =>
         dead (cl.getD (k % cl.length) 0) || f.tiles.contains (pt, k)) &&
         (im.fe == 0xFFFF || cl.all fun c => dead c || f.tiles.contains (pt, 2 ^ 32 + c)))

/-- PIPELINE_FRAME_COMPLETE: the oldest frame completes once its tiles are back (R241, R243). -/
def Dev.frameLeaves (d : Dev) (p : Nat) : Dev :=
  match (d.pipeI p).ended with
  | [] => d
  | f :: _ => if d.tilesBack p f then d.frameComplete p else d

def execPipelineFrameComplete (pipe : Fin 8) (s : State) : Host.Outcome State Fault Refusal :=
  .next { s with dev := s.dev.frameLeaves pipe }

/-! ### Placing (R255, R258) -/

/-- Cells of the banks in a mask are zeroed (R255). -/
def zeroBanks (g : List Host.Cell) (mask : Nat) : List Host.Cell := g.filter fun c => !bit mask (c.1 / 0x4000)

/-- Code and granary image are written into the claimed pages and banks of every cluster of the mask (R257, R258). -/
def Dev.placeImage (d : Dev) (p : Nat) (v : List Byte) : Dev :=
  let im := imageOf v
  let banks := which 16 fun b => bit im.banks b
  let pages := which 16 fun b => bit im.pages b
  let gran := (v.drop (32 + 4 * im.n)).take im.gran
  d.each (imageClusters im) fun d c =>
    d.onMillI p fun m =>
      let g0 := zeroBanks (m.granary.getD c []) im.banks
      let g := ((chunks 0x4000 16 gran).zip banks).foldl (fun g (part, b) => cellWrite g (0x4000 * b) part) g0
      let kept := (m.pages.getD c []).filter fun w => !pages.contains (w.1 / 256)
      let code := (List.range im.n).map fun k =>
        (256 * pages.getD (k / 256) 0 + k % 256, BitVec.ofNat 32 (imageWord v k))
      { m with granary := m.granary.set c g, pages := m.pages.set c (kept ++ code) }

/-- A granary bank or an instruction page is zeroed: when it is claimed, and after its release (R255). -/
def Dev.zeroUnit (d : Dev) (page : Bool) (unit : Nat) : Dev :=
  let p := unit / 64
  let c := unit / 16 % 4
  let b := unit % 16
  d.onMillI p fun m =>
    let m := { m with zeroDue := m.zeroDue.filter fun z => !(z.1 == page && z.2.1 == unit) }
    if page then { m with pages := m.pages.modify c fun l => l.filter fun w => w.1 / 256 != b }
    else { m with granary := m.granary.modify c (zeroBanks · (2 ^ b)) }

/-- The frames of a pipeline that have been gated and have not left it. -/
def inPipeline (x : PipeSt) : List Frame := x.ended ++ x.cur.toList.filter (·.gated)

/-- The units of pipeline `p` whose last frame has left are zeroed (R255). -/
def Dev.zeroLeft (d : Dev) (p : Nat) : Dev :=
  let x := d.pipeI p
  d.each (d.millI p).zeroDue fun d z =>
    if (inPipeline x).any fun f => seqLe 32 f.number z.2.2 then d else d.zeroUnit z.1 z.2.1

/-- The release of a bank or page lands: it is zeroed once the last frame using it has left (R255). -/
def Dev.releaseUnit (d : Dev) (page : Bool) (unit : Nat) : Dev :=
  let p := unit / 64
  (d.onMillI p fun m => { m with zeroDue := m.zeroDue ++ [(page, unit, (d.pipeI p).frame.toNat)] }).zeroLeft p

/-- At a gate, points due for it enter their failure mode (R265). -/
def Dev.millGate (d : Dev) (p : Nat) : Dev :=
  let m := d.millI p
  if m.failing = 0 then d
  else
    let passes := BitVec.ofNat 4 (maskOf 4 fun pt =>
      m.failing.getLsbD pt && (imageOf (placedImage d.params p pt)).pass)
    (d.onMillI p fun m =>
      { m with failing := 0, passing := m.passing ||| passes, holding := m.holding ||| (m.failing &&& ~~~passes)
      }).raiseNow (192 + p)

end Sys2Proof.Machine
end

