-- ==== Sys2Proof/Machine/Coding.lean ====
section
/-!
DEFINITION. Video coding: encode streams, their picture order, rate control, output rings and stalls, and the decode
cores (11 R272 to R292). Coded HEVC bits and decoded samples are free values.
-/
namespace Sys2Proof.Machine

/-! ### Levels of H.265 Annex A (R276). PRESUMED: notes/assumptions/22.md. -/

/-- A level: general_level_idc, picture size, luma sample rate, main and high tier bit rate in kbit/s, tile columns. -/
structure HLevel where
  idc  : Nat
  ps   : Nat
  sr   : Nat
  main : Nat
  high : Nat
  cols : Nat

def hLevels : List HLevel :=
  [⟨30, 36864, 552960, 128, 0, 1⟩, ⟨60, 122880, 3686400, 1500, 0, 1⟩, ⟨63, 245760, 7372800, 3000, 0, 1⟩,
   ⟨90, 552960, 16588800, 6000, 0, 2⟩, ⟨93, 983040, 33177600, 10000, 0, 3⟩,
   ⟨120, 2228224, 66846720, 12000, 30000, 5⟩, ⟨123, 2228224, 133693440, 20000, 50000, 5⟩,
   ⟨150, 8912896, 267386880, 25000, 100000, 10⟩, ⟨153, 8912896, 534773760, 40000, 160000, 10⟩,
   ⟨156, 8912896, 1069547520, 60000, 240000, 10⟩, ⟨180, 35651584, 1069547520, 60000, 240000, 20⟩,
   ⟨183, 35651584, 2139095040, 120000, 480000, 20⟩, ⟨186, 35651584, 4278190080, 240000, 800000, 20⟩]

/-- Bits per kbit of a level limit for a profile row of R275. -/
def profileFactor (row : Nat) : Nat := if row = 2 ∨ row = 3 then 1667 else if row = 4 then 3000 else 1000

/-- The most bits per second, and the most CPB bits, of a level (the two limits have equal numbers). -/
def levelRate (l : HLevel) (high : Bool) (row : Nat) : Nat := (if high then l.high else l.main) * profileFactor row

/-- The lowest level that admits a stream (R276). -/
def lowestLevel (w h : Nat) (rate : Q) (bitRate cpb cols : Nat) (high : Bool) (row : Nat) : Option HLevel :=
  hLevels.find? fun l =>
    decide (w * h ≤ l.ps) && decide (w * w ≤ 8 * l.ps) && decide (h * h ≤ 8 * l.ps) && decide (cols ≤ l.cols) &&
      qLe (qMul (qOfNat (w * h)) rate) (qOfNat l.sr) && (!high || decide (0 < l.high)) &&
      decide (bitRate ≤ levelRate l high row) && decide (cpb ≤ max 350000 (levelRate l high row))

/-! ### Parameters and geometry of a stream -/

def encB (params : List (Nat × List Byte)) (s i : Nat) : List Byte := parOf params (pkey 0x0B s i)
def encN (params : List (Nat × List Byte)) (s i : Nat) : Nat := leNat (encB params s i)

/-- The stream record of encode stream `s`. -/
def Dev.encStream (d : Dev) (s : Nat) : Option Stream := d.res.streams.find? fun x => x.race == 384 + s

/-- Pipeline and tap of a TAP endpoint. -/
def tapOf (ep : Nat) : Nat × Nat := (ep % 256 / 8, ep % 8)

/-- Coded width and height (R276). -/
def codedW (params : List (Nat × List Byte)) (p k : Nat) : Nat := (tapCfg params p k).ow
def codedH (params : List (Nat × List Byte)) (p k : Nat) : Nat := ceilDiv (tapCfg params p k).oh 8 * 8

/-- Coded frame rate, as nanoseconds per picture: the declared period times the decimation (R277). -/
def codedNs (params : List (Nat × List Byte)) (s p : Nat) : Nat := (capCfg params p).period * max 1 (encN params s 0)

def codedRate (params : List (Nat × List Byte)) (s p : Nat) : Q :=
  let ns := codedNs params s p
  if ns = 0 then qZero else ⟨1000000000, ns⟩

/-- Width in CTUs of tile column `i` of `k` (R274). -/
def tileCols (n k i : Nat) : Nat := (i + 1) * n / k - i * n / k

/-- The weight of a chroma format and depth, over 12 (R273). -/
def codingWeight (fmt depth : Nat) : Nat :=
  let base := match fmt with
    | 2 => 12
    | 1 => 16
    | _ => 24
  if depth = 12 then base * 5 / 4 else base

/-! ### Rate control (R282 to R284) -/

/-- Base QP with the offset of a type and level, clamped (R282). -/
def baseQp (params : List (Nat × List Byte)) (s type tid : Nat) : Nat :=
  let v := encB params s 2
  let q : Int := u8 v 0 + toSigned 8 (u8 v (1 + type)) + (if type = 2 then tid else 0 : Nat)
  (clampI (u8 v 4) (u8 v 5) q).toNat

def wOf (type : Nat) : Nat := match type with
  | 0 => 4
  | 1 => 2
  | _ => 1

/-- Sum of w over the pattern of a stream, and its pictures (R284). -/
def patternW (gop m len : Nat) : Nat × Nat :=
  match gop with
  | 0 => (4, 1)
  | 1 => if len = 0 then (2, 1) else (4 + 2 * (len - 1), len)
  | 2 => if len = 0 then (1, 1) else (4 + (len - 1), len)
  | _ => if len = 0 then (2 + (m - 1), m) else (4 + 2 * (len / m - 1) + (len - len / m), len)

/-- The target of a picture, in bits (R284). -/
def targetBits (params : List (Nat × List Byte)) (e : EncSt) (s type : Nat) : Nat :=
  let t := u64 (encB params s 4) 0
  let (sum, n) := patternW e.gop.toNat e.subGop (encN params s 5)
  t * codedNs params s e.pipe * wOf type * n / (1000000000 * max 1 sum)

/-- Picture QP under row control (R284). -/
def rowQp (params : List (Nat × List Byte)) (e : EncSt) (s type tid : Nat) : Nat :=
  if !e.seen.contains type then baseQp params s type tid
  else
    let (q, b, t) := e.last.getD type (0, 0, 0)
    let step : Int :=
      if t = 0 then 4 else if b = 0 then -4
      else clampI (-4) 4 ((6 * (fxLog2 (b * 2 ^ 192 / t)) + 2 ^ 191) / 2 ^ 192)
    let v := encB params s 2
    (clampI (u8 v 4) (u8 v 5) (q + step)).toNat

/-- The budget of the next picture, in bits; none without one (R283, R284). -/
def budgetOf (params : List (Nat × List Byte)) (e : EncSt) (s type : Nat) : Option Nat :=
  if encN params s 1 = 0 then
    let v := encB params s 3
    let c := u64 v 0
    let w := u16 v 8
    if c = 0 then none
    else some (c * w * codedNs params s e.pipe / 1000000000 - sumBy id (e.window.take (w - 1)))
  else
    some (min (e.cpb / 1000000000).toNat (4 * targetBits params e s type))

/-- The CPB fullness when a stream starts, in 10^-9 bits: T times the initial removal delay, B ÷ 2 after reset
(R284). -/
def cpbStart (params : List (Nat × List Byte)) (s : Nat) : Int :=
  let v := encB params s 4
  if u32 v 12 = 0 then (u32 v 8 * 500000000 : Nat) else (u64 v 0 * u32 v 12 * 1000 : Nat)

/-! ### Picture order (R277 to R280) -/

/-- B pictures between `lo` and `hi`, with their temporal levels, by halving (R278). -/
def dyadic : Nat → Nat → Nat → Nat → List (Nat × Nat)
  | 0, _, _, _ => []
  | fuel + 1, lo, hi, level =>
    if hi ≤ lo + 1 then []
    else
      let mid := (lo + hi) / 2
      (mid, level) :: (dyadic fuel lo mid (level + 1) ++ dyadic fuel mid hi (level + 1))

/-- A sub-GOP in coding order: its last picture first, then the B pictures by temporal level (R278). -/
def subGopOf (pics : List CodedPic) (key req : Bool) : List CodedPic :=
  match pics.getLast? with
  | none => []
  | some a =>
    let n := pics.length
    let bs := sortBy (·.2) (dyadic 16 0 n 1)
    { a with type := if key then 0 else 1, tid := 0, key := key, req := req } ::
      bs.filterMap fun (i, l) => (pics[i - 1]?).map fun b => { b with type := 2, tid := l }

/-- The plan once `pic` is taken; none while the sub-GOP is not complete (R278 to R280). -/
def planWith (params : List (Nat × List Byte)) (e : EncSt) (s : Nat) (pic : CodedPic) : EncSt :=
  let len := encN params s 5
  let asKey := fun (req : Bool) => { pic with type := 0, tid := 0, key := true, req := req }
  let request := e.keyPending && seqLe 32 e.keyFrom pic.frame
  if e.f0.isNone then { e with f0 := some pic.frame, plan := [asKey request], sinceKey := 0, keyPending := e.keyPending && !request }
  else if request then
    { e with plan := subGopOf e.taken false false ++ [asKey true], taken := [], sinceKey := 0, keyPending := false }
  else
    let taken := e.taken ++ [pic]
    let n := taken.length
    if n < e.subGop then { e with taken := taken }
    else
      let key := decide (0 < len) && decide (len ≤ e.sinceKey + n)
      let e := { e with taken := [], sinceKey := if key then 0 else e.sinceKey + n }
      if e.gop = 3 then { e with plan := subGopOf taken key false }
      else
        let type := if key then 0 else match e.gop.toNat with
          | 0 => 0
          | 1 => 1
          | _ => 2
        { e with plan := taken.map fun x => { x with type := type, key := key } }

/-- The parameters in force for a picture of frame `frame`: a change holds from the first frame gated at or after its
landing (R290). -/
def Dev.encParams (d : Dev) (s frame : Nat) : List (Nat × List Byte) :=
  (d.encI s).older.reverse.foldl (fun ps x => if seqLe 32 x.1 frame then ps else setPar ps x.2.1 x.2.2) d.params

/-- The stream takes full buffers of its tap until a picture can be coded; frames that decimation passes over are
released as soon as they are taken (R277). -/
def Dev.encTake (d : Dev) (s : Nat) : Nat → Dev
  | 0 => d
  | fuel + 1 =>
    let e := d.encI s
    if !e.plan.isEmpty then d
    else
      let ring := 8 * e.pipe + e.tap
      match (d.ringI ring).slotOf (endpoint 0x0B s) with
      | none => d
      | some slot =>
        match d.takeFrom ring slot false with
        | (none, d) =>
          if e.ending && !e.taken.isEmpty then
            d.onEncI s fun e =>
              { e with plan := if e.gop = 3 then subGopOf e.taken false false else e.taken, taken := [] }
          else d
        | (some b, d) =>
          let hdr := d.memRead b.desc.pool b.desc.hdrOff 64
          let gap := e.gapFrames + u32 hdr 32
          let dec := max 1 (encN (d.encParams s b.frame) s 0)
          let skip := e.f0.elim false fun f0 => (b.frame + 2 ^ 32 - f0) % 2 ^ 32 % dec != 0
          if skip then
            ((d.queueRelease ring slot b.order false).onEncI s fun e => { e with gapFrames := gap }).encTake s fuel
          else
            let pic : CodedPic := ⟨b.order, b.frame, 1, 0, false, false, gap⟩
            (d.onEncI s fun e => planWith (d.encParams s b.frame) { e with gapFrames := 0 } s pic).encTake s fuel

/-! ### Output (R286, R287) -/

def encSpans (b : BufDesc) : List (Nat × Nat) := [(b.hdrOff, 64), (b.plane0, b.stride0)]

/-- A buffer of a ring with header and payload takes one piece and becomes full; none when no buffer is free. -/
def Dev.putPiece (d : Dev) (ring : Nat) (piece : List Byte) (frame : Nat) : Option Dev :=
  match (d.ringI ring).freeBuf encSpans with
  | none => none
  | some b =>
    let d := d.onRingI ring fun r => r.begin b.idx frame encSpans
    let o := (d.ringI ring).nextOrd
    let d := d.memWrite b.desc.pool b.desc.plane0 (piece.drop 64)
    let d := d.memWrite b.desc.pool b.desc.hdrOff (piece.take 64)
    some (d.onRingI ring fun r => r.fill o (leNat (piece.take 16)) (u32 piece 20) (piece.length - 64))

/-- The waiting pieces of a stream go out while buffers are free; then the stream is no longer stalled. -/
def Dev.encDrain (d : Dev) (s : Nat) : Nat → Dev
  | 0 => d
  | fuel + 1 =>
    match (d.encI s).pendingAu with
    | [] => d.onEncI s fun e => { e with stalled := false }
    | piece :: rest =>
      match d.putPiece (ringEnc + s) piece (u32 piece 1) with
      | some d => (d.onEncI s fun e => { e with pendingAu := rest }).encDrain s fuel
      | none =>
        let new := !(d.encI s).stalled
        let d := d.onEncI s fun e => { e with stalled := true }
        if new then d.raiseNow (200 + s) else d

/-- The SEI payload of an access unit (R288). -/
def seiPayload (params : List (Nat × List Byte)) (p k : Nat) (hdr : List Byte) (gap : Nat) : List Byte :=
  [0x7A, 0x1C, 0x4E, 0x90, 0xB3, 0xD2, 0x4F, 0x61, 0x8C, 0x05, 0x2E, 0x97, 0xD1, 0xA4, 0x6B, 0x38] ++ hdr.take 16 ++
    (hdr.drop 20).take 4 ++ (hdr.drop 16).take 2 ++
    leBytes 1 (colourN params p (0x100 + 16 * k) + 16 * xferCode params p k) ++ leBytes 1 (32 * p + k) ++
    leBytes 4 gap ++ leBytes 4 0

/-- VUI values of a stream's tap: primaries, transfer, matrix, full-range flag, units in tick, time scale (R288). -/
def vuiOf (params : List (Nat × List Byte)) (s p k : Nat) : List Nat :=
  let prim := colourN params p (0x100 + 16 * k)
  let c := tapCfg params p k
  let xfer := match xferCode params p k with
    | 2 => if prim = 2 then (if c.depth = 12 then 15 else 14) else 1
    | 3 => 1
    | 4 => 16
    | 5 => 18
    | _ => 2
  let pr := match prim with
    | 1 => 1
    | 2 => 9
    | 3 => 12
    | _ => 2
  [pr, xfer, if c.bt2020 then 9 else 1, if c.narrow then 0 else 1, codedNs params s p, 1000000000]

/-- The header of piece `i` of an access unit cut into `n` pieces (R286). -/
def auHeader (hdr : List Byte) (pic : CodedPic) (s : Nat) (bytes auBytes decOrder : Nat) (poc : Int) (flags qp : Nat)
    (i n : Nat) : List Byte :=
  padTo 64 (hdr.take 18 ++ leBytes 1 pic.type ++ leBytes 1 pic.tid ++ (hdr.drop 20).take 4 ++ leBytes 4 bytes ++
    leBytes 4 (if i = 0 then auBytes else 0) ++ leBytes 4 pic.gap ++ leBytes 4 decOrder ++
    leBytes 4 (ofSigned 32 poc) ++
    leBytes 1 (flags + (if i + 1 < n then 2 else 0) + (if i = 0 then 0 else 4)) ++ leBytes 1 qp ++ leBytes 1 s)

/-- The capacity of a stream's buffers (R286). -/
def Dev.encCapacity (d : Dev) (s : Nat) : Nat := (d.ringI (ringEnc + s)).bufs.head?.elim 0 (·.desc.stride0)

/-- A picture is coded: its QP and budget by the rules, its bits free within the budget (R282 to R288). -/
def Dev.codePicture (d : Dev) (s : Nat) (pic : CodedPic) (rest : List CodedPic) : Dev :=
  let e := d.encI s
  let params := d.encParams s pic.frame
  let ring := 8 * e.pipe + e.tap
  match (d.ringI ring).byOrder pic.order, (d.ringI ring).slotOf (endpoint 0x0B s) with
  | some b, slot =>
    let hdr := d.memRead b.desc.pool b.desc.hdrOff 64
    let row := encN params s 1 == 1
    let qp := if row then rowQp params e s pic.type pic.tid else baseQp params s pic.type pic.tid
    let budget := budgetOf params e s pic.type
    let v := encB params s 2
    -- free: bytes of the access unit, whether a budget was reached or exceeded, and the spread of row QPs
    let past := budget.isSome && d.freeAt 1 % 2 == 1
    let reached := past || (budget.isSome && d.freeAt 2 % 2 == 1)
    let bytes0 := match budget with
      | some b => if past then d.freeAt 0 else d.freeAt 0 % (b / 8 + 1)
      | none => d.freeAt 0
    let lo := if row then max (u8 v 4) (qp - d.freeAt 3 % 7) else qp
    let hi := if row then min (u8 v 5) (qp + d.freeAt 4 % 7) else qp
    -- the CPB, and filler under CBR
    let t := encB params s 4
    let inflow : Int := (u64 t 0 * codedNs params s e.pipe : Nat)
    let full : Int := (u32 t 8 * 1000000000 : Nat)
    let after := e.cpb - (8 * bytes0 * 1000000000 : Nat) + inflow
    let cbr := u8 t 16 == 1
    let fill := if row && cbr && decide (full < after) then ceilDiv (after - full).toNat 8000000000 else 0
    let bytes := bytes0 + fill
    let cpb := min full (after - (8 * fill * 1000000000 : Nat))
    let au := (List.range bytes).map fun i => BitVec.ofNat 8 (Config.freeNat (d.fresh + 5 + i))
    let fKey := if pic.key then pic.frame else e.fKey
    let poc := toSigned 32 ((pic.frame + 2 ^ 32 - fKey) % 2 ^ 32) / (max 1 (encN params s 0) : Nat)
    let flags := packWord [(0, pic.key.toNat), (3, reached.toNat), (4, past.toNat), (5, pic.req.toNat),
      (6, if fill = 0 then 0 else 1)]
    let capacity := max 1 (d.encCapacity s)
    let parts := chunks capacity (bytes + 1) au
    let pieces := parts.zipIdx.map fun (part, i) =>
      auHeader hdr pic s part.length bytes e.decOrder poc flags qp i parts.length ++ part
    let sei := seiPayload params e.pipe e.tap hdr pic.gap
    let vui := vuiOf params s e.pipe e.tap
    let d := (d.used (5 + bytes)).onEncI s fun e =>
      { e with plan := rest, fKey := fKey, decOrder := e.decOrder + 1, qpPic := BitVec.ofNat 8 qp,
               qpMin := BitVec.ofNat 8 lo, qpMax := BitVec.ofNat 8 hi, lastBits := BitVec.ofNat 32 (8 * bytes),
               window := (8 * bytes :: e.window).take 240, cpb := if row then cpb else e.cpb,
               last := e.last.set pic.type (qp, 8 * bytes, targetBits params e s pic.type),
               seen := if e.seen.contains pic.type then e.seen else e.seen ++ [pic.type],
               exhausted := if reached then bump e.exhausted else e.exhausted,
               capExceeded := if past then bump e.capExceeded else e.capExceeded,
               keyReq := if pic.req then bump e.keyReq else e.keyReq,
               filler := if fill = 0 then e.filler else bump e.filler,
               pendingAu := pieces, sei := sei, vui := vui,
               older := if rest.isEmpty && e.taken.isEmpty then e.older.filter fun x => !seqLe 32 x.1 pic.frame else e.older }
    let d := if pic.req || reached then d.raiseNow (200 + s) else d
    let d := d.deliver (endpoint 0x0B s)
    let d := match slot with
      | some k => d.queueRelease ring k pic.order false
      | none => d
    d.encDrain s (bytes + 2)
  | none, _ => d.onEncI s fun e => { e with plan := rest }

/-- Streams on a core: highest priority first, then the lowest stream number (R272). -/
def Dev.coreStreams (d : Dev) (core : Nat) : List Nat :=
  let on := which 32 fun s => (d.encI s).active && (d.encI s).cores.getLsbD core && !d.isShed (384 + s)
  sortBy (fun s => 7 - (d.encStream s).elim 0 (·.prio)) on

/-- The first stream of a core that has a picture to code is served; a stalled stream holds its cores (R272, R287). -/
def Dev.serveCore (d : Dev) : List Nat → Dev
  | [] => d
  | s :: rest =>
    let d := d.encTake s 64
    match (d.encI s).plan with
    | pic :: more => d.codePicture s pic more
    | [] => d.serveCore rest

/-- ENCODE_PICTURE: a core codes its next picture (R272). -/
def Dev.encodeNext (d : Dev) (core : Nat) : Dev :=
  let on := d.coreStreams core
  if on.any fun s => (d.encI s).stalled then d else d.serveCore on

def execEncodePicture (core : Fin 8) (s : State) : Host.Outcome State Fault Refusal :=
  .next { s with dev := s.dev.encodeNext core }

/-- ENCODE_OUTPUT_RESUME: buffers have been released, and a stalled stream goes on (R287). -/
def Dev.encodeResume (d : Dev) (s : Nat) : Dev :=
  d.encDrain s ((d.encI s).pendingAu.length + 1)

def execEncodeOutputResume (stream : Fin 32) (s : State) : Host.Outcome State Fault Refusal :=
  .next { s with dev := s.dev.encodeResume stream }

/-- ENCODE_STREAM_END: a released stream that has coded what it took writes its end-of-sequence and end-of-bitstream
NAL units and ends (R290). -/
def Dev.encodeEnd (d : Dev) (s : Nat) : Dev :=
  let e := d.encI s
  if e.ending && e.taken.isEmpty && e.plan.isEmpty && e.pendingAu.isEmpty then
    let nals : List Byte := [0, 0, 1, 0x48, 1, 0, 0, 1, 0x4A, 1]
    let hdr := postmark d.nowNs d.time.epoch.toNat 0xFFFFFFFF (0x40 + s) ++ List.replicate 48 0
    let pic : CodedPic := ⟨0, 0xFFFFFFFF, 0, 0, false, false, 0⟩
    let piece := auHeader hdr pic s nals.length nals.length e.decOrder 0 0 0 0 1 ++ nals
    match d.putPiece (ringEnc + s) piece 0xFFFFFFFF with
    | some d => d.onEncI s fun _ => EncSt.reset
    | none => d
  else d

def execEncodeStreamEnd (stream : Fin 32) (s : State) : Host.Outcome State Fault Refusal :=
  .next { s with dev := s.dev.encodeEnd stream }

/-- A stream-create member of an encode stream lands (R272, R276). -/
def Dev.startEncode (d : Dev) (s : Nat) (st : Stream) : Dev :=
  let (p, k) := tapOf st.src
  let w := codedW d.params p k
  let h := codedH d.params p k
  let cols := (which 8 fun i => bit (u8 st.args 0) i).length
  let high := u8 st.args 2 == 1
  let row := u8 st.args 1
  let level := match encN d.params s 9 with
    | 0 => (lowestLevel w h (codedRate d.params s p) (max (u64 (encB d.params s 3) 0) (u64 (encB d.params s 4) 0))
        (u32 (encB d.params s 4) 8) cols high row).elim 0 (·.idc)
    | n => n
  d.onEncI s fun e =>
    { EncSt.reset with
      active := true, cores := BitVec.ofNat 8 (u8 st.args 0), profile := BitVec.ofNat 3 row, tier := high,
      gop := BitVec.ofNat 2 (u8 st.args 3), subGop := if u8 st.args 3 = 3 then u8 st.args 4 else 1,
      refs := u8 st.args 5, pipe := p, tap := k, level := BitVec.ofNat 8 level, cpb := cpbStart d.params s,
      exhausted := e.exhausted, capExceeded := e.capExceeded, keyReq := e.keyReq, filler := e.filler }

/-- A key-picture request (R280). -/
def Dev.requestKey (d : Dev) (s from' : Nat) : Dev :=
  d.onEncI s fun e => { e with keyPending := true, keyFrom := if e.keyPending then e.keyFrom else from' }

/-! ### Decoding (R291, R292) -/

def decN (params : List (Nat × List Byte)) (c i : Nat) : Nat := leNat (parOf params (pkey 0x0C c i))

def decSpans (w h depth : Nat) (b : BufDesc) : List (Nat × Nat) :=
  (b.hdrOff, 64) :: (planesOf 2 depth w h).zipIdx.map fun (pl, i) =>
    ([b.plane0, b.plane1].getD i 0, (if i = 0 then b.stride0 else b.stride1) * (pl.2 - 1) + pl.1)

/-- An access unit is discarded (R292). -/
def Dev.decDiscard (d : Dev) (c ns : Nat) : Dev :=
  (d.onDecI c fun x => { x with discarded := bump x.discarded }).raise (232 + c) ns

/-- The next fed range of the input pool has been used. -/
def Dev.decEat (d : Dev) (c : Nat) : Dev := d.onDecI c fun x => { x with input := x.input.drop 1 }

/-- A picture is output: free samples, and a header with the postmark SEI's fields (R291). -/
def Dev.decOutput (d : Dev) (c : Nat) (au : AccessUnit) (concealed : Bool) (ns : Nat) : Option Dev :=
  let ring := ringDec + c
  let spans := decSpans au.width au.height au.depth
  match (d.ringI ring).freeBuf spans with
  | none => none
  | some b =>
    let d := d.onRingI ring fun r => r.begin b.idx 0xFFFFFFFF spans
    let o := (d.ringI ring).nextOrd
    let planes := planesOf 2 au.depth au.width au.height
    let d := d.each planes.zipIdx fun d (pl, i) =>
      d.each (List.range pl.2) fun d y =>
        let row := d.freeBytes pl.1
        (d.memWrite b.desc.pool ((if i = 0 then b.desc.plane0 + y * b.desc.stride0
          else b.desc.plane1 + y * b.desc.stride1)) row).used pl.1
    let sei := au.sei.getD []
    let mark := if au.sei.isSome then padTo 16 (sei.drop 16) else
      postmark ns d.time.epoch.toNat 0xFFFFFFFF (0x60 + c)
    let status := if au.sei.isSome then padTo 2 (sei.drop 36) else [0, 0]
    let pset := if au.sei.isSome then padTo 4 (sei.drop 32) else leBytes 4 0xFFFFFFFF
    let flags := packWord [(1, concealed.toNat), (2, if au.sei.isSome then 0 else 1), (3, if au.hashOk then 0 else 1)]
    let hdr := padTo 64 (mark ++ status ++ [0, 0] ++ pset ++ leBytes 2 au.width ++ leBytes 2 au.height ++
      leBytes 1 2 ++ leBytes 1 flags)
    let d := d.memWrite b.desc.pool b.desc.hdrOff hdr
    some (d.onRingI ring fun r =>
      r.fill o (leNat mark) (leNat pset) (sumBy (fun pl => pl.1 * pl.2) planes))

/-- DECODE_ACCESS_UNIT (R291, R292): the core takes the next access unit of its input. The command carries what
H.265 makes of it. An output ring with no free buffer leaves the access unit waiting. -/
def Dev.decodeUnit (d : Dev) (c : Nat) (au : AccessUnit) (cyc : Nat) : Dev :=
  let x := d.decI c
  let ns := d.nsAt cyc
  if !x.active || d.isShed (417 + 2 * c) then d
  else if x.stopped && !(au.irap && au.spsOk) then (d.decEat c).decDiscard c ns
  else if au.newSps && !au.spsOk then
    ((d.decEat c).onDecI c fun x => { x with stopped := true, synced := false }).report 0x0051 (endpoint 0x0C c) ns
      [au.level] |>.raise (232 + c) ns
  else if !x.synced && !au.irap then (d.decEat c).decDiscard c ns
  else if x.craStart && au.rasl then (d.decEat c).decDiscard c ns
  else if !au.parseOk then
    (((d.decEat c).onDecI c fun x => { x with errors := bump x.errors }).report 0x0050 (endpoint 0x0C c) ns [c]).raise
      (232 + c) ns
  else
    let concealing := if au.irap then false else x.concealing || !au.refsPresent
    let first := au.irap && !x.synced
    let d1 := d.onDecI c fun x =>
      { x with concealing := concealing, synced := true, stopped := false,
               craStart := if first then au.cra else if au.irap then false else x.craStart,
               level := if au.newSps then BitVec.ofNat 8 au.level else x.level,
               hashBad := if au.hashOk then x.hashBad else bump x.hashBad }
    if concealing && decN d.params c 0 == 1 then d1.decEat c
    else match d1.decOutput c au concealing ns with
      | some d2 => (d2.decEat c).onDecI c fun x => { x with pictures := x.pictures + 1 }
      | none => d

def execDecodeAccessUnit (core : Fin 2) (au : AccessUnit) (cyc : Nat) (s : State) : Host.Outcome State Fault Refusal :=
  .next { s with dev := s.dev.decodeUnit core au cyc }

/-- DECODE_FEED (14 R362): whole NAL units of the input pool are handed to the core. -/
def Dev.decodeFeed (d : Dev) (k : Docket) : Dev :=
  d.runDocket k [(8, 8), (16, 19), (24, 31)] fun d =>
    let c := u8 k.bytes 8
    let len := u32 k.bytes 16
    let off := u64 k.bytes 24
    if len = 0 ∨ 2 ^ 24 < len then d.finish k 0x0204
    else if 1 < c then d.finish k 0x0203
    else if !(d.decI c).active then d.finish k 0x8501
    else if (d.pool (decN d.params c 2)).elim true fun p => decide (p.size < off + len) then d.finish k 0x8502
    else (d.onDecI c fun x => { x with input := x.input ++ [(off, len)] }).finish8 k 0

def execDecodeFeed (k : Docket) (s : State) : Host.Outcome State Fault Refusal :=
  .next { s with dev := s.dev.decodeFeed k }

/-- DECODE_DRAIN (R362): every picture decoded so far has been output; the result counts them. -/
def Dev.decodeDrain (d : Dev) (k : Docket) : Dev :=
  d.runDocket k [(8, 8)] fun d =>
    let c := u8 k.bytes 8
    if 1 < c then d.finish k 0x0203
    else if !(d.decI c).active then d.finish k 0x8501
    else
      let n := (d.decI c).pictures
      (d.onDecI c fun x => { x with pictures := 0 }).finish k 0 (leBytes 4 n)

def execDecodeDrain (k : Docket) (s : State) : Host.Outcome State Fault Refusal :=
  .next { s with dev := s.dev.decodeDrain k }

/-- DECODE_RESTART (R362): the core restarts as at stream start (R292). -/
def Dev.decodeRestart (d : Dev) (k : Docket) : Dev :=
  d.runDocket k [(8, 8)] fun d =>
    let c := u8 k.bytes 8
    if 1 < c then d.finish k 0x0203
    else if !(d.decI c).active then d.finish k 0x8501
    else (d.onDecI c fun x =>
      { x with synced := false, stopped := false, concealing := false, craStart := false, input := [] }).finish k 0

def execDecodeRestart (k : Docket) (s : State) : Host.Outcome State Fault Refusal :=
  .next { s with dev := s.dev.decodeRestart k }

end Sys2Proof.Machine
end

