-- ==== Sys2Proof/Machine/Inflate.lean ====
section
/-!
DEFINITION. Raw DEFLATE of RFC 1951 as 12 R312 and R313 use it: inflating a bit string with a history, and stored
blocks.
-/
namespace Sys2Proof.Machine

/-- The bits of bytes, least significant first. -/
def bitsOf (bs : List Byte) : List Bool := bs.flatMap fun b => (List.range 8).map fun i => b.getLsbD i

/-- The number that bits spell, least significant first. -/
def natOfBits : List Bool → Nat
  | [] => 0
  | b :: bs => b.toNat + 2 * natOfBits bs

/-- Whole bytes of a bit string, the last filled with zero bits. -/
def bytesOfBits (bs : List Bool) : List Byte := (chunks 8 (bs.length + 1) bs).map fun c => BitVec.ofNat 8 (natOfBits c)

/-- How inflating ended. -/
inductive InfEnd where
  | done           -- a block with BFINAL ended
  | used           -- the input is used up
  | bad
  | full           -- the output limit is reached
deriving DecidableEq, Repr

/-- The state of inflating: bits left, bits read, output newest first, its length, and how it ended. -/
structure Inf where
  left : List Bool
  pos  : Nat
  out  : List Byte
  n    : Nat
  ending : Option InfEnd

def Inf.stop (s : Inf) (e : InfEnd) : Inf := { s with ending := some e }

/-- `k` bits, least significant first; none when the input ends. -/
def Inf.take (s : Inf) (k : Nat) : Option (Nat × Inf) :=
  if s.left.length < k then none
  else some (natOfBits (s.left.take k), { s with left := s.left.drop k, pos := s.pos + k })

/-! ### Codes -/

/-- Symbols of each length, in order. -/
def symbolsOf (lens : List Nat) (l : Nat) : List Nat := (List.range lens.length).filter fun i => lens.getD i 0 == l

/-- Whether code lengths over-subscribe a code. -/
def overSubscribed (lens : List Nat) : Bool :=
  ((List.range 15).foldl (fun (st : Int × Bool) i =>
    let left := 2 * st.1 - (symbolsOf lens (i + 1)).length
    (left, st.2 || decide (left < 0))) (1, false)).2

/-- A code as the symbols of lengths 1 to 15. -/
def codeTable (lens : List Nat) : List (List Nat) := (List.range 15).map fun i => symbolsOf lens (i + 1)

inductive Sym where
  | sym (v : Nat) (s : Inf)
  | used
  | bad

/-- One symbol of a canonical code. -/
def Inf.symbol (s : Inf) : List (List Nat) → Nat → Nat → Sym
  | [], _, _ => .bad
  | syms :: rest, code, first =>
    match s.left with
    | [] => .used
    | b :: left =>
      let s := { s with left := left, pos := s.pos + 1 }
      let code := 2 * code + b.toNat
      let first := 2 * first
      if code < first + syms.length then .sym (syms.getD (code - first) 0) s
      else s.symbol rest code (first + syms.length)

/-- Base and extra bits of length symbols 257 to 285, and of distance symbols (RFC 1951). -/
def lenBase : List (Nat × Nat) :=
  [(3, 0), (4, 0), (5, 0), (6, 0), (7, 0), (8, 0), (9, 0), (10, 0), (11, 1), (13, 1), (15, 1), (17, 1), (19, 2),
   (23, 2), (27, 2), (31, 2), (35, 3), (43, 3), (51, 3), (59, 3), (67, 4), (83, 4), (99, 4), (115, 4), (131, 5),
   (163, 5), (195, 5), (227, 5), (258, 0)]
def distBase : List (Nat × Nat) :=
  [(1, 0), (2, 0), (3, 0), (4, 0), (5, 1), (7, 1), (9, 2), (13, 2), (17, 3), (25, 3), (33, 4), (49, 4), (65, 5),
   (97, 5), (129, 6), (193, 6), (257, 7), (385, 7), (513, 8), (769, 8), (1025, 9), (1537, 9), (2049, 10), (3073, 10),
   (4097, 11), (6145, 11), (8193, 12), (12289, 12), (16385, 13), (24577, 13)]

/-- One byte of output. -/
def Inf.put (s : Inf) (b : Byte) : Inf := { s with out := b :: s.out, n := s.n + 1 }

/-- A match copied, up to the output limit. -/
def Inf.copy (s : Inf) (hist : List Byte) (limit dist : Nat) : Nat → Inf
  | 0 => s
  | k + 1 =>
    if limit ≤ s.n then s.stop .full
    else
      let b := if dist ≤ s.n then s.out.getD (dist - 1) 0 else hist.getD (dist - s.n - 1) 0
      (s.put b).copy hist limit dist k

/-- The symbols of one block. `first` bits that end early leave the state before the symbol, so that a later job can
go on. -/
def Inf.symbols (hist : List Byte) (limit : Nat) (lits dists : List (List Nat)) : Nat → Inf → Inf
  | 0, s => s
  | fuel + 1, s =>
    match s.symbol lits 0 0 with
    | .used => s.stop .used
    | .bad => s.stop .bad
    | .sym v t =>
      if v < 256 then
        if limit ≤ s.n then s.stop .full else Inf.symbols hist limit lits dists fuel (t.put (BitVec.ofNat 8 v))
      else if v = 256 then t
      else
        match lenBase[v - 257]? with
        | none => s.stop .bad
        | some (lb, le) =>
          match t.take le with
          | none => s.stop .used
          | some (lx, t) =>
            match t.symbol dists 0 0 with
            | .used => s.stop .used
            | .bad => s.stop .bad
            | .sym dv t =>
              match distBase[dv]? with
              | none => s.stop .bad
              | some (db, de) =>
                match t.take de with
                | none => s.stop .used
                | some (dx, t) =>
                  let dist := db + dx
                  if t.n + hist.length < dist then s.stop .bad
                  else
                    let r := t.copy hist limit dist (lb + lx)
                    if r.ending.isSome then r else Inf.symbols hist limit lits dists fuel r

/-! ### Blocks -/

def fixedLits : List Nat :=
  List.replicate 144 8 ++ List.replicate 112 9 ++ List.replicate 24 7 ++ List.replicate 8 8
def fixedDists : List Nat := List.replicate 30 5

def clOrder : List Nat := [16, 17, 18, 0, 8, 7, 9, 6, 10, 5, 11, 4, 12, 3, 13, 2, 14, 1, 15]

/-- The code lengths of a dynamic block: `want` of them, newest first in `acc`. -/
def readLens (table : List (List Nat)) (want : Nat) : Nat → Inf → List Nat → Option InfEnd × Inf × List Nat
  | 0, s, acc => (none, s, acc)
  | fuel + 1, s, acc =>
    if want ≤ acc.length then (if acc.length = want then none else some .bad, s, acc)
    else
      match s.symbol table 0 0 with
      | .used => (some .used, s, acc)
      | .bad => (some .bad, s, acc)
      | .sym v t =>
        let more := fun (k base v : Nat) => match t.take k with
          | none => (some InfEnd.used, s, acc)
          | some (x, t) => readLens table want fuel t (List.replicate (base + x) v ++ acc)
        if v < 16 then readLens table want fuel t (v :: acc)
        else if v = 16 then (match acc with
          | [] => (some .bad, s, acc)
          | p :: _ => more 2 3 p)
        else if v = 17 then more 3 3 0
        else more 7 11 0

/-- The code lengths of the code-length code. -/
def readCl : Nat → Inf → List Nat → Option (List Nat × Inf)
  | 0, s, acc => some (acc.reverse, s)
  | k + 1, s, acc => match s.take 3 with
    | none => none
    | some (v, s) => readCl k s (v :: acc)

/-- The literal and distance codes of a dynamic block (R313). -/
def dynamicCodes (s : Inf) : Option InfEnd × Inf × List (List Nat) × List (List Nat) :=
  match (do
    let (hl, s) ← s.take 5
    let (hd, s) ← s.take 5
    let (hc, s) ← s.take 4
    let (cl, s) ← readCl (hc + 4) s []
    some (hl + 257, hd + 1, cl, s) : Option (Nat × Nat × List Nat × Inf)) with
  | none => (some .used, s, [], [])
  | some (nl, nd, cl, t) =>
    let lens := (List.range 19).map fun i =>
      ((clOrder.zip cl).find? fun x => x.1 == i).elim 0 (·.2)
    if overSubscribed lens then (some .bad, s, [], [])
    else
      match readLens (codeTable lens) (nl + nd) (nl + nd + 1) t [] with
      | (some e, t, _) => (some e, t, [], [])
      | (none, t, acc) =>
        let all := acc.reverse
        let ll := all.take nl
        let dl := all.drop nl
        if overSubscribed ll || overSubscribed dl || ll.getD 256 0 == 0 then (some .bad, s, [], [])
        else (none, t, codeTable ll, codeTable dl)

/-- A stored block's bytes, up to the output limit. -/
def Inf.stored (limit : Nat) : Nat → Inf → Inf
  | 0, s => s
  | k + 1, s =>
    if limit ≤ s.n then s.stop .full
    else match s.take 8 with
      | none => s.stop .used
      | some (v, s) => Inf.stored limit k (s.put (BitVec.ofNat 8 v))

/-- One block; whether it was the last. `start` is the bit position of the first bit in its byte. -/
def Inf.block (hist : List Byte) (limit start : Nat) (s : Inf) : Bool × Inf :=
  match (do
    let (f, s) ← s.take 1
    let (t, s) ← s.take 2
    some (f, t, s) : Option (Nat × Nat × Inf)) with
  | none => (false, s.stop .used)
  | some (f, t, b) =>
    let fuel := b.left.length + 1
    match t with
    | 0 =>
      let skip := (8 - (start + b.pos) % 8) % 8
      match (do
        let (_, b) ← b.take skip
        let (len, b) ← b.take 16
        let (nlen, b) ← b.take 16
        some (len, nlen, b) : Option (Nat × Nat × Inf)) with
      | none => (false, s.stop .used)
      | some (len, nlen, b) =>
        if len + nlen ≠ 65535 then (false, s.stop .bad) else (f == 1, Inf.stored limit len b)
    | 1 => (f == 1, Inf.symbols hist limit (codeTable fixedLits) (codeTable fixedDists) fuel b)
    | 2 =>
      match dynamicCodes b with
      | (some .used, _, _, _) => (false, s.stop .used)
      | (some _, _, _, _) => (false, s.stop .bad)
      | (none, b, lits, dists) => (f == 1, Inf.symbols hist limit lits dists fuel b)
    | _ => (false, s.stop .bad)

/-- Blocks until BFINAL, an error, the end of the input or the output limit. -/
def Inf.blocks (hist : List Byte) (limit start : Nat) : Nat → Inf → Inf
  | 0, s => s
  | fuel + 1, s =>
    if s.left.isEmpty then s.stop .used
    else
      let (last, r) := s.block hist limit start
      if r.ending.isSome then r
      else if last then r.stop .done
      else Inf.blocks hist limit start fuel r

/-- Inflating a bit string that starts at bit `start` of a byte. -/
def inflate (bs : List Bool) (hist : List Byte) (limit start : Nat) : Inf :=
  Inf.blocks hist limit start (bs.length + 1) ⟨bs, 0, [], 0, none⟩

/-- Stored blocks for some bytes, from bit position `start` of a byte on (R312). -/
def storedBits (start : Nat) (bs : List Byte) (final : Bool) : List Bool :=
  let parts := if bs.isEmpty then [[]] else chunks 65535 (bs.length + 1) bs
  (parts.zipIdx.foldl (fun (acc : List Bool) (part, i) =>
    let head := [final && i + 1 == parts.length, false, false]
    let pos := start + acc.length + 3
    acc ++ head ++ List.replicate ((8 - pos % 8) % 8) false ++
      bitsOf (leBytes 2 part.length ++ leBytes 2 (65535 - part.length) ++ part)) [])

end Sys2Proof.Machine
end

