-- ==== Sys2Proof/Machine/Bolter.lean ====
section
/-!
DEFINITION. The bolter: Bolter raw records and their verification, staging slots and overflow buffers, flush, and the
jobs of the general lanes (12 R297 to R314).
-/
namespace Sys2Proof.Machine

/-! ### Coding of a block (R302 to R305) -/

/-- The two counts of each of four contexts, and the bits so far as a number of `len` bits. -/
structure Rice where
  a   : List Nat
  n   : List Nat
  acc : Nat
  len : Nat

def Rice.init : Rice := ⟨[32, 32, 32, 32], [1, 1, 1, 1], 0, 0⟩

/-- Neighbour distance of a CFA code (R302). -/
def riceStep (cfa : Nat) : Nat := if cfa = 5 then 1 else if cfa = 4 then 4 else 2

/-- The prediction of a sample (R302). -/
def ricePred (at' : Nat → Nat → Nat) (p s x y : Nat) : Int :=
  let a : Int := at' (x - p) y
  let b : Int := at' x (y - p)
  let c : Int := at' (x - p) (y - p)
  if x < p ∧ y < p then (2 ^ (s - 1) : Nat)
  else if y < p then a
  else if x < p then b
  else if max a b ≤ c then min a b
  else if c ≤ min a b then max a b
  else a + b - c

/-- The mapped residual u (R302). -/
def riceMap (s : Nat) (v pred : Int) : Nat :=
  let e := toSigned s (ofSigned s (v - pred))
  if 0 ≤ e then (2 * e).toNat else (-2 * e - 1).toNat

/-- The sample whose mapped residual is `u`. -/
def riceUnmap (s u : Nat) (pred : Int) : Nat :=
  let e : Int := if u % 2 = 0 then (u / 2 : Nat) else -(((u + 1) / 2 : Nat) : Int)
  ofSigned s (pred + e)

/-- k of a context (R303). -/
def riceK (s a n : Nat) : Nat := ((List.range s).find? fun k => decide (a ≤ n * 2 ^ k)).getD (s - 1)

/-- The counts after a sample (R303). -/
def Rice.count (r : Rice) (ctx u : Nat) : Rice :=
  let a := r.a.getD ctx 0 + u
  let n := r.n.getD ctx 0 + 1
  if n = 64 then { r with a := r.a.set ctx (a / 2), n := r.n.set ctx 32 }
  else { r with a := r.a.set ctx a, n := r.n.set ctx n }

/-- A field of `n` bits, most significant first. -/
def Rice.put (r : Rice) (v n : Nat) : Rice := { r with acc := r.acc * 2 ^ n + v, len := r.len + n }

/-- The code of u (R303). -/
def Rice.code (r : Rice) (s ctx u : Nat) : Rice :=
  let k := riceK s (r.a.getD ctx 0) (r.n.getD ctx 0)
  let q := u / 2 ^ k
  let r := if q < 24 then ((r.put (2 ^ q - 1) q).put 0 1).put (u % 2 ^ k) k else (r.put (2 ^ 24 - 1) 24).put u s
  r.count ctx u

/-- Bytes of a bit string held as a number, most significant first, zero bits at the end. -/
def Rice.bytes (r : Rice) : List Byte :=
  let n := ceilDiv r.len 8
  (leBytes n (r.acc * 2 ^ (8 * n - r.len))).reverse

/-- The coded payload of a block of `rows` rows from frame row `y0`; `at'` reads a sample by column and row within
the block. -/
def codeBlock (cfa s w y0 rows : Nat) (at' : Nat → Nat → Nat) : List Byte :=
  let p := riceStep cfa
  ((List.range (rows * w)).foldl (fun (r : Rice) i =>
    let x := i % w
    let y := i / w
    r.code s (shadePlane cfa x (y0 + y)) (riceMap s (at' x y) (ricePred at' p s x y))) Rice.init).bytes

/-- Samples packed under 05 R121 (R305). -/
def packSamples (depth : Nat) (l : List Nat) : List Byte :=
  (chunks (groupPx depth) (l.length + 1) l).flatMap fun g =>
    leBytes (groupBytes depth) (packWord (g.zipIdx.map fun (v, i) => (i * depth, v)))

/-- A block: header and payload, and whether it is stored (R301, R304, R306, R307). -/
def blockBytes (cfa s w y0 rows frame : Nat) (last storedOnly mismatch : Bool) (at' : Nat → Nat → Nat) :
    List Byte × Bool :=
  let flat := packSamples s ((List.range (rows * w)).map fun i => at' (i % w) (i / w))
  let coded := codeBlock cfa s w y0 rows at'
  let stored := mismatch || storedOnly || decide (rows * w * s / 8 ≤ coded.length)
  let payload := if stored then flat else coded
  let head := leBytes 2 0x5A3C ++ leBytes 1 (packWord [(0, stored.toNat), (1, mismatch.toNat), (2, last.toNat)]) ++
    leBytes 1 0 ++ leBytes 4 payload.length ++ leBytes 2 y0 ++ leBytes 2 rows ++ leBytes 4 frame ++
    leBytes 4 (crc32c flat) ++ leBytes 8 0
  (head ++ leBytes 4 (crc32c head) ++ payload, stored)

/-! ### Records (R300) -/

/-- What a record is made from. -/
structure RecIn where
  f     : Frame
  p     : Nat
  point : Nat
  depth : Nat
  w     : Nat
  h     : Nat
  px    : Array Nat
  band  : Nat
  gap   : Nat

def RecIn.blocks (r : RecIn) : Nat := ceilDiv r.h r.band

/-- The record of a frame, padding included, with the number of stored blocks. -/
def recordBytes (r : RecIn) (storedOnly : Bool) (mismatched : List Nat) : List Byte × Nat :=
  let blocks := (List.range r.blocks).map fun i =>
    let y0 := i * r.band
    let rows := min r.band (r.h - y0)
    blockBytes r.f.cfa r.depth r.w y0 rows r.f.number (i + 1 == r.blocks) storedOnly (mismatched.contains i)
      fun x y => r.px.getD ((y0 + y) * r.w + x) 0
  let body := blocks.flatMap (·.1)
  let size := 128 + body.length
  let head := padTo 124 (postmark (r.f.stamp / 2 ^ 32) r.f.epoch r.f.number (8 * r.p + 7) ++
    leBytes 2 r.f.status.toNat ++ leBytes 1 ((r.depth - 10) / 2) ++ leBytes 1 r.f.cfa ++ leBytes 4 r.f.pset ++
    leBytes 2 r.w ++ leBytes 2 r.h ++ leBytes 1 r.point ++ leBytes 1 r.band ++ leBytes 2 r.blocks ++
    leBytes 2 (if r.point = 0 then 0 else frontN r.f.params r.p 0x70) ++ leBytes 2 0 ++ leBytes 4 size ++
    leBytes 4 r.gap ++ leBytes 1 storedOnly.toNat)
  let all := head ++ leBytes 4 (crc32c head) ++ body
  (padTo (ceilDiv all.length 4096 * 4096) all, blocks.countP (·.2))

/-- Bytes per frame declared for a raw lane's output (R298). -/
def declaredRecord (rawBytes blocks rho : Nat) : Q := ⟨(rawBytes * 16 + (32 * blocks + 4224) * rho : Nat), rho⟩

/-- The geometry of the raw tap's frame at a point (06 R164). -/
def rawW (params : List (Nat × List Byte)) (p point : Nat) : Nat :=
  if point = 0 then mergedW (capCfg params p) else devW params p (capCfg params p)
def rawH (params : List (Nat × List Byte)) (p : Nat) : Nat := mergedH (capCfg params p)

/-- Samples packed: bytes of a raw frame (R298). -/
def rawBytes (params : List (Nat × List Byte)) (p point depth : Nat) : Nat :=
  rawW params p point * rawH params p / groupPx depth * groupBytes depth

def boltBand (params : List (Nat × List Byte)) (n : Nat) : Nat := max 1 (leNat (parOf params (pkey 0x0D n 2)))

/-! ### Staging (R308 to R310) -/

/-- Overflow buffers of a chain return to free once their slot is free (R308). -/
def Dev.freeChains (d : Dev) (lane : Nat) : Dev :=
  let used := ((d.ringI (ringBolt + lane)).bufs.filter (·.st != .free)).flatMap (·.chain)
  d.onBoltI lane fun b =>
    { b with ovf := b.ovf.map fun o => if o.st != .free && !used.contains o.idx then { o with st := .free } else o }

/-- Places the pieces of a record in free overflow buffers, lowest number first; none when they run short. -/
def pickOverflow : List Buf → List Byte → Nat → Option (List (Buf × List Byte))
  | _, _, 0 => none
  | free, bs, fuel + 1 =>
    if bs.isEmpty then some []
    else match free with
      | [] => none
      | b :: rest =>
        let n := max 1 b.desc.stride0
        (pickOverflow rest (bs.drop n) fuel).map ((b, bs.take n) :: ·)

/-- A staging buffer's header (R308). -/
def stageHeader (f : Frame) (p bytes recBytes next : Nat) (more cont : Bool) : List Byte :=
  padTo 64 (postmark (f.stamp / 2 ^ 32) f.epoch f.number (8 * p + 7) ++ leBytes 2 f.status.toNat ++ leBytes 2 0 ++
    leBytes 4 f.pset ++ leBytes 4 bytes ++ leBytes 4 recBytes ++ leBytes 2 next ++
    leBytes 1 (packWord [(0, more.toNat), (1, cont.toNat)]))

/-- The frame whose record the lane codes next: the oldest that took a slot and still fills it. -/
def Dev.recordFrame (d : Dev) (p : Nat) : Option Frame :=
  (d.pipeFrames p).find? fun f =>
    !f.rawDrop && ((f.buf 8).bind (d.ringI (ringBolt + p)).byOrder).elim false fun b => b.st == .filling

/-- The stored clamp estimates that a frame starts from. -/
def Dev.frameBase (d : Dev) (p : Nat) (f : Frame) : List Nat :=
  match (d.pipeI p).done with
  | some g => if g.number = f.number then g.clamp else (d.pipeI p).clamp
  | none => (d.pipeI p).clamp

/-- Flush dockets of a raw lane are answered at rank 8 of this close (R311). -/
def Dev.flushRaw (d : Dev) (lane frame : Nat) (dropped : Bool) : Dev :=
  let waiting := (d.boltI lane).flush
  (d.each waiting fun d k => d.finish8 k 0 (leBytes 4 frame ++ leBytes 1 dropped.toNat)).onBoltI lane fun b =>
    { b with flush := [] }

/-- Mismatches of a block or a job (R306): counted, reported, and the third within one hour of operation leads to
stored-only mode (R307). -/
def Dev.mismatch (d : Dev) (lane frame ns : Nat) : Dev :=
  let sec := d.tick.tclk / 125000000
  let times := (sec :: (d.boltI lane).mismAt).take 3
  let third := decide (times.length = 3) && decide (sec < times.getD 2 0 + 3600)
  let d := d.onBoltI lane fun b =>
    { b with mismatches := bump b.mismatches, mismAt := times, storedOnly := b.storedOnly || (third && decide (lane < 8)) }
  (d.report 0x0059 (endpoint 0x0D lane) ns [lane, frame]).raise (234 + lane) ns

/-- BOLTER_RECORD (R300 to R310): the record of the lane's next frame is complete in staging; `mismatched` names the
blocks whose check failed. -/
def Dev.bolterRecord (d : Dev) (lane : Nat) (mismatched : List Nat) (cyc : Nat) : Dev :=
  let ns := d.nsAt cyc
  match d.recordFrame lane with
  | some f =>
    let ring := ringBolt + lane
    match (f.buf 8).bind (d.ringI ring).byOrder with
    | none => d
    | some slot =>
      let point := u8 (frameRaw f lane) 0
      let depth := u8 (frameRaw f lane) 1
      let front := frontEnd f lane (d.frameBase lane f)
      let (w, h, px, _) := rawTap f lane point depth front
      let x := d.pipeI lane
      let gap := x.lastRecord.elim 0 fun l => (f.number + 2 ^ 32 - l - 1) % 2 ^ 32
      let r : RecIn := ⟨f, lane, point, depth, w, h, px.toArray, boltBand f.params lane, gap⟩
      let bad := mismatched.filter (· < r.blocks)
      let only := (d.boltI lane).storedOnly
      let (bytes, stored) := recordBytes r only (if only then [] else bad)
      let d := d.onBoltI lane fun b => { b with stored := bumpBy b.stored stored }
      let d := if only then d else d.each bad fun d _ => d.mismatch lane f.number ns
      let cap0 := max 1 slot.desc.stride0
      let free := (d.boltI lane).ovf.filter (·.st == .free)
      match pickOverflow free (bytes.drop cap0) (free.length + 1) with
      | none =>
        -- no overflow buffer left: the record ends in abort (R310)
        let d := d.onRingI ring (·.dropBuf slot.order)
        let d := d.onBoltI lane fun b => { b with dropped := bump b.dropped }
        let d := d.missRing (ringBolt + lane) 2
        let mark := fun (g : Frame) => if g.number == f.number then { g with rawDrop := true } else g
        let d := d.onPipeI lane fun x =>
          { x with done := x.done.map mark, ended := x.ended.map mark, cur := x.cur.map mark }
        ((d.frameLost lane (420 + lane) f.number ns).raise (234 + lane) ns).flushRaw lane f.number true
      | some parts =>
        let idxs := parts.map (·.1.idx)
        let first := bytes.take cap0
        let d := d.memWrite slot.desc.pool slot.desc.plane0 first
        let d := d.each (parts.zipIdx) fun d (part, i) =>
          let d := d.memWrite part.1.desc.pool part.1.desc.plane0 part.2
          d.memWrite part.1.desc.pool part.1.desc.hdrOff
            (stageHeader f lane part.2.length 0 (idxs.getD (i + 1) 0xFFFF) (decide (i + 1 < parts.length)) true)
        let d := d.memWrite slot.desc.pool slot.desc.hdrOff
          (stageHeader f lane first.length bytes.length (idxs.getD 0 0xFFFF) (!parts.isEmpty) false)
        let d := d.onBoltI lane fun b =>
          { b with ovf := b.ovf.map fun o => if idxs.contains o.idx then { o with st := .full } else o }
        let d := d.onRingI ring fun r => r.onOrder slot.order fun b => { b with chain := idxs }
        let d := d.onRingI ring fun r =>
          r.fill slot.order (postmarkNat (f.stamp / 2 ^ 32) f.epoch f.number (8 * lane + 7)) f.pset bytes.length
        let d := d.freeChains lane
        let d := d.onPipeI lane fun x => { x with lastRecord := some f.number }
        -- the ratio of the last 16 records (R299, R315)
        let rho := max 1 (u8 (frameRaw f lane) 2)
        let raw := rawBytes f.params lane point depth
        let sizes := (bytes.length :: (d.boltI lane).sizes).take 16
        let raws := (raw :: (d.boltI lane).raws).take 16
        let low := decide (sizes.length = 16) &&
          qLt (qMul (declaredRecord raw r.blocks rho) (qOfNat 16)) (qOfNat (sumBy id sizes))
        let new := low && !(d.boltI lane).lowRun
        let d := d.onBoltI lane fun b =>
          { b with sizes := sizes, raws := raws, lowRun := low, ratioLow := b.ratioLow || new }
        let d := if new then
            ((d.mark (0xD000 + 0x40 * lane) 3).report 0x0058 (endpoint 0x0D lane) ns [lane]).raise (234 + lane) ns else d
        d.flushRaw lane f.number false
  | none => d

def execBolterRecord (lane : Fin 8) (mismatched : List Nat) (cyc : Nat) (s : State) :
    Host.Outcome State Fault Refusal :=
  .next { s with dev := s.dev.bolterRecord lane mismatched cyc }

/-! ### Decoding a record (R314) -/

/-- Reads bits most significant first. -/
structure MsbBits where
  left : List Bool

def msbBits (bs : List Byte) : List Bool := bs.flatMap fun b => (List.range 8).map fun i => b.getLsbD (7 - i)

def takeMsb : Nat → List Bool → Nat → Option (Nat × List Bool)
  | 0, l, acc => some (acc, l)
  | _ + 1, [], _ => none
  | k + 1, b :: l, acc => takeMsb k l (2 * acc + b.toNat)

/-- Leading one bits, at most 24, and the rest after them. -/
def takeOnes : Nat → List Bool → Nat → Nat × List Bool
  | 0, l, n => (n, l)
  | _ + 1, [], n => (n, [])
  | k + 1, b :: l, n => if b then takeOnes k l (n + 1) else (n, b :: l)

/-- One code word (R303). -/
def takeRice (s k : Nat) (l : List Bool) : Option (Nat × List Bool) :=
  let (ones, l) := takeOnes 24 l 0
  if ones = 24 then takeMsb s l 0
  else match l with
    | false :: l => (takeMsb k l 0).map fun (v, l) => (ones * 2 ^ k + v, l)
    | _ => none

/-- The samples of a coded block; none when a code word runs past its end. -/
def decodeBlock (cfa s w y0 rows : Nat) (payload : List Byte) : Option (Array Nat) :=
  let p := riceStep cfa
  let r := (List.range (rows * w)).foldl (fun (st : Option (Rice × List Bool × Array Nat)) i => do
    let (r, l, px) ← st
    let x := i % w
    let y := i / w
    let ctx := shadePlane cfa x (y0 + y)
    let (u, l) ← takeRice s (riceK s (r.a.getD ctx 0) (r.n.getD ctx 0)) l
    let v := riceUnmap s u (ricePred (fun x y => px.getD (y * w + x) 0) p s x y)
    some (r.count ctx u, l, px.push v)) (some (Rice.init, msbBits payload, #[]))
  r.map (·.2.2)

/-- A block header at byte `pos`, if one is valid there: payload length, first row, rows (R301, R314). -/
def blockAt (bs : List Byte) (stop pos : Nat) : Option (Nat × Nat × Nat) :=
  let h := (bs.drop pos).take 32
  if h.length = 32 ∧ u16 h 0 = 0x5A3C ∧ u32 h 28 = crc32c (h.take 28) ∧ pos + 32 + u32 h 4 ≤ stop then
    some (u32 h 4, u16 h 8, u16 h 10)
  else none

/-- The positions of the valid blocks of a record, searching forward past bad ones (R314). -/
def findBlocks (bs : List Byte) (stop : Nat) : Nat → Nat → List Nat
  | 0, _ => []
  | fuel + 1, pos =>
    if stop ≤ pos then []
    else match blockAt bs stop pos with
      | some (n, _, _) => pos :: findBlocks bs stop fuel (pos + 32 + n)
      | none => findBlocks bs stop fuel (pos + 1)

/-- A record's samples in stored form, its bad blocks and its mismatched blocks; none when its header's CRC fails
(R314). -/
def rawDecode (bs : List Byte) : Option (List Byte × Nat × Nat) :=
  if bs.length < 128 ∨ u32 bs 124 ≠ crc32c (bs.take 124) then none
  else
    let s := 10 + 2 * (u8 bs 18 % 4)
    let cfa := u8 bs 19
    let w := u16 bs 24
    let h := u16 bs 26
    let band := max 1 (u8 bs 29)
    let stop := min bs.length (u32 bs 36)
    let found := findBlocks bs stop (stop + 1) 128
    let parts := (List.range (ceilDiv h band)).map fun i =>
      let y0 := i * band
      let rows := min band (h - y0)
      let zero := List.replicate (rows * w) 0
      match found.find? fun pos => (blockAt bs stop pos).elim false fun b => b.2.1 == y0 && b.2.2 == rows with
      | none => (zero, 1, 0)
      | some pos =>
        let hd := (bs.drop pos).take 32
        let payload := (bs.drop (pos + 32)).take (u32 hd 4)
        let px := if bit (u8 hd 2) 0 then
            (if payload.length = rows * w / groupPx s * groupBytes s then some (unpackSamples s payload) else none)
          else (decodeBlock cfa s w y0 rows payload).map Array.toList
        match px with
        | none => (zero, 1, 0)
        | some l => (l, 0, if crc32c (packSamples s l) = u32 hd 16 then 0 else 1)
    some (packSamples s (parts.flatMap (·.1)), sumBy (·.2.1) parts, sumBy (·.2.2) parts)

/-! ### General lanes (R311 to R314) -/

/-- A segment list of 16-byte entries: address and length (14 R362). -/
def segsOf (bs : List Byte) (n : Nat) : List (Nat × Nat) :=
  (List.range n).map fun i => (u64 bs (16 * i), u32 bs (16 * i + 8))

/-- Output written over the segments, split at whatever byte fills each (R309). -/
def Dev.writeSegs (d : Dev) : List (Nat × Nat) → List Byte → Dev
  | [], _ => d
  | (a, n) :: rest, bs => if bs.isEmpty then d else (d.hostWrite a (bs.take n)).writeSegs rest (bs.drop n)

def segRoom (segs : List (Nat × Nat)) : Nat := sumBy (·.2) segs

/-- A compress job (R312): free coded bits that the lane's checker accepts only when they inflate to the input;
otherwise stored blocks. -/
def Dev.compressJob (d : Dev) (lane : Nat) (j : BoltJob) (input : List Byte) (segs : List (Nat × Nat)) : Dev :=
  let b := d.boltI lane
  let fresh := j.fresh || b.dead
  let hist := if fresh then [] else b.history
  let start := b.heldBits.length % 8
  let n := d.freeAt 0
  let coded := (List.range n).map fun i => Config.freeNat (d.fresh + 1 + i) % 2 == 1
  let chk := inflate coded hist (input.length + 1) start
  let good := chk.ending == some .used && chk.left.isEmpty && chk.out.reverse == input
  let bits := if good then coded else storedBits start input false
  let all := b.heldBits ++ bits
  let whole := all.length / 8
  let bytes := bytesOfBits (all.take (8 * whole))
  let room := segRoom segs
  let d := (d.used (n + 1)).writeSegs segs bytes
  let full := decide (room < bytes.length)
  let d := d.onBoltI lane fun b =>
    { b with heldBits := if full then [] else all.drop (8 * whole), dead := full,
             history := if full then [] else (input.reverse ++ hist).take 32768 }
  let d := if good then d else d.mismatch lane 0xFFFFFFFF d.nowNs
  d.finish8 j.dk (if full then 0x8601 else 0)
    (leBytes 4 (min room bytes.length) ++ leBytes 4 (crc32c input) ++ leBytes 1 (if good then 0 else 1))

/-- A decompress job (R313). The stream so far is held, so that a job that ends within a block goes on there. -/
def Dev.decompressJob (d : Dev) (lane : Nat) (j : BoltJob) (input : List Byte) (segs : List (Nat × Nat)) : Dev :=
  let b := d.boltI lane
  let old := if j.fresh then [] else b.stream
  let skip := if j.fresh then 0 else b.written
  let all := old ++ input
  let r := inflate (bitsOf all) [] (skip + segRoom segs) 0
  let out := r.out.reverse.drop skip
  let d := d.writeSegs segs out
  let keep := r.ending == some .used
  let d := d.onBoltI lane fun b =>
    { b with stream := if keep then all else [], written := if keep then skip + out.length else 0 }
  let status := match r.ending with
    | some .bad => 0x8602
    | some .full => 0x8601
    | some .used => 0x8603
    | _ => 0
  d.finish8 j.dk status (leBytes 4 out.length ++ leBytes 8 (r.pos - 8 * old.length))

/-- A raw decode job (R314). -/
def Dev.rawDecodeJob (d : Dev) (j : BoltJob) (input : List Byte) (segs : List (Nat × Nat)) : Dev :=
  match rawDecode input with
  | none => d.finish8 j.dk 0x8604 (leBytes 4 0)
  | some (out, bad, mism) =>
    let room := segRoom segs
    (d.writeSegs segs out).finish8 j.dk (if room < out.length then 0x8601 else 0)
      (leBytes 4 (min room out.length) ++ leBytes 2 bad ++ leBytes 2 mism)

/-- A flush of a general lane, behind its jobs (R311). -/
def Dev.flushJob (d : Dev) (lane : Nat) (j : BoltJob) : Dev :=
  let d := d.onBoltI lane fun b =>
    match j.mode with
    | 0 => b
    | 1 => { b with heldBits := b.heldBits ++ storedBits (b.heldBits.length % 8) [] false }
    | _ => { b with heldBits := b.heldBits ++ storedBits (b.heldBits.length % 8) [] true, history := [], dead := false }
  d.finish8 j.dk 0 (leBytes 4 0xFFFFFFFF)

/-- BOLTER_JOB_COMPLETE: the oldest job of a general lane ends, once its input has been read. -/
def Dev.jobComplete (d : Dev) (g : Nat) : Dev :=
  let lane := 8 + g
  if d.isShed (428 + 2 * g) || d.isShed (429 + 2 * g) then d
  else match (d.boltI lane).jobs with
  | [] => d
  | j :: rest =>
    if j.op = 0x63 then (d.onBoltI lane fun b => { b with jobs := rest }).flushJob lane j
    else match j.input, j.segs with
      | some input, some segs =>
        let d := d.onBoltI lane fun b => { b with jobs := rest }
        if j.op = 0x60 then d.compressJob lane j input segs
        else if j.op = 0x61 then d.decompressJob lane j input segs
        else d.rawDecodeJob j input segs
      | _, _ => d

def execBolterJobComplete (lane : Fin 2) (s : State) : Host.Outcome State Fault Refusal :=
  .next { s with dev := s.dev.jobComplete lane }

/-! ### Dockets of group 0x6_ (14 R362) -/

/-- A docket begins to read host memory; it ends when HOST_READ_COMPLETE or HOST_READ_FAILED answers (13 R319,
14 R349). -/
def Dev.readHost (d : Dev) (k : Docket) (addr len : Nat) : Dev :=
  (d.onHost fun h => { h with waitData := h.waitData ++ [⟨k, addr, len⟩] }).emit (.hostRead k.sq k.idx addr len)

/-- Compress, decompress and raw decode: the segment list is read, then the input, then the job waits its turn. -/
def Dev.jobDocket (d : Dev) (k : Docket) : Dev :=
  d.runDocket k [(8, 15), (16, 19), (20, 20), (21, 21), (22, 22), (24, 31)] fun d =>
    let len := u32 k.bytes 16
    let lane := 8 + u8 k.bytes 20
    let n := u8 k.bytes 22
    if 1 < u8 k.bytes 21 then d.finish k 0x0202
    else if u64 k.bytes 8 % 4 ≠ 0 ∨ u64 k.bytes 24 % 4 ≠ 0 then d.finish k 0x0205
    else if len = 0 ∨ 2 ^ 24 < len ∨ n = 0 ∨ 16 < n then d.finish k 0x0204
    else if 1 < u8 k.bytes 20 then d.finish k 0x0203
    else if !(d.boltI lane).active then d.finish k 0x8605
    else
      (d.onBoltI lane fun b =>
        { b with jobs := b.jobs ++ [⟨dkOp k, k, u8 k.bytes 21 == 1, 0, none, none⟩] }).readHost k (u64 k.bytes 24) (16 * n)

def execCompress (k : Docket) (s : State) : Host.Outcome State Fault Refusal :=
  .next { s with dev := s.dev.jobDocket k }

def execDecompress (k : Docket) (s : State) : Host.Outcome State Fault Refusal :=
  .next { s with dev := s.dev.jobDocket k }

def execRawDecode (k : Docket) (s : State) : Host.Outcome State Fault Refusal :=
  .next { s with dev := s.dev.jobDocket k }

/-- Host data of a job arrives: the list first, then the input. A segment length of 0 or a reserved field that is not
0 refuses the docket (R362, R348). -/
def Dev.jobData (d : Dev) (k : Docket) (data : List Byte) : Dev :=
  let lane := 8 + u8 k.bytes 20
  let mine := fun (j : BoltJob) => j.dk.sq == k.sq && j.dk.idx == k.idx
  match (d.boltI lane).jobs.find? mine with
  | none => d
  | some j =>
    if j.segs.isNone then
      let n := u8 k.bytes 22
      let bad := (List.range n).any fun i => u32 data (16 * i + 12) != 0
      let short := (List.range n).any fun i => u32 data (16 * i + 8) == 0
      if bad || short then
        (d.onBoltI lane fun b => { b with jobs := b.jobs.filter fun j => !mine j }).finish8 k
          (if bad then 0x0202 else 0x0204)
      else
        (d.onBoltI lane fun b =>
          { b with jobs := b.jobs.map fun j => if mine j then { j with segs := some (segsOf data n) } else j
          }).readHost k (u64 k.bytes 8) (u32 k.bytes 16)
    else d.onBoltI lane fun b =>
      { b with jobs := b.jobs.map fun j => if mine j then { j with input := some data } else j }

/-- A job whose host data could not be read ends without effect (14 R349). -/
def Dev.jobFailed (d : Dev) (k : Docket) : Dev :=
  let lane := 8 + u8 k.bytes 20
  (d.onBoltI lane fun b =>
    { b with jobs := b.jobs.filter fun j => !(j.dk.sq == k.sq && j.dk.idx == k.idx) }).finish8 k 0x0501

/-- BOLTER_FLUSH (R311). -/
def Dev.bolterFlush (d : Dev) (k : Docket) : Dev :=
  d.runDocket k [(20, 20), (21, 21)] fun d =>
    let lane := u8 k.bytes 20
    if 9 < lane then d.finish k 0x0203
    else if 2 < u8 k.bytes 21 then d.finish k 0x0204
    else if !(d.boltI lane).active then d.finish k 0x8605
    else if 8 ≤ lane then
      d.onBoltI lane fun b => { b with jobs := b.jobs ++ [⟨0x63, k, false, u8 k.bytes 21, none, none⟩] }
    else if (d.recordFrame lane).isSome then d.onBoltI lane fun b => { b with flush := b.flush ++ [k] }
    else d.finish8 k 0 (leBytes 4 ((d.pipeI lane).lastRecord.getD 0xFFFFFFFF))

def execBolterFlush (k : Docket) (s : State) : Host.Outcome State Fault Refusal :=
  .next { s with dev := s.dev.bolterFlush k }

/-! ### Landing -/

/-- The overflow list lands (R308). -/
def Dev.landOverflow (d : Dev) (lane : Nat) (v : List Byte) : Dev :=
  d.onBoltI lane fun b =>
    { b with ovf := (ringDescs v).zipIdx.map fun (dsc, i) => ⟨dsc, i, .free, [], [], [], false, false, 0, 0, 0, 0, 0, [], []⟩ }

end Sys2Proof.Machine
end

