-- ==== Sys2Proof/Machine/Clips.lean ====
section
/-!
DEFINITION. The clip store's medium and recordings: capacity, spare and wear, bands and clips, recording slots and
their units (15 R365 to R386). Dies are numbered channel by channel over the populated channels: notes/assumptions/23.md.
-/
namespace Sys2Proof.Machine

/-! ### Geometry and capacity (R366, R369, R385) -/

def diesPerChannel (g : NandGeometry) : Nat := g.cePerCh * g.lunsPerCe
def dieCount (g : NandGeometry) : Nat := g.channels.length * diesPerChannel g
def blocksPerDie (g : NandGeometry) : Nat := g.planes * g.blksPerPlane

/-- The medium meets R366, and offers the data interface of R365. -/
def geometryOk (g : NandGeometry) : Bool :=
  g.pageBytes == 16384 && decide (1856 ≤ g.spareBytes) && [1, 2, 4].contains g.planes && within 64 g.pagesPerBlk 4096 &&
    decide (g.blksPerPlane ≤ 8192) && within 1 g.lunsPerCe 4 && within 1 g.cePerCh 16 && within 1 g.bitsPerCell 4 &&
    decide (4 ≤ g.channels.length) && g.uniform && g.lpddr4

/-- Data bytes of a block. -/
def blockData (g : NandGeometry) : Nat := 16384 * g.pagesPerBlk

def goodBlocks (g : NandGeometry) : Nat := dieCount g * (blocksPerDie g - g.badPerDie)

/-- C, logical blocks, for `good` good blocks (R369). -/
def capacityOf (g : NandGeometry) (good : Nat) : Nat :=
  let n := g.channels.length
  min (2 ^ 33) (1024 * (good * blockData g * (n - 1) * 15 / (n * 16 * 4194304)))

/-- Good blocks that C needs, stripe parity included: the others are free spare (R372). -/
def blocksNeeded (g : NandGeometry) (c : Nat) : Nat :=
  let n := g.channels.length
  ceilDiv (c * 4096 * n) ((n - 1) * blockData g)

/-- r_d, bytes/s (R385). -/
def dieRate (g : NandGeometry) : Q :=
  let r : Q := ⟨(15 * g.planes * 16384 * g.bitsPerCell * 1000000000 : Nat), 16 * g.tProgNs⟩
  if qLe (qOfNat 125000000) r then qOfNat 125000000 else r

/-- Dies on the channel at place `i` that are not retired. -/
def liveDies (s : StoreSt) (g : NandGeometry) (i : Nat) : Nat :=
  diesPerChannel g - s.retired.countP fun x => x / diesPerChannel g == i

/-- The term of one channel in R385, bytes/s. -/
def channelRate (s : StoreSt) (g : NandGeometry) (i : Nat) : Q :=
  let r := qMul (qOfNat (liveDies s g i)) (dieRate g)
  if qLe (qOfNat 2000000000) r then qOfNat 2000000000 else r

/-- C_w, bytes/s; 0 while the store is not up (R385). -/
def writeCapacity (s : StoreSt) : Q :=
  match s.geom with
  | some g => if s.online || s.locked then qSum ((List.range g.channels.length).map (channelRate s g)) else qZero
  | none => qZero

/-- The recording reserve, bytes/s (R388). -/
def Dev.reserve (d : Dev) : Nat := d.parN 0x0E 0 0

/-! ### Bands (R378) -/

def bandCount (s : StoreSt) : Nat := s.capacity / 1024
def bandOf (s : StoreSt) (b : Nat) : Option BandState := (s.bands.find? fun x => x.1 == b).map (·.2)
def bandsFree (s : StoreSt) : Nat := bandCount s - s.bands.length

/-- Ranges of blocks, as first and count, overlap. -/
def rangesMeet (f1 n1 f2 n2 : Nat) : Bool := decide (f1 < f2 + n2) && decide (f2 < f1 + n1)

/-- The lowest-numbered free band that no host pigeonhole overlaps (R379, 16 R396).
The choice among free bands: notes/assumptions/24.md. -/
def freeBand (s : StoreSt) : Option Nat :=
  (List.range (s.bands.length + s.holes.length * 5 + 1)).find? fun b =>
    decide (b < bandCount s) && (bandOf s b).isNone &&
      !s.holes.any fun h => rangesMeet (1024 * b) 1024 h.first h.blocks

/-! ### Clips (R380 to R382) -/

def onClip (s : StoreSt) (id : Nat) (f : Clip → Clip) : StoreSt :=
  { s with clips := s.clips.map fun c => if c.id == id then f c else c }

/-- An extent added at the end, joined to the last one when it follows it. -/
def addExtent : List (Nat × Nat) → Nat × Nat → List (Nat × Nat)
  | [], e => [e]
  | [x], e => if x.1 + x.2 = e.1 then [(x.1, x.2 + e.2)] else [x, e]
  | x :: y :: l, e => x :: addExtent (y :: l) e

/-- The first `n` blocks of a list of extents. -/
def takeBlocks : List (Nat × Nat) → Nat → List (Nat × Nat)
  | [], _ => []
  | (f, k) :: l, n => if n = 0 then [] else if n ≤ k then [(f, n)] else (f, k) :: takeBlocks l (n - k)

/-- Extents without the blocks `a` to `b - 1`. -/
def cutBlocks (l : List (Nat × Nat)) (a b : Nat) : List (Nat × Nat) :=
  l.flatMap fun (f, n) =>
    if f + n ≤ a ∨ b ≤ f then [(f, n)]
    else (if f < a then [(f, a - f)] else []) ++ (if b < f + n then [(b, f + n - b)] else [])

def inExtents (l : List (Nat × Nat)) (lba : Nat) : Bool := l.any fun (f, n) => decide (f ≤ lba) && decide (lba < f + n)

/-- Bands of a clip that hold none of its blocks, once it is closed, go back to free when none of its bands holds any,
and a clip left with no extents is removed (R382). -/
def dropEmptyClips (s : StoreSt) : StoreSt :=
  let gone := (s.clips.filter fun c => !c.opened && c.extents.isEmpty)
  { s with
    bands := s.bands.filter fun x => match x.2 with
      | .clip id => !gone.any (·.id == id)
      | .host => true,
    clips := s.clips.filter fun c => c.opened || !c.extents.isEmpty }

/-- A clip ends at its last unit whose source buffer has been released; bands past its end go back to free
(16 R403, R404). -/
def trimToSafe (c : Clip) : Clip :=
  let ext := takeBlocks c.extents (c.safeBytes / 4096)
  let keep := c.bands.filter fun b => ext.any fun (f, n) => rangesMeet (1024 * b) 1024 f n
  { c with extents := ext, bands := keep, bytes := c.safeBytes, units := c.safeUnits, last := c.safeLast,
           fill := (c.safeBytes / 4096) % 1024 + (if c.safeBytes / 4096 % 1024 = 0 ∧ 0 < c.safeBytes then 1024 else 0) }

/-- Clips that are open or wait for units to be programmed end at what is safe of them. -/
def trimUnsafe (s : StoreSt) : List Clip :=
  s.clips.map fun c => if c.opened || s.units.any (fun u => u.clip == c.id) then trimToSafe c else c

/-- Clip bands that no clip holds go back to free. -/
def freeUnheld (s : StoreSt) : StoreSt :=
  { s with bands := s.bands.filter fun x => match x.2 with
      | .clip id => s.clips.any fun c => c.id == id && c.bands.contains x.1
      | .host => true }

/-- A clip is closed (R381, R384): its recording pigeonholes are released (16 R396). -/
def closeClip (s : StoreSt) (id : Nat) (full continued : Bool) : StoreSt :=
  let ep := (s.clips.find? fun c => c.id == id).elim 0 (·.source)
  let s := onClip s id fun c =>
    { c with opened := false, fullEnd := c.fullEnd || full, continued := c.continued || continued }
  dropEmptyClips { s with recHoles := s.recHoles.filter fun h => h.1 != ep }

/-! ### Sources of recordings (R383) -/

/-- The ring of a source: a bolter raw lane, an encode stream or an audio port. -/
def sourceRing (ep : Nat) : Option Nat :=
  let n := ep % 256
  match ep / 256 with
  | 0x0D => if n < 8 then some (ringBolt + n) else none
  | 0x0B => if n < 32 then some (ringEnc + n) else none
  | 0x11 => if n < 28 then some (ringAudio + n) else none
  | _ => none

/-- The stream whose declared rate is that of a source (R386; 12 R298, 19 R463). -/
def sourceRace (ep : Nat) : Nat :=
  let n := ep % 256
  match ep / 256 with
  | 0x0D => 420 + n
  | 0x0B => 384 + n
  | _ => 608 + n

def Dev.sourceRate (d : Dev) (ep : Nat) : Q :=
  (d.res.streams.find? fun s => s.race == sourceRace ep).elim qZero (·.rate)

/-- The declared rate of a slot's sources, bytes/s (R386). -/
def Dev.ratesOf (d : Dev) (eps : List Nat) : Q := qSum (eps.map d.sourceRate)
def Dev.slotRate (d : Dev) (n : Nat) : Q := d.ratesOf ((d.store.slots.getD n RecSlot.idle).sources.map (·.ep))
def Dev.runningRate (d : Dev) : Q := qSum ((List.range 8).map d.slotRate)

def storeEp : Nat := endpoint 0x0E 0

/-- A source leaves its slot: its consumer slot is detached (R208) and its clip closes. Units that are still being
programmed keep their buffers until they are (R370). -/
def Dev.endSource (d : Dev) (n : Nat) (x : RecSrc) (full : Bool) : Dev :=
  let d := match sourceRing x.ep with
    | some r => d.detach r x.cslot
        ((d.store.units.filter fun (u : RecUnit) => u.ep == x.ep && u.cslot == x.cslot).flatMap fun (u : RecUnit) => u.orders)
    | none => d
  d.onStore fun s =>
    let s := closeClip s x.clip full false
    { s with slots := upd s.slots n fun r =>
               let left := r.sources.filter fun y => y.ep != x.ep
               { r with sources := left, running := r.running && !left.isEmpty } }

/-- A slot whose sources have all ended has stopped (22 R519, source 304 + r). -/
def Dev.slotStopped (d : Dev) (n : Nat) : Dev :=
  if (d.store.slots.getD n RecSlot.idle).running then d else d.raiseNow (304 + n)

/-- The store is full for a slot: every clip of it closes at its last whole unit, and the slot stops (R384). -/
def Dev.fullStore (d : Dev) (n : Nat) : Dev :=
  let r := d.store.slots.getD n RecSlot.idle
  if r.running then
    let d := d.each r.sources fun d x => d.endSource n x true
    (d.reportNow 0x0062 storeEp [n]).slotStopped n
  else d

/-! ### Spare and wear (R370, R372, R373) -/

/-- 0 normal, 1 low spare, 2 read-only, 3 exhausted. -/
def spareState (free good : Nat) : Nat :=
  if free = 0 then 3 else if free * 1000 < 5 * good then 2 else if free * 100 < 2 * good then 1 else 0

/-- The spare state follows the free spare; low spare is reported once on entry (R372). -/
def Dev.checkSpare (d : Dev) : Dev :=
  let was := d.store.spare.toNat
  let now := spareState d.store.free d.store.good
  let d := d.onStore fun s => { s with spare := BitVec.ofNat 2 now }
  if now = was then d
  else
    let d := d.raiseNow 13
    let d := if was = 0 then d.reportNow 0x0061 storeEp [d.store.free] else d
    if now = 3 then d.each (List.range 8) Dev.fullStore else d

/-- A NAND block, created in the list when it had no history. -/
def onBlk (s : StoreSt) (die block : Nat) (f : NandBlk → NandBlk) : StoreSt :=
  if s.blocks.any fun b => b.die == die && b.block == block then
    { s with blocks := s.blocks.map fun b => if b.die == die && b.block == block then f b else b }
  else { s with blocks := s.blocks ++ [f ⟨die, block, s.erases, false, [], false⟩] }

/-- A block is retired: its data moves, and the free spare falls (R370). -/
def Dev.retireBlock (d : Dev) (die block : Nat) : Dev :=
  if d.store.blocks.any fun b => b.die == die && b.block == block && b.bad then d
  else
    (d.onStore fun s =>
      let s := onBlk s die block fun b => { b with bad := true, lbas := [], refresh := false }
      { s with free := s.free - 1 }).checkSpare

/-- Wear used, percent of the endurance, at most 255 (R373). -/
def wearUsed (s : StoreSt) : Nat :=
  match s.geom with
  | some g =>
    let n := dieCount g * blocksPerDie g
    let total := sumBy (·.erases) s.blocks + s.erases * (n - s.blocks.length)
    if n = 0 ∨ g.endurance = 0 then 0 else min 255 (total * 100 / (n * g.endurance))
  | none => 0

/-- Reaching 100 raises an event, once (R373). -/
def Dev.checkWear (d : Dev) : Dev :=
  if decide (100 ≤ wearUsed d.store) && !d.store.wear100 then
    (d.onStore fun s => { s with wear100 := true }).raiseNow 13
  else d

/-- BLOCK_ERASE_COMPLETE: an erase is counted, or its failure retires the block (R370, R373). -/
def Dev.eraseDone (d : Dev) (die block : Nat) (ok : Bool) : Dev :=
  if ok then
    (d.onStore fun s => onBlk s die block fun b => { b with erases := b.erases + 1, lbas := [], refresh := false }).checkWear
  else d.retireBlock die block

def execBlockEraseComplete (die block : Nat) (ok : Bool) (s : State) : Host.Outcome State Fault Refusal :=
  .next { s with dev := s.dev.eraseDone die block ok }

/-- BLOCK_REFRESH: the valid data of a block queued for refresh is rewritten elsewhere (R368). -/
def Dev.refreshBlock (d : Dev) (die block : Nat) : Dev :=
  d.onStore fun s =>
    { s with blocks := s.blocks.map fun b =>
        if b.die == die && b.block == block && b.refresh then { b with lbas := [], refresh := false } else b }

def execBlockRefresh (die block : Nat) (s : State) : Host.Outcome State Fault Refusal :=
  .next { s with dev := s.dev.refreshBlock die block }

/-- WEAR_MOVE: past the wear threshold, the data of the die's least-erased block that holds data moves (R373). -/
def Dev.moveWear (d : Dev) (die : Nat) : Dev :=
  let mine := d.store.blocks.filter fun b => b.die == die && !b.bad
  let all := mine.map (·.erases)
  let low := (if mine.length < d.store.geom.elim 0 blocksPerDie then d.store.erases :: all else all).foldl min (maxOf all)
  let held := mine.filter fun b => !b.lbas.isEmpty
  let least := held.foldl (fun (m : Option NandBlk) b => match m with
    | some x => if b.erases < x.erases then some b else m
    | none => some b) none
  match least with
  | some x =>
    if d.parN 0x0E 0 1 < maxOf all - low then
      d.onStore fun s =>
        { s with blocks := s.blocks.map fun b => if b.die == die && b.block == x.block then { b with lbas := [] } else b }
    else d
  | none => d

def execWearMove (die : Nat) (s : State) : Host.Outcome State Fault Refusal :=
  .next { s with dev := s.dev.moveWear die }

/-- DIE_RETIRED: the die leaves the store, its blocks leave the spare, and the store is degraded until the rebuild
ends (R371). -/
def Dev.retireDie (d : Dev) (die : Nat) : Dev :=
  match d.store.geom with
  | some g =>
    if die < dieCount g ∧ d.store.retired.contains die = false then
      let bad := d.store.blocks.countP fun b => b.die == die && b.bad
      ((d.onStore fun s =>
        { s with retired := s.retired ++ [die], lost := s.lost ++ [die],
                 free := s.free - (blocksPerDie g - g.badPerDie - bad),
                 blocks := s.blocks.filter fun b => b.die != die }).raiseNow 14).checkSpare
    else d
  | none => d

def execDieRetired (die : Nat) (s : State) : Host.Outcome State Fault Refusal :=
  .next { s with dev := s.dev.retireDie die }

/-- REBUILD_COMPLETE: the stripes of a retired die are rebuilt; the store leaves degraded with the last (R371). -/
def execRebuildComplete (die : Nat) (s : State) : Host.Outcome State Fault Refusal :=
  .next { s with dev := s.dev.onStore fun t => { t with lost := t.lost.filter (· != die) } }

/-! ### Recording start and stop (R383, R384) -/

/-- The last buffer of a source that is full and waits for a slot: its order, 0 for none. -/
def lastFull (r : Ring) (cslot : Nat) : Nat := maxOf ((r.waitingFor cslot).map (·.order))

/-- A recording starts at its landing: each source gets a consumer slot of order every, and the buffers that are
filling now are marked for it, since the first to become full from now on is the first unit. An encode source is asked
for a key, at which its clip begins. `frame` is the landing frame under kind 1. -/
def Dev.startRecording (d : Dev) (n take : Nat) (eps : List Nat) (frame : Option Nat) : Dev :=
  let d := d.each eps fun d ep =>
    match sourceRing ep with
    | none => d
    | some ring =>
      match (d.ringI ring).slotOf 0 with
      | none => d
      | some k =>
        let d := d.onRingI ring fun r =>
          { r with slots := r.slots.set k ⟨storeEp, false⟩,
                   bufs := r.bufs.map fun b => if b.st == .filling && !b.marks.contains k then
                     { b with marks := b.marks ++ [k] } else b }
        let enc := ep / 256 == 0x0B
        let d := if enc then
            d.requestKey (ep % 256) (frame.getD (((d.pipeI (d.encI (ep % 256)).pipe).frame + 1).toNat)) else d
        d.onStore fun s =>
          { s with slots := upd s.slots n fun r =>
              { r with sources := r.sources ++ [⟨ep, k, 0, take, frame, enc, none, none⟩] } }
  d.onStore fun s => { s with slots := upd s.slots n fun r => { r with running := true } }

/-- A source that has written its last unit ends (R384). -/
def Dev.finishSource (d : Dev) (n : Nat) (ep : Nat) : Dev :=
  match (d.store.slots.getD n RecSlot.idle).sources.find? (·.ep == ep) with
  | none => d
  | some x =>
    let busy := d.store.units.any fun u => u.slot == n && u.ep == ep
    let ended := match sourceRing ep with
      | none => true
      | some ring =>
        match x.stopOrd, x.stopFrame with
        | some o, _ => !((d.ringI ring).waitingFor x.cslot).any fun b => decide (b.order ≤ o)
        | none, some f => ((d.ringI ring).pickFor x.cslot).elim false fun b => seqLe 32 f b.frame
        | none, none => false
    if ended && !busy then (d.endSource n x false).slotStopped n else d

/-- A recording stops: each clip ends after the last buffer that became full before this close, or under kind 1 before
the landing frame (R384). -/
def Dev.stopRecording (d : Dev) (n : Nat) (frame : Option Nat) : Dev :=
  let d := d.onStore fun s =>
    { s with slots := upd s.slots n fun r =>
        { r with sources := r.sources.map fun x =>
            match frame with
            | some f => { x with stopFrame := some f }
            | none => { x with stopOrd := some ((sourceRing x.ep).elim 0 fun ring => lastFull (d.ringI ring) x.cslot) } } }
  d.each ((d.store.slots.getD n RecSlot.idle).sources.map (·.ep)) fun d ep => d.finishSource n ep

/-! ### Units (R381, R384) -/

/-- The continue flag of an encode buffer's header (11 R286). -/
def Dev.continues (d : Dev) (ring : Nat) (b : Buf) : Bool :=
  ringEnc ≤ ring && ring < ringDec && bit (u8 (d.memRead b.desc.pool (b.desc.hdrOff + 44) 1) 0) 1

/-- The key flag of an encode buffer's header. -/
def Dev.isKey (d : Dev) (b : Buf) : Bool := bit (u8 (d.memRead b.desc.pool (b.desc.hdrOff + 44) 1) 0) 0

/-- The buffers of the next chain, in order; none while its last buffer is not full. -/
def chainOf (d : Dev) (ring : Nat) : List Buf → Option (List Buf)
  | [] => none
  | b :: l => if d.continues ring b then (chainOf d ring l).map (b :: ·) else some [b]

/-- The bytes of one full buffer of a source: payload and overflow of a record, payload of an access-unit piece, or
header and samples of an audio period (R384; 12 R308, 11 R286, 19 R463). -/
def Dev.bufBytes (d : Dev) (ring : Nat) (b : Buf) : List Byte :=
  let read := fun (x : BufDesc) =>
    d.memRead x.pool x.plane0 (u32 (d.memRead x.pool (x.hdrOff + 24) 4) 0)
  if ringAudio ≤ ring then
    let hdr := d.memRead b.desc.pool b.desc.hdrOff 64
    hdr ++ d.memRead b.desc.pool b.desc.plane0 (4 * u32 hdr 24 * u8 hdr 28)
  else if ringBolt ≤ ring then
    read b.desc ++ b.chain.flatMap fun i =>
      (((d.boltI (ring - ringBolt)).ovf.find? (·.idx == i)).elim [] fun o => read o.desc)
  else read b.desc

/-- Room for `n` more blocks of a clip: the extents to add, the bands to take and the fill of the last; none when the
store has no free band left. -/
def roomFor (s : StoreSt) (id : Nat) : Nat → List Nat → Nat → Nat → Option (List (Nat × Nat) × List Nat × Nat)
  | 0, _, _, _ => none
  | fuel + 1, bands, fill, n =>
    if n = 0 then some ([], [], fill)
    else
      match bands.getLast? with
      | some b =>
        if fill < 1024 then
          let k := min n (1024 - fill)
          (roomFor s id fuel bands (fill + k) (n - k)).map fun (e, t, f) => ((1024 * b + fill, k) :: e, t, f)
        else match freeBand s with
          | some x =>
            (roomFor { s with bands := s.bands ++ [(x, .clip id)] } id fuel (bands ++ [x]) 0 n).map fun (e, t, f) =>
              (e, x :: t, f)
          | none => none
      | none => match freeBand s with
        | some x =>
          (roomFor { s with bands := s.bands ++ [(x, .clip id)] } id fuel (bands ++ [x]) 0 n).map fun (e, t, f) =>
            (e, x :: t, f)
        | none => none

/-- A clip opened for a source of a slot (R380). -/
def openClip (s : StoreSt) (n : Nat) (x : RecSrc) (continues : Bool) : StoreSt :=
  let c : Clip :=
    { id := s.nextClip, source := x.ep, slot := n, opened := true, continues := continues, continued := false,
      trimmed := false, damaged := false, fullEnd := false, extents := [], bands := [], fill := 0, first := 0, last := 0,
      bytes := 0, units := 0, take := x.take, safeBytes := 0, safeUnits := 0, safeLast := 0 }
  { s with clips := s.clips ++ [c], nextClip := s.nextClip + 1,
           slots := upd s.slots n fun r =>
             { r with sources := r.sources.map fun y => if y.ep == x.ep then { y with clip := c.id } else y } }

/-- Free bands hold less than the nearly-full time of the reserve (R384). -/
def Dev.checkNearly (d : Dev) : Dev :=
  let low := decide (bandsFree d.store * 4194304 < d.parN 0x0E 0 2 * d.reserve)
  let new := low && !d.store.nearly
  let d := d.onStore fun s => { s with nearly := low }
  if new then d.raiseNow 12 else d

/-- The blocks of a list of extents, in order. -/
def blocksOf (l : List (Nat × Nat)) : List Nat := l.flatMap fun (f, n) => (List.range n).map (f + ·)

/-- A unit is placed in its clip, and its blocks go to the slot's writers. -/
def Dev.placeUnit (d : Dev) (n : Nat) (x : RecSrc) (chain : List Buf) (bytes : List Byte) (mark : Nat) : Dev :=
  let blocks := ceilDiv bytes.length 4096
  match d.store.clips.find? (·.id == x.clip) with
  | none => d
  | some c =>
    match roomFor d.store c.id (2 * blocks + 4) c.bands c.fill blocks with
    | none => d.fullStore n
    | some (ext, taken, fill) =>
      let chunk := chunks 4096 blocks bytes
      let left := (blocksOf ext).zipIdx.map fun (lba, i) => (lba, padTo 4096 (chunk.getD i []))
      let d := d.onStore fun s =>
        let s := onClip s c.id fun c =>
          { c with extents := ext.foldl addExtent c.extents, bands := c.bands ++ taken, fill := fill,
                   first := if c.units = 0 then mark else c.first, last := mark,
                   bytes := c.bytes + 4096 * blocks, units := c.units + 1 }
        { s with bands := s.bands ++ taken.map fun b => (b, .clip c.id),
                 recHoles := s.recHoles ++ taken.map fun b => (x.ep, b),
                 units := s.units ++ [⟨n, x.ep, x.cslot, chain.map (·.order), c.id, 4096 * blocks, mark, left⟩] }
      (match sourceRing x.ep with
        | some r => d.deliver (recordService r)
        | none => d).checkNearly

/-- RECORD_UNIT: the writers of a slot take the next unit of a source (R381, R384). Buffers before the landing frame,
or before an encode source's key, are released untaken. -/
def Dev.recordUnit (d : Dev) (n ep : Nat) : Dev :=
  if d.store.parked || !d.store.online || (List.range 16).any (fun c => d.isShed (480 + 8 * c + n)) then d
  else match (d.store.slots.getD n RecSlot.idle).sources.find? (·.ep == ep), sourceRing ep with
  | some x, some ring =>
    match chainOf d ring (sortBy (·.order) ((d.ringI ring).waitingFor x.cslot)) with
    | none => d
    | some [] => d
    | some (b :: rest) =>
      let chain := b :: rest
      let early := (x.fromFrame.elim false fun f => !seqLe 32 f b.frame) || (x.waitKey && !d.isKey b)
      let late := (x.stopOrd.elim false fun o => decide (o < b.order)) || (x.stopFrame.elim false fun f => seqLe 32 f b.frame)
      if late then d.finishSource n ep
      else
        let d := d.each chain fun d b => d.onRingI ring fun r => r.take x.cslot b.order
        if early then d.each chain fun d b => d.queueRelease ring x.cslot b.order false
        else
          let bytes := chain.flatMap (d.bufBytes ring)
          let d := d.onStore fun s =>
            { s with slots := upd s.slots n fun r =>
                { r with sources := r.sources.map fun y => if y.ep == ep then { y with waitKey := false } else y } }
          let d := if x.clip = 0 then d.onStore fun s => openClip s n x false else d
          let x := ((d.store.slots.getD n RecSlot.idle).sources.find? (·.ep == ep)).getD x
          -- a unit that would need extent 262,145 goes into a clip that continues this one
          let ended := match d.store.clips.find? (·.id == x.clip) with
            | some c =>
              match roomFor d.store c.id (2 * ceilDiv bytes.length 4096 + 4) c.bands c.fill (ceilDiv bytes.length 4096) with
              | some (ext, _, _) => decide (262144 < (ext.foldl addExtent c.extents).length)
              | none => false
            | none => false
          let d := if ended then
              (d.onStore fun s => openClip (closeClip s x.clip false true) n x true).raiseNow (304 + n) else d
          let x := ((d.store.slots.getD n RecSlot.idle).sources.find? (·.ep == ep)).getD x
          d.placeUnit n x chain bytes b.postmark
  | _, _ => d

def execRecordUnit (slot : Fin 8) (source : Nat) (s : State) : Host.Outcome State Fault Refusal :=
  .next { s with dev := s.dev.recordUnit slot source }

end Sys2Proof.Machine
end

