-- ==== Sys2Proof/Machine/Store.lean ====
section
/-!
DEFINITION. Clip store commands: range locks, the write buffer, durability, errors, power failure, bring-up, keys and
sanitize (15 R368 to R388; 16 R390 to R411; 24 R559).
-/
namespace Sys2Proof.Machine

/-! ### The write buffer (16 R399 to R401) -/

/-- The newest buffered value of a block; none when it is not in the buffer. -/
def buffered (s : StoreSt) (lba : Nat) : Option (Option (List Byte)) :=
  ((s.dirty.filter fun e => e.lba == lba).getLast?).map (·.data)

def onMedium (s : StoreSt) (lba : Nat) : Option (List Byte) := (s.lbas.find? fun x => x.1 == lba).map (·.2)

def zeroBlock : List Byte := List.replicate 4096 0

/-- What a read of a block returns: the buffer, else the medium, else zeros (R391, R399). -/
def blockValue (s : StoreSt) (lba : Nat) : List Byte :=
  match buffered s lba with
  | some v => v.getD zeroBlock
  | none => (onMedium s lba).getD zeroBlock

/-- A block holds data. -/
def mappedBlock (s : StoreSt) (lba : Nat) : Bool :=
  match buffered s lba with
  | some v => v.isSome
  | none => (onMedium s lba).isSome

/-- A block's value on the medium changes. -/
def setBlock (s : StoreSt) (lba : Nat) (v : Option (List Byte)) : StoreSt :=
  let rest := s.lbas.filter fun x => x.1 != lba
  match v with
  | some b => { s with lbas := insertBy (·.1) (lba, b) rest }
  | none => { s with lbas := rest }

/-- The hold-up time H, µs, and the dirty limit L, bytes (R401). -/
def Dev.holdUp (d : Dev) : Nat := d.parN 0x0E 0 3
def Dev.dirtyLimit (d : Dev) : Nat :=
  let q := qMul (qOfNat (d.holdUp - 5000)) (writeCapacity d.store)
  min 1073741824 ((qFloor (qDivNat q (2000000 * 262144))).toNat * 262144)

/-- Dirty bytes: receipted writes and deallocates that are not yet on the medium (R400). -/
def dirtyBytes (s : StoreSt) : Nat := 4096 * s.dirty.countP (·.receipted)

/-- The atomic unit of a block (R397). -/
def atomOf (lba : Nat) : Nat := lba / 64

/-- What one docket wrote within one atomic unit takes effect on the medium together, once all of it is programmed; an
older buffered value of the same block is superseded (R397, R398). -/
def commitReady (s : StoreSt) : StoreSt :=
  let ready := fun (e : Dirty) =>
    e.done && s.dirty.all fun x => !(x.lock == e.lock && atomOf x.lba == atomOf e.lba) || x.done
  let s' := (s.dirty.filter ready).foldl (fun s e => setBlock s e.lba e.data) s
  let keep := fun (l : List (Dirty × Nat)) =>
    l.filter fun (e, i) => !ready e && !l.any fun (x, j) => ready x && x.lba == e.lba && decide (i < j)
  { s' with dirty := (keep s.dirty.zipIdx).map (·.1) }

/-! ### Receipts and pigeonholes (R392 to R395) -/

/-- A store docket ends: its receipt is due at rank 8 of this close, and its pigeonhole is released there (R395). -/
def Dev.endHole (d : Dev) (h : Hole) (status : Nat) (result : List Byte := []) : Dev :=
  (d.onStore fun s =>
    { s with holes := s.holes.map fun x => if x.lock == h.lock then { x with ended := true } else x }).finish8
      h.d status result

/-- The pigeonholes of dockets whose receipts are written are released (R395). -/
def Dev.releaseHoles (d : Dev) : Dev := d.onStore fun s => { s with holes := s.holes.filter fun h => !h.ended }

/-- Registered writes whose data, parity and mapping are on the medium end, plain writes too while L is 0; flushes end
when all they cover is on the medium (R400, R402). -/
def Dev.settleStore (d : Dev) : Dev :=
  let s := d.store
  let limit := d.dirtyLimit
  let ended := s.holes.filter fun h =>
    h.moved && !h.ended && (dkOp h.d == 0x42 || (dkOp h.d == 0x41 && limit == 0)) &&
      !s.dirty.any fun e => e.lock == h.lock
  let d := d.each ended fun d h => d.endHole h 0
  let out := s.flushes.filter fun f => !s.dirty.any fun e => f.2.contains e.lock
  let d := d.each out fun d f =>
    match (sortBy (·.2) (d.store.lostWr.filter fun w => f.2.contains w.1)).head? with
    | some w => (d.reportNow 0x0063 storeEp [w.2]).finish8 f.1 0x840A (leBytes 8 w.2)
    | none => d.finish8 f.1 0
  d.onStore fun s => { s with flushes := s.flushes.filter fun f => s.dirty.any fun e => f.2.contains e.lock }

/-- The pigeonhole of a docket. -/
def Dev.holeOf (d : Dev) (k : Docket) : Option Hole :=
  d.store.holes.find? fun h => h.d.sq == k.sq && h.d.idx == k.idx && !h.ended

def Dev.onHole (d : Dev) (lock : Nat) (f : Hole → Hole) : Dev :=
  d.onStore fun s => { s with holes := s.holes.map fun h => if h.lock == lock then f h else h }

/-- The class of a docket's queue; the chain queue is of class high (21 R508). -/
def Dev.classOf (d : Dev) (k : Docket) : Nat := if k.sq = chainSq then 1 else (d.sqI k.sq).cls

/-- A docket takes its pigeonhole as it begins, with the next lock sequence (R393). -/
def Dev.takeHole (d : Dev) (k : Docket) (first blocks : Nat) (shared : Bool) : Dev :=
  let lock := (d.store.lockSeq + 1) % 2 ^ 32
  d.onStore fun s =>
    { s with lockSeq := lock,
             holes := s.holes ++ [⟨lock, first, blocks, shared, false, k, d.classOf k, none, [], [], false, false⟩] }

/-! ### Dockets (14 R361) -/

/-- The blocks that a read still needs from the medium: those not served from the buffer (R399). -/
def needOf (s : StoreSt) (h : Hole) : List Nat :=
  ((List.range h.blocks).map (h.first + ·)).filter fun lba => (buffered s lba).isNone && (onMedium s lba).isSome

/-- Host memory that a docket's data occupies: one buffer, or the pages of its list. -/
def hostSpans (h : Hole) : List (Nat × Nat) :=
  match h.pages with
  | some l => l.map fun a => (a, 4096)
  | none => [(u64 h.d.bytes 8, 4096 * h.blocks)]

/-- A read whose codewords are all read moves its data and ends; each failed block is sent as zeros (R390, R391). -/
def Dev.finishRead (d : Dev) (h : Hole) : Dev :=
  if !h.need.isEmpty then d
  else
    let data := (List.range h.blocks).flatMap fun i =>
      if h.failed.contains (h.first + i) then zeroBlock else blockValue d.store (h.first + i)
    let d := d.writeSegs (hostSpans h) data
    match (sortBy id h.failed).head? with
    | none => d.endHole h 0
    | some f =>
      (d.onStore fun s => { s with readFailed := bumpBy s.readFailed h.failed.length }).endHole h 0x8408
        (leBytes 8 f ++ leBytes 4 h.failed.length)

/-- A granted read goes on to its codewords. -/
def Dev.startRead (d : Dev) (h : Hole) : Dev :=
  let h := { h with need := needOf d.store h }
  (d.onHole h.lock fun _ => h).finishRead h

/-- A granted write reads its data from host memory; with a list, page by page. -/
def Dev.startWrite (d : Dev) (h : Hole) : Dev :=
  let spans := hostSpans h
  let d := d.each (spans.drop 1) fun d s => d.emit (.hostRead h.d.sq h.d.idx s.1 s.2)
  match spans.head? with
  | some s => d.readHost h.d s.1 s.2
  | none => d

/-- The checks of R390, in table order. -/
def storeRefusal (s : StoreSt) (h : Hole) : Option Nat :=
  let op := dkOp h.d
  let writes := op == 0x41 || op == 0x42
  let bands := (List.range (h.blocks / 1024 + 2)).map (h.first / 1024 + ·)
  let touches := fun b => rangesMeet (1024 * b) 1024 h.first h.blocks
  let clipBand := bands.any fun b => touches b && (match bandOf s b with
    | some (.clip _) => true
    | _ => false)
  let openClip := s.clips.any fun c => c.opened && c.extents.any fun (f, n) => rangesMeet f n h.first h.blocks
  if s.formatted && decide (s.capacity < h.first + h.blocks) then some 0x8401
  else if s.offline then some 0x8403
  else if s.locked then some 0x8404
  else if writes && decide (2 ≤ s.spare.toNat) then some 0x8405
  else if writes && clipBand then some 0x8406
  else if op == 0x44 && openClip then some 0x8407
  else none

/-- A host band is free again when its last mapped block is deallocated (15 R378). -/
def freeHostBands (s : StoreSt) (first blocks : Nat) : StoreSt :=
  let touched := fun b => rangesMeet (1024 * b) 1024 first blocks
  { s with bands := s.bands.filter fun x =>
      !(x.2 == .host && touched x.1) || (List.range 1024).any fun i => mappedBlock s (1024 * x.1 + i) }

/-- A deallocate takes effect: its records wait in the write buffer; blocks of closed clips leave their extents
(R382, R399). Its receipt does not wait for the dirty limit: notes/assumptions/25.md. -/
def Dev.runDeallocate (d : Dev) (h : Hole) : Dev :=
  let last := h.first + h.blocks
  let d := d.onStore fun s =>
    let blocks := ((List.range h.blocks).map (h.first + ·)).filter (mappedBlock s)
    let s := { s with
      dirty := s.dirty ++ blocks.map fun lba => ⟨h.lock, lba, none, true, false⟩,
      clips := s.clips.map fun c =>
        if !c.opened && c.extents.any fun (f, n) => rangesMeet f n h.first h.blocks then
          { c with extents := cutBlocks c.extents h.first last, trimmed := true }
        else c }
    freeHostBands (dropEmptyClips s) h.first h.blocks
  d.endHole h 0

/-- Bring-up has ended (24 R559). -/
def storeUp (s : StoreSt) : Bool := s.online || s.offline || s.locked

/-- PIGEONHOLE_GRANT: a pigeonhole is granted when every earlier overlapping one is released, or shared as it is; the
docket is then checked and moves its data (R390, R391, R395; R403 while parked; 24 R559 before bring-up). -/
def Dev.grant (d : Dev) (lock : Nat) : Dev :=
  let s := d.store
  match s.holes.find? fun h => h.lock == lock with
  | none => d
  | some h =>
    let earlier := s.holes.takeWhile fun x => x.lock != lock
    let free := earlier.all fun x => !rangesMeet x.first x.blocks h.first h.blocks || (x.shared && h.shared)
    if h.granted || s.parked || !storeUp s || !free then d
    else
      let h := { h with granted := true }
      let d := d.onHole lock fun _ => h
      match storeRefusal s h with
      | some st => d.endHole h st
      | none =>
        if dkOp h.d = 0x44 then d.runDeallocate h
        else if bit (u8 h.d.bytes 20) 0 then d.readHost h.d (u64 h.d.bytes 8) (8 * h.blocks)
        else if dkOp h.d = 0x40 then d.startRead h
        else d.startWrite h

def execPigeonholeGrant (lockSeq : Nat) (s : State) : Host.Outcome State Fault Refusal :=
  .next { s with dev := s.dev.grant lockSeq }

/-- Host data of a store docket arrives: its page list, or the data of a write, which enters the write buffer
(R361, R379, R400). -/
def Dev.storeData (d : Dev) (k : Docket) (data : List Byte) : Dev :=
  match d.holeOf k with
  | none => d
  | some h =>
    if bit (u8 k.bytes 20) 0 && h.pages.isNone then
      let pages := (List.range h.blocks).map fun i => u64 data (8 * i)
      if pages.any fun a => a % 4096 != 0 then d.endHole h 0x0205
      else
        let h := { h with pages := some pages }
        let d := d.onHole h.lock fun _ => h
        if dkOp k = 0x40 then d.startRead h else d.startWrite h
    else
      let d := d.onHole h.lock fun h => { h with moved := true }
      d.onStore fun s =>
        let fresh := (List.range (h.blocks / 1024 + 2)).map (h.first / 1024 + ·) |>.filter fun b =>
          rangesMeet (1024 * b) 1024 h.first h.blocks && (bandOf s b).isNone
        { s with
          bands := s.bands ++ fresh.map fun b => (b, .host),
          dirty := s.dirty ++ (List.range h.blocks).map fun i =>
            ⟨h.lock, h.first + i, some (padTo 4096 ((data.drop (4096 * i)).take 4096)), false, false⟩ }

/-- A store docket whose host data could not be read ends without effect (13 R319). -/
def Dev.storeFailed (d : Dev) (k : Docket) : Dev :=
  match d.holeOf k with
  | none => d
  | some h => d.endHole h 0x0501

/-- Read, write and registered write (R361). -/
def Dev.moveDocket (d : Dev) (k : Docket) (shared : Bool) : Dev :=
  if 384 ≤ d.store.holes.length then d
  else d.runDocket k [(8, 19), (20, 20), (24, 31)] fun d =>
    let len := u32 k.bytes 16
    let addr := u64 k.bytes 8
    if 1 < u8 k.bytes 20 then d.finish k 0x0202
    else if addr % (if u8 k.bytes 20 = 1 then 8 else 4) ≠ 0 then d.finish k 0x0205
    else if len < 4096 ∨ 16777216 < len ∨ len % 4096 ≠ 0 then d.finish k 0x0204
    else d.takeHole k (u64 k.bytes 24) (len / 4096) shared

def execRead (d : Docket) (s : State) : Host.Outcome State Fault Refusal :=
  .next { s with dev := s.dev.moveDocket d true }

def execWrite (d : Docket) (s : State) : Host.Outcome State Fault Refusal :=
  .next { s with dev := s.dev.moveDocket d false }

def execRegisteredWrite (d : Docket) (s : State) : Host.Outcome State Fault Refusal :=
  .next { s with dev := s.dev.moveDocket d false }

/-- Deallocate (R361). -/
def Dev.deallocDocket (d : Dev) (k : Docket) : Dev :=
  if 384 ≤ d.store.holes.length then d
  else d.runDocket k [(16, 19), (24, 31)] fun d =>
    let n := u32 k.bytes 16
    if n = 0 ∨ 4096 < n then d.finish k 0x0204 else d.takeHole k (u64 k.bytes 24) n false

def execDeallocate (d : Docket) (s : State) : Host.Outcome State Fault Refusal :=
  .next { s with dev := s.dev.deallocDocket d }

/-- WRITE_BUFFERED: a plain write whose data is in the buffer ends when the dirty bytes, its own included, are within
the limit (R400). -/
def Dev.writeBuffered (d : Dev) (lock : Nat) : Dev :=
  match d.store.holes.find? fun h => h.lock == lock with
  | some h =>
    let own := 4096 * d.store.dirty.countP fun e => e.lock == lock && !e.receipted
    if h.moved && !h.ended && dkOp h.d == 0x41 && decide (dirtyBytes d.store + own ≤ d.dirtyLimit) then
      (d.onStore fun s =>
        { s with dirty := s.dirty.map fun e => if e.lock == lock then { e with receipted := true } else e }).endHole h 0
    else d
  | none => d

def execWriteBuffered (lockSeq : Nat) (s : State) : Host.Outcome State Fault Refusal :=
  .next { s with dev := s.dev.writeBuffered lockSeq }

/-- A docket without a pigeonhole runs when the store is up; before, it waits (R390, 24 R559). -/
def Dev.whenUp (d : Dev) (k : Docket) (go : Dev → Dev) : Dev :=
  if !storeUp d.store then d.onStore fun s => { s with early := s.early ++ [k] }
  else if d.store.offline then d.finish8 k 0x8403
  else if d.store.locked then d.finish8 k 0x8404
  else go d

/-- A flush covers every write and deallocate receipted before it began (R402). -/
def Dev.startFlush (d : Dev) (k : Docket) : Dev :=
  d.whenUp k fun d =>
    (d.onStore fun s =>
      let locks := (((s.dirty.filter (·.receipted)).map (·.lock)) ++ s.lostWr.map (·.1)).eraseDups
      { s with flushes := s.flushes ++ [(k, locks)] }).settleStore

def Dev.flushDocket (d : Dev) (k : Docket) : Dev := d.runDocket k [] fun d => d.startFlush k

def execFlush (d : Docket) (s : State) : Host.Outcome State Fault Refusal :=
  .next { s with dev := s.dev.flushDocket d }

/-- Mean of the rates that store information shows, whole bytes per second. -/
def wholeRate (q : Q) : Nat := (qFloor q).toNat

/-- The 512 bytes of store information (15 R387). -/
def Dev.storeInfo (d : Dev) : List Byte :=
  let s := d.store
  let n := fun (f : NandGeometry → Nat) => s.geom.elim 0 f
  let host := s.bands.countP fun b => b.2 == .host
  padTo 512 (leBytes 8 s.capacity ++ leBytes 4 (bandCount s) ++ leBytes 4 (bandsFree s) ++ leBytes 4 host ++
    leBytes 4 (s.bands.length - host) ++ leBytes 4 s.clips.length ++
    leBytes 2 (n fun g => maskOf 16 fun c => g.channels.contains c) ++ leBytes 1 (n diesPerChannel) ++
    leBytes 1 (n (·.bitsPerCell)) ++ leBytes 4 s.good ++ leBytes 4 s.free ++ leBytes 1 s.spare.toNat ++
    leBytes 1 (wearUsed s) ++
    leBytes 1 (packWord [(0, s.locked.toNat), (1, (!s.lost.isEmpty).toNat), (2, s.offline.toNat),
      (3, (!allZero s.keptKey).toNat)]) ++
    leBytes 1 s.retired.length ++ leBytes 8 (wholeRate (writeCapacity s)) ++ leBytes 8 d.reserve ++
    leBytes 8 (wholeRate d.runningRate) ++ leBytes 4 (s.geom.elim 0 fun g => wholeRate (dieRate g)) ++
    leBytes 2 (n (·.busMts)) ++ leBytes 2 0 ++ leBytes 8 s.nextClip)

def Dev.runStoreInfo (d : Dev) (k : Docket) : Dev :=
  d.whenUp k fun d => (d.hostWrite (u64 k.bytes 8) d.storeInfo).finish8 k 0 (leBytes 4 512)

def Dev.storeInfoDocket (d : Dev) (k : Docket) : Dev :=
  d.runDocket k [(8, 19)] fun d =>
    if u64 k.bytes 8 % 4 ≠ 0 then d.finish k 0x0205
    else if u32 k.bytes 16 < 512 then d.finish k 0x0204
    else d.runStoreInfo k

def execStoreInformation (d : Docket) (s : State) : Host.Outcome State Fault Refusal :=
  .next { s with dev := s.dev.storeInfoDocket d }

/-- The 64-byte summary of a clip (15 R380). -/
def clipSummary (c : Clip) : List Byte :=
  leBytes 8 c.id ++ leBytes 2 c.source ++ leBytes 1 c.slot ++
    leBytes 1 (packWord [(0, c.opened.toNat), (1, c.continues.toNat), (2, c.continued.toNat), (3, c.trimmed.toNat),
      (4, c.damaged.toNat), (5, c.fullEnd.toNat)]) ++
    leBytes 4 c.extents.length ++ leBytes 16 c.first ++ leBytes 16 c.last ++ leBytes 8 c.bytes ++ leBytes 4 c.units ++
    leBytes 4 c.take

def Dev.runClipExtents (d : Dev) (k : Docket) : Dev :=
  d.whenUp k fun d =>
    match d.store.clips.find? fun c => c.id == u64 k.bytes 24 with
    | none => d.finish8 k 0x8402
    | some c =>
      let n := min c.extents.length ((u32 k.bytes 16 - 64) / 16)
      let body := (c.extents.take n).flatMap fun (f, m) => leBytes 8 f ++ leBytes 4 m ++ leBytes 4 0
      (d.hostWrite (u64 k.bytes 8) (clipSummary c ++ body)).finish8 k 0
        (leBytes 4 n ++ leBytes 1 (decide (n < c.extents.length)).toNat)

def Dev.clipDocket (d : Dev) (k : Docket) : Dev :=
  d.runDocket k [(8, 19), (24, 31)] fun d =>
    if u64 k.bytes 8 % 4 ≠ 0 then d.finish k 0x0205
    else if u32 k.bytes 16 < 64 then d.finish k 0x0204
    else d.runClipExtents k

def execClipExtents (d : Docket) (s : State) : Host.Outcome State Fault Refusal :=
  .next { s with dev := s.dev.clipDocket d }

/-! ### Programs and reads of the medium (15 R368, R370) -/

/-- A block of a unit is on the medium: a unit all of whose blocks are releases its source buffers, and the clip is safe
up to it (R370, R396). -/
def Dev.unitsDone (d : Dev) : Dev :=
  let done := d.store.units.filter fun u => u.left.isEmpty
  let d := d.each done fun d u =>
    let d := match sourceRing u.ep with
      | some r => d.each u.orders fun d o => d.queueRelease r u.cslot o false
      | none => d
    d.onStore fun s => onClip s u.clip fun c =>
      { c with safeBytes := c.safeBytes + u.bytes, safeUnits := c.safeUnits + 1, safeLast := u.mark }
  let d := d.onStore fun s =>
    let s := { s with units := s.units.filter fun u => !u.left.isEmpty }
    -- a recording pigeonhole goes when every page of its band is programmed
    { s with recHoles := s.recHoles.filter fun h =>
        (s.units.any fun u => u.left.any fun x => x.1 / 1024 == h.2) ||
          s.clips.any fun c => c.opened && c.bands.getLast? == some h.2 && decide (c.fill < 1024) }
  d.each done fun d u => d.finishSource u.slot u.ep

/-- PAGE_PROGRAM_COMPLETE: a page that carries the given logical blocks has been programmed, or the program failed and
the block is retired; its data is then relocated, or lost when no spare block is free (R370, R390, R402). -/
def Dev.programDone (d : Dev) (die block : Nat) (blocks : List Nat) (ok : Bool) : Dev :=
  if ok then
    let d := d.onStore fun s =>
      let s := { s with blocks := s.blocks.map fun b => { b with lbas := b.lbas.filter fun l => !blocks.contains l } }
      let s := onBlk s die block fun b => { b with lbas := b.lbas ++ blocks }
      blocks.foldl (fun s lba =>
        match s.units.find? fun u => u.left.any fun x => x.1 == lba with
        | some u =>
          let v := (u.left.find? fun x => x.1 == lba).map (·.2)
          let s := setBlock { s with dirty := s.dirty.filter fun e => e.lba != lba } lba v
          { s with units := s.units.map fun w => { w with left := w.left.filter fun x => x.1 != lba } }
        | none =>
          match s.dirty.find? fun e => e.lba == lba && !e.done with
          | some e =>
            { s with dirty := s.dirty.map fun x =>
                if x.lock == e.lock && x.lba == lba then { x with done := true } else x }
          | none => s) s |> commitReady
    d.unitsDone.settleStore
  else
    let spare := decide (0 < d.store.free)
    let d := d.retireBlock die block
    if spare then d.onStore fun s => { s with relocated := bump s.relocated }
    else
      let hit := d.store.dirty.filter fun e => blocks.contains e.lba && !e.done
      let kept := hit.filter (·.receipted)
      let d := d.onStore fun s =>
        { s with lostCnt := bumpBy s.lostCnt (kept.map (·.lock)).eraseDups.length,
                 lostWr := s.lostWr ++ kept.map fun e => (e.lock, e.lba),
                 dirty := s.dirty.filter fun e => !(blocks.contains e.lba && !e.done) }
      -- a write without its receipt ends with the first block not written
      let locks := ((hit.filter fun e => !e.receipted).map (·.lock)).eraseDups
      let d := d.each locks fun d l =>
        match d.store.holes.find? fun h => h.lock == l && !h.ended with
        | some h =>
          let first := ((sortBy id ((hit.filter fun e => e.lock == l).map (·.lba))).head?).getD 0
          (d.onStore fun s => { s with dirty := s.dirty.filter fun e => e.lock != l }).endHole h 0x8409 (leBytes 8 first)
        | none => d
      d.settleStore

def execPageProgramComplete (die block : Nat) (blocks : List Nat) (ok : Bool) (s : State) :
    Host.Outcome State Fault Refusal :=
  .next { s with dev := s.dev.programDone die block blocks ok }

/-- CODEWORD_READ: the ladder of R368 stopped at a step for the codeword of a block: retry and soft decodes queue a
refresh, a rebuild retires the block, and a failure damages the clip and fails the block in every read that waits for
it. -/
def Dev.codeword (d : Dev) (lba : Nat) (step : LadderStep) : Dev :=
  let home := d.store.blocks.find? fun b => b.lbas.contains lba
  let refresh := fun (d : Dev) => home.elim d fun b => d.onStore fun s => onBlk s b.die b.block fun x =>
    { x with refresh := true }
  let d : Dev := match step with
    | .hard => d
    | .retry => refresh d
    | .soft => refresh d
    | .rebuild => home.elim d fun b => d.retireBlock b.die b.block
    | .failed => d.onStore fun s =>
      { s with clips := s.clips.map fun (c : Clip) => if inExtents c.extents lba then { c with damaged := true } else c }
  let waiting := d.store.holes.filter fun h => h.granted && !h.ended && h.need.contains lba
  d.each waiting fun d h =>
    let h := { h with need := h.need.filter (· != lba),
                      failed := if step = .failed then h.failed ++ [lba] else h.failed }
    (d.onHole h.lock fun _ => h).finishRead h

def execCodewordRead (lba : Nat) (step : LadderStep) (s : State) : Host.Outcome State Fault Refusal :=
  .next { s with dev := s.dev.codeword lba step }

/-! ### A channel's window (R405) -/

/-- Rounds over the classes high, medium and low: each serves up to its weight in blocks of its oldest granted docket. -/
def weighted (weights : List Nat) : Nat → List (Nat × Nat × Nat) → List (Nat × Nat)
  | 0, _ => []
  | fuel + 1, work =>
    if work.isEmpty then []
    else
      let round := [1, 2, 3].filterMap fun c =>
        (work.find? fun w => w.2.1 == c).map fun w => (w.1, min w.2.2 (max 1 (weights.getD (c - 1) 1)))
      let left := work.filterMap fun w =>
        let used := (round.find? fun r => r.1 == w.1).elim 0 (·.2)
        if w.2.2 ≤ used then none else some (w.1, w.2.1, w.2.2 - used)
      round ++ weighted weights fuel left

/-- CHANNEL_WINDOW: the order in which a populated channel serves its work: recording bytes up to the reserve's share,
maintenance, then host work, urgent first and the rest weighted by blocks (R405). -/
def Dev.windowWork (d : Dev) (channel : Nat) : Dev :=
  match d.store.geom with
  | some g =>
    if !g.channels.contains channel || !d.store.online then d
    else
      let s := d.store
      let n := max 1 g.channels.length
      let backlog := sumBy (fun (u : RecUnit) => 4096 * u.left.length) s.units / n
      let rec' := min backlog (d.reserve / n / 10000)
      let maint := s.dirty.length + s.blocks.countP (·.refresh) + s.lost.length
      let work := (s.holes.filter fun h => h.granted && !h.ended).map fun h => (h.lock, h.cls, h.blocks)
      let urgent := (work.filter fun w => w.2.1 == 0).map fun w => (w.1, w.2.2)
      let rest := work.filter fun w => w.2.1 != 0
      let weights := [d.host.arbHigh.toNat, d.host.arbMed.toNat, d.host.arbLow.toNat]
      d.emit (.nandWork channel rec' maint (urgent ++ weighted weights (sumBy (fun w => w.2.2) rest) rest))
  | none => d

def execChannelWindow (channel : Fin 16) (s : State) : Host.Outcome State Fault Refusal :=
  .next { s with dev := s.dev.windowWork channel }

/-! ### Power failure (R403, R404) -/

/-- The sequence of R403: the store parks, units being programmed are abandoned and stay with their sources, receipted
writes are programmed, and every open clip ends at its last unit whose source buffer has been released. -/
def Dev.powerDownStore (d : Dev) : Dev :=
  let d := d.each d.store.units fun d u =>
    match sourceRing u.ep with
    | some r => d.each u.orders fun d o =>
        d.onRingI r fun x => x.onOrder o fun b => { b with held := b.held.filter (· != u.cslot) }
    | none => d
  let d := d.onStore fun s =>
    let s := { s with dirty := s.dirty.map fun e => if e.receipted then { e with done := true } else e }
    let s := commitReady s
    freeUnheld { s with parked := true, pfailKept := true, units := [],
                        clips := trimUnsafe s }
  d.settleStore

/-- PFAIL_N: asserted, it is a supply trip at rank 1 of the close (R403). -/
def Dev.pfail (d : Dev) (low : Bool) (cyc : Nat) : Dev :=
  let new := low && !d.store.pfailLow
  let d := d.onStore fun s => { s with pfailLow := low }
  if new then d.onTick fun t => { t with trips := t.trips ++ [(.pfail, d.timeAt cyc)] } else d

def execPfailN (low : Bool) (cyc : Nat) (s : State) : Host.Outcome State Fault Refusal :=
  .next { s with dev := s.dev.pfail low cyc }

/-- LEAVE_PARK: PFAIL_N has been high for 100 ms (R403). -/
def Dev.leavePark (d : Dev) : Dev :=
  if d.store.parked && !d.store.pfailLow && !d.halted then d.onStore fun s => { s with parked := false, pfailKept := false } else d

def execLeavePark (s : State) : Host.Outcome State Fault Refusal := .next { s with dev := s.dev.leavePark }

/-- What a power-on leaves of the store: the medium, with each part of a write that was not whole on it either there or
not (a free value for each docket and atomic unit), and no volatile state (R397, R398, R404). -/
def Dev.lossOfPower (d : Dev) : Dev :=
  let groups := (d.store.dirty.map fun e => (e.lock, atomOf e.lba)).eraseDups
  let kept := groups.zipIdx.filterMap fun (g, i) => if d.freeAt i % 2 = 1 then some g else none
  let d := d.onStore fun s =>
    let s := (s.dirty.filter fun e => kept.contains (e.lock, atomOf e.lba)).foldl
      (fun s e => setBlock s e.lba e.data) s
    let s := { s with clips := trimUnsafe s }
    freeUnheld { StoreSt.reset with
      retired := s.retired, lost := s.lost, blocks := s.blocks, erases := s.erases, good := s.good, free := s.free,
      capacity := s.capacity, formatted := s.formatted, dataKey := s.dataKey, wrapKey := s.wrapKey, keptKey := s.keptKey,
      wrapSeq := s.wrapSeq, bands := s.bands, clips := s.clips, nextClip := s.nextClip, lbas := s.lbas,
      pfailKept := s.pfailKept, pfailLow := s.pfailLow, wear100 := s.wear100, geom := none }
  d.used groups.length

/-! ### Bring-up (15 R366, R369, R376; 24 R559) -/

/-- The first die that a medium fails on; the whole medium counts as die 0. -/
def Dev.goOffline (d : Dev) (detail : List Nat) : Dev :=
  ((d.onStore fun s => { s with offline := true, online := false, geom := none }).reportNow 0x0060 storeEp detail).raiseNow 14

/-- A store without metadata is formatted: its capacity is fixed and it gets a data key (R369, R375). -/
def Dev.format (d : Dev) (g : NandGeometry) : Dev :=
  let good := goodBlocks g
  let c := capacityOf g good
  ((d.onStore fun s =>
    { s with formatted := true, good := good, capacity := c, free := good - blocksNeeded g c, dataKey := d.free,
             wrapKey := s.keptKey, wrapSeq := s.wrapSeq + 1, bands := [], clips := [], nextClip := 1, lbas := [] }).used 1
    ).raiseNow 11

/-- Every stripe has lost at most one page: no two missing dies share a place in their channels (R369). -/
def oneLostPerStripe (g : NandGeometry) (dies : List Nat) : Bool :=
  ((dies.map (· % max 1 (diesPerChannel g))).eraseDups).length == dies.length

/-- STORE_BRINGUP (24 R559): the geometry is judged, the store is formatted or its metadata is taken, its key unwraps or
it is locked, and the journal is replayed when the last power-down did not complete R403. Dockets that waited run. -/
def Dev.bringUp (d : Dev) (g : NandGeometry) : Dev :=
  let d :=
    if !geometryOk g then d.goOffline []
    else
      let fresh := !d.store.formatted
      let d := d.onStore fun s => { s with geom := some g }
      let d := if fresh then d.format g else d
      let gone := (d.store.lost ++ g.missingDies).eraseDups
      if !fresh && !oneLostPerStripe g gone then d.goOffline (g.missingDies.take 1)
      else
        let degraded := !fresh && !g.missingDies.isEmpty
        let d := if degraded then
            (d.onStore fun s => { s with retired := (s.retired ++ g.missingDies).eraseDups, lost := gone }).raiseNow 14
          else d
        let unlocks := d.store.keptKey == d.store.wrapKey
        let replay := !fresh && !d.store.pfailKept
        let openClips := d.store.clips.filter (·.opened)
        let d := d.onStore fun s =>
          let s := openClips.foldl (fun s c => closeClip s c.id false false) s
          { s with online := unlocks, locked := !unlocks, pfailSeen := s.pfailKept, pfailKept := false,
                   recovered := replay,
                   recovClips := if replay then bumpBy s.recovClips openClips.length else s.recovClips }
        let d := if replay then (d.mark 0xE000 9).raiseNow 11 else d
        let d := if d.store.pfailSeen then d.mark 0xE000 8 else d
        let d := if unlocks then d else d.raiseNow 14
        d.checkSpare
  let early := d.store.early
  let d := (d.onStore fun s => { s with early := [] }).onBoot fun b => { b with phase := 0xF }
  d.each early fun d k =>
    if dkOp k = 0x43 then d.startFlush k else if dkOp k = 0x45 then d.runStoreInfo k else d.runClipExtents k

def execStoreBringup (geom : NandGeometry) (s : State) : Host.Outcome State Fault Refusal :=
  .next { s with dev := s.dev.bringUp geom }

/-! ### Presence-gated dockets of the store (14 R364; 15 R376, R377; 13 R340) -/

/-- A gated docket runs only inside the presence window (13 R340). -/
def Dev.gated (d : Dev) (k : Docket) (used : List (Nat × Nat)) (work : Dev → Dev) : Dev :=
  d.runDocket k used fun d => if d.host.presOpen then work d else d.finish k 0x0401

/-- Store sanitize (R377): the data key is replaced, every band freed and every clip removed; mode 1 erases every good
block too. -/
def Dev.sanitize (d : Dev) (k : Docket) : Dev :=
  d.gated k [(8, 8)] fun d =>
    let mode := u8 k.bytes 8
    if 1 < mode then d.finish k 0x0204
    else if d.store.slots.any (·.running) then d.finish k 0x8E02
    else
      let unlocks := d.store.locked
      let d := (d.onStore fun s =>
        { s with dataKey := d.free, wrapKey := s.keptKey, wrapSeq := s.wrapSeq + 1, bands := [], clips := [],
                 nextClip := 1, lbas := [], dirty := [], locked := false, online := s.online || s.locked,
                 erases := s.erases + mode,
                 blocks := s.blocks.map fun b =>
                   { b with lbas := [], refresh := false, erases := if b.bad then b.erases else b.erases + mode }
        }).used 1
      let d := if unlocks then d.raiseNow 14 else d
      (d.checkWear.finish8 k 0).settleStore

def execStoreSanitize (d : Docket) (s : State) : Host.Outcome State Fault Refusal :=
  .next { s with dev := s.dev.sanitize d }

/-- Store-key installation (R376): the 64 bytes are read from host memory first. -/
def Dev.keyDocket (d : Dev) (k : Docket) : Dev :=
  d.gated k [(8, 19)] fun d =>
    if u64 k.bytes 8 % 4 ≠ 0 then d.finish k 0x0205
    else if u32 k.bytes 16 ≠ 64 then d.finish k 0x0204
    else d.readHost k (u64 k.bytes 8) 64

def execStoreKeyInstallation (d : Docket) (s : State) : Host.Outcome State Fault Refusal :=
  .next { s with dev := s.dev.keyDocket d }

/-- The key arrives: it rewraps the data key of an unlocked store, or unlocks a locked one when it unwraps (R376). -/
def Dev.keyData (d : Dev) (k : Docket) (key : List Byte) : Dev :=
  let key := padTo 64 key
  let s := d.store
  if s.locked then
    if key = s.wrapKey then
      ((d.onStore fun s => { s with keptKey := key, locked := false, online := true }).raiseNow 14).finish8 k 0 [1]
    else d.finish8 k 0 [0]
  else if s.online then
    (d.onStore fun s => { s with wrapKey := key, keptKey := key, wrapSeq := s.wrapSeq + 1 }).finish8 k 0 [2]
  else d.finish8 k 0 [0]

/-- NAND_TRAINING: ZQ and DQ training runs on a populated channel in its maintenance share and completes
(23 R539, 22 R519). -/
def Dev.nandTrained (d : Dev) (channel : Nat) : Dev :=
  if d.store.geom.elim false fun g => g.channels.contains channel then d.raiseNow 9 else d

def execNandTraining (channel : Fin 16) (s : State) : Host.Outcome State Fault Refusal :=
  .next { s with dev := s.dev.nandTrained channel }

end Sys2Proof.Machine
end

