-- ==== Sys2Proof/Machine/Dram.lean ====
section
/-!
DEFINITION. Frame memory: capacity and pools, refresh, frequency change and training in service (17 R412 to R430).
Refresh rates are numbers of quarters of 1×: notes/assumptions/26.md.
-/
namespace Sys2Proof.Machine

/-! ### Pages and pools (R413 to R416) -/

def populated (s : DramSt) : List Nat := which 24 fun c => (s.chans.getD c Chan.none).populated

/-- Data pages of 1 MiB of a channel: 7/8 of its memory less its share of the 1,600 MiB reserved (R414, R415). -/
def chanPages (s : DramSt) (c : Nat) : Nat :=
  let n := (populated s).length
  let x := s.chans.getD c Chan.none
  if x.populated then (x.gib * 896 * n - 1600) / n else 0

def pageUsed (s : DramSt) (c p : Nat) : Bool :=
  s.pools.any (fun q => q.pages.contains (c, p)) || s.marked.contains (c, p)

def freePages (s : DramSt) (c : Nat) : List Nat := (List.range (chanPages s c)).filter fun p => !pageUsed s c p

/-- Pages that a pool takes on each channel of its mask (R416). -/
def pagesEach (size k : Nat) : Nat := ceilDiv size (2 ^ 20 * k)

/-- The pages of a pool claim, the lowest-numbered free ones of each channel; none when a channel lacks them or is not
populated (R416). The choice of pages: notes/assumptions/24.md. -/
def poolPages (s : DramSt) (size mask : Nat) : Option (List (Nat × Nat)) :=
  let chans := maskChans mask
  let n := pagesEach size chans.length
  if chans.all fun c => (s.chans.getD c Chan.none).populated && decide (n ≤ (freePages s c).length) then
    some (chans.flatMap fun c => ((freePages s c).take n).map fun p => (c, p))
  else none

/-- A pool is claimed; it holds whatever its pages last held (R416). -/
def claimPool (s : DramSt) (num size mask : Nat) : DramSt :=
  match poolPages s size mask with
  | some pages => { s with pools := s.pools.filter (fun p => p.num != num) ++ [⟨num, size, mask, pages⟩] }
  | none => s

/-! ### Capacity (R417) -/

/-- Capacity of a channel at a rate, bytes/s: 75 % of its peak, as tabulated. -/
def chanCapacity (rate : Nat) : Nat :=
  match rate with
  | 8533 => 12800000000
  | 7500 => 11250000000
  | 6400 => 9600000000
  | 4266 => 6400000000
  | 3200 => 4800000000
  | _ => 0

def dramRates : List Nat := [8533, 7500, 6400, 4266, 3200]

/-- The rate that check 6 uses: the lower of the two while a change is not finished (R420). -/
def checkRate (s : DramSt) (sealed : Option Nat) : Nat :=
  (s.target.toList ++ s.nextRate.toList ++ sealed.toList).foldl min s.rate.toNat

/-! ### Refresh (R424, R425) -/

/-- The debt at which refresh is forced: 8 intervals of 16 commands, 4 while the rate is doubled. -/
def debtLimit (x : Chan) : Nat := if 8 ≤ x.mult then 64 else 128

/-- Commands are paid down to `to'`, and leave as one run of refreshes. -/
def Dev.payRefresh (d : Dev) (c to' : Nat) : Dev :=
  let owed := (d.chanI c).debt
  if owed ≤ to' then d
  else (d.onChanI c fun x => { x with debt := to' }).emit (.refresh c (owed - to'))

/-- Idle time pays owed commands, and up to 8 intervals in advance; how many is free (R421 order 5, R425):
notes/assumptions/78.md. -/
def Dev.idleRefresh (d : Dev) (c : Nat) : Dev :=
  let x := d.chanI c
  let n := d.free % (x.debt + (128 - x.ahead) + 1)
  let d := (d.used 1).onChanI c fun x => { x with debt := x.debt - n, ahead := x.ahead + (n - x.debt) }
  if n = 0 then d else d.emit (.refresh c n)

/-- REFRESH_DUE: an interval's 16 commands become owed, less those paid in advance; at the limit refresh is forced
until half of it is left, and a panic that waits for it is counted; idle time pays of the rest (R423, R425). -/
def Dev.refreshDue (d : Dev) (c : Nat) : Dev :=
  if !(d.chanI c).populated then d
  else
    let d := d.onChanI c fun x => { x with debt := x.debt + (16 - x.ahead), ahead := x.ahead - 16 }
    let x := d.chanI c
    let d := if x.debt < debtLimit x then d
      else
        let d := d.payRefresh c (debtLimit x / 2)
        if x.panics.isEmpty then d else d.onDram fun s => { s with forcedRef := bump s.forcedRef }
    d.idleRefresh c

def execRefreshDue (channel : Fin 24) (s : State) : Host.Outcome State Fault Refusal :=
  .next { s with dev := s.dev.refreshDue channel }

/-- MR4_POLL: the refresh rate of a channel is doubled, followed past 2×, or restored after two reads at 1× or less
(R424, R425). -/
def Dev.mr4 (d : Dev) (c : Nat) (rates : List Nat) (cyc : Nat) : Dev :=
  if !(d.chanI c).populated then d
  else
    let x := d.chanI c
    let top := maxOf rates
    if 8 ≤ top then
      let d := d.onChanI c fun x => { x with mult := top, cool := 0 }
      let d := if x.mult < 8 then d.payRefresh c 64 else d
      let d := if x.mult = top then d else d.raise 15 (d.nsAt cyc)
      if 8 < top ∧ x.mult ≤ 8 then d.report 0x0071 (endpoint 0x0F 0) (d.nsAt cyc) [c, top] else d
    else if top ≤ 4 then
      let back := decide (1 ≤ x.cool) && decide (x.mult ≠ 4)
      let d := d.onChanI c fun x => { x with cool := x.cool + 1, mult := if 1 ≤ x.cool then 4 else x.mult }
      if back then d.raise 15 (d.nsAt cyc) else d
    else d.onChanI c fun x => { x with cool := 0 }

def execMr4Poll (channel : Fin 24) (rates : List Nat) (cyc : Nat) (s : State) : Host.Outcome State Fault Refusal :=
  .next { s with dev := s.dev.mr4 channel rates cyc }

/-! ### Training in service (R429, R430) -/

/-- A count has moved more than 3 % from its value at the last training. -/
def oscMoved (base now : Nat) : Bool := decide (3 * base < 100 * (if base ≤ now then now - base else base - now))

/-- OSCILLATOR_POLL: 3 % drift of any oscillator, or 10 minutes, triggers retraining (R430). -/
def Dev.oscPoll (d : Dev) (c : Nat) (counts : List Nat) : Dev :=
  let x := d.chanI c
  if !x.populated then d
  else
    let base := if x.oscBase.isEmpty then counts else x.oscBase
    let moved := (base.zip counts).any fun (a, b) => oscMoved a b
    let old := decide (x.trainedAt + 600 * 125000000 ≤ d.tick.tclk)
    d.onChanI c fun x => { x with oscBase := base, oscLast := counts, retrain := x.retrain || moved || old }

def execOscillatorPoll (channel : Fin 24) (counts : List Nat) (s : State) : Host.Outcome State Fault Refusal :=
  .next { s with dev := s.dev.oscPoll channel counts }

/-- RETRAINING: a triggered channel with no panic and fewer than 64 owed commands retrains, or one whose retraining is
forced (R430); a calibration completes (23 R539). -/
def Dev.retrainNow (d : Dev) (c : Nat) : Dev :=
  let x := d.chanI c
  if x.populated && x.retrain && (x.retrainForced || (x.panics.isEmpty && decide (x.debt < 64))) then
    (d.onChanI c fun x =>
      { x with retrain := false, retrainForced := false, oscBase := x.oscLast, trainedAt := d.tick.tclk,
               trained := if x.trained.contains d.dram.rate.toNat then x.trained else x.trained ++ [d.dram.rate.toNat]
      }).raiseNow 9
  else d

def execRetraining (channel : Fin 24) (s : State) : Host.Outcome State Fault Refusal :=
  .next { s with dev := s.dev.retrainNow channel }

/-- RETRAINS_FORCED: 100 ms after its trigger, retraining that has not started becomes forced (R430). -/
def Dev.forceRetrain (d : Dev) (c : Nat) : Dev :=
  let x := d.chanI c
  if x.populated && x.retrain && !x.retrainForced then
    (d.onChanI c fun x => { x with retrainForced := true }).onDram fun s => { s with retrForced := bump s.retrForced }
  else d

def execRetrainsForced (channel : Fin 24) (s : State) : Host.Outcome State Fault Refusal :=
  .next { s with dev := s.dev.forceRetrain channel }

/-! ### Frequency change (R427, R428) -/

/-- A rate lands: the change starts, or waits for the one under way; the rate in force again changes nothing. -/
def Dev.landRate (d : Dev) (rate : Nat) : Dev :=
  d.onDram fun s =>
    if s.switching then { s with nextRate := some rate }
    else if s.rate.toNat = rate then s
    else { s with switching := true, target := some rate }

/-- The channel whose turn it is: the lowest-numbered that is still on the old set. -/
def nextSwitch (s : DramSt) : Option Nat :=
  if s.switching then (populated s).find? fun c => (s.chans.getD c Chan.none).setB == s.setB else none

/-- FREQUENCY_CHANGE: the channel whose turn it is pays its debt, changes its set point and is trained for the rate;
with the last channel the sets change roles, and a change that waited starts (R427, R428). -/
def Dev.switchChannel (d : Dev) (c : Nat) : Dev :=
  if nextSwitch d.dram ≠ some c then d
  else
    let rate := d.dram.target.getD d.dram.rate.toNat
    let d := d.payRefresh c 0
    let d := d.onChanI c fun x =>
      { x with setB := !x.setB, trained := if x.trained.contains rate then x.trained else x.trained ++ [rate] }
    if (nextSwitch d.dram).isSome then d
    else d.onDram fun s =>
      let s := { s with rate := BitVec.ofNat 16 rate, setB := !s.setB, switching := false, target := none }
      match s.nextRate with
      | some r => if r = rate then { s with nextRate := none }
        else { s with switching := true, target := some r, nextRate := none }
      | none => s

def execFrequencyChange (channel : Fin 24) (s : State) : Host.Outcome State Fault Refusal :=
  .next { s with dev := s.dev.switchChannel channel }

end Sys2Proof.Machine
end

