-- ==== Sys2Proof/Machine/Raster.lean ====
section
/-!
DEFINITION. Raster outputs: frames and the commit window, layers and composition, postmark checks and substitution,
clones and retimes (18 R437 to R457).
-/
namespace Sys2Proof.Machine

/-! ### What is in force on an output -/

/-- A raster parameter in force on output `o`. -/
def Dev.rasB (d : Dev) (o i : Nat) : List Byte := parOf (d.rasterI o).force (pkey 0x10 o i)

/-- The timing of an output: R439 bytes 0 to 20. -/
structure RasTiming where
  clock : Nat
  hAct  : Nat
  hTot  : Nat
  vAct  : Nat
  vBlank : Nat
  vTot  : Nat
deriving DecidableEq, Repr

/-- Fields of a timing value (R439, R440). -/
def timingOf (v : List Byte) : RasTiming :=
  { clock := u32 v 0, hAct := u16 v 4, hTot := u16 v 4 + u16 v 6 + u16 v 8 + u16 v 10, vAct := u16 v 12,
    vBlank := u16 v 14 + u16 v 16 + u16 v 18, vTot := u16 v 12 + u16 v 14 + u16 v 16 + u16 v 18 }

def Dev.rasTiming (d : Dev) (o : Nat) : RasTiming := timingOf (d.rasB o 1)

/-- Link depth (R438). -/
def Dev.rasDepth (d : Dev) (o : Nat) : Nat := u8 (d.rasB o 2) 0

/-- The master of a clone (R446). -/
def Dev.masterOf (d : Dev) (o : Nat) : Option Nat :=
  let m := u8 (d.rasB o 4) 0
  if m < 4 then some m else none

/-- An output and its enabled clones (R446). -/
def Dev.withClones (d : Dev) (o : Nat) : List Nat :=
  o :: which 4 fun x => x != o && (d.rasterI x).enabled && d.masterOf x == some o

def rasEp (o : Nat) : Nat := endpoint 0x10 o

/-- A layer as its parameter sets it (R453). -/
structure Layer where
  on    : Bool
  src   : Nat           -- a TAP endpoint, or 0xFFFF for a host buffer
  fmt   : Nat
  x     : Nat
  y     : Nat
  alpha : Nat
deriving DecidableEq, Repr

def layerOf (v : List Byte) : Layer := ⟨u8 v 0 == 1, u16 v 1, u8 v 3, u16 v 4, u16 v 6, u8 v 8⟩

def Dev.layer (d : Dev) (o l : Nat) : Layer := layerOf (d.rasB o (0x10 + l))

/-- Layer `l` is enabled and reads a host buffer. -/
def Dev.hostLayer (d : Dev) (o l : Nat) : Bool := (d.layer o l).on && (d.layer o l).src == 0xFFFF

/-- A host layer's header reads its expected postmark (R450). -/
def Dev.postmarkOk (d : Dev) (o l : Nat) : Bool :=
  let b := d.rasB o (0x20 + l)
  d.memRead (u16 b 0) (u32 b 2) 16 == d.rasB o (0x30 + l)

/-! ### Frames (R437, R439, R447) -/

/-- The timing descriptor of a frame; its link depth is the link depth parameter's: notes/assumptions/27.md. -/
def timingDescriptor (v : List Byte) (depth frame : Nat) (changed : Bool) : List Byte :=
  padTo 32 (padTo 20 v ++
    leBytes 1 (u8 v 20 % 4 + 4 * ((depth - 8) / 2) + (if changed then 16 else 0)) ++ [0, 0, 0] ++ leBytes 4 frame)

/-- Line 0 of a frame: its number, the open commit window, and the frame's descriptor on a link that is up. -/
def Dev.frameStart (d : Dev) (o : Nat) : Dev :=
  let r := d.rasterI o
  if r.enabled && !r.retiming && (d.masterOf o).isNone then
    let n := (r.frame + 1).toNat
    d.each (d.withClones o) fun d x =>
      let v := d.rasB o 1
      let desc := timingDescriptor v (d.rasDepth x) n (d.rasterI x).timingNew
      let d := d.onRasterI x fun r =>
        { r with frame := BitVec.ofNat 32 n, line := 0, window := true, timingNew := false }
      if (d.linkI (.raster x)).up then d.emit (.raster x n desc) else d
  else d

def execRasterFrameStart (out : Fin 4) (_cyc : Nat) (s : State) : Host.Outcome State Fault Refusal :=
  .next { s with dev := s.dev.frameStart out }

/-- COMMIT_POINT: the start of line V blank − 8 closes the commit window; rank 6 of the close records it (R447). -/
def Dev.commitPoint (d : Dev) (o cyc : Nat) : Dev :=
  let r := d.rasterI o
  if r.enabled && r.window && (d.masterOf o).isNone then
    d.each (d.withClones o) fun d x =>
      (d.onRasterI x fun r =>
        { r with window := false, line := BitVec.ofNat 13 ((d.rasTiming o).vBlank - 8) }).onTick fun t =>
          { t with commits := t.commits ++ [(x, d.timeAt cyc)] }
  else d

def execCommitPoint (out : Fin 4) (cyc : Nat) (s : State) : Host.Outcome State Fault Refusal :=
  .next { s with dev := s.dev.commitPoint out cyc }

/-! ### Landing of raster members (R446, R448, R449) -/

/-- A parameter that changes by a retime: timing, link depth, lock mode, clone (R449). -/
def retimes (i : Nat) : Bool := within 1 i 4

/-- A raster member lands: under kind 2 at the commit point of this close, otherwise to wait for the first commit point
after this close; on an output that is not running it is in force at once. -/
def Dev.landRaster (d : Dev) (o k : Nat) (v : List Byte) (kind2 : Bool) : Dev :=
  let now := d.tick.count.toNat
  if (d.rasterI o).enabled then
    d.onRasterI o fun r =>
      if kind2 then
        { r with waiting := r.waiting.filter (fun w => !(w.1 == k && w.2.2 == now)) ++ [(k, v, now + 1)] }
      else { r with waiting := r.waiting ++ [(k, v, now)] }
  else
    d.onRasterI o fun r =>
      { r with force := setPar r.force k v, enabled := if keyIdx k = 0 then u8 v 0 == 1 else r.enabled }

/-- What reaches output `o` at its commit point: every member that waited, and those of kind 2 that land now; members
landed at rank 5 of this close wait on. Timing, depth, lock and clone wait for the retime. -/
def Dev.takeWaiting (d : Dev) (o : Nat) : List Nat × Dev :=
  let now := d.tick.count.toNat
  let due := (d.rasterI o).waiting.filter fun w => w.2.2 != now
  let d := d.onRasterI o fun r => { r with waiting := r.waiting.filter fun w => w.2.2 == now }
  (due.map fun w => keyIdx w.1,
    d.each due fun d (k, v, _) =>
      d.onRasterI o fun r =>
        if retimes (keyIdx k) then
          { r with next := setPar r.next k v, retimeDue := r.retimeDue || parOf r.force k != v }
        else { r with force := setPar r.force k v })

/-- A layer shows the newest full buffer of its tap; the one it showed before is released (R442, 08 R208, R209). -/
def Dev.showTap (d : Dev) (o l : Nat) : Dev :=
  let ep := (d.layer o l).src
  let ring := ep % 256
  let before := (d.rasterI o).shown.find? fun x => x.1 == l
  match (d.ringI ring).slotOf (rasEp o) with
  | none => d
  | some slot =>
    match d.takeFrom ring slot false with
    | (none, d) => d
    | (some b, d) =>
      let d := match before with
        | some (_, old) => d.queueRelease ring slot old false
        | none => d
      d.onRasterI o fun r => { r with shown := (l, b.order) :: r.shown.filter fun x => x.1 != l }

/-- A postmark check fails: the layer is suspect, and one event and one report name the layer and the frame (R450). -/
def Dev.suspectLayer (d : Dev) (o l ns : Nat) : Dev :=
  let d := d.onRasterI o fun r => { r with suspect := r.suspect ||| BitVec.ofNat 4 (2 ^ l) }
  ((d.raise (245 + 2 * o) ns).report 0x0078 (rasEp o) ns [l, (d.rasterI o).frame.toNat]).interrupt (rasEp o) 1

/-- Rank 6 for the commit point of output `o`, stamped `ns`: its members come into force, the layers' postmarks are
checked, and the fetch of the frame begins (R447, R448, R450). -/
def Dev.commitOutput (d : Dev) (o ns : Nat) : Dev :=
  let d := d.raise (244 + 2 * o) ns
  let wasHost := which 4 (d.hostLayer o)
  let old := fun l => d.rasB o (0x20 + l)
  let (landed, d1) := d.takeWaiting o
  if u8 (d1.rasB o 0) 0 = 0 then
    d1.onRasterI o fun r => { r with enabled := false, fetching := false, window := false, subst := false, suspect := 0 }
  else if (d1.masterOf o).isSome then d1
  else
    let d := d1.onRasterI o fun r =>
      { r with retired := r.retired ++ wasHost.filter fun l => landed.contains (0x20 + l) && old l != d1.rasB o (0x20 + l) }
    let d := d.each (List.range 4) fun d l =>
      let bad := (d.rasterI o).suspect.getLsbD l
      let clear := d.onRasterI o fun r => { r with suspect := r.suspect &&& ~~~ (BitVec.ofNat 4 (2 ^ l)) }
      if !d.hostLayer o l then clear
      else if bad && !(landed.contains (0x20 + l) || landed.contains (0x30 + l)) then d
      else if d.postmarkOk o l then clear
      else d.suspectLayer o l ns
    let subst := (d.rasterI o).suspect != 0
    let d := d.onRasterI o fun r =>
      { r with fetching := true, dropped := (List.range 4).filter fun l => d.isShed (448 + 8 * o + l) }
    -- substitution acts on every clone (R446)
    let d := d.each (d.withClones o) fun d x =>
      d.onRasterI x fun r => { r with subst := subst, substituted := if subst then bump r.substituted else r.substituted }
    if subst then d
    else d.each ((List.range 4).filter fun l => (d.layer o l).on && !d.hostLayer o l) fun d l => d.showTap o l

/-! ### Composition (R442 to R445) -/

/-- The 16-bit value of a code of `n` bits (R445). -/
def unitOf (n c : Nat) : Nat := (2 * c * 65535 + (2 ^ n - 1)) / (2 * (2 ^ n - 1))

/-- The link code of a 16-bit value (R445). -/
def linkCode (n v : Nat) : Nat := (2 * v * (2 ^ n - 1) + 65535) / (2 * 65535)

/-- Bytes of a pixel of a packed format (R443). -/
def layerBytes (fmt : Nat) : Nat := match fmt with
  | 0 => 2
  | 1 => 3
  | _ => 4

/-- The values R, G, B and the alpha of a pixel word (R443, R445). -/
def pixelOf (fmt v : Nat) : Nat × Nat × Nat × Nat :=
  match fmt with
  | 0 => (unitOf 5 (bits v 15 11), unitOf 6 (bits v 10 5), unitOf 5 (bits v 4 0), 255)
  | 1 => (unitOf 8 (bits v 23 16), unitOf 8 (bits v 15 8), unitOf 8 (bits v 7 0), 255)
  | 2 => (unitOf 8 (bits v 23 16), unitOf 8 (bits v 15 8), unitOf 8 (bits v 7 0), bits v 31 24)
  | _ => (unitOf 10 (bits v 29 20), unitOf 10 (bits v 19 10), unitOf 10 (bits v 9 0), 85 * bits v 31 30)

/-- A value over what lies beneath it, with weight `w` of 65,025 (R445). -/
def blend (w v under : Nat) : Nat := (2 * (v * w + under * (65025 - w)) + 65025) / (2 * 65025)

/-- Where a layer's pixels are: pool, first byte, stride, width and height. -/
structure LayerSrc where
  pool   : Nat
  plane  : Nat
  stride : Nat
  w      : Nat
  h      : Nat

/-- The buffer that layer `l` reads in this frame, if it has one. -/
def Dev.layerSrc (d : Dev) (o l : Nat) : Option LayerSrc :=
  if d.hostLayer o l then
    let b := d.rasB o (0x20 + l)
    some ⟨u16 b 0, u32 b 6, u32 b 10, u16 b 14, u16 b 16⟩
  else
    let ring := (d.layer o l).src % 256
    match ((d.rasterI o).shown.find? fun x => x.1 == l).bind fun x => (d.ringI ring).byOrder x.2 with
    | some b =>
      let hdr := d.memRead b.desc.pool b.desc.hdrOff 64
      some ⟨b.desc.pool, b.desc.plane0, b.desc.stride0, u16 hdr 24, u16 hdr 26⟩
    | none => none

/-- A pixel of the raster: the layers from 0 up over the background. A layer that reached its top weir is transparent
from row `cut l` on (R444). -/
def Dev.pixelAt (d : Dev) (o : Nat) (srcs : List (Nat × Layer × LayerSrc)) (cut : Nat → Nat) (x y : Nat) :
    Nat × Nat × Nat :=
  let bg := d.rasB o 5
  srcs.foldl (fun (u : Nat × Nat × Nat) (l : Nat × Layer × LayerSrc) =>
    let (n, layer, s) := l
    if layer.x ≤ x ∧ x < layer.x + s.w ∧ layer.y ≤ y ∧ y < layer.y + s.h ∧ y < cut n then
      let k := layerBytes layer.fmt
      let v := leNat (d.memRead s.pool (s.plane + (y - layer.y) * s.stride + (x - layer.x) * k) k)
      let (r, g, b, a) := pixelOf layer.fmt v
      let w := a * layer.alpha
      (blend w r u.1, blend w g u.2.1, blend w b u.2.2)
    else u) (u16 bg 0, u16 bg 2, u16 bg 4)

/-- The composed raster of output `o`, row by row, three values a pixel. -/
def Dev.composed (d : Dev) (o : Nat) : List Nat :=
  let t := d.rasTiming o
  let srcs := (List.range 4).filterMap fun l =>
    if (d.layer o l).on then (d.layerSrc o l).map fun s => (l, d.layer o l, s) else none
  -- free: the row at which a dropped layer's fetch broke off
  let cut := fun l => if (d.rasterI o).dropped.contains l then d.freeAt l % (t.vAct + 1) else t.vAct
  (List.range (t.vAct * t.hAct)).flatMap fun i =>
    let (r, g, b) := d.pixelAt o srcs cut (i % t.hAct) (i / t.hAct)
    [r, g, b]

/-- A raster of background (R442). -/
def Dev.background (d : Dev) (o : Nat) : List Nat :=
  let t := d.rasTiming o
  let bg := d.rasB o 5
  (List.range (t.vAct * t.hAct)).flatMap fun _ => [u16 bg 0, u16 bg 2, u16 bg 4]

/-- The hold write of a frame (R450): how the hold pool lays a frame out is not given, so its bytes are free. -/
def Dev.holdWrite (d : Dev) (o : Nat) : Dev :=
  let t := d.rasTiming o
  let pool := u16 (d.rasB o 6) 0
  let n := min ((d.pool pool).elim 0 (·.size)) (2 * t.vAct * t.hAct * (if d.rasDepth o = 12 then 8 else 4))
  (d.memWrite pool 0 (d.freeBytes n)).used n

/-! ### The end of a frame (R449, R450) -/

/-- The active lines are sent, from the composed frame, the last good frame or background. -/
def Dev.sendRaster (d : Dev) (o : Nat) (vals : List Nat) : Dev :=
  d.each (d.withClones o) fun d x =>
    if (d.linkI (.raster x)).up then
      d.emit (.pixels x (d.rasterI x).frame.toNat (vals.map (linkCode (d.rasDepth x))))
    else d

/-- An output starts a retime: idle on its link until the pixel clock relocks (R449). -/
def Dev.startRetime (d : Dev) (o ns : Nat) : Dev :=
  d.each (d.withClones o) fun d x =>
    ((d.onRasterI x fun r => { r with retiming := true, retimeDue := false, locked := false, window := false }).raise
      (245 + 2 * x) ns).interrupt (rasEp x) 2

/-- FETCH_END: the second check of the host layers; the frame has been sent; the hold keeps it when every check
passed (R450); a replaced host buffer is retired; a retime begins (R449). -/
def Dev.fetchEnd (d : Dev) (o cyc : Nat) : Dev :=
  let r := d.rasterI o
  let ns := d.nsAt cyc
  if !r.fetching then d
  else
    let t := d.rasTiming o
    let vals := if r.subst then (if r.holdValid then r.lastGood else d.background o) else d.composed o
    let d := if r.subst || r.dropped.isEmpty then d else d.used 4
    let d := d.sendRaster o vals
    let bad := if r.subst then [] else (List.range 4).filter fun l => d.hostLayer o l && !d.postmarkOk o l
    let d := d.each bad fun d l =>
      (d.suspectLayer o l ns).onRasterI o fun r => { r with torn := bump r.torn }
    let good := !r.subst && bad.isEmpty && r.dropped.isEmpty
    let d := if good && (List.range 4).any (d.hostLayer o) then
        (d.holdWrite o).onRasterI o fun r => { r with lastGood := vals, holdValid := true }
      else d
    let d := if r.subst || !r.dropped.isEmpty then d
      else d.each (d.withClones o) fun d x => d.deliver (rasEp x)
    let d := if r.retired.isEmpty then d else d.raise (245 + 2 * o) ns
    let d := d.each (d.withClones o) fun d x =>
      d.onRasterI x fun r => { r with fetching := false, retired := [], line := BitVec.ofNat 13 (t.vTot - 1) }
    let d := if (d.rasterI o).retimeDue then d.startRetime o ns else d
    -- a clone whose own members ask for a retime
    d.each ((d.withClones o).filter fun x => x != o && (d.rasterI x).retimeDue) fun d x => d.startRetime x ns

def execFetchEnd (out : Fin 4) (cyc : Nat) (s : State) : Host.Outcome State Fault Refusal :=
  .next { s with dev := s.dev.fetchEnd out cyc }

/-- RETIME_END: the pixel clock has relocked, and the next frame starts with the new timing (R449). A hold of another
size or depth is no longer a good frame. -/
def Dev.retimeEnd (d : Dev) (o : Nat) : Dev :=
  if (d.rasterI o).retiming then
    d.each (d.withClones o) fun d x =>
      let was := (d.rasTiming x, d.rasDepth x)
      let d := d.onRasterI x fun r =>
        { r with retiming := false, timingNew := true, next := [],
                 force := r.next.foldl (fun f kv => setPar f kv.1 kv.2) r.force }
      if was = (d.rasTiming x, d.rasDepth x) then d
      else d.onRasterI x fun r => { r with holdValid := false, lastGood := [] }
  else d

def execRetimeEnd (out : Fin 4) (_cyc : Nat) (s : State) : Host.Outcome State Fault Refusal :=
  .next { s with dev := s.dev.retimeEnd out }

/-- TIME_LOCK_STEER (R441): the error of a time-locked output; within 100 ns it is locked, and past 1 ms it is
corrected by a retime. -/
def Dev.timeLock (d : Dev) (o : Nat) (err : Int) : Dev :=
  let r := d.rasterI o
  if r.enabled && u8 (d.rasB o 3) 0 == 1 && (d.masterOf o).isNone then
    let far := decide (1000000 < err.natAbs)
    d.each (d.withClones o) fun d x =>
      d.onRasterI x fun r =>
        { r with lockErr := err, locked := decide (err.natAbs ≤ 100), retimeDue := r.retimeDue || (far && x == o) }
  else d

def execTimeLockSteer (out : Fin 4) (errNs : Int) (s : State) : Host.Outcome State Fault Refusal :=
  .next { s with dev := s.dev.timeLock out errNs }

/-- A commit of output `o` was missed: MISSED rises on it and on its clones, with the output's event (R446, R448). -/
def Dev.missedCommit (d : Dev) (o ns : Nat) : Dev :=
  d.each (d.withClones o) fun d x =>
    (d.onRasterI x fun r => { r with missed := bump r.missed }).raise (245 + 2 * x) ns

/-- Every output stops (23 R535, 24 R548). -/
def Dev.stopRasters (d : Dev) : Dev :=
  d.onRaster (·.map fun r =>
    { r with enabled := false, window := false, fetching := false, retiming := false, locked := false })

end Sys2Proof.Machine
end

