-- ==== Sys2Proof/Machine/Audio.lean ====
section
/-!
DEFINITION. Audio ports: starts, periods and their rings, gain and source changes, AES3 channel status, the steering
of the transmit clock and clock faults (19 R458 to R476).
-/
namespace Sys2Proof.Machine

/-! ### Ports and domains (R458, R459) -/

/-- An output port (R458). -/
def isOut (p : Nat) : Bool := within 20 p 23 || p == 25 || p == 27

def isAes3Rx (p : Nat) : Bool := within 16 p 19

/-- The clock of a port: its domain, 0 transmit and 1 receive, or its own for an AES3 receiver (R458). -/
def clockOf (p : Nat) : AudioClock :=
  if h : 16 ≤ p ∧ p < 20 then .aes3 ⟨p - 16, by omega⟩ else if isOut p then .tx else .rx

def Dev.domFs (d : Dev) (dom : Nat) : Nat := d.parN 0x11 (28 + dom) 0

/-- The sample rate of a port: its domain's, or the rate an AES3 receiver measures. -/
def Dev.portFs (d : Dev) (p : Nat) : Nat :=
  if isAes3Rx p then (d.portI p).rateHz.toNat else d.domFs (if isOut p then 0 else 1)

/-- Channels of a port (R458). -/
def Dev.portChannels (d : Dev) (p : Nat) : Nat :=
  if p < 24 then 2 else if d.portFs p = 96000 then 8 else 16

def Dev.portPeriod (d : Dev) (p : Nat) : Nat := d.parN 0x11 p 4

def audioEp (p : Nat) : Nat := endpoint 0x11 p

/-- Bytes of a port's unit: header and samples, padded to 4,096 (R463). -/
def unitBytes (period channels : Nat) : Nat := ceilDiv (64 + 4 * period * channels) 4096 * 4096

def audioSpans (bytes : Nat) (b : BufDesc) : List (Nat × Nat) := [(b.hdrOff, 64), (b.plane0, bytes)]

def Dev.portSpans (d : Dev) (p : Nat) : BufDesc → List (Nat × Nat) :=
  audioSpans (4 * d.portPeriod p * d.portChannels p)

/-- The audio events of a port and of a domain (22 R519). -/
def Dev.audioEvent (d : Dev) (p ns : Nat) : Dev := d.raise (252 + p) ns
def Dev.domainEvent (d : Dev) (dom ns : Nat) : Dev := d.raise (280 + dom) ns

/-- A clock, as a domain number or an AES3 receiver's port. -/
def clockPorts (c : AudioClock) : List Nat := (List.range 28).filter fun p => clockOf p == c

/-- The recording that takes a port's periods as its units (23 R540). -/
def portService (p : Nat) : Nat := recordService (ringAudio + p)

def Dev.portInterrupt (d : Dev) (p cause : Nat) : Dev :=
  if ((d.ringI (ringAudio + p)).slots.any fun s => s.endpoint / 256 == 0x0E) then d.interrupt (portService p) cause
  else d

/-! ### Samples (R460, R464, R467 to R469) -/

def sampleOf (w : Word) : Int := toSigned 24 (w.toNat / 256)

def wordOf (s : Int) (flags : Nat) : Word := BitVec.ofNat 32 (ofSigned 24 s * 256 + flags % 16)

def sat24 (s : Int) : Int := clampI (-8388608) 8388607 s

/-- A sample after gain and mute, rounded and saturated; `num` is in units of 1 ÷ `den` of a code (R464, R467). -/
def gained (g : Nat × Bool) (num : Int) (den : Nat) : Int :=
  if g.2 then 0 else sat24 ((2 * num * g.1 + den * 4096) / (2 * den * 4096 : Nat))

/-- The sample words of one frame of an input port, from the words received: bits 31 to 8 are the sample, for PDM
bits 31 to 0 the filter's output in 1 ÷ 256 of a code; on an AES3 port bit 4 marks a subframe whose parity failed, bit
6 a biphase violation or a lost preamble; bit 5 marks a frame struck by a glitch: notes/assumptions/28.md.
`prev` is the frame before, as received; the result is the frame that stands for this one, and its status bits. -/
def receiveFrame (p validity : Nat) (prev cur : List Word) : List Word × Nat × Nat :=
  let mark := fun i => cur.any fun w => w.toNat / 2 ^ i % 2 == 1
  if p < 16 then (cur, 0, 0)
  else if mark 5 || mark 6 then (prev, 4, 0)
  else if isAes3Rx p then
    let bad := cur.countP fun w => w.toNat / 16 % 2 == 1
    let frame := cur.zipIdx.map fun (w, c) =>
      let w := if w.toNat / 16 % 2 = 1 then prev.getD c 0 else w
      if w.toNat % 2 = 1 ∧ validity = 1 then BitVec.ofNat 32 (w.toNat % 256) else w
    (frame, (if bad = 0 then 0 else 16) + (if frame.any fun w => w.toNat % 2 == 1 then 8 else 0), bad)
  else (cur.map fun w => BitVec.ofNat 32 (w.toNat / 256 * 256), 0, 0)

/-- The frames of a period as they stand after receive errors: frames, status bits and parity failures. -/
def receiveAll (p validity : Nat) : List (List Word) → List Word → List (List Word) × Nat × Nat
  | [], _ => ([], 0, 0)
  | cur :: rest, prev =>
    let (f, st, bad) := receiveFrame p validity prev cur
    let (fs, st', bad') := receiveAll p validity rest f
    (f :: fs, st ||| st', bad + bad')

/-- Runs of marked frames among the frames of an AES3 port: each is one glitch (R468). -/
def glitchRuns : List (List Word) → Bool → Nat
  | [], _ => 0
  | f :: fs, was =>
    let now := f.any fun w => w.toNat / 64 % 2 == 1
    (if now && !was then 1 else 0) + glitchRuns fs now

/-- The gain of a channel in force. -/
def PortSt.gain (x : PortSt) (c : Nat) : Nat × Bool := x.gainNow.getD c (4096, false)

/-- A frame of an input after gain: `g` in force for it. -/
def gainFrame (p : Nat) (g : Nat × Bool) (slots : Nat → Bool) (f : List Word) : List Word :=
  f.zipIdx.map fun (w, c) =>
    if !slots c then 0
    else if p < 16 then wordOf (gained g w.toInt 256) 0
    else wordOf (gained g (sampleOf w) 1) (if isAes3Rx p then w.toNat % 16 else 0)

/-- The slots of a TDM port that are active; every channel of another port is (R473). -/
def Dev.slotActive (d : Dev) (p c : Nat) : Bool := decide (p < 24) || bit (d.parN 0x11 p 0xB) c

/-! ### Starting (R465, R466) -/

/-- The buffer for the period that begins at stamp `t`; with no free buffer the ring is late, and the period is lost
(R470). -/
def Dev.openPeriod (d : Dev) (p t : Nat) : Dev :=
  let ring := ringAudio + p
  let x := d.portI p
  let fs := d.portFs p
  let back := if p < 16 ∧ fs ≠ 0 then 18 * 1000000000 * 2 ^ 32 / fs else 0
  let d := d.onPortI p fun x => { x with since := t }
  if d.isShed (608 + p) then d
  else match (d.ringI ring).gate (x.index.toNat % 2 ^ 32) false (d.portSpans p) with
  | (.taken o, r) =>
    (d.onRingI ring fun _ => r).onRingI ring fun r => r.onOrder o fun b =>
      { b with postmark := postmarkNat ((t - back) / 2 ^ 32) d.time.epoch.toNat (x.index.toNat % 2 ^ 32) (0x80 + p) }
  | (_, r) =>
    ((d.onRingI ring fun _ => r).onPortI p fun x => { x with status := x.status ||| 2 }).portInterrupt p
      (if (d.ringI ring).bufs.any (fun b => b.held.any fun k => (((d.ringI ring).slots.getD k Slot.none).endpoint == 0xFFFF))
        then 1 else 2)

/-- AUDIO_PORT_START: an enabled port whose slot has fired, or that names none, starts at this frame sync (R466). -/
def Dev.portStart (d : Dev) (p cyc : Nat) : Dev :=
  let x := d.portI p
  if !d.halted && x.enabled && x.startReq && !x.running && !x.needEnable then
    let t := d.timeAt cyc
    let ns := d.nsAt cyc
    let short := decide (t < x.enabledAt + d.parN 0x11 p 7 * 1000000 * 2 ^ 32)
    let first := isOut p && !(List.range 28).any fun q => isOut q && (d.portI q).running
    let d := d.onPortI p fun x =>
      { x with running := true, startReq := false, index := 0, due := 0, started := t, since := t, dueBase := none,
               leadShort := x.leadShort || short, status := if short then 0x40 else 0, lastSample := [],
               fillPos := 0, fillLeft := 0 }
    let d := if short then d.mark (0x11000 + 0x20 * p) 26 else d
    let d := if first then d.onDomI 0 fun m => { m with startT := some (t : Int), integral := 0, lockRun := 0 } else d
    let d := if isOut p then d else d.openPeriod p t
    d.audioEvent p ns
  else d

def execAudioPortStart (port : Fin 28) (cyc : Nat) (s : State) : Host.Outcome State Fault Refusal :=
  .next { s with dev := s.dev.portStart port cyc }

/-- A start slot fires with use 3: every enabled port that names it starts at its next frame sync (R466). -/
def Dev.audioSlotFired (d : Dev) (slot : Nat) : Dev :=
  d.each (List.range 28) fun d p =>
    let x := d.portI p
    if x.enabled && !x.running && !x.needEnable && d.parN 0x11 p 1 == slot then
      d.onPortI p fun x => { x with startReq := true } else d

/-- A port stops: what its ring is filling returns to free. -/
def Dev.portStop (d : Dev) (p ns : Nat) : Dev :=
  if (d.portI p).running then
    let ring := ringAudio + p
    let open' := ((d.ringI ring).bufs.filter fun b => b.st == .filling).map (·.order)
    let d := if isOut p then d else d.each open' fun d o => d.onRingI ring (·.dropBuf o)
    (d.onPortI p fun x => { x with running := false, startReq := false }).audioEvent p ns
  else d.onPortI p fun x => { x with startReq := false }

/-! ### Inputs (R462, R470) -/

/-- The header of a buffer of an input port (R462). -/
def portHeader (mark status pset n channels index : Nat) : List Byte :=
  leBytes 16 mark ++ leBytes 2 status ++ [0, 0] ++ leBytes 4 pset ++ leBytes 4 n ++ leBytes 1 channels ++ [0, 0, 0] ++
    leBytes 8 index ++ List.replicate 24 0

/-- The frames received in a period, with the frames of a clock stop filled with zeros at their place (R472). -/
def fillFrames (n c pos left : Nat) (got : List (List Word)) : List (List Word) × Nat :=
  let k := min left (n - pos)
  let zeros := List.replicate k (List.replicate c (0 : Word))
  let all := got.take pos ++ List.replicate (pos - got.length) (List.replicate c 0) ++ zeros ++ got.drop pos
  (if k = 0 then got else all, k)

/-- AUDIO_PERIOD_BOUNDARY of a running input: the period closes into its buffer, if it has one, and the next begins
(R461, R462, R467, R470). -/
def Dev.periodEnds (d : Dev) (p : Nat) (samples : List Word) (cyc : Nat) : Dev :=
  let x := d.portI p
  let ring := ringAudio + p
  if isOut p || !x.running then d
  else
    let n := d.portPeriod p
    let c := d.portChannels p
    let got := (chunks c n samples).map fun f => f ++ List.replicate (c - f.length) 0
    let (all, k) := fillFrames n c x.fillPos x.fillLeft got
    let frames := (all ++ List.replicate (n - all.length) (List.replicate c 0)).take n
    let (rx, st, bad) := receiveAll p (if isAes3Rx p then d.parN 0x11 p 8 else 0) frames x.lastSample
    let runs := if isAes3Rx p then glitchRuns frames false else 0
    let change := x.pendGain.getLast?
    let out := rx.zipIdx.flatMap fun (f, i) =>
      let g := match change with
        | some (i0, g, m) => if i0 ≤ i then (g, m) else x.gain 0
        | none => x.gain 0
      gainFrame p g (d.slotActive p) f
    let status := x.status.toNat ||| st ||| (if k = 0 then 0 else 1)
    let buf := (d.ringI ring).bufs.find? fun b => b.st == .filling && !b.old
    let d := match buf with
      | some b =>
        let d := d.memWrite b.desc.pool b.desc.plane0 (out.flatMap fun (w : Word) => leBytes 4 w.toNat)
        let d := d.memWrite b.desc.pool b.desc.hdrOff
          (portHeader b.postmark status x.pset.toNat n c x.index.toNat)
        let d := d.onRingI ring fun r => r.fill b.order b.postmark x.pset.toNat (unitBytes n c)
        d.onPortI p fun x => { x with status := 0 }
      | none => d.onPortI p fun x => { x with status := x.status ||| BitVec.ofNat 16 st }
    let d := d.onPortI p fun x =>
      { x with index := x.index + BitVec.ofNat 64 n, lastSample := rx.getLastD [],
               parity := bumpBy x.parity bad, glitches := bumpBy x.glitches runs,
               gainNow := match change with
                 | some (_, g, m) => List.replicate 16 (g, m)
                 | none => x.gainNow,
               pendGain := [], fillPos := 0, fillLeft := x.fillLeft - k }
    let d := if runs = 0 then d else d.audioEvent p (d.nsAt cyc)
    let d := if k = 0 then d else d.portInterrupt p 0
    d.openPeriod p (d.timeAt cyc)

def execAudioPeriodBoundary (port : Fin 28) (samples : List Word) (cyc : Nat) (s : State) :
    Host.Outcome State Fault Refusal :=
  .next { s with dev := s.dev.periodEnds port samples cyc }

/-! ### Outputs (R467, R469, R470) -/

/-- A host buffer is marked played (R462). -/
def Dev.markPlayed (d : Dev) (b : Buf) : Dev :=
  let flags := u8 (d.memRead b.desc.pool (b.desc.hdrOff + 29) 1) 0
  d.memWrite b.desc.pool (b.desc.hdrOff + 29) [BitVec.ofNat 8 (flags / 4 * 4 + 2)]

/-- The frames of a buffer that an output plays. -/
def Dev.bufFrames (d : Dev) (b : Buf) (n c : Nat) : List (List Word) :=
  let bytes := d.memRead b.desc.pool b.desc.plane0 (4 * n * c)
  (List.range n).map fun i => (List.range c).map fun j => BitVec.ofNat 32 (u32 bytes (4 * (c * i + j)))

/-- What an output finds for its due index: the frames to play, none for zeros, and the buffers skipped. -/
structure Found where
  frames  : Option (List (List Word))
  skipped : Nat

/-- A host-fed output: the next buffer of the ring in turn (R470). `nextOrd` counts the buffers gone through. -/
def Dev.findHost (d : Dev) (p due : Nat) : Nat → Nat → Found × Dev
  | 0, skipped => (⟨none, skipped⟩, d)
  | fuel + 1, skipped =>
    let ring := ringAudio + p
    let r := d.ringI ring
    let bufs := r.bufs.filter fun b => !b.old
    match bufs.find? fun b => b.idx == r.nextOrd % max 1 bufs.length with
    | none => (⟨none, skipped⟩, d)
    | some b =>
      let hdr := d.memRead b.desc.pool b.desc.hdrOff 64
      let n := d.portPeriod p
      let c := d.portChannels p
      let done := fun (d : Dev) => (d.markPlayed b).onRingI ring fun r => { r with nextOrd := r.nextOrd + 1 }
      if !bit (u8 hdr 29) 0 then (⟨none, skipped⟩, d)
      else if u32 hdr 24 ≠ n ∨ u8 hdr 28 ≠ c ∨ u64 hdr 32 < due then (done d).findHost p due fuel (skipped + 1)
      else if due < u64 hdr 32 then (⟨none, skipped⟩, d)
      else (⟨some (d.bufFrames b n c), skipped⟩, done d)

/-- An output fed from input port `q`: its next full buffer, with `base` the offset of the source's index (R470). -/
def Dev.findInput (d : Dev) (p q due : Nat) (base : Option Nat) : Nat → Nat → Found × Option Nat × Dev
  | 0, skipped => (⟨none, skipped⟩, base, d)
  | fuel + 1, skipped =>
    let ring := ringAudio + q
    match (d.ringI ring).slotOf (audioEp p) with
    | none => (⟨none, skipped⟩, base, d)
    | some slot =>
      match (d.ringI ring).pickFor slot with
      | none => (⟨none, skipped⟩, base, d)
      | some b =>
        let idx := u64 (d.memRead b.desc.pool b.desc.hdrOff 64) 32
        let off := base.getD ((idx + 2 ^ 64 - due % 2 ^ 64) % 2 ^ 64)
        let want := (due + off) % 2 ^ 64
        let take := fun (d : Dev) =>
          (d.onRingI ring fun r => r.take slot b.order).queueRelease ring slot b.order false
        if idx < want then (take d).findInput p q due (some off) fuel (skipped + 1)
        else if want < idx then (⟨none, skipped⟩, some off, d)
        else
          let hdr := d.memRead b.desc.pool b.desc.hdrOff 64
          (⟨some (d.bufFrames b (u32 hdr 24) (u8 hdr 28)), skipped⟩, some off, take d)

/-- The next period of one source of an output (R470). -/
def Dev.findPeriod (d : Dev) (p src due : Nat) (base : Option Nat) : Found × Option Nat × Dev :=
  if src = 0xFFFF then
    let (f, d) := d.findHost p due ((d.ringI (ringAudio + p)).bufs.length + 1) 0
    (f, base, d)
  else d.findInput p src due base 17 0

/-- Whether sample `s` after `prev` is a zero crossing (R467). -/
def crosses (prev s : Int) : Bool := s == 0 || (decide (0 ≤ prev) != decide (0 ≤ s))

/-- The first zero crossing of a channel in a period, after `prev`. -/
def firstCross (prev : Int) : List Int → Nat → Option Nat
  | [], _ => none
  | s :: ss, i => if crosses prev s then some i else firstCross s ss (i + 1)

/-- The CRCC of AES3 channel status: byte 23 from bytes 0 to 22. PRESUMED: notes/assumptions/29.md. -/
def crccBit (c : Nat) : Nat := if c % 2 = 1 then (c / 2) ^^^ 0xB8 else c / 2
def crcc (bs : List Byte) : Nat :=
  (bs.take 23).foldl (fun c b =>
    crccBit (crccBit (crccBit (crccBit (crccBit (crccBit (crccBit (crccBit (c ^^^ b.toNat))))))))) 0xFF

/-- The channel status that an AES3 transmitter sends (R469). -/
def sentStatus (bs : List Byte) : List Byte :=
  if bit (u8 bs 0) 0 then bs.take 23 ++ [BitVec.ofNat 8 (crcc bs)] else bs

/-- The word that an AES3 transmitter sends for frame `i` of the port (R460, R469). -/
def aes3Word (cs : List Byte) (forced : Bool) (i : Nat) (w : Word) : Word :=
  let k := i % 192
  BitVec.ofNat 32 (w.toNat / 256 * 256 + packWord [(3, if k = 0 then 1 else 0),
    (2, if bit (u8 cs (k / 8)) (k % 8) then 1 else 0), (1, w.toNat / 2 % 2), (0, if forced then 1 else w.toNat % 2)])

/-- AUDIO_FETCH_LEAD of a running output: the period at the due index is played, or zeros are (R467, R469, R470). -/
def Dev.fetchLead (d : Dev) (p cyc : Nat) : Dev :=
  let x := d.portI p
  if !isOut p || !x.running then d
  else
    let n := d.portPeriod p
    let c := d.portChannels p
    let ns := d.nsAt cyc
    let (f, base, d) := if d.isShed (608 + p) then (⟨none, 0⟩, x.dueBase, d) else d.findPeriod p x.source x.due x.dueBase
    let (g, newBase, d) := match x.newSource with
      | some q => d.findPeriod p q x.due x.newBase
      | none => (⟨none, 0⟩, none, d)
    let zeros : List (List Word) := List.replicate n (List.replicate c 0)
    let old := f.frames.getD zeros
    let new := g.frames.getD zeros
    let chan := fun (fs : List (List Word)) (k : Nat) => fs.map fun w => w.getD k 0
    -- each channel: its words, its gain after the period, and whether it has changed source
    let plan := (List.range c).map fun k =>
      let prev := sampleOf (x.lastSample.getD k 0)
      let done := x.switched.contains k
      let words := if done then chan new k else chan old k
      let at' := firstCross prev (words.map sampleOf) 0
      let words := match x.newSource.isSome && !done, at' with
        | true, some i => words.take i ++ (chan new k).drop i
        | _, _ => words
      let pend := x.pendGain.find? fun y => y.1 == k
      let played := words.zipIdx.map fun (w, i) =>
        let g := match pend, at' with
          | some (_, g, m), some j => if j ≤ i then (g, m) else x.gain k
          | _, _ => x.gain k
        if d.slotActive p k then wordOf (gained g (sampleOf w) 1) w.toNat else 0
      let g := match pend, at' with
        | some (_, g, m), some _ => (g, m)
        | _, _ => x.gain k
      (words, played, g, at'.isSome)
    let crossed := (List.range c).filter fun k => (plan.getD k ([], [], (0, false), false)).2.2.2
    let frames := (List.range n).flatMap fun i =>
      (List.range c).map fun k => ((plan.getD k ([], [], (0, false), false)).2.1).getD i 0
    let cs := d.par (pkey 0x11 p 9)
    let words := if p < 24 then
        frames.zipIdx.map fun (w, i) =>
          aes3Word (sentStatus ((cs.drop (24 * (i % 2))).take 24)) (d.parN 0x11 p 8 == 1) (x.due + i / 2) w
      else frames
    let missing := f.frames.isNone && (x.newSource.isNone || x.switched.length < c) ||
      (x.newSource.isSome && g.frames.isNone && !x.switched.isEmpty)
    let skipped := f.skipped + g.skipped
    let switched := if x.newSource.isSome then x.switched ++ crossed.filter fun k => !x.switched.contains k else []
    let whole := x.newSource.isSome && decide (c ≤ switched.length)
    let d := d.onPortI p fun x =>
      { x with index := BitVec.ofNat 64 x.due, due := x.due + n, since := d.timeAt cyc,
               lastSample := (List.range c).map fun k => ((plan.getD k ([], [], (0, false), false)).1).getLastD 0,
               gainNow := (List.range 16).map fun k => if k < c then (plan.getD k ([], [], x.gain k, false)).2.2.1 else x.gain k,
               pendGain := x.pendGain.filter fun y => !crossed.contains y.1,
               underrun := missing, underruns := if missing then bump x.underruns else x.underruns,
               discarded := bumpBy x.discarded skipped, dueBase := if whole then newBase else base,
               source := if whole then x.newSource.getD x.source else x.source,
               newSource := if whole then none else x.newSource, newBase := if whole then none else newBase,
               switched := if whole then [] else switched }
    let d := if whole then (match (d.ringI (ringAudio + x.source)).slotOf (audioEp p) with
        | some k => if x.source = 0xFFFF then d else d.landSlot (ringAudio + x.source) k []
        | none => d) else d
    let d := if missing || 0 < skipped then d.audioEvent p ns else d
    d.emit (.audio p words)

def execAudioFetchLead (port : Fin 28) (cyc : Nat) (s : State) : Host.Outcome State Fault Refusal :=
  .next { s with dev := s.dev.fetchLead port cyc }

/-- ZERO_CROSSING_TIMEOUT: a channel that has not crossed zero takes its change (R467). -/
def Dev.zcTimeout (d : Dev) (p ch : Nat) : Dev :=
  let x := d.portI p
  let moves := x.newSource.isSome && !x.switched.contains ch && decide (ch < d.portChannels p)
  if isOut p && (x.pendGain.any (fun y => y.1 == ch) || moves) then
    d.onPortI p fun x =>
      { x with zcTimeouts := bump x.zcTimeouts,
               gainNow := match x.pendGain.find? fun y => y.1 == ch with
                 | some (_, g, m) => x.gainNow.set ch (g, m)
                 | none => x.gainNow,
               pendGain := x.pendGain.filter fun y => y.1 != ch,
               switched := if moves then x.switched ++ [ch] else x.switched }
  else d

def execZeroCrossingTimeout (port : Fin 28) (channel : Fin 16) (s : State) : Host.Outcome State Fault Refusal :=
  .next { s with dev := s.dev.zcTimeout port channel }

/-! ### Landing of audio members (R466, R467, R473) -/

/-- An output attaches to the ring of an input port as a consumer of order every; from host buffers it attaches to
nothing (R470). -/
def Dev.attachInput (d : Dev) (p q : Nat) : Dev :=
  if q = 0xFFFF then d
  else
    let ring := ringAudio + q
    match (d.ringI ring).slotOf (audioEp p), (d.ringI ring).slotOf 0 with
    | none, some k => d.landSlot ring k (leBytes 2 (audioEp p) ++ [0, 0])
    | _, _ => d

def Dev.detachInput (d : Dev) (p q : Nat) : Dev :=
  if q = 0xFFFF then d
  else match (d.ringI (ringAudio + q)).slotOf (audioEp p) with
    | some k => d.landSlot (ringAudio + q) k []
    | none => d

/-- An audio port member lands; `pset` is the seal sequence of its envelope. -/
def Dev.landAudio (d : Dev) (p i : Nat) (v : List Byte) (pset : Nat) : Dev :=
  let d := d.onPortI p fun x => { x with pset := BitVec.ofNat 32 pset }
  let x := d.portI p
  match i with
  | 0 =>
    if u8 v 0 = 1 then
      if x.enabled then d
      else
        let clock := match clockOf p with
          | .aes3 _ => x.locked
          | .tx => (d.domI 0).clockOk
          | .rx => (d.domI 1).clockOk
        d.onPortI p fun x =>
          { x with enabled := true, enabledAt := d.time.dev, locked := clock, needEnable := false,
                   rateWrong := false, startReq := d.parN 0x11 p 1 == 0xFF }
    else
      let d := d.portStop p d.nowNs
      d.onPortI p fun x => { x with enabled := false, needEnable := false, underrun := false }
  | 2 => d.landRing (ringAudio + p) v
  | 3 =>
    let q := u16 v 0
    if !isOut p ∨ q = x.source then d
    else if x.running then
      let d := match x.newSource with
        | some old => d.detachInput p old
        | none => d
      (d.attachInput p q).onPortI p fun x => { x with newSource := some q, newBase := none, switched := [] }
    else ((d.detachInput p x.source).attachInput p q).onPortI p fun x => { x with source := q, dueBase := none }
  | 5 =>
    let g := (u16 v 0, u8 v 2 == 1)
    if x.running then
      if isOut p then
        if d.parN 0x11 p 6 = 0 then d.onPortI p fun x => { x with gainNow := List.replicate 16 g, pendGain := [] }
        else d.onPortI p fun x => { x with pendGain := (List.range (d.portChannels p)).map fun k => (k, g.1, g.2) }
      else
        let k := (d.time.dev - x.since) * d.portFs p / (1000000000 * 2 ^ 32) + 1
        d.onPortI p fun x => { x with pendGain := [(k, g.1, g.2)] }
    else d.onPortI p fun x => { x with gainNow := List.replicate 16 g, pendGain := [] }
  | _ => d

/-! ### Clock faults (R472) -/

/-- The report of an audio clock fault names the clock: 0 transmit, 1 receive, 2 + n an AES3 receiver. -/
def clockCode : AudioClock → Nat
  | .tx => 0
  | .rx => 1
  | .aes3 n => 2 + n

/-- The ports of a clock stop for good, with one report (R472). -/
def Dev.stopClock (d : Dev) (c : AudioClock) (ns : Nat) : Dev :=
  let on := (clockPorts c).filter fun p => (d.portI p).running
  let d := d.each on fun d p =>
    ((d.portInterrupt p 0).portStop p ns).onPortI p fun x => { x with needEnable := true }
  d.report 0x0080 (endpoint 0x11 (28 + min 1 (clockCode c))) ns [clockCode c]

/-- A rate change: each running port closes its buffer, stops and sets RATE_WRONG (R472). -/
def Dev.rateChanges (d : Dev) (c : AudioClock) (cyc : Nat) : Dev :=
  let ns := d.nsAt cyc
  let d := d.each (clockPorts c) fun d p =>
    if (d.portI p).running || (d.portI p).enabled then d.onPortI p fun x => { x with rateWrong := true } else d
  let d := match c with
    | .tx => d.onDomI 0 fun m => { m with rateWrong := true }
    | .rx => d.onDomI 1 fun m => { m with rateWrong := true }
    | .aes3 _ => d
  -- the open buffer is closed short: the samples received so far are not in any command, so they are free
  let d := d.each ((clockPorts c).filter fun p => (d.portI p).running && !isOut p) fun d p =>
    let n := (d.timeAt cyc - (d.portI p).since) * d.portFs p / (1000000000 * 2 ^ 32)
    let words := (List.range (n * d.portChannels p)).map fun i => BitVec.ofNat 32 (d.freeAt i)
    let ring := ringAudio + p
    match (d.ringI ring).bufs.find? fun b => b.st == .filling && !b.old with
    | some b =>
      let x := d.portI p
      let m := min n (d.portPeriod p)
      let d := d.memWrite b.desc.pool b.desc.plane0 ((words.take (m * d.portChannels p)).flatMap fun w => leBytes 4 w.toNat)
      let d := d.memWrite b.desc.pool b.desc.hdrOff
        (portHeader b.postmark x.status.toNat x.pset.toNat m (d.portChannels p) x.index.toNat)
      (d.used words.length).onRingI ring fun r =>
        r.fill b.order b.postmark x.pset.toNat (unitBytes (d.portPeriod p) (d.portChannels p))
    | none => d
  d.stopClock c ns

/-- Consecutive windows of a clock that were off. -/
def Dev.offRun (d : Dev) (c : AudioClock) : Nat := match c with
  | .tx => (d.domI 0).offRun
  | .rx => (d.domI 1).offRun
  | .aes3 n => (d.portI (16 + n)).offRun

def Dev.setOffRun (d : Dev) (c : AudioClock) (k : Nat) : Dev := match c with
  | .tx => d.onDomI 0 fun m => { m with offRun := k }
  | .rx => d.onDomI 1 fun m => { m with offRun := k }
  | .aes3 n => d.onPortI (16 + n) fun x => { x with offRun := k }

/-- A clock is there: CLOCK_OK of its domain, and LOCKED and the rate of its ports. -/
def Dev.clockThere (d : Dev) (c : AudioClock) : Dev := match c with
  | .aes3 _ => d
  | _ =>
    let dom := if c = .tx then 0 else 1
    let d := d.onDomI dom fun m => { m with clockOk := true }
    d.each (clockPorts c) fun d p =>
      d.onPortI p fun x => { x with locked := true, rateHz := BitVec.ofNat 18 (d.domFs dom) }

/-- AUDIO_CLOCK_WINDOW (R472): one window off and the next within is a glitch; ten off in a row are a rate change. -/
def Dev.clockWindow (d : Dev) (c : AudioClock) (w : ClockWindow) (cyc : Nat) : Dev :=
  let run := d.offRun c
  match w with
  | .off =>
    let d := d.setOffRun c (run + 1)
    if run + 1 = 10 then d.rateChanges c cyc else d
  | .nominal =>
    let d := (d.setOffRun c 0).clockThere c
    if run = 1 then
      d.each ((clockPorts c).filter fun p => (d.portI p).running && !isOut p) fun d p =>
        (d.onPortI p fun x => { x with glitches := bump x.glitches, status := x.status ||| 4 }).audioEvent p (d.nsAt cyc)
    else d

def execAudioClockWindow (clock : AudioClock) (window : ClockWindow) (cyc : Nat) (s : State) :
    Host.Outcome State Fault Refusal :=
  .next { s with dev := s.dev.clockWindow clock window cyc }

/-- CLOCK_STOP: no edge for 1 µs, or an AES3 receiver loses lock (R472). -/
def Dev.clockStops (d : Dev) (c : AudioClock) (cyc : Nat) : Dev :=
  let t := d.timeAt cyc
  let d := d.each (clockPorts c) fun d p =>
    (d.onPortI p fun x =>
      { x with locked := false, stopAt := if x.running then some t else x.stopAt,
               fillPos := if x.running && x.fillLeft == 0 then
                   (t - x.since) * d.portFs p / (1000000000 * 2 ^ 32) else x.fillPos }).portInterrupt p 0
  match c with
  | .tx => (d.onDomI 0 fun m => { m with clockOk := false, stopAt := some t }).domainEvent 0 (d.nsAt cyc)
  | .rx => (d.onDomI 1 fun m => { m with clockOk := false, stopAt := some t }).domainEvent 1 (d.nsAt cyc)
  | .aes3 _ => d

def execClockStop (clock : AudioClock) (cyc : Nat) (s : State) : Host.Outcome State Fault Refusal :=
  .next { s with dev := s.dev.clockStops clock cyc }

/-- CLOCK_RETURN after a stop of up to 1 s: the index of each running port advances by the periods missed; inputs fill
them with zeros, outputs discard the samples whose due time passed (R472). -/
def Dev.clockReturns (d : Dev) (c : AudioClock) (missed : Nat) : Dev :=
  let d := d.each (clockPorts c) fun d p =>
    let x := d.portI p
    let d := if x.running && x.stopAt.isSome then
        if isOut p then
          let n := d.portPeriod p
          d.onPortI p fun x => { x with due := if n = 0 then x.due else x.due + missed / n * n }
        else d.onPortI p fun x => { x with fillLeft := x.fillLeft + missed }
      else d
    d.onPortI p fun x => { x with stopAt := none, locked := true }
  match c with
  | .tx => d.onDomI 0 fun m => { m with clockOk := true, stopAt := none, rateWrong := false }
  | .rx => d.onDomI 1 fun m => { m with clockOk := true, stopAt := none, rateWrong := false }
  | .aes3 _ => d

def execClockReturn (clock : AudioClock) (missed _cyc : Nat) (s : State) : Host.Outcome State Fault Refusal :=
  .next { s with dev := s.dev.clockReturns clock missed }

/-- LONG_STOP: stopped for more than 1 s, the ports stop (R472). -/
def Dev.longStop (d : Dev) (c : AudioClock) (cyc : Nat) : Dev :=
  (d.each (clockPorts c) fun d p => d.onPortI p fun x => { x with stopAt := none }).stopClock c (d.nsAt cyc)

def execLongStop (clock : AudioClock) (cyc : Nat) (s : State) : Host.Outcome State Fault Refusal :=
  .next { s with dev := s.dev.longStop clock cyc }

/-! ### AES3 receivers (R468) -/

/-- AES3_LOCK: the receiver locks and reports the rate it measures. -/
def execAes3Lock (receiver : Fin 4) (rateHz : Nat) (s : State) : Host.Outcome State Fault Refusal :=
  .next { s with dev := s.dev.onPortI (16 + receiver) fun x =>
    { x with locked := true, rateHz := BitVec.ofNat 18 rateHz } }

/-- Whether a channel-status block is stored: a professional block needs its CRCC (R468). -/
def statusGood (bs : List Byte) : Bool := !bit (u8 bs 0) 0 || u8 bs 23 == crcc bs

/-- AES3_BLOCK: a block completes. Out of place it is discarded; a good block of each channel is stored, and a change
marks the buffer. -/
def Dev.aes3Block (d : Dev) (n : Nat) (inPlace : Bool) (ch0 ch1 : List Byte) : Dev :=
  let p := 16 + n
  if !inPlace then (d.onPortI p fun x => { x with csErrors := bump x.csErrors }).audioEvent p d.nowNs
  else
    let was := padTo 48 (d.portI p).goodCs
    let pick := fun (b : List Byte) (old : List Byte) => if statusGood (padTo 24 b) then padTo 24 b else old
    let now := pick ch0 (was.take 24) ++ pick ch1 (was.drop 24)
    let bad := [ch0, ch1].countP fun b => !statusGood (padTo 24 b)
    let d := d.onPortI p fun x =>
      { x with goodCs := now, csErrors := bumpBy x.csErrors bad, status := if now = was then x.status else x.status ||| 32 }
    if bad = 0 then d else d.audioEvent p d.nowNs

def execAes3Block (receiver : Fin 4) (zInPlace : Bool) (ch0 ch1 : List Byte) (s : State) :
    Host.Outcome State Fault Refusal :=
  .next { s with dev := s.dev.aes3Block receiver zInPlace ch0 ch1 }

/-- READ_AES3_CHANNEL_STATUS (14 R360): the last complete block of channel 0. -/
def Dev.readChannelStatus (d : Dev) (k : Docket) : Dev :=
  d.runDocket k [(8, 8)] fun d =>
    let n := u8 k.bytes 8
    if 3 < n then d.finish k 0x0203
    else if !(d.portI (16 + n)).locked then d.finish k 0x8701
    else d.finish k 0 (padTo 24 (d.portI (16 + n)).goodCs)

def execReadAes3ChannelStatus (k : Docket) (s : State) : Host.Outcome State Fault Refusal :=
  .next { s with dev := s.dev.readChannelStatus k }

/-! ### Steering (R471) -/

/-- The unit in which errors are kept: 2^32 × 10^9 of it make a sample. -/
def steerUnit : Nat := 2 ^ 32 * 1000000000

/-- Full samples of an input port's ring. -/
def Dev.fullSamples (d : Dev) (p : Nat) : Nat := (d.ringI (ringAudio + p)).count .full * d.portPeriod p

/-- The error of an update, in `steerUnit`; none in mode hold, and in mode time before a start (R471). -/
def Dev.steerError (d : Dev) (txIndex cyc : Nat) : Option Int :=
  match d.parN 0x11 28 1 with
  | 1 =>
    ((d.domI 0).startT).map fun t0 =>
      (txIndex : Int) * steerUnit - (d.domFs 0 : Int) * ((d.timeAt cyc : Int) - t0)
  | 2 =>
    let v := d.par (pkey 0x11 28 2)
    some (((d.fullSamples (u8 v 0) : Int) - u16 v 1) * steerUnit)
  | _ => none

/-- STEERING_UPDATE: the error of the transmit domain and its control value (R471). -/
def Dev.steer (d : Dev) (txIndex cyc : Nat) : Dev :=
  match d.steerError txIndex cyc with
  | none =>
    d.onDomI 0 fun m =>
      { m with control := BitVec.ofNat 16 (d.parN 0x11 28 4), steerLocked := false, lockRun := 0, atLimit := false }
  | some e =>
    let k := d.par (pkey 0x11 28 3)
    let m := d.domI 0
    let sum := m.integral + e
    let c : Int := 0x8000 + roundAway ((u16 k 0 : Int) * e + u16 k 2 * sum) (256 * steerUnit)
    let beyond := decide (c < 0) || decide (0xFFFF < c)
    let run := if e.natAbs < steerUnit then m.lockRun + 1 else 0
    let locked := decide (1000 ≤ run)
    let ns := d.nsAt cyc
    let d := d.onDomI 0 fun m =>
      { m with control := BitVec.ofNat 16 (clampI 0 0xFFFF c).toNat, error := e, integral := sum, lockRun := run,
               steerLocked := locked, clamped := m.clamped || beyond, atLimit := beyond }
    let d := if beyond then d.mark 0x11400 3 else d
    let d := if beyond && !m.atLimit then (d.report 0x0081 (endpoint 0x11 28) ns []).domainEvent 0 ns else d
    if locked && !m.steerLocked then d.domainEvent 0 ns else d

def execSteeringUpdate (txIndex cyc : Nat) (s : State) : Host.Outcome State Fault Refusal :=
  .next { s with dev := s.dev.steer txIndex cyc }

/-- A step of device time moves the start time with it (R471). -/
def Dev.shiftAudio (d : Dev) (stepNs : Int) : Dev :=
  d.onDomI 0 fun m => { m with startT := m.startT.map (· + stepNs * 2 ^ 32) }

/-- Every port stops (23 R535, 24 R548). -/
def Dev.stopAudio (d : Dev) (ns : Nat) : Dev :=
  d.each (List.range 28) fun d p => d.portStop p ns

end Sys2Proof.Machine
end

