-- ==== Sys2Proof/Machine/Time.lean ====
section
/-!
DEFINITION. Device time: steps and the addend, captures, the servo, IEEE 1588 messages on the chain ports, and the
launch slots (20 R477 to R496; 21 R505 for the time master).
-/
namespace Sys2Proof.Machine

/-! ### Source and master (R482; 21 R505) -/

def Dev.timeSource (d : Dev) : Nat := d.parN 0x12 0 0

def timeEp : Nat := endpoint 0x12 0

/-- The code of a servo state (R495). -/
def servoCode : Servo → Nat
  | .free => 0
  | .acquiring => 1
  | .locked => 2
  | .holdover => 3

/-- The servo changes state, which raises event 18 (R488). -/
def Dev.setServo (d : Dev) (v : Servo) : Dev :=
  if d.time.servo = v then d
  else (d.onTime fun t => { t with servo := v, lockRun := 0, outRun := 0 }).raiseNow 18

/-- The time master: the lowest address present whose source is not the chain (21 R505). -/
def Dev.timeMaster (d : Dev) : Option Nat :=
  (List.range 256).find? fun a =>
    if d.address = some a then d.timeSource != 3
    else (d.mapEntry a).present && (d.mapEntry a).source != 3

/-- The port on which the time master's Announce arrives with the fewest hops, CP0 on a tie (21 R505). -/
def Dev.upstreamOf (d : Dev) (m : Nat) : Nat :=
  let hops := fun p => (d.chain.masters.find? fun x => x.1 == p && x.2.1 == m).map (·.2.2)
  match hops 0, hops 1 with
  | some a, some b => if b < a then 1 else 0
  | none, some _ => 1
  | _, _ => 0

/-! ### The addend and steps (R477, R478) -/

/-- The addend under a rate correction in units of 10^-12 ÷ 65,536. -/
def addendOf (rate : Int) : Nat := (8 * 2 ^ 32 + roundAway (8 * 2 ^ 32 * rate) (65536 * 10 ^ 12)).toNat

/-- ±500 ppm in units of 10^-12 ÷ 65,536. -/
def rateMax : Int := 500000000 * 65536

/-- A rate correction is set; its addend takes effect after the close (R478). -/
def Dev.setRate (d : Dev) (r : Int) : Dev :=
  let r := clampI (-rateMax) rateMax r
  d.onTime fun t => { t with rate := r, newAddend := some (BitVec.ofNat 40 (addendOf r)) }

/-- Device time wraps at 2^48 s (R477). -/
def timeWrap : Nat := 2 ^ 48 * 1000000000 * 2 ^ 32

/-- A step of device time at rank 2 (R478, R480, R488; 19 R471). A step below 0 s is refused, with a report. -/
def Dev.applyStep (d : Dev) (step : Int) (cause : Nat) : Dev :=
  let now : Int := d.time.dev + step * 2 ^ 32
  if now < 0 then d.reportNow 0x0088 timeEp [ofSigned 64 step % 2 ^ 32, ofSigned 64 step / 2 ^ 32]
  else
    let dev := now.toNat % timeWrap
    let epoch := d.time.epoch + 1
    let entry : StepEntry := ⟨d.tick.count.toNat, step, dev / 2 ^ 32 / 1000000000, epoch.toNat, cause⟩
    let d := d.onTime fun t =>
      { t with dev := dev, epoch := epoch, steps := lastN 16 (t.steps ++ [entry]), stepped := true }
    let d := (d.onTick fun t => { t with stepped := true, halfNext := true }).raiseNow 19
    let d := d.shiftAudio step
    if d.time.servo = .free then d else d.setServo .acquiring

/-- A step is asked for, to be applied at rank 2 of this tick's close. -/
def Dev.requestStep (d : Dev) (step : Int) (cause : Nat) : Dev :=
  d.onTick fun t => { t with steps := t.steps ++ [(step, cause)] }

/-! ### The servo (R486 to R488) -/

/-- Samples per second of the selected source: 1, or 2^-n for Sync interval exponent n (R484, R487). -/
def Dev.sampleRate (d : Dev) : Nat :=
  if d.timeSource = 3 then 2 ^ (-(d.parI 1 0x12 0 5)).toNat else 1

/-- Whether the step mode allows a step (R487). -/
def Dev.mayStep (d : Dev) : Bool :=
  match d.parN 0x12 0 2 with
  | 0 => true
  | 1 => !d.time.everLocked
  | _ => false

/-- The rate correction for an offset and a sum, before its clamp (R487). -/
def Dev.rateFor (d : Dev) (off sum : Int) : Int :=
  let k := d.par (pkey 0x12 0 4);
  (-1) * (((u32 k 0 : Int) * off + (u32 k 4 : Int) * sum) * (d.sampleRate : Int))

/-- Lock and unlock by runs of samples (R488). -/
def Dev.lockTest (d : Dev) (off : Int) : Dev :=
  let inside := decide (off.natAbs ≤ 1000 * d.parN 0x12 0 3)
  let d := d.onTime fun t =>
    { t with lockRun := if inside then t.lockRun + 1 else 0, outRun := if inside then 0 else t.outRun + 1 }
  match d.time.servo with
  | .acquiring =>
    if 8 ≤ d.time.lockRun then (d.setServo .locked).onTime fun t => { t with everLocked := true } else d
  | .locked => if 4 ≤ d.time.outRun then d.setServo .acquiring else d
  | _ => d

/-- One offset sample, in ps, at the close of its tick (R486 to R488). -/
def Dev.servoSample (d : Dev) (off : Int) (source : Nat) : Dev :=
  if source ≠ d.timeSource then d
  else
    let jump := match d.time.prev with
      | some p => decide (1000000000 < (off - p).natAbs)
      | none => false
    if source = 1 && d.time.servo == .locked && jump then
      d.onTime fun t => { t with outliers := bump t.outliers }
    else
      let d := d.onTime fun t =>
        { t with offset := off, prev := if source = 1 then some off else t.prev, lastSample := d.nowNs }
      let d := if d.time.servo = .holdover then d.setServo .acquiring else d
      let keep := 64 * d.sampleRate
      if 1000 * d.parN 0x12 0 1 < off.natAbs && d.mayStep then
        (d.applyStep (-(roundAway off 1000)) 0).onTime fun t => { t with rHist := (t.rate :: t.rHist).take keep }
      else
        let sum := d.time.integral + off
        let r := d.rateFor off sum
        let clamped := decide (rateMax < r.natAbs)
        let d := if clamped then d else d.onTime fun t => { t with integral := sum }
        let d := d.setRate r
        (d.onTime fun t => { t with rHist := (t.rate :: t.rHist).take keep }).lockTest off

/-- The servo enters holdover: r is the mean of the last 64 s, with a report (R488). -/
def Dev.enterHoldover (d : Dev) (ns : Nat) : Dev :=
  if (d.timeSource = 1 || d.timeSource = 3) && d.time.servo != .holdover && d.time.servo != .free then
    let h := d.time.rHist
    let d := if h.isEmpty then d else d.setRate (roundAway (h.foldl (· + ·) 0) h.length)
    (((d.setServo .holdover).onTime fun t => { t with holdoverF := true }).mark 0x12010 9).report 0x0089 timeEp ns []
  else d

def execHoldover (cyc : Nat) (s : State) : Host.Outcome State Fault Refusal :=
  .next { s with dev := s.dev.enterHoldover (s.dev.nsAt cyc) }

/-- The chain's time master or its route has changed: the upstream port follows, and with no master a servo of source
3 goes into holdover (21 R505). -/
def Dev.followMaster (d : Dev) : Dev :=
  match d.timeMaster with
  | some m => d.onChain fun c => { c with upstream := d.upstreamOf m }
  | none => if d.timeSource = 3 then d.enterHoldover d.nowNs else d

/-- The source parameter lands: a change puts the servo into acquiring, or free (R482, R488). -/
def Dev.landSource (d : Dev) (old new : Nat) : Dev :=
  if old = new then d
  else
    let d := d.onTime fun t =>
      { t with integral := 0, prev := none, rHist := [], everLocked := false, lockRun := 0, outRun := 0 }
    let d := d.setServo (if new = 1 ∨ new = 3 then .acquiring else .free)
    d.followMaster

/-- Rank 2: the samples of the tick, then the requested steps, by stamp (R35, R478, R487). -/
def Dev.timeRank (d : Dev) : Dev :=
  let samples := d.tick.samples
  let steps := d.tick.steps
  let d := d.onTick fun t => { t with samples := [], steps := [] }
  let d := d.each steps fun d (n, c) => d.applyStep n c
  d.each samples fun d (o, s) => d.servoSample o s

/-! ### Captures (R483, R486) -/

/-- A sample belongs to this tick's close. -/
def Dev.addSample (d : Dev) (off : Int) (source : Nat) : Dev :=
  d.onTick fun t => { t with samples := t.samples ++ [(off, source)] }

/-- The offset of a PPS edge, folded (R486), ps. -/
def ppsOffset (ns : Nat) : Int :=
  let n := ns % 1000000000
  if n < 500000000 then 1000 * (n : Int) else 1000 * ((n : Int) - 1000000000)

/-- An edge is stamped unless it comes less than 100 ms after the last one stamped (R483). -/
def edgeDue (last : Option Nat) (up : Nat) : Bool := last.elim true fun l => decide (l + 100000000 ≤ up)

/-- PPS_IN. -/
def Dev.ppsEdge (d : Dev) (edgeNs cyc : Nat) : Dev :=
  if edgeDue d.time.ppsLast (d.upNs cyc) then
    let ns := ((edgeNs : Int) - d.parI 2 0x12 0 8).toNat
    let d := d.onTime fun t =>
      { t with ppsCount := t.ppsCount + 1, ppsLast := some (d.upNs cyc),
               ppsCap := postmarkNat ns t.epoch.toNat ((t.ppsCount + 1) % 2 ^ 32) 0xC0 }
    let d := d.raise 16 (d.nsAt cyc)
    if d.timeSource = 1 then d.addSample (ppsOffset ns) 1 else d
  else d

def execPpsIn (edgeNs cyc : Nat) (s : State) : Host.Outcome State Fault Refusal :=
  .next { s with dev := s.dev.ppsEdge edgeNs cyc }

/-- HTP_IN. -/
def Dev.htpEdge (d : Dev) (edgeNs cyc : Nat) : Dev :=
  if edgeDue d.time.htpLast (d.upNs cyc) then
    let ns := ((edgeNs : Int) - d.parI 2 0x12 0 9).toNat
    (d.onTime fun t =>
      { t with htpCount := t.htpCount + 1, htpLast := some (d.upNs cyc),
               htpCap := postmarkNat ns t.epoch.toNat ((t.htpCount + 1) % 2 ^ 32) 0xC1 }).raise 17 (d.nsAt cyc)
  else d

def execHtpIn (edgeNs cyc : Nat) (s : State) : Host.Outcome State Fault Refusal :=
  .next { s with dev := s.dev.htpEdge edgeNs cyc }

/-! ### IEEE 1588 messages (R484 to R486)

Message kinds are those of IEEE 1588: 0 Sync, 2 Pdelay_Req, 3 Pdelay_Resp, 8 Follow_Up, 10 Pdelay_Resp_Follow_Up, 11
Announce. -/

/-- SYNC_MESSAGE: a one-step Sync is discarded; the stamp of a two-step one is kept for its Follow_Up (R484). -/
def Dev.syncMsg (d : Dev) (p : Nat) (twoStep : Bool) (seqId : Nat) (t2 : Int) : Dev :=
  if twoStep && d.mayOriginate && d.chainUp p then d.onPtpI p fun x => { x with syncT2 := some (seqId, t2) } else d

def execSyncMessage (port : Fin 2) (twoStep : Bool) (seqId : Nat) (t2ps : Int) (_cyc : Nat) (s : State) :
    Host.Outcome State Fault Refusal :=
  .next { s with dev := s.dev.syncMsg port twoStep seqId t2ps }

/-- FOLLOW_UP: the offset sample of its Sync, on the upstream port of a device that takes time from the chain
(R485, R486). -/
def Dev.followUp (d : Dev) (p seqId : Nat) (t1 corr : Int) : Dev :=
  match (d.ptpI p).syncT2 with
  | some (q, t2) =>
    if q = seqId then
      let d := d.onPtpI p fun x => { x with syncT2 := none }
      if d.timeSource = 3 && d.timeMaster.isSome && d.chain.upstream == p then
        d.addSample (t2 - d.parI 4 0x12 0 (0x10 + p) - t1 - (d.ptpI p).delayPs - corr) 3
      else d
    else d
  | none => d

def execFollowUp (port : Fin 2) (seqId : Nat) (t1ps correctionPs : Int) (_cyc : Nat) (s : State) :
    Host.Outcome State Fault Refusal :=
  .next { s with dev := s.dev.followUp port seqId t1ps correctionPs }

/-- A PTP message leaves, on a link that is up and from a device that may originate frames. -/
def Dev.sendPtp (d : Dev) (p kind seqId : Nat) (t : Int) : Dev :=
  if d.mayOriginate && d.chainUp p then d.emit (.ptp p kind seqId t) else d

/-- PDELAY_REQ: the neighbour's request is answered in two steps with its receive and transmit stamps (R484). -/
def execPdelayReq (port : Fin 2) (seqId : Nat) (t2ps t3ps : Int) (s : State) : Host.Outcome State Fault Refusal :=
  .next { s with dev := (s.dev.sendPtp port 3 seqId t2ps).sendPtp port 10 seqId t3ps }

/-- PDELAY_RESP: its receive stamp, and the neighbour's receive stamp of the request (R484). -/
def Dev.pdelayResp (d : Dev) (p seqId : Nat) (t4 t2 : Int) : Dev :=
  match (d.ptpI p).t1 with
  | some (q, _) =>
    if q = seqId then d.onPtpI p fun x => { x with t2 := some (seqId, t2), t4 := some (seqId, t4) } else d
  | none => d

def execPdelayResp (port : Fin 2) (seqId : Nat) (t4ps t2ps : Int) (s : State) : Host.Outcome State Fault Refusal :=
  .next { s with dev := s.dev.pdelayResp port seqId t4ps t2ps }

/-- PDELAY_RESP_FOLLOW_UP: the mean link delay of the port (R484, IEEE 1588 peer delay). -/
def Dev.pdelayEnd (d : Dev) (p seqId : Nat) (t3 : Int) : Dev :=
  let x := d.ptpI p
  match x.t1, x.t2, x.t4 with
  | some (a, t1), some (b, t2), some (c, t4) =>
    if a = seqId ∧ b = seqId ∧ c = seqId then
      d.onPtpI p fun x => { x with delayPs := ((t4 - t1) - (t3 - t2)) / 2, t1 := none, t2 := none, t4 := none }
    else d
  | _, _, _ => d

def execPdelayRespFollowUp (port : Fin 2) (seqId : Nat) (t3ps : Int) (s : State) : Host.Outcome State Fault Refusal :=
  .next { s with dev := s.dev.pdelayEnd port seqId t3ps }

/-- ANNOUNCE: a master heard on a port, with its hops (21 R505). -/
def Dev.announced (d : Dev) (p master hops : Nat) : Dev :=
  if d.mayOriginate && d.chainUp p then
    (d.onChain fun c =>
      { c with masters := c.masters.filter (fun x => !(x.1 == p && x.2.1 == master)) ++ [(p, master, hops)] }).followMaster
  else d

def execAnnounce (port : Fin 2) (master hops : Nat) (s : State) : Host.Outcome State Fault Refusal :=
  .next { s with dev := s.dev.announced port master hops }

/-- SYNC_INTERVAL: the port's Pdelay_Req, or its Sync, Follow_Up and Announce. A boundary clock sends Sync away from
its upstream port (R484). -/
def Dev.syncDue (d : Dev) (p : Nat) (pdelay : Bool) (t1 : Int) : Dev :=
  if !(d.mayOriginate && d.chainUp p) then d
  else if pdelay then
    let n := (d.ptpI p).pseqId
    (d.onPtpI p fun x =>
      { x with t1 := some (n, t1), t2 := none, t4 := none, pseqId := (n + 1) % 65536 }).sendPtp p 2 n t1
  else
    match d.timeMaster with
    | none => d
    | some m =>
      if d.timeSource = 3 && d.chain.upstream == p then d
      else
        let n := (d.ptpI p).seqId
        let hops := if d.address = some m then 0
          else ((d.chain.masters.find? fun x => x.1 == d.chain.upstream && x.2.1 == m).elim 0 (·.2.2)) + 1
        let d := d.onPtpI p fun x => { x with seqId := (n + 1) % 65536 }
        ((d.sendPtp p 0 n t1).sendPtp p 8 n t1).sendPtp p 11 m hops

def execSyncInterval (port : Fin 2) (pdelay : Bool) (t1ps : Int) (s : State) : Host.Outcome State Fault Refusal :=
  .next { s with dev := s.dev.syncDue port pdelay t1ps }

/-! ### Launch slots (R489 to R491) -/

def Dev.lslot (d : Dev) (n i : Nat) : Nat := d.parN 0x16 n i

/-- Arming lands: it replaces any arming that the slot holds (R489). -/
def Dev.armSlot (d : Dev) (n target use ep kind ball : Nat) : Dev :=
  d.onSlotI n fun x =>
    { x with state := .armed, target := target, use := use, endpoint := ep, kind := kind, ball := ball,
             scheduled := false, recTarget := target, recDiff := 0 }

/-- A release disarms the slot (R489). -/
def Dev.releaseSlot (d : Dev) (n : Nat) : Dev :=
  d.onSlotI n fun x => { x with state := .idle, scheduled := false, queue := [] }

/-- The trigger letter of a firing; on a link that is down it is not sent, a report names the slot, and the slot is
spent (R135, R136; 05 R140). -/
def Dev.fireTrigger (d : Dev) (n p kind ns : Nat) : Dev × Bool :=
  if (d.linkI (.capture p)).up then
    let c := (d.capI p).triggers.toNat
    ((d.onCapI p fun x => { x with triggers := x.triggers + 1 }).emit (.trigger p kind c), true)
  else (d.report 0x0017 (endpoint 0x16 n) ns [n], false)

/-- The pulse of a pin firing (R489, R493). -/
def Dev.firePin (d : Dev) (n ball : Nat) : Dev :=
  let low := u8 (d.par (pkey 0x16 n 2)) 4 == 1
  (d.emit (.pin ball (!low))).emit (.pin ball low)

/-- LAUNCH_SLOT_FIRE: a scheduled edge is made (R490). `departNs` is the device time of the edge as R490 records it. -/
def Dev.fireSlot (d : Dev) (n : Nat) (depart : Int) : Dev :=
  let x := d.slotI n
  if x.state != .armed || !x.scheduled then d
  else
    let ns := depart.toNat
    let empty := x.use == 2 && x.queue.isEmpty
    let (d, sent) := match x.use with
      | 0 => (d.firePin n x.ball, true)
      | 1 => d.fireTrigger n (x.endpoint % 256) x.kind ns
      | 2 => match x.queue with
        | (code, payload) :: rest =>
          ((d.onSlotI n fun x => { x with queue := rest }).broadcast 4 (leBytes 2 code ++ payload), true)
        | [] => (d, true)
      | _ => (d.audioSlotFired n, true)
    let period := d.lslot n 1
    let d := if sent then
        (d.mark (0x12028 + 4 * (n / 32)) (n % 32)).onSlotI n fun x =>
          { x with state := if period = 0 then .fired else .armed, scheduled := false, recTarget := x.target,
                   recDiff := depart - x.target, firings := capN 32 (x.firings + 1), emptyFire := empty, fired := true,
                   ever := true, target := x.target + period }
      else d.onSlotI n fun x => { x with state := .spent, scheduled := false }
    d.raise (24 + n) ns

def execLaunchSlotFire (slot : Fin 64) (departNs : Int) (s : State) : Host.Outcome State Fault Refusal :=
  .next { s with dev := s.dev.fireSlot slot departNs }

/-- The targets of an armed slot that lie before device time `now` (units of 2^-32 ns): their number. -/
def passedTargets (target period now : Nat) : Nat :=
  if now ≤ target * 2 ^ 32 then 0
  else if period = 0 then 1
  else ceilDiv (now - target * 2 ^ 32) (period * 2 ^ 32)

/-- Rank 7 for one slot: its late policy for passed targets, then its edge is scheduled when its target falls inside
the next tick, which ends at `endT` (units of 2^-32 ns) (R491; 01 R35). -/
def Dev.armRank (d : Dev) (n endT : Nat) : Dev :=
  let x := d.slotI n
  if x.state != .armed || x.scheduled then d
  else
    let period := d.lslot n 1
    let k := passedTargets x.target period d.time.dev
    let fire := d.lslot n 0 == 1
    let d := if k = 0 then d
      else
        let d := (d.reportNow 0x008A (endpoint 0x16 n) [n, k]).raiseNow (24 + n)
        d.onSlotI n fun x =>
          { x with missed := capN 32 (x.missed + k), scheduled := fire,
                   state := if !fire && period == 0 then .spent else .armed,
                   target := if period = 0 then x.target else if fire then x.target + (k - 1) * period
                     else x.target + k * period }
    let x := d.slotI n
    if x.state = .armed && !x.scheduled && x.target * 2 ^ 32 < endT then d.onSlotI n fun x => { x with scheduled := true }
    else d

/-- Rank 7 (01 R35). -/
def Dev.launchRank (d : Dev) (endT : Nat) : Dev := d.each (List.range 64) fun d n => d.armRank n endT

/-! ### Dockets (14 R363) -/

/-- READ_TIME. -/
def Dev.readTime (d : Dev) (k : Docket) (cyc : Nat) : Dev :=
  d.runDocket k [] fun d =>
    let t := d.timeAt cyc % timeWrap
    let ns := t / 2 ^ 32
    d.finish k 0 (leBytes 6 (secOf ns) ++ leBytes 2 d.time.epoch.toNat ++ leBytes 4 (nsOf ns) ++
      leBytes 4 (t % 2 ^ 32) ++ leBytes 8 d.tick.count.toNat)

def execReadTime (k : Docket) (cyc : Nat) (s : State) : Host.Outcome State Fault Refusal :=
  .next { s with dev := s.dev.readTime k cyc }

/-- STEP_TIME: from the host, or under PPS_IN for whole seconds (R478, R482). -/
def Dev.stepTime (d : Dev) (k : Docket) (cyc : Nat) : Dev :=
  d.runDocket k [(8, 15)] fun d =>
    let n := toSigned 64 (u64 k.bytes 8)
    let src := d.timeSource
    if !(src == 2 || (src == 1 && n % 1000000000 == 0)) then d.finish k 0x8801
    else
      let waiting := (d.tick.steps.map (·.1)).foldl (· + ·) 0
      if (d.timeAt cyc : Int) + (waiting + n) * 2 ^ 32 < 0 then d.finish k 0x8803
      else (d.requestStep n (if src = 1 then 2 else 1)).finish k 0

def execStepTime (k : Docket) (cyc : Nat) (s : State) : Host.Outcome State Fault Refusal :=
  .next { s with dev := s.dev.stepTime k cyc }

/-- ADJUST_RATE. -/
def Dev.adjustRate (d : Dev) (k : Docket) : Dev :=
  d.runDocket k [(8, 11)] fun d =>
    let n := toSigned 32 (u32 k.bytes 8)
    if 500000000 < n.natAbs then d.finish k 0x0204
    else if d.timeSource ≠ 2 then d.finish k 0x8801
    else (d.setRate (n * 65536)).finish k 0

def execAdjustRate (k : Docket) (s : State) : Host.Outcome State Fault Refusal :=
  .next { s with dev := s.dev.adjustRate k }

/-- The code of a slot's state (R490). -/
def launchCode : LaunchState → Nat
  | .idle => 0
  | .armed => 1
  | .fired => 2
  | .spent => 3

/-- READ_LAUNCH_RECORD. -/
def Dev.readLaunch (d : Dev) (k : Docket) : Dev :=
  d.runDocket k [(8, 8)] fun d =>
    let n := u8 k.bytes 8
    if 63 < n then d.finish k 0x0203
    else
      let x := d.slotI n
      d.finish k 0 (leBytes 6 (secOf x.recTarget) ++ [0, 0] ++ leBytes 4 (nsOf x.recTarget) ++
        leBytes 4 (ofSigned 32 x.recDiff) ++ leBytes 1 (launchCode x.state))

def execReadLaunchRecord (k : Docket) (s : State) : Host.Outcome State Fault Refusal :=
  .next { s with dev := s.dev.readLaunch k }

/-! ### Registers (R494) -/

/-- TIME_NS_READ latches the other three time registers. -/
def Dev.timeNsRead (d : Dev) (cyc : Nat) : Dev :=
  let t := d.timeAt cyc % timeWrap
  let ns := t / 2 ^ 32
  (d.onTime fun x =>
    { x with secLo := BitVec.ofNat 32 (secOf ns), fracL := BitVec.ofNat 32 t,
             secHi := BitVec.ofNat 32 (packWord [(0, secOf ns / 2 ^ 32 % 65536), (16, x.epoch.toNat)])
    }).emit (.readData (nsOf ns))

def execTimeNsRead (cyc : Nat) (s : State) : Host.Outcome State Fault Refusal :=
  .next { s with dev := s.dev.timeNsRead cyc }

end Sys2Proof.Machine
end

