-- ==== Sys2Proof/Machine/Chain.lean ====
section
/-!
DEFINITION. The Choly chain: hellos and the chain map, courier frames and their forwarding, ring failover, forwarded
dockets at their destination and their receipts, broadcasts, echoes and proxy streams (21 R497 to R518).
-/
namespace Sys2Proof.Machine

/-! ### The chain map (R497, R498, R502, R516) -/

def chainEp (p : Nat) : Nat := endpoint 0x13 p

/-- The map entry of an address changes; a change of presence or route raises event 300. -/
def Dev.onEntry (d : Dev) (a : Nat) (f : ChainEntry → ChainEntry) (ns : Nat) : Dev :=
  let was := d.mapEntry a
  let now := f was
  let d := d.onChain fun c => { c with map := upd c.map a fun _ => now }
  if was.present = now.present ∧ was.port = now.port ∧ was.hops = now.hops ∧ was.other = now.other then d
  else d.raise 300 ns

/-- The addresses present other than this device's. -/
def Dev.others (d : Dev) : List Nat := (List.range 256).filter fun a => (d.mapEntry a).present && d.address != some a

/-- Topology: 0 none, 1 chain, 2 ring, 3 ring broken (R516). -/
def Dev.topology (d : Dev) : Nat :=
  let o := d.others
  if o.isEmpty then 0
  else if o.all fun a => (d.mapEntry a).h0 < 255 && (d.mapEntry a).h1 < 255 then 2
  else if d.chain.broken then 3 else 1

/-- The topology is held against the expected one: a mismatch files one report when it begins (R514). A broken ring
counts as a ring. -/
def Dev.checkTopology (d : Dev) (ns : Nat) : Dev :=
  let t := d.topology
  let d := if t = 2 then d.onChain fun c => { c with broken := false } else d
  let bad := t != 0 && decide ((if t = 3 then 2 else t) ≠ d.parN 0x13 0 3)
  let new := bad && !d.chain.mismatch
  let d := d.onChain fun c => { c with mismatch := bad }
  if new then d.report 0x0093 (chainEp 0) ns [t] else d

/-- HELLO_TIMER: a locked device's hello (R498): its address, TIME source code and servo state. -/
def Dev.sendHello (d : Dev) : Dev :=
  d.broadcast 6 (leBytes 1 d.addressByte ++ leBytes 1 d.timeSource ++ leBytes 1 (servoCode d.time.servo))

def execHelloTimer (s : State) : Host.Outcome State Fault Refusal :=
  .next { s with dev := s.dev.sendHello }

/-- HELLO: the map follows; another device's hello with this device's own address is a conflict (R498). -/
def Dev.hello (d : Dev) (p addr hops source servo cyc : Nat) : Dev :=
  let ns := d.nsAt cyc
  let a := addr % 256
  if !d.chainUp p then d
  else if d.address = some a then
    let new := !d.chain.conflict
    let d := ((d.onChain fun c => { c with conflict := true }).mark 0x13000 3).onEntry a (fun e => { e with conflict := true }) ns
    if new then (d.report 0x0090 (chainEp p) ns [a]).raise 301 ns else d
  else
    let d := d.onEntry a (fun e =>
      { e with present := true, tick := d.tick.count.toNat, source := source, servo := servo,
               h0 := if p = 0 then hops else e.h0, h1 := if p = 1 then hops else e.h1 }) ns
    let d := if hops ≤ 1 then d.onCportI p fun x => { x with neighbour := BitVec.ofNat 8 a, nbValid := true } else d
    (d.checkTopology ns).followMaster

def execHello (port : Fin 2) (addr hops source servo cyc : Nat) (s : State) : Host.Outcome State Fault Refusal :=
  .next { s with dev := s.dev.hello port addr hops source servo cyc }

/-- ADDRESS_ABSENT: not heard for 3 ms (R498). -/
def Dev.addressGone (d : Dev) (a cyc : Nat) : Dev :=
  if d.address = some a then d
  else ((d.onEntry a (fun _ => ChainEntry.absent) (d.nsAt cyc)).checkTopology (d.nsAt cyc)).followMaster

def execAddressAbsent (addr : Fin 256) (cyc : Nat) (s : State) : Host.Outcome State Fault Refusal :=
  .next { s with dev := s.dev.addressGone addr cyc }

/-! ### Proxy streams (R512) -/

/-- The slot of a proxy's source ring, and the ring. -/
def Dev.proxySlot (d : Dev) (x : Proxy) : Option (Nat × Nat) :=
  let ring := if x.src / 256 = 0x08 then some (x.src % 256) else if x.src / 256 = 0x0B then some (ringEnc + x.src % 256)
    else none
  ring.bind fun r => ((d.ringI r).slotOf (chainEp x.port)).map fun k => (r, k)

/-- A proxy stream whose route loses a link stops: its source slot releases every buffer, and a report names it. -/
def Dev.stopProxy (d : Dev) (x : Proxy) (ns : Nat) : Dev :=
  if x.stopped then d
  else
    let d := d.onChain fun c =>
      { c with proxies := c.proxies.map fun y => if y.race == x.race then { y with stopped := true } else y }
    let d := match d.proxySlot x with
      | some (r, k) =>
        d.each (((d.ringI r).bufs.filter fun (b : Buf) => b.st == BufState.full && b.marks.contains k && !b.pend.contains k).map fun (b : Buf) => b.order)
          fun d o => d.queueRelease r k o false
      | none => d
    d.report 0x0092 (chainEp x.port) ns [x.race]

/-- The proxies sent or received through port `p`. -/
def Dev.stopProxies (d : Dev) (p ns : Nat) : Dev :=
  d.each (d.chain.proxies.filter fun x => x.port == p) fun d x => d.stopProxy x ns

/-- The full buffers of each proxy source leave as frames of its class, 512 bytes each, and are released at rank 8. -/
def Dev.proxyRun (fuel : Nat) (d : Dev) (x : Proxy) : Dev :=
  match fuel, d.proxySlot x with
  | fuel + 1, some (r, k) =>
    match d.takeFrom r k false with
    | (none, d) => d
    | (some b, d) =>
      let bytes := d.memRead b.desc.pool b.desc.hdrOff 64 ++ b.spans.flatMap fun s =>
        if s.1 == b.desc.hdrOff then [] else d.memRead b.desc.pool s.1 s.2
      let d := d.each (chunks 512 (bytes.length + 1) bytes) fun d part =>
        let (seq, d) := d.takeSeq (8 + x.num)
        d.putFrame x.port (8 + x.num) false false d.addressByte 0 255 seq part
      proxyRun fuel (d.queueRelease r k b.order false) x
  | _, _ => d

/-- Every proxy of this device whose route stands sends what is full. -/
def Dev.proxiesRun (d : Dev) : Dev :=
  d.each (d.chain.proxies.filter fun x => !x.stopped && !d.isShed x.race && x.dst / 256 == 0x13 && d.mayOriginate && d.chainUp x.port)
    fun d x => Dev.proxyRun 17 d x

/-- PROXY_FRAME: a frame of a proxy stream is written into its destination pool. -/
def Dev.proxyFrame (d : Dev) (stream offset : Nat) (data : List Byte) : Dev :=
  match d.chain.proxies.find? fun x => x.num == stream && !x.stopped && x.dst / 256 == 0x0F with
  | some x => d.memWrite (x.dst % 256) offset data
  | none => d

def execProxyFrame (stream offset : Nat) (data : List Byte) (_last : Bool) (s : State) :
    Host.Outcome State Fault Refusal :=
  .next { s with dev := s.dev.proxyFrame stream offset data }

/-! ### Failover (R506, R507) -/

/-- Hops by port `q` of an entry. -/
def entryHops (e : ChainEntry) (q : Nat) : Nat := if q = 0 then e.h0 else e.h1

def dropHops (e : ChainEntry) (q : Nat) : ChainEntry :=
  let e := if q = 0 then { e with h0 := 255 } else { e with h1 := 255 }
  if e.h0 = 255 ∧ e.h1 = 255 then ChainEntry.absent else e

/-- A link end's reroute: every address reached through port `p` is reached by the other, or is absent; the ring is
broken, and FAILOVERS rises (R506). -/
def Dev.rerouteFrom (d : Dev) (p ns : Nat) (lost : ChainEntry → Bool) : Dev :=
  let ring := d.topology == 2 || d.chain.broken
  let d := d.each d.others fun d a => if lost (d.mapEntry a) then d.onEntry a (fun e => dropHops e p) ns else d
  (d.onChain fun c => { c with broken := ring, failovers := bump c.failovers }).checkTopology ns

/-- A chain port's link goes down at rank 4 (R506, R507, R512). -/
def Dev.chainDown (d : Dev) (p ns : Nat) : Dev :=
  let near := (d.cportI p).neighbour.toNat
  let d := d.raise (298 + p) ns
  let d := d.rerouteFrom p ns fun e => entryHops e p != 255
  let d := d.onCportI p fun x => { x with nbValid := false }
  let d := d.onChain fun c => { c with masters := c.masters.filter fun m => m.1 != p }
  let q := 1 - p
  let d := d.broadcast 6 (leBytes 1 d.addressByte ++ leBytes 1 near)
  let again := d.chain.sent.filter fun f => f.port == p && decide (d.upNs 0 ≤ f.sent + 50000)
  let d := if d.chainUp q then d.each again fun d f =>
      (d.putFrame q f.cls f.bcast true f.src f.dst 255 f.seq f.data).onCportI q fun x =>
        { x with resent := bump x.resent }
    else d
  (d.stopProxies p ns).followMaster

/-- A chain port's link comes up: hellos at once (R506). -/
def Dev.chainCameUp (d : Dev) (p ns : Nat) : Dev := (d.raise (298 + p) ns).sendHello

/-- RING_BREAK: the addresses reached through the failed link by a port are reached by the other (R506). They are
those beyond the nearer of the two ends by that port. -/
def Dev.ringBreak (d : Dev) (endA endB cyc : Nat) : Dev :=
  let ns := d.nsAt cyc
  let d := d.raise 303 ns
  let d := d.each [0, 1] fun d q =>
    let near := min (entryHops (d.mapEntry (endA % 256)) q) (entryHops (d.mapEntry (endB % 256)) q)
    if near = 255 then d
    else d.each d.others fun d a =>
      let h := entryHops (d.mapEntry a) q
      if near < h ∧ h < 255 then d.onEntry a (fun e => dropHops e q) ns else d
  let ring := true
  ((d.onChain fun c => { c with broken := ring, failovers := bump c.failovers }).checkTopology ns).followMaster

def execRingBreak (_port : Fin 2) (endA endB cyc : Nat) (s : State) : Host.Outcome State Fault Refusal :=
  .next { s with dev := s.dev.ringBreak endA endB cyc }

/-! ### Courier frames (R499 to R502) -/

/-- The largest payload of a class (R500). -/
def courierMax (cls : Nat) : Nat := match cls with
  | 0 | 5 => 64
  | 1 => 256
  | 2 | 3 => 96
  | 4 => 32
  | 6 | 7 => 16
  | _ => 512

/-- A frame goes on from the other port, with one hop less. -/
def Dev.passOn (d : Dev) (f : Courier) : Dev :=
  let q := 1 - f.port.val
  if d.chainUp q then
    if f.crcOk then d.putFrame q f.cls f.bcast f.resent f.src f.dst (f.hops - 1) f.seq f.payload
    else d.emit (.courierAbort q)
  else d

/-- A frame of the list taken within the last millisecond. -/
def recently (l : List (Nat × Nat × Nat × Nat)) (f : Courier) (now : Nat) : Bool :=
  l.any fun x => x.1 == f.src && x.2.1 == f.cls && x.2.2.1 == f.seq && decide (now ≤ x.2.2.2 + 1000000)

/-- COURIER_FRAME: taken, forwarded or discarded (R500, R501, R506). What a frame taken says comes as the command of
its own class: notes/assumptions/30.md. -/
def Dev.courier (d : Dev) (f : Courier) (cyc : Nat) : Dev :=
  let p := f.port.val
  let now := d.upNs cyc
  let bad := fun (d : Dev) => d.onCportI p fun x => { x with framesBad := bump x.framesBad }
  let mine := d.mayOriginate && d.address == some f.dst
  let dup := fun (d : Dev) => d.onChain fun c => { c with duplicates := bump c.duplicates }
  let prune := fun (l : List (Nat × Nat × Nat × Nat)) => l.filter fun x => decide (now ≤ x.2.2.2 + 1000000)
  if !d.chainUp p then d
  else if 12 ≤ f.cls ∨ courierMax f.cls < f.payload.length then bad d
  else if f.hops = 0 then d.onCportI p fun x => { x with hopsExp := bump x.hopsExp }
  else if f.bcast then
    if d.address = some f.src && !d.chain.conflict then d
    else if recently d.chain.seen f now then dup d
    else if !f.crcOk then bad (d.passOn f)
    else
      (d.onChain fun c => { c with seen := prune c.seen ++ [(f.src, f.cls, f.seq, now)] }).passOn f
  else if mine then
    if !f.crcOk then bad d
    else if f.resent && recently d.chain.taken f now then dup d
    else d.onChain fun c => { c with taken := prune c.taken ++ [(f.src, f.cls, f.seq, now)] }
  else if !f.crcOk then bad (d.passOn f)
  else d.passOn f

def execCourierFrame (f : Courier) (cyc : Nat) (s : State) : Host.Outcome State Fault Refusal :=
  .next { s with dev := s.dev.courier f cyc }

/-! ### Forwarded dockets (R508, R509) -/

/-- A docket of the chain queue with an unknown opcode is refused when it would begin (13 R332). -/
def refuseChain (fuel : Nat) (d : Dev) : Dev :=
  match fuel with
  | 0 => d
  | fuel + 1 =>
    match takeFirst (fun (c : ChainDocket) => !c.begun) d.chain.queue with
    | some (c, _) =>
      let k : Docket := ⟨chainSq, c.src * 65536 + c.seq, c.bytes⟩
      if !knownOpcode (dkOp k) && d.canBegin k then
        let d := d.begin k
        refuseChain fuel (if d.forwards k then d.forwardDocket k else d.finish k 0x0201)
      else d
    | none => d

/-- FORWARDED_DOCKET: it joins the chain queue, or waits for room in it; one source and sequence runs once. -/
def Dev.forwardedIn (d : Dev) (src seq : Nat) (bytes : List Byte) : Dev :=
  if !d.mayOriginate || d.chain.ran.contains (src, seq) then d
  else
    let x : ChainDocket := ⟨src, seq, padTo 64 bytes, false⟩
    let d := d.onChain fun c =>
      let ran := (c.ran.filter fun r => r.1 != src || decide ((seq + 65536 - r.2 % 65536) % 65536 < 32768)) ++ [(src, seq)]
      if c.queue.length < 64 then { c with ran := ran, queue := c.queue ++ [x] }
      else { c with ran := ran, credit := c.credit ++ [x] }
    refuseChain 64 d

def execForwardedDocket (src seq : Nat) (bytes : List Byte) (s : State) : Host.Outcome State Fault Refusal :=
  .next { s with dev := s.dev.forwardedIn src seq bytes }

/-- FORWARDED_RECEIPT: written to the submitting queue's completion queue with flag [3] and the destination's status;
one that comes too late is counted. A seal's first receipt is followed by its final one (R508, R509). -/
def Dev.receiptIn (d : Dev) (src seq : Nat) (r : List Byte) : Dev :=
  match d.chain.fwd.find? fun x => x.seq == seq && u8 x.dk.bytes 4 == src with
  | some x =>
    let status := u16 r 0
    let final := bit (u8 r 7) 4
    let last := !(dkOp x.dk == 0x24 && status == 0 && !final)
    let d := if last then d.onChain fun c => { c with fwd := c.fwd.filter fun y => y.seq != seq } else d
    d.answer ⟨x.dk, status, (padTo 32 r).drop 8, last, final, 1, true, true⟩
  | none => d.onChain fun c => { c with lateRcpt := bump c.lateRcpt }

def execForwardedReceipt (src seq : Nat) (receipt : List Byte) (s : State) : Host.Outcome State Fault Refusal :=
  .next { s with dev := s.dev.receiptIn src seq receipt }

/-- FORWARD_TIMEOUT: status 0x0603 with reason 4, and a dead-letter entry of cause 4 (R509). -/
def Dev.forwardTimeout (d : Dev) (seq : Nat) : Dev :=
  match d.chain.fwd.find? fun x => x.seq == seq with
  | some x =>
    (d.onChain fun c => { c with fwd := c.fwd.filter fun y => y.seq != seq }).answer
      ⟨x.dk, 0x0603, [4], true, false, 4, true, false⟩
  | none => d

def execForwardTimeout (seq : Nat) (s : State) : Host.Outcome State Fault Refusal :=
  .next { s with dev := s.dev.forwardTimeout seq }

/-! ### Broadcasts, reports and echoes (R511, R513; 14 R363) -/

/-- EVENT_BROADCAST: the chain event source rises, and the broadcast is recorded with its stamp (R511; 22 R527). -/
def Dev.broadcastIn (d : Dev) (src code : Nat) (payload : List Byte) (cyc : Nat) : Dev :=
  let ns := d.nsAt cyc
  (d.onChain fun c =>
    { c with bcasts := lastN 16 (c.bcasts ++ [(src, d.time.epoch.toNat, code, ns, padTo 16 payload)]) }).raise 302 ns

def execEventBroadcast (src code : Nat) (payload : List Byte) (cyc : Nat) (s : State) :
    Host.Outcome State Fault Refusal :=
  .next { s with dev := s.dev.broadcastIn src code payload cyc }

/-- REMOTE_FAULT_REPORT: the collector holds it until its stamp plus B (23 R534). -/
def Dev.remoteReport (d : Dev) (r : RemoteReport) : Dev :=
  if d.mayOriginate then d.onChain fun c => { c with remote := c.remote ++ [r] } else d

def execRemoteFaultReport (src cls stampNs epoch endpoint : Nat) (detail : List Byte) (cyc : Nat) (s : State) :
    Host.Outcome State Fault Refusal :=
  .next { s with dev := s.dev.remoteReport ⟨src, cls, stampNs, epoch, endpoint, detail, s.dev.nsAt cyc⟩ }

/-- CHAIN_ECHO: a class 7 frame to an address; its reply, or a millisecond without one, ends the docket. -/
def Dev.chainEchoDocket (d : Dev) (k : Docket) : Dev :=
  d.runDocket k [(8, 8)] fun d =>
    let seq := d.chain.seqs.getD 7 0
    let d := d.sendTo 7 (u8 k.bytes 8) (leBytes 2 seq ++ [0])
    d.onChain fun c => { c with echoes := c.echoes ++ [(seq, k, d.upNs 0)] }

def execChainEcho (k : Docket) (s : State) : Host.Outcome State Fault Refusal :=
  .next { s with dev := s.dev.chainEchoDocket k }

/-- ECHO: a request is answered; a reply ends its docket with the round trip. -/
def Dev.echoIn (d : Dev) (src seq : Nat) (reply : Bool) (elapsed : Nat) : Dev :=
  if !reply then d.sendTo 7 src (leBytes 2 seq ++ [1])
  else match d.chain.echoes.find? fun e => e.1 == seq && u8 e.2.1.bytes 8 == src with
    | some (_, k, _) =>
      let d := d.onChain fun c => { c with echoes := c.echoes.filter fun e => e.1 != seq }
      if elapsed ≤ 1000000 then d.finish k 0 (leBytes 4 elapsed) else d.finish k 0x8802
    | none => d

def execEcho (src seq : Nat) (reply : Bool) (elapsedNs : Nat) (s : State) : Host.Outcome State Fault Refusal :=
  .next { s with dev := s.dev.echoIn src seq reply elapsedNs }

/-- Echoes without an answer within 1 ms end with 0x8802. -/
def Dev.expireEchoes (d : Dev) : Dev :=
  let late := d.chain.echoes.filter fun e => decide (e.2.2 + 1000000 < d.upNs 0)
  let d := d.onChain fun c => { c with echoes := c.echoes.filter fun e => decide (d.upNs 0 ≤ e.2.2 + 1000000) }
  d.each late fun d e => d.finish e.2.1 0x8802

/-- The 4,096 bytes of the chain map (R515). -/
def Dev.chainMapBytes (d : Dev) : List Byte :=
  (List.range 256).flatMap fun a =>
    let e := d.mapEntry a
    let own := d.address == some a
    leBytes 1 (packWord [(0, (e.present || own).toNat), (1, own.toNat), (2, (d.timeMaster == some a).toNat),
      (3, e.conflict.toNat)]) ++
    leBytes 1 (if own then 0xFF else e.port) ++ leBytes 1 (if own then 0 else e.hops) ++
    leBytes 1 (if own then 0xFF else e.other) ++ leBytes 4 e.tick ++
    leBytes 1 (if own then d.timeSource else e.source) ++
    leBytes 1 (if own then servoCode d.time.servo else e.servo) ++ List.replicate 6 0

/-- CHAIN_MAP (14 R363, R515). -/
def Dev.chainMapDocket (d : Dev) (k : Docket) : Dev :=
  d.runDocket k [(8, 19)] fun d =>
    if u64 k.bytes 8 % 4 ≠ 0 then d.finish k 0x0205
    else if u32 k.bytes 16 < 4096 then d.finish k 0x0204
    else (d.hostWrite (u64 k.bytes 8) d.chainMapBytes).finish k 0 (leBytes 4 4096)

def execChainMap (k : Docket) (s : State) : Host.Outcome State Fault Refusal :=
  .next { s with dev := s.dev.chainMapDocket k }

/-- CHAIN_ADDRESS_LOCK: gated by presence; it takes effect at rank 9 (R497; 14 R364). -/
def Dev.lockDocket (d : Dev) (k : Docket) : Dev :=
  d.gated k [(8, 8)] fun d =>
    let a := u8 k.bytes 8
    if (d.mapEntry a).present && d.address != some a then d.finish k 0x8E03
    else (d.onTick fun t => { t with act9 := t.act9 ++ [.lockAddress k a] })

def execChainAddressLock (k : Docket) (s : State) : Host.Outcome State Fault Refusal :=
  .next { s with dev := s.dev.lockDocket k }

/-- The address locks at rank 9: the map shows it, and a conflict of the old one is over (R497, R498). -/
def Dev.lockAddress (d : Dev) (k : Docket) (a : Nat) : Dev :=
  let d := match d.address with
    | some old => d.onEntry old (fun _ => ChainEntry.absent) d.nowNs
    | none => d
  let changed := d.address != some a
  let d := d.onHealth fun h => { h with chainAddr := some a }
  let d := d.onChain fun c => { c with conflict := c.conflict && !changed }
  let d := d.onEntry a (fun _ => { ChainEntry.absent with present := true, tick := d.tick.count.toNat }) d.nowNs
  (d.finish k 0).followMaster

end Sys2Proof.Machine
end

