-- ==== Sys2Proof/Machine/Events.lean ====
section
/-!
DEFINITION. Interrupt moderation (13 R334), event sources and targets, claims, wakes, and the device's power states
as the host sees them (22 R519 to R530; 13 R320).
-/
namespace Sys2Proof.Machine

/-! ### Settings (R521, R527) -/

/-- The key of a per-source parameter (R527). -/
def evtKey (src i : Nat) : Nat := if src < 256 then pkey 0x14 src i else pkey 0x17 (src - 256) i

def Dev.srcPrio (d : Dev) (src : Nat) : Nat := leNat (d.par (evtKey src 0))
def Dev.srcMask (d : Dev) (src : Nat) : Nat := leNat (d.par (evtKey src 1))
def Dev.srcWake (d : Dev) (src : Nat) : Bool := leNat (d.par (evtKey src 2)) == 1

def Dev.tgtPar (d : Dev) (t : Nat) : List Byte := d.par (pkey 0x14 0 (0x8000 + t))
def Dev.tgtThreshold (d : Dev) (t : Nat) : Nat := u8 (d.tgtPar t) 0
def Dev.tgtVector (d : Dev) (t : Nat) : Nat := u8 (d.tgtPar t) 1
def Dev.tgtMasked (d : Dev) (t : Nat) : Bool := u8 (d.tgtPar t) 2 == 1
def Dev.tgtParked (d : Dev) (t : Nat) : Bool := u8 (d.tgtPar t) 3 == 1

def Dev.srcI (d : Dev) (n : Nat) : Source := d.evt.sources.getD n Source.reset
def Dev.onSrcI (d : Dev) (n : Nat) (f : Source → Source) : Dev :=
  d.onEvt fun e => { e with sources := upd e.sources n f }
def Dev.tgtI (d : Dev) (n : Nat) : Target := d.evt.targets.getD n Target.reset
def Dev.onTgtI (d : Dev) (n : Nat) (f : Target → Target) : Dev :=
  d.onEvt fun e => { e with targets := upd e.targets n f }

/-- A source is eligible at a target (R521). -/
def Dev.eligible (d : Dev) (t src : Nat) : Bool :=
  (d.srcI src).pending && bit (d.srcMask src) t && decide (d.tgtThreshold t < d.srcPrio src)

/-- The sources eligible at a target, ascending. -/
def Dev.eligibles (d : Dev) (t : Nat) : List Nat := which 320 (d.eligible t)

/-! ### Completion-queue messages (13 R334) -/

/-- The condition of a completion queue's message over the pending receipts `rs`. -/
def Dev.momentDue (d : Dev) (q : CompQ) (rs : List Receipt) : Bool :=
  !rs.isEmpty &&
    (decide (q.count ≤ rs.length) || rs.any (fun r => r.irqNow || r.froze) ||
      (rs.head?.elim false fun r => decide (1000 * q.timeUs ≤ 8 * (d.tick.tclk - r.made))))

/-- Rank 10, the messages of armed completion queues; asleep, held receipts that meet their thresholds raise
source 10 once in each stay (R334; 22 R526). -/
def Dev.moderate (d : Dev) : Dev :=
  if d.host.power = .d0 then
    d.each (List.range 64) fun d n =>
      let q := d.cqI n
      if q.enabled && q.armed && d.momentDue q q.pend then
        (d.onCqI n fun q => { q with armed := false, pend := [] }).message q.vector
      else d
  else
    let held := fun n => d.host.heldRcpt.countP fun x => x.1 == n
    if !d.host.heldRaised &&
        (List.range 64).any fun n => d.momentDue (d.cqI n) (lastN (held n) (d.cqI n).pend)
    then (d.onHost fun h => { h with heldRaised := true }).raiseNow 10
    else d

/-! ### Raises and messages (R520, R522, R524) -/

/-- A raise is taken at rank 10 (R520). -/
def Dev.takeRaise (d : Dev) (src stampNs epoch : Nat) : Dev :=
  let sets := decide (1 ≤ d.srcPrio src) && decide (d.srcMask src ≠ 0)
  d.onSrcI src fun x =>
    { pending := x.pending || sets, raises := bump x.raises, stampNs := stampNs, epoch := epoch }

/-- Target `t` at rank 10 in D0: its message, or a parked target's wake (R522, R524). -/
def Dev.offer (d : Dev) (t : Nat) : Dev :=
  let el := d.eligibles t
  let x := d.tgtI t
  if el.isEmpty then d
  else if d.tgtParked t then
    if !x.wakeSent && el.any d.srcWake then
      ((d.onTgtI t fun _ => ⟨true, true, false⟩).onEvt fun e => { e with wakes := bump e.wakes }).message (d.tgtVector t)
    else d
  else if d.tgtMasked t || x.sent then d
  else (d.onTgtI t fun x => { x with sent := true, brought := false }).message (d.tgtVector t)

/-- The wake of a device asleep: every target counts as parked (R524). -/
def Dev.sleepWake (d : Dev) : Dev :=
  if !d.host.d3Wake && (List.range 16).any fun t => (d.eligibles t).any d.srcWake then
    let d := (d.onHost fun h => { h with d3Wake := true }).onEvt fun e =>
      { e with wakes := bump e.wakes, targets := e.targets.map fun x => { x with wakeSent := true } }
    d.emit (if d.host.power = .d3hot then .pme else .wakeN)
  else d

/-- Rank 10 (01 R35): completion-queue messages, then the raises of the tick, then the targets in order. -/
def Dev.eventRank (d : Dev) : Dev :=
  let d := d.moderate
  let list := d.evt.raised
  let d := d.onEvt fun e => { e with raised := [] }
  let d := d.each list fun d (src, ns, ep) => d.takeRaise src ns ep
  if d.host.power = .d0 then d.each (List.range 16) Dev.offer else d.sleepWake

/-- An event parameter lands (R520, R524, R525). -/
def Dev.landEvt (d : Dev) (k : Nat) (v : List Byte) : Dev :=
  let i := keyIdx k
  if 0x8000 ≤ i then
    if u8 v 3 = 0 then d.onTgtI (i - 0x8000) fun x => { x with wakeSent := false } else d
  else if i < 2 ∧ leNat v = 0 then
    d.onSrcI (keyInst k + (if keyBlock k = 0x17 then 256 else 0)) fun x => { x with pending := false }
  else d

/-! ### Claims (R523) -/

/-- The eligible source with the highest priority, and among equals the highest number. -/
def Dev.bestSource (d : Dev) (t : Nat) : Option Nat :=
  (d.eligibles t).foldl (fun (m : Option Nat) s => match m with
    | some b => if d.srcPrio b ≤ d.srcPrio s then some s else m
    | none => some s) none

/-- EVT_CLAIM_READ (R523). -/
def Dev.claim (d : Dev) (t : Nat) : Dev :=
  match d.bestSource t with
  | some s =>
    ((d.onSrcI s fun x => { x with pending := false }).onTgtI t fun x => { x with brought := true }).emit (.readData s)
  | none =>
    let x := d.tgtI t
    let d := if x.sent && !x.brought then d.onEvt fun e => { e with spurious := bump e.spurious } else d
    (d.onTgtI t fun x => { x with sent := false }).emit (.readData 0x3FF)

def execEvtClaimRead (target : Fin 16) (s : State) : Host.Outcome State Fault Refusal :=
  .next { s with dev := s.dev.claim target }

/-- MSIX_PENDING_SEND: a pending bit is sent once nothing masks it (13 R334). -/
def Dev.sendPending (d : Dev) (v : Nat) : Dev :=
  if d.host.pba.getD v false && d.host.power = .d0 && d.host.msixOn && !d.host.funcMask && !(d.msixVec v).masked then
    (d.onHost fun h => { h with pba := h.pba.set v false }).emit (.msix v)
  else d

def execMsixPendingSend (vector : Fin 64) (s : State) : Host.Outcome State Fault Refusal :=
  .next { s with dev := s.dev.sendPending vector }

/-! ### Sleep (13 R320; 22 R524, R526) -/

/-- D3_ENTRY: fetch stops and receipts are held from now on. -/
def Dev.sleep (d : Dev) (cold : Bool) : Dev :=
  let fresh := d.host.power == .d0
  d.onHost fun h =>
    { h with power := if cold then .d3cold else .d3hot,
             heldRaised := if fresh then false else h.heldRaised, d3Wake := if fresh then false else h.d3Wake }

def execD3Entry (cold : Bool) (s : State) : Host.Outcome State Fault Refusal :=
  .next { s with dev := s.dev.sleep cold }

/-- A held receipt is written on the return to D0; it is pending already. -/
def Dev.writeHeld (d : Dev) (cq : Nat) (bytes : List Byte) : Dev :=
  let q := d.cqI cq
  if q.enabled then
    let phased := putBytes bytes 7 [bytes.getD 7 0 ||| (if q.phase then 1 else 0)]
    let tail := if q.entries ≤ q.tail + 1 then 0 else q.tail + 1
    (d.hostWrite (q.base.toNat + 32 * q.tail) phased).onCqI cq fun q =>
      { q with tail := tail, phase := if tail = 0 then !q.phase else q.phase }
  else d

/-- D0_RETURN: held receipts are written in the order they were made; WAKE_SENT clears; after WAKE_N a PME is sent. -/
def Dev.wakeUp (d : Dev) : Dev :=
  let held := d.host.heldRcpt
  let data := d.host.heldWr
  let late := d.host.power == .d3cold && d.host.d3Wake
  let asleep := d.host.power != .d0
  let d := d.onHost fun h => { h with power := .d0, heldRcpt := [], heldWr := [], heldRaised := false, d3Wake := false }
  let d := d.each data fun d (a, b) => d.hostWrite a b
  let d := d.each held fun d (cq, b) => d.writeHeld cq b
  let d := if asleep then
      d.onEvt fun e => { e with targets := e.targets.map fun x => { x with wakeSent := false } } else d
  if late then d.emit .pme else d

def execD0Return (s : State) : Host.Outcome State Fault Refusal :=
  .next { s with dev := s.dev.wakeUp }

end Sys2Proof.Machine
end

