-- ==== Sys2Proof/Machine/Health.lean ====
section
/-!
DEFINITION. The fault ledger, trips, memory errors, clerk failover, calibration-data resets, availability and the
health record (23 R531 to R546; 14 R363, R364).
-/
namespace Sys2Proof.Machine

/-! ### The ledger (R531, R533, R534) -/

/-- The event source whose cause a report shares, which orders reports of one stamp (R533): notes/assumptions/31.md. -/
def reportSource (r : Report) : Nat :=
  let n := r.endpoint % 256
  match r.endpoint / 256 with
  | 0x02 => 5
  | 0x03 => 282 + n / 4
  | 0x05 => 96 + 4 * n + (if r.cls = 0x1A then 0 else if r.cls = 0x16 then 1 else 3)
  | 0x0A => 192 + n / 4
  | 0x0B => 200 + n
  | 0x0C => 232 + n
  | 0x0D => 234 + n
  | 0x0E => 14
  | 0x0F => 15
  | 0x10 => 245 + 2 * n
  | 0x11 => if n < 28 then 252 + n else 280 + (n - 28)
  | 0x12 => 18
  | 0x13 => 298 + n
  | 0x15 => 8
  | 0x16 => 24 + n
  | _ => 0

/-- Classes whose reports count against availability: notes/assumptions/31.md. -/
def countsAgainst (cls : Nat) : Bool := [0x20, 0x21, 0x42, 0xA1].contains cls

/-- The detail of a report, 16 bytes: its numbers, 4 bytes each (notes/assumptions/31.md). -/
def detailBytes (l : List Nat) : List Byte := padTo 16 (l.flatMap (leBytes 4))

/-- Reports of one class that belong together: one group when they make a storm, else one each (R533). -/
def stormGroups {α : Type} (key : α → Nat) (l : List α) : List (List α) :=
  ((l.map key).eraseDups).flatMap fun c =>
    let g := l.filter fun r => key r == c
    if 16 < g.length then [g] else g.map fun r => [r]

/-- The entry of a group of reports of the tick `tick`, its earliest first. -/
def groupEntry (tick : Nat) (g : List Report) : Option LedgerEntry :=
  g.head?.map fun r =>
    { cls := r.cls, stampNs := r.stampNs, epoch := r.epoch, storm := decide (1 < g.length), fromChain := false,
      extended := false, avail := countsAgainst r.cls, addr := 0xFF, count := g.length, endpoint := r.endpoint,
      firstTick := tick, lastTick := tick, detail := detailBytes r.detail }

/-- A storm entry of the tick just before, which a new storm of its class extends (R533). -/
def prolongs (e new : LedgerEntry) : Bool :=
  e.storm && e.cls == new.cls && e.fromChain == new.fromChain && e.lastTick + 1 == new.firstTick

/-- An entry is made, extends a storm, or is discarded by a full ledger (R531, R533). -/
def State.enter (s : State) (new : LedgerEntry) : State :=
  if new.storm && s.ledger.entries.any (fun e => prolongs e new) then
    let grow := fun (e : LedgerEntry) =>
      if prolongs e new then { e with count := e.count + new.count, lastTick := new.lastTick, extended := true } else e
    { s with ledger := { s.ledger with entries := s.ledger.entries.map grow } }
  else
    let dev := if new.storm then (s.dev.onTick fun t => { t with storm := true }).raiseNow 1 else s.dev
    if s.ledger.entries.length < 1024 then
      { s with ledger := { s.ledger with entries := s.ledger.entries ++ [new] }, dev := dev.raiseNow 0 }
    else { s with ledger := { s.ledger with lost := bump s.ledger.lost }, dev := dev }

/-- A report sent to the fault collector as a class 5 frame: stamp, epoch, class, endpoint, detail
(R534; 21 R513; layout: notes/assumptions/31.md). -/
def Dev.sendReport (d : Dev) (r : Report) : Dev :=
  let dest := d.parN 0x13 0 2
  if dest < 256 ∧ d.address ≠ some dest then
    d.sendTo 5 dest (leBytes 4 (nsOf r.stampNs) ++ leBytes 6 (secOf r.stampNs) ++ leBytes 1 r.epoch ++ [0] ++
      leBytes 2 r.cls ++ leBytes 2 r.endpoint ++ detailBytes r.detail)
  else d

/-- The end of the tick in which a stamp falls, ns. -/
def tickEnd (period stampNs : Nat) : Nat := (stampNs / period + 1) * period

/-- The tick count of the tick of a remote stamp, reckoned back from the close that is running (01 R30). -/
def State.tickOf (s : State) (stampNs : Nat) : Nat :=
  let p := max 1 s.periodNs.toNat
  s.dev.tick.count.toNat - ((s.dev.nowNs - 1) / p - stampNs / p)

/-- The entry of a group of remote reports. -/
def State.remoteEntry (s : State) (g : List RemoteReport) : Option LedgerEntry :=
  g.head?.map fun r =>
    let t := s.tickOf r.stampNs
    { cls := r.cls, stampNs := r.stampNs, epoch := r.epoch, storm := decide (1 < g.length), fromChain := true,
      extended := false, avail := countsAgainst r.cls, addr := r.src, count := g.length, endpoint := r.endpoint,
      firstTick := t, lastTick := t, detail := padTo 16 r.detail }

/-- Rank 3 (01 R35): the reports of the tick, in stamp order with storms collapsed; then the remote reports whose
stamped tick plus B has passed. A remote report more than B late is entered alone. -/
def State.ledgerRank (s : State) : State :=
  let d := s.dev
  let reports := sortBy (fun (r : Report) => r.stampNs * 1024 + reportSource r) d.faults.reports
  let tick := d.tick.count.toNat
  let locals := (sortBy (fun (g : List Report) => g.head?.elim 0 fun r => r.stampNs * 1024 + reportSource r)
    (stormGroups (·.cls) reports)).filterMap (groupEntry tick)
  let b := d.budget
  let p := max 1 s.periodNs.toNat
  let late := d.chain.remote.filter fun r => decide (r.stampNs + b < r.arrival)
  let due := d.chain.remote.filter fun r => decide (r.arrival ≤ r.stampNs + b) && decide (tickEnd p r.stampNs + b ≤ d.nowNs)
  let held := d.chain.remote.filter fun r => decide (r.arrival ≤ r.stampNs + b) && decide (d.nowNs < tickEnd p r.stampNs + b)
  let remote := (stormGroups (fun (r : RemoteReport) => r.cls + 65536 * (r.stampNs / p)) (sortBy (·.stampNs) due)) ++
    (sortBy (·.stampNs) late).map fun r => [r]
  let dev := (d.onFaults fun f => { f with reports := [] }).onChain fun c => { c with remote := held }
  let dev := dev.each reports Dev.sendReport
  let s := locals.foldl State.enter { s with dev := dev }
  (remote.filterMap s.remoteEntry).foldl State.enter s

/-- The 64 bytes of an entry (R531). -/
def LedgerEntry.bytes (e : LedgerEntry) : List Byte :=
  postmark e.stampNs e.epoch 0xFFFFFFFF 0xFE ++ leBytes 2 e.cls ++
    leBytes 1 (packWord [(0, e.storm.toNat), (1, e.fromChain.toNat), (2, e.extended.toNat), (3, e.avail.toNat)]) ++
    leBytes 1 e.addr ++ leBytes 4 (capN 32 e.count) ++ leBytes 2 e.endpoint ++ leBytes 6 0 ++ leBytes 8 e.firstTick ++
    leBytes 8 e.lastTick ++ padTo 16 e.detail

/-- READ_FAULT_LEDGER: as many of the oldest entries as the buffer holds (14 R363). -/
def Dev.readLedger (d : Dev) (entries : List LedgerEntry) (k : Docket) : Dev :=
  d.runDocket k [(8, 19)] fun d =>
    let len := u32 k.bytes 16
    if u64 k.bytes 8 % 4 ≠ 0 then d.finish k 0x0205
    else if len < 64 then d.finish k 0x0204
    else
      let n := min (len / 64) entries.length
      (d.hostWrite (u64 k.bytes 8) ((entries.take n).flatMap (·.bytes))).finish k 0
        (leBytes 4 n ++ leBytes 1 (decide (n < entries.length)).toNat)

def execReadFaultLedger (d : Docket) (s : State) : Host.Outcome State Fault Refusal :=
  .next { s with dev := s.dev.readLedger s.ledger.entries d }

/-- A docket that begins now, on this device, with every reserved byte 0: its work runs. -/
def Dev.worksNow (d : Dev) (k : Docket) (used : List (Nat × Nat)) : Bool :=
  d.canBegin k && !d.forwards k && reservedZero k used

/-- CLEAR_FAULT_LEDGER: the oldest entries go; a count past those held clears all (14 R363). -/
def execClearFaultLedger (d : Docket) (s : State) : Host.Outcome State Fault Refusal :=
  .next { s with
    dev := s.dev.runDocket d [(8, 11)] (fun x => x.finish d 0),
    ledger := if s.dev.worksNow d [(8, 11)] then { s.ledger with entries := s.ledger.entries.drop (u32 d.bytes 8) }
      else s.ledger }

/-! ### Trips (R535) -/

/-- A trip waits for rank 1. -/
def Dev.trip (d : Dev) (t : Trip) (cyc : Nat) : Dev :=
  d.onTick fun x => { x with trips := x.trips ++ [(t, d.timeAt cyc)] }

/-- SUPPLY_OUT_OF_RANGE: a supply trip for rank 1. -/
def execSupplyOutOfRange (cyc : Nat) (s : State) : Host.Outcome State Fault Refusal :=
  .next { s with dev := s.dev.trip .supply cyc }

/-- The highest thermal sensor (02 R55). -/
def Dev.hottest (d : Dev) : Int := d.gov.tj.foldl max (d.gov.tj.headD 0)

/-- A sensor reads: above 100 °C the governor is HOT (02 R57, R61); at or above 115 °C it is a trip for rank 1. -/
def Dev.sensorReads (d : Dev) (n : Nat) (tj : Int) (cyc : Nat) : Dev :=
  let d := d.onGov fun g => { g with tj := g.tj.set n tj }
  let hot := decide (100 < d.hottest)
  let d := if hot && !d.gov.hot then d.raise 3 (d.nsAt cyc) else d
  let d := d.onGov fun g => { g with hot := hot }
  if 115 ≤ tj then d.trip .thermal cyc else d

/-- THERMAL_TRIP: a sensor reads; at or above 115 °C it is a trip for rank 1. -/
def execThermalTrip (sensor : Fin 13) (tj : Int) (cyc : Nat) (s : State) : Host.Outcome State Fault Refusal :=
  .next { s with dev := s.dev.sensorReads sensor tj cyc }

/-! ### Clerk failover (R537, R538) -/

def healthEp : Nat := endpoint 0x15 0

/-- An active clerk fails: the standby takes over, and the failed clerk passes self-test or is retired. With two clerks
left both run; with one left READY clears. -/
def Dev.clerkFails (d : Dev) (n : Nat) (pass : Bool) (ns : Nat) : Dev :=
  let h := d.health
  if !(h.active.getD n false) then d
  else
    let again := h.clerkFails.any fun x => x.1 == n && decide (h.life.hours < x.2 + 24)
    let retire := !pass || again
    let d := d.onHealth fun h =>
      { h with failovers := bump h.failovers,
               clerkFails := (h.clerkFails.filter fun x => x.1 != n) ++ [(n, h.life.hours)],
               clerksRetired := if retire then h.clerksRetired.set n true else h.clerksRetired }
    let d := (d.report 0x00A8 healthEp ns [n]).raise 8 ns
    let left := which 4 fun i => !(d.health.clerksRetired.getD i false)
    let run := which 4 fun i => left.contains i && (i != n || decide (left.length ≤ 2))
    let d := d.onHealth fun h =>
      { h with active := (List.range 4).map run.contains,
               standby := (List.range 4).map fun i => left.contains i && !run.contains i }
    let d := if retire then d.report 0x00A9 healthEp ns [n] else d
    if left.length ≤ 1 then d.onHost fun h => { h with ready := false } else d

def execClerkWatchdog (clerk : Fin 4) (selfTestOk : Bool) (cyc : Nat) (s : State) : Host.Outcome State Fault Refusal :=
  .next { s with dev := s.dev.clerkFails clerk selfTestOk (s.dev.nsAt cyc) }

/-! ### Error correction (R536) -/

/-- A number that names a memory in a report of class 0x00A1: the kind, and the unit (notes/assumptions/31.md). -/
def memoryName : EccMemory → List Nat
  | .frame c p => [0, c, p]
  | .granary m c b => [1, m, c, b]
  | .instr m c p => [2, m, c, p]
  | .engineRegs m c e => [3, m, c, e]
  | .pipeTable p => [4, p]
  | .lineBuffer p => [5, p]
  | .link r => [6, r]
  | .clerk n => [7, n]

/-- The pool that holds a page, with the bytes of it that use the pages of that place (17 R416). -/
def Dev.pageSpan (d : Dev) (c pg : Nat) : Option (Nat × (Nat × Nat)) :=
  (d.dram.pools.find? fun p => p.pages.contains (c, pg)).map fun p =>
    let n := (maskChans p.mask).length
    let i := (p.pages.filter fun x => x.1 == c).findIdx (· == (c, pg))
    (p.num, (i * 2 ^ 20 * n, 2 ^ 20 * n))

/-- The buffers of the unit that buffer `o` belongs to, of those that wait for a slot. -/
def unitWith (d : Dev) (ring o : Nat) : Nat → List Buf → List Nat
  | 0, _ => [o]
  | fuel + 1, l =>
    match chainOf d ring l with
    | some chain =>
      if chain.any fun b => b.order == o then chain.map (·.order) else unitWith d ring o fuel (l.drop chain.length)
    | none => [o]

/-- The consumer in slot `k` of a ring meets an uncorrectable error in buffer `b`: its frame is dropped; an encode
stream's next picture is a key; a store writer skips the unit and its clip is damaged (R536; 01 R25). -/
def Dev.readerMeets (d : Dev) (ring k ns : Nat) (b : Buf) : Dev :=
  let ep := ((d.ringI ring).slots.getD k Slot.none).endpoint
  let n := ep % 256
  match ep / 256 with
  | 0x0B =>
    let d := d.onEncI n fun e =>
      { e with taken := e.taken.filter (·.order != b.order), plan := e.plan.filter (·.order != b.order),
               gapFrames := e.gapFrames + 1 }
    let d := (d.frameLost (ring / 8) (384 + n) b.frame ns).interrupt ep 2
    (d.queueRelease ring k b.order false).requestKey n b.frame
  | 0x10 =>
    d.each ((d.rasterI n).shown.filter fun x => x.2 == b.order) fun d x => d.dropOnStream (448 + 8 * n + x.1) ns
  | 0x0E =>
    let src := d.store.slots.findSome? fun r => r.sources.find? fun x => sourceRing x.ep == some ring && x.cslot == k
    let d := match src with
      | some x => d.onStore fun s => onClip s x.clip fun c => { c with damaged := true }
      | none => d
    let d := d.each (unitWith d ring b.order 17 (sortBy (·.order) ((d.ringI ring).waitingFor k))) fun d o =>
      d.queueRelease ring k o false
    d.interrupt (recordService ring) 2
  | _ => (d.report 0x0020 ep ns [ring, b.frame]).queueRelease ring k b.order false

/-- An uncorrectable error in a frame-memory page reaches whoever reads it: the consumers that hold a full buffer in
it, or else the first it waits for; host layers, and a decode core's input. -/
def Dev.pageFails (d : Dev) (c pg ns : Nat) : Dev :=
  match d.pageSpan c pg with
  | none =>
    -- in the reserved memory: which staged value it strikes is free (03 R593)
    let held := (List.range 64).flatMap fun e =>
      if (d.envI e).phase = .sealed then
        ((d.envI e).members.zipIdx.filter fun m => m.1.bulk.isSome).map fun m => (e, m.2) else []
    match held[d.free % (held.length + 1)]? with
    | some (e, m) => (d.onEnvI e fun x => { x with failed := if x.failed.isSome then x.failed else some (m, 0) }).used 1
    | none => if held.isEmpty then d else d.used 1
  | some (pool, span) =>
    let d := d.each (List.range 136) fun d r =>
      d.each ((d.ringI r).bufs.filter fun (b : Buf) =>
        b.st == BufState.full && b.desc.pool == pool && b.spans.any (spanMeets span)) fun d (b : Buf) =>
          d.each ((if b.held.isEmpty then b.marks.take 1 else b.held).filter fun k => !b.pend.contains k) fun d k =>
            d.readerMeets r k ns b
    let d := d.each (List.range 4) fun d o =>
      d.each ((List.range 4).filter fun l =>
        (d.rasterI o).fetching && d.hostLayer o l &&
          (d.layerSrc o l).elim false fun x => x.pool == pool && spanMeets span (x.plane, x.stride * x.h)) fun d l =>
            d.dropOnStream (448 + 8 * o + l) ns
    d.each (List.range 2) fun d core =>
      if (d.decI core).active && decN d.params core 2 == pool &&
          ((d.decI core).input.head?.elim false (spanMeets span)) then (d.decEat core).decDiscard core ns
      else d

/-- The frame that a pipeline is working on ends in abort. -/
def Dev.pipeAborts (d : Dev) (p cyc : Nat) : Dev :=
  match (d.pipeI p).cur, (d.pipeI p).ended with
  | some _, _ => d.abortFrame p cyc 2
  | none, f :: rest => (d.onPipeI p fun x => { x with ended := rest }).lostDownstream p (128 + 16 * p) f (d.nsAt cyc)
  | none, [] => d

/-- A corrected error: counted, and counted against its page (R536). -/
def Dev.corrected (d : Dev) (m : EccMemory) : Dev :=
  match m with
  | .frame c pg =>
    let d := d.onHealth fun h => { h with corrDram := bump h.corrDram, hourDram := h.hourDram + 1 }
    d.onDram fun s =>
      { s with hourPage :=
          if s.hourPage.any (fun x => x.1 == c && x.2.1 == pg) then
            s.hourPage.map fun x => if x.1 == c && x.2.1 == pg then (c, pg, x.2.2 + 1) else x
          else s.hourPage ++ [(c, pg, 1)] }
  | .link _ => d
  | _ => d.onHealth fun h => { h with corrSram := bump h.corrSram, hourSram := h.hourSram + 1 }

/-- An uncorrectable error: counted, reported, and met by what reads the memory (R536; 10 R262, R264; 03 R593). -/
def Dev.uncorrectable (d : Dev) (m : EccMemory) (cyc : Nat) : Dev :=
  let ns := d.nsAt cyc
  let d := (d.onHealth fun h => { h with uncorr := bump h.uncorr }).report 0x00A1 healthEp ns (memoryName m)
  let bad := fun (d : Dev) kind unit => d.onTick fun t => { t with bad := t.bad ++ [(kind, unit)] }
  match m with
  | .frame c pg => bad (d.pageFails c pg ns) 5 (2 ^ 27 * c + pg)
  | .granary p c b => bad (d.onMillI p fun x => { x with poison := x.poison ++ [c] }) 3 (64 * p + 16 * c + b)
  | .instr p c pg => bad (d.onMillI p fun x => { x with poison := x.poison ++ [c] }) 4 (64 * p + 16 * c + pg)
  | .engineRegs p c e => d.retireEngine p c e cyc
  | .pipeTable p => d.pipeAborts p cyc
  | .lineBuffer p => d.pipeAborts p cyc
  | .link race => d.dropOnStream race ns
  | .clerk n => (d.clerkFails n (d.free % 2 == 1) ns).used 1

def execMemoryEccError (memory : EccMemory) (corrected : Bool) (cyc : Nat) (s : State) :
    Host.Outcome State Fault Refusal :=
  .next { s with dev := if corrected then s.dev.corrected memory else s.dev.uncorrectable memory cyc }

/-- ECC_HOUR: a count past 1,000 in the hour files one report; pages with 16 corrections are marked (R536). -/
def Dev.endEccHour (d : Dev) : Dev :=
  let h := d.health
  let d := if 1000 < h.hourDram then d.reportNow 0x00A0 healthEp [0, h.hourDram] else d
  let d := if 1000 < h.hourSram then d.reportNow 0x00A0 healthEp [1, h.hourSram] else d
  let busy := (d.dram.hourPage.filter fun x => decide (16 ≤ x.2.2)).map fun x => (x.1, x.2.1)
  (d.onHealth fun h => { h with hourDram := 0, hourSram := 0 }).onDram fun s =>
    { s with hourPage := [], marked := s.marked ++ busy.filter fun p => !s.marked.contains p }

def execEccHour (s : State) : Host.Outcome State Fault Refusal := .next { s with dev := s.dev.endEccHour }

/-- SCRUB: every unit of frame memory has been read once (R536). -/
def execScrub (s : State) : Host.Outcome State Fault Refusal :=
  .next { s with dev := s.dev.onHealth fun h => { h with scrubs := h.scrubs + 1 } }

/-! ### Calibration-data reset (14 R364; R539) -/

/-- The results of a scope are erased: what a lane's last calibration left, the margin probe's results, the frame-memory
training results, the clock check's flags. Which results these are: notes/assumptions/32.md. -/
def Dev.eraseCalibration (d : Dev) (scope : Nat) : Dev :=
  let d := if bit scope 0 then
      d.onLanes fun a =>
        let drop := fun (l : Link) => if l.up then l else { l with trained := false }
        { a with lanes := a.lanes.map fun x => { x with fomBefore := 0, fomAfter := 0, calTemp := 0, calResult := 0 },
                 caps := a.caps.map drop, chains := a.chains.map drop, outs := a.outs.map drop }
    else d
  let d := if bit scope 1 then
      d.onGov fun g => { g with probed := false, lifeMv := 0, lifeRegion := 0 } else d
  let d := if bit scope 2 then
      d.onDram fun s => { s with chans := s.chans.map fun x => { x with trained := [] } } else d
  if bit scope 3 then
    d.onAudio fun a => { a with domains := a.domains.map fun m => { m with rateWrong := false, offRun := 0 } } else d

def Dev.calDocket (d : Dev) (k : Docket) : Dev :=
  d.gated k [(8, 8)] fun d =>
    let scope := u8 k.bytes 8
    if 16 ≤ scope then d.finish k 0x0202
    else if scope = 0 then d.finish k 0x0204
    else (d.eraseCalibration scope).finish k 0

def execCalibrationDataReset (d : Docket) (s : State) : Host.Outcome State Fault Refusal :=
  .next { s with dev := s.dev.calDocket d }

/-! ### Availability and the health record (R540 to R543) -/

/-- A raster output is configured to run: a halted one stays a service that does not deliver. -/
def Dev.outputOn (d : Dev) (o : Nat) : Bool := (d.rasterI o).enabled || (d.halted && u8 (d.rasB o 0) 0 == 1)

/-- A service is configured: a raster output enabled, an encode stream active, a source of a running slot. -/
def Dev.serviceOn (d : Dev) (svc : Nat) : Bool :=
  if 65536 ≤ svc then
    d.store.slots.any fun r => r.running && r.sources.any fun x => sourceRing x.ep == some (svc / 65536 - 1)
  else if svc / 256 = 0x10 then d.outputOn (svc % 256)
  else (d.encI (svc % 256)).active

def Dev.anyService (d : Dev) : Bool :=
  (List.range 4).any d.outputOn || d.enc.any (·.active) || d.store.slots.any fun r => r.running && !r.sources.isEmpty

/-- `ns` of operation are counted: configured time, and time interrupted by each cause, overlaps once (R541). -/
def Dev.accrue (d : Dev) (ns : Nat) : Dev :=
  let live := d.health.interrupted.filter fun x => d.serviceOn x.1
  let served := d.anyService
  let add := fun c => if live.any (fun x => x.2 == c) then ns else 0
  d.onHealth fun h =>
    let x := h.life
    { h with interrupted := live,
             life := { x with confNs := x.confNs + (if served then ns else 0), boardNs := x.boardNs + add 0,
                              hostNs := x.hostNs + add 1, devNs := x.devNs + add 2,
                              highvNs := x.highvNs + (if 850 < d.gov.voutMv.toNat then ns else 0) } }

/-- HEALTH_RECORD_WRITE: the copy with the lower sequence is written; every hour the hours and the mean Tj advance
(24 R552, R542). -/
def Dev.writeRecord (d : Dev) (hourly : Bool) : Dev :=
  let d := if hourly then
      d.onHealth fun h =>
        let x := h.life
        { h with imageSec := h.imageSec + 3600,
                 life := { x with hours := x.hours + 1,
                                  meanTj := (x.meanTj * (x.hours : Int) + 100 * d.hottest) / ((x.hours + 1 : Nat) : Int) } }
    else d
  d.onHealth fun h =>
    { h with kept := h.life, copies := lastN 2 (h.copies ++ [((h.copies.getLast?.elim 0 (·.1)) + 1, h.life.hours)]) }

def execHealthRecordWrite (hourly : Bool) (s : State) : Host.Outcome State Fault Refusal :=
  .next { s with dev := s.dev.writeRecord hourly }

/-- The 4,096-byte health record view (R543). -/
def Dev.healthRecord (d : Dev) : List Byte :=
  let h := d.health
  let x := h.life
  let bits' := fun (l : List Bool) => maskOf l.length fun i => l.getD i false
  let engines := d.mills.flatMap fun m => m.retired.flatMap fun c => leBytes 2 (bits' c)
  let pages := (d.dram.marked.take 256).flatMap fun x => leBytes 4 (x.1 * 2 ^ 27 + x.2)
  padTo 4096 (leBytes 8 x.hours ++ leBytes 8 (x.confNs / 1000000000) ++ leBytes 8 (x.devNs / 1000) ++
    leBytes 8 (x.boardNs / 1000) ++ leBytes 8 (x.hostNs / 1000) ++ leBytes 4 (capN 32 (x.highvNs / 3600000000000)) ++
    leBytes 2 (ofSigned 16 x.meanTj) ++ leBytes 1 d.addressByte ++ leBytes 1 (bits' h.clerksRetired) ++
    padTo 64 engines ++ leBytes 2 d.dram.marked.length ++ leBytes 14 0 ++ padTo 1024 pages)

/-- READ_HEALTH_RECORD (14 R363). -/
def Dev.readRecord (d : Dev) (k : Docket) : Dev :=
  d.runDocket k [(8, 19)] fun d =>
    if u64 k.bytes 8 % 4 ≠ 0 then d.finish k 0x0205
    else if u32 k.bytes 16 < 4096 then d.finish k 0x0204
    else (d.hostWrite (u64 k.bytes 8) d.healthRecord).finish k 0 (leBytes 4 4096)

def execReadHealthRecord (d : Docket) (s : State) : Host.Outcome State Fault Refusal :=
  .next { s with dev := s.dev.readRecord d }

end Sys2Proof.Machine
end

