-- ==== Sys2Proof/Machine/Members.lean ====
section
/-!
DEFINITION. Member records of envelopes (14 R353 to R356; 03 R69): their fields, the rules that an add docket checks,
and the kinds of stream that a create member names.
-/
namespace Sys2Proof.Machine

/-! ### Fields (R353) -/

def Member.type (m : Member) : Nat := u8 m.record 0
/-- Destination address and "all participants" (03 R83). -/
def Member.dest (m : Member) : Nat := u8 m.record 1
def Member.toAll (m : Member) : Bool := bit (u8 m.record 2) 0
/-- The member sets a parameter: inline or bulk. -/
def Member.isParam (m : Member) : Bool := decide (m.type ≤ 1)
def Member.key (m : Member) : Nat := u32 m.record 4
def Member.value (m : Member) : List Byte :=
  match m.bulk with
  | some v => v
  | none => (m.record.drop 12).take (u8 m.record 8)
/-- Type 0x2. -/
def Member.src (m : Member) : Nat := u16 m.record 4
def Member.dst (m : Member) : Nat := u16 m.record 6
def Member.rate (m : Member) : Nat := u64 m.record 8
def Member.policy (m : Member) : Nat := u8 m.record 16
def Member.prio (m : Member) : Nat := u8 m.record 17
def Member.prog (m : Member) : Bool := bit (u8 m.record 18) 0
/-- Bytes 20 to 43: the arguments of a stream. -/
def Member.args (m : Member) : List Byte := (m.record.drop 20).take 24
/-- Type 0x3. -/
def Member.race (m : Member) : Nat := u16 m.record 4
/-- Types 0x4 and 0x5. -/
def Member.claim (m : Member) : Claim := ⟨u8 m.record 4, u16 m.record 6, u64 m.record 8, field m.record 16 3⟩
/-- Type 0x6. -/
def Member.action (m : Member) : Nat := u16 m.record 4
def Member.target (m : Member) : Nat := u32 m.record 8
/-- Bytes 12 to 43: the arguments of an action. -/
def Member.actArgs (m : Member) : List Byte := (m.record.drop 12).take 32
/-- Type 0x7. -/
def Member.pipe (m : Member) : Nat := u8 m.record 4
def Member.cls (m : Member) : Nat := u8 m.record 5
def Member.addr (m : Member) : Nat := u16 m.record 6
def Member.data (m : Member) : List Byte := (m.record.drop 12).take (u8 m.record 8)

/-- The record of a bulk member (R359): type, destination and key. -/
def bulkRecord (dest flags key : Nat) : List Byte :=
  padTo 48 (leBytes 1 1 ++ leBytes 1 dest ++ leBytes 1 flags ++ [0] ++ leBytes 4 key)

/-! ### What an add docket checks (R353, R359, R69, R348) -/

/-- The bytes that the layout of a type uses, as (first, last). -/
def recordUsed (r : List Byte) : List (Nat × Nat) :=
  match u8 r 0 with
  | 0 => [(4, 8), (12, 11 + u8 r 8)]
  | 2 => [(4, 18), (20, 43)]
  | 3 => [(4, 5)]
  | 4 | 5 => [(4, 4), (6, 18)]
  | 6 => [(4, 5), (8, 43)]
  | _ => [(4, 8), (12, 11 + u8 r 8)]

/-- Why an add docket refuses a record, 0 when it takes it: a type that no add carries, then a byte that must be 0,
then a length outside its range. -/
def recordStatus (r : List Byte) : Nat :=
  let t := u8 r 0
  if t = 1 ∨ 8 ≤ t then 0x8201
  else if 2 ≤ u8 r 2 ∨ u8 r 3 ≠ 0 ∨
      ((List.range 44).any fun i => !(recordUsed r).any (fun x => decide (x.1 ≤ i + 4) && decide (i + 4 ≤ x.2)) &&
        u8 r (i + 4) != 0) ∨ (t = 2 ∧ 2 ≤ u8 r 18) then 0x0202
  else if (t = 0 ∨ t = 7) ∧ (u8 r 8 = 0 ∨ 32 < u8 r 8) then 0x0204
  else 0

/-! ### Streams (R354; 01 R20, R24; 02 R54) -/

/-- What a stream carries, by its source and consumer. -/
inductive StreamKind where
  | capture (pipe : Nat)
  | rawTap (pipe : Nat)
  | boltOut (lane : Nat)
  | tap (pipe k : Nat)
  | stats (pipe : Nat)
  | grist (mill : Nat) (back : Bool)
  | encode (pipe k stream : Nat)
  | decode (core : Nat)
  | layer (out l : Nat)
  | audio (port : Nat)
  | lane (g : Nat) (out : Bool)
  | writer
  | proxyOut (port : Nat)
  | proxyIn (port : Nat)
  | pool
deriving DecidableEq, Repr

/-- The kind of a stream (R354). The endpoints of raster, audio, bolter general-lane, proxy and pool streams, and the
layer number in the first argument of a raster stream, are the model's: notes/assumptions/33.md. -/
def streamKind (src dst : Nat) (args : List Byte) : Option StreamKind :=
  let s := src % 256
  let c := dst % 256
  let sOk := blockHas (src / 256) s == some true
  let cOk := blockHas (dst / 256) c == some true
  let sb := if src = 0xFFFF then 0x0F else if sOk then src / 256 else 0
  let cb := if dst = 0xFFFF then 0x0F else if cOk then dst / 256 else 0
  if sb = 0x05 ∧ cb = 0x06 ∧ s = c then some (.capture s)
  else if sb = 0x06 ∧ cb = 0x0D ∧ s = c then some (.rawTap s)
  else if sb = 0x0D ∧ cb = 0x0F ∧ s < 8 ∧ dst ≠ 0xFFFF then some (.boltOut s)
  else if sb = 0x0D ∧ cb = 0x0F ∧ 8 ≤ s then some (.lane (s - 8) true)
  else if sb = 0x0F ∧ cb = 0x0D ∧ 8 ≤ c then some (.lane (c - 8) false)
  else if sb = 0x08 ∧ cb = 0x0F ∧ dst ≠ 0xFFFF then some (.tap (s / 8) (s % 8))
  else if sb = 0x09 ∧ cb = 0x0F ∧ dst ≠ 0xFFFF then some (.stats s)
  else if sb = 0x0A ∧ cb = 0x0A ∧ s = c ∧ u8 args 0 ≤ 1 then some (.grist s (u8 args 0 == 1))
  else if sb = 0x08 ∧ cb = 0x0B then some (.encode (s / 8) (s % 8) c)
  else if sb = 0x0C ∧ cb = 0x0F ∧ dst ≠ 0xFFFF then some (.decode s)
  else if (sb = 0x08 ∨ sb = 0x0F) ∧ cb = 0x10 ∧ u8 args 0 < 4 then some (.layer c (u8 args 0))
  else if sb = 0x11 ∧ cb = 0x0F ∧ s < 28 then some (.audio s)
  else if (sb = 0x0F ∨ sb = 0x11) ∧ cb = 0x11 ∧ c < 28 then some (.audio c)
  else if (sb = 0x08 ∨ sb = 0x0B) ∧ cb = 0x13 then some (.proxyOut c)
  else if sb = 0x13 ∧ cb = 0x0F then some (.proxyIn s)
  else if sb = 0x0F ∧ cb = 0x0F ∧ src ≠ dst then some .pool
  else none

/-- The fixed race number of a stream (01 R20); none when it takes one of the pool. -/
def fixedRace (params : List (Nat × List Byte)) : StreamKind → Option Nat
  | .capture p => some (u8 (parOf params (pkey 0x05 p 7)) 0)
  | .rawTap p => some (256 + 8 * p + 7)
  | .boltOut n => some (420 + n)
  | .tap p k => some (256 + 8 * p + k)
  | .stats p => some (256 + 8 * p + 6)
  | .grist i b => some (320 + 2 * i + b.toNat)
  | .encode _ _ s => some (384 + s)
  | .decode c => some (417 + 2 * c)
  | .layer o l => some (448 + 8 * o + l)
  | .audio p => some (608 + p)
  | .lane g b => some (428 + 2 * g + b.toNat)
  | .writer => none
  | .proxyOut _ => none
  | .proxyIn _ => none
  | .pool => none

/-- The policies a source may declare, its default first: 0 stall, 1 drop, 2 panic (01 R24; 09 R230 for statistics). -/
def policiesOf : StreamKind → List Nat
  | .capture _ | .grist _ _ => [1]
  | .rawTap _ => [2, 1]
  | .boltOut _ | .layer _ _ | .audio _ => [2]
  | .tap _ _ | .stats _ => [1, 2]
  | _ => [0]

/-- The default priority (02 R54). -/
def defaultPrio (k : StreamKind) (prog : Bool) : Nat :=
  match k with
  | .capture _ | .rawTap _ | .boltOut _ | .writer => 7
  | .layer _ _ | .audio _ => 6
  | .encode _ _ _ | .tap _ _ => if prog then 5 else 4
  | .stats _ | .grist _ _ => 3
  | _ => 2

/-- The stream that a create member makes, its race number and rate still open. -/
def Member.stream (m : Member) (k : StreamKind) : Stream :=
  { race := 0, src := m.src, dst := m.dst, rate := qOfNat m.rate,
    policy := if m.policy = 0xFF then (policiesOf k).headD 0 else m.policy,
    prio := if m.prio = 0xFF then defaultPrio k m.prog else m.prio, prog := m.prog, args := m.args, spine := [],
    implied := false }

def Stream.kind (s : Stream) : Option StreamKind :=
  if s.implied && s.src / 256 == 0x0E then some .writer else streamKind s.src s.dst s.args

/-- Lowest pool race number that `used` leaves free (01 R20); BAR2's traffic has 704 from start-up (13 R323). -/
def freeRace (used : List Nat) : Option Nat := (List.range 319).map (705 + ·) |>.find? fun r => !used.contains r

/-! ### Actions (R356) -/

/-- Block and number of instances that an action's target names; none for a code that is no action. -/
def actionTarget (code : Nat) (target : Nat) : Option Bool :=
  let b := keyBlock target
  let ok := keyIdx target == 0 && blockHas b (keyInst target) == some true
  match code with
  | 1 => some (ok && b == 0x16)
  | 2 | 3 => some (ok && b == 0x0E)
  | 0x10 => some (ok && b == 0x0B)
  | 0x20 => some (ok && b == 0x03)
  | 0x21 => some (ok && (b == 0x03 || b == 0x04))
  | 0x30 => some (ok && b == 0x09)
  | 0x31 => some (ok && b == 0x06)
  | _ => none

/-- The slot, source endpoints and take tag of a recording start (15 R383). -/
def recArgs (a : List Byte) : Nat × List Nat × Nat :=
  (u8 a 0, (List.range (min 8 (u8 a 1))).map fun i => u16 a (2 + 2 * i), u32 a 20)

end Sys2Proof.Machine
end

