-- ==== Sys2Proof/Machine/Rates.lean ====
section
/-!
DEFINITION. Declared rates, the placement of streams on the spine, the worksheet of frame memory and the speed demand
of a configuration (01 R18 to R27, R592; 02 R45, R46; 17 R418, R419). A configuration is given as a device whose
parameters, streams, pools and recording slots are those of the configuration.
-/
namespace Sys2Proof.Machine

/-! ### Regions (01 R18), coded as in 02 R62 -/

def regL : Nat := 8
def regC : Nat := 9
def regS : Nat := 10
def regX : Nat := 11

/-- The region of a memory port. -/
def regionOfChan (c : Nat) : Nat := c / 2

/-! ### Declared rates (01 R27) -/

/-- Frame rate × total lines ÷ active lines of a pipeline; 0 while its period is not set. -/
def frameQ (params : List (Nat × List Byte)) (p active : Nat) : Q :=
  let c := capCfg params p
  if c.period = 0 ∨ active = 0 then qZero else ⟨(1000000000 * totalLines c : Nat), c.period * active⟩

/-- The raw tap stream of a pipeline, as point and record depth (06 R164). -/
def Dev.rawTapOf (d : Dev) (p : Nat) : Option (Nat × Nat) :=
  (d.res.streams.find? fun s => s.kind == some (.rawTap p)).map fun s => (u8 s.args 0, u8 s.args 1)

/-- Bytes per frame of a bolter raw output (12 R298). -/
def Dev.boltFrame (d : Dev) (p rho : Nat) : Q :=
  match d.rawTapOf p with
  | some (point, depth) =>
    declaredRecord (rawBytes d.params p point depth) (ceilDiv (rawH d.params p) (boltBand d.params p)) (max 1 rho)
  | none => qZero

/-- Bytes per frame of a grist insertion stream: two bytes a component of each pixel at its point, or the record block
of GS: notes/assumptions/33.md. -/
def gristFrame (params : List (Nat × List Byte)) (mill : Nat) (back : Bool) : Nat :=
  let p := mill / 4
  let im := imageOf (placedImage params p (mill % 4))
  if mill % 4 = 3 ∧ back = true then 64 + leNat (parOf params (pkey 0x0A mill 2))
  else
    let later := decide (mill % 4 = 1) || decide (mill % 4 = 2) || (decide (mill % 4 = 3) && im.src != 0)
    let c := capCfg params p
    2 * imageComps im * (if later then picW params p * picH params p else devW params p c * devH c)

/-- The refresh rate of an output (18 R451). -/
def refreshOf (t : RasTiming) : Q := if t.hTot * t.vTot = 0 then qZero else ⟨(t.clock : Int), t.hTot * t.vTot⟩

/-- A raster parameter of the configuration; a clone takes the timing of its master (18 R446). -/
def Dev.rasP (d : Dev) (o i : Nat) : List Byte := d.par (pkey 0x10 o i)
def Dev.cloneOf (d : Dev) (o : Nat) : Option Nat :=
  let m := u8 (d.rasP o 4) 0
  if m < 4 then some m else none
def Dev.timingP (d : Dev) (o : Nat) : RasTiming := timingOf (d.rasP ((d.cloneOf o).getD o) 1)
def Dev.outOn (d : Dev) (o : Nat) : Bool := u8 (d.rasP o 0) 0 == 1
def Dev.layerP (d : Dev) (o l : Nat) : Layer := layerOf (d.rasP o (0x10 + l))

/-- Width, height and bytes per pixel of a layer's source, and its pool (18 R442, R443). -/
def Dev.layerShape (d : Dev) (o l : Nat) : Nat × Nat × Nat × Nat :=
  let y := d.layerP o l
  let host := d.rasP o (0x20 + l)
  if y.src = 0xFFFF then (u16 host 14, u16 host 16, layerBytes y.fmt, u16 host 0)
  else
    let c := tapCfg d.params (y.src % 256 / 8) (y.src % 8)
    (c.ow, c.oh, (if c.depth = 8 then 3 else 4), u16 (d.par (pkey 0x08 (y.src % 256) 9)) 0)

/-- Bytes per second of a layer (18 R451). -/
def Dev.layerRate (d : Dev) (o l : Nat) : Q :=
  let (w, h, b, _) := d.layerShape o l
  qMul (qOfNat (w * h * b)) (refreshOf (d.timingP o))

/-- What the hold moves: 2 × active width × active lines × hold bytes × refresh rate (18 R450, R451). -/
def Dev.holdRate (d : Dev) (o : Nat) : Q :=
  let t := d.timingP o
  qMul (qOfNat (2 * t.hAct * t.vAct * (if u8 (d.rasP o 2) 0 = 12 then 8 else 4))) (refreshOf t)

/-- Bytes per second of an audio port: its padded unit × fs ÷ period. A receiver that has measured no rate counts at
96,000 Hz: notes/assumptions/33.md (19 R463). -/
def Dev.audioRate (d : Dev) (p : Nat) : Q :=
  let fs := if isAes3Rx p && d.portFs p == 0 then 96000 else d.portFs p
  if d.portPeriod p = 0 then qZero else ⟨(unitBytes (d.portPeriod p) (d.portChannels p) * fs : Nat), d.portPeriod p⟩

/-- The rate that a stream takes when its member declares 0; none when it must declare one (01 R27). -/
def Dev.derived (d : Dev) (k : StreamKind) (args : List Byte) : Option Q :=
  match k with
  | .capture p =>
    let c := capCfg d.params p
    some (qMul ⟨(mergedW c * mergedH c * c.depth : Nat), 8⟩ (frameQ d.params p (mergedH c)))
  | .rawTap p =>
    some (qMul (qOfNat (rawBytes d.params p (u8 args 0) (u8 args 1))) (frameQ d.params p (rawH d.params p)))
  | .boltOut p => some (qMul (d.boltFrame p (u8 args 0)) (frameQ d.params p (rawH d.params p)))
  | .tap p k => some (qMul (qOfNat (tapBytes (tapCfg d.params p k))) (frameQ d.params p (tapCfg d.params p k).h))
  | .stats p => some (qMul (qOfNat 16448) (frameQ d.params p (devH (capCfg d.params p))))
  | .grist i b => some (qMul (qOfNat (gristFrame d.params i b)) (frameQ d.params (i / 4) (devH (capCfg d.params (i / 4)))))
  | .layer o l => some (d.layerRate o l)
  | .audio p => some (d.audioRate p)
  | _ => none

/-! ### Streams that exist because their block is configured (01 R20): notes/assumptions/33.md -/

def impliedStream (race src dst : Nat) (rate : Q) (policy prio : Nat) (args : List Byte) : Stream :=
  ⟨race, src, dst, rate, policy, prio, false, args, [], true⟩

/-- The layers of running outputs that are no clones (18 R444, R446). -/
def Dev.impliedLayers (d : Dev) : List Stream :=
  (List.range 4).flatMap fun o =>
    if !d.outOn o || (d.cloneOf o).isSome then []
    else (List.range 4).filterMap fun l =>
      let y := d.layerP o l
      if y.on then
        let src := if y.src = 0xFFFF then endpoint 0x0F (d.layerShape o l).2.2.2 else y.src
        some (impliedStream (448 + 8 * o + l) src (rasEp o) (d.layerRate o l) 2 6 [BitVec.ofNat 8 l])
      else none

/-- The holds of outputs with a host layer; their race numbers come from the pool (18 R450, R451). -/
def Dev.impliedHolds (d : Dev) : List Stream :=
  (List.range 4).filterMap fun o =>
    if d.outOn o && (d.cloneOf o).isNone && (List.range 4).any (fun l => (d.layerP o l).on && (d.layerP o l).src == 0xFFFF)
    then some (impliedStream 0 (rasEp o) (endpoint 0x0F (u16 (d.rasP o 6) 0)) (d.holdRate o) 0 2 [])
    else none

/-- Enabled audio ports (19 R458). -/
def Dev.impliedPorts (d : Dev) : List Stream :=
  (List.range 28).filterMap fun p =>
    if d.parN 0x11 p 0 = 1 then
      let pool := endpoint 0x0F (u16 (d.par (pkey 0x11 p 2)) 0)
      let (src, dst) := if isOut p then (pool, audioEp p) else (audioEp p, pool)
      some (impliedStream (608 + p) src dst (d.audioRate p) 2 6 [])
    else none

/-- The rate of a source among a set of streams (15 R386). -/
def rateOfRace (l : List Stream) (race : Nat) : Q := (l.find? fun s => s.race == race).elim qZero (·.rate)

/-- One writer of each running slot on each populated NAND channel (15 R383). -/
def Dev.impliedWriters (d : Dev) (others : List Stream) : List Stream :=
  match d.store.geom with
  | none => []
  | some g =>
    (List.range 8).flatMap fun n =>
      let srcs := (d.store.slots.getD n RecSlot.idle).sources.map (·.ep)
      if srcs.isEmpty then []
      else
        let rate := qSum (srcs.map fun ep => rateOfRace others (sourceRace ep))
        g.channels.map fun c =>
          impliedStream (480 + 8 * c + n) storeEp storeEp (qDivNat rate (max 1 g.channels.length)) 0 7
            [BitVec.ofNat 8 n]

/-- The streams of a device with the implied ones brought up to date: a stream of the same race number that a member
created stands for its own, and an implied stream that goes on keeps its spine links and a hold its race number. -/
def Dev.withImplied (d : Dev) : Dev :=
  let made := d.res.streams.filter (!·.implied)
  let old := d.res.streams.filter (·.implied)
  let named := (d.impliedLayers ++ d.impliedPorts).filter fun s => !made.any fun m => m.race == s.race
  let holds := (d.impliedHolds.foldl (fun (acc : List Stream × List Nat) h =>
    let kept := (old.find? fun o => o.src == h.src && decide (704 ≤ o.race)).map (·.race)
    let race := (kept.orElse fun _ => freeRace acc.2).getD 0
    (acc.1 ++ [{ h with race := race }], race :: acc.2)) ([], d.res.streams.map (·.race))).1
  let some' := made ++ named ++ holds
  let all := some' ++ d.impliedWriters some'
  d.onRes fun r =>
    { r with streams := all.map fun s =>
        if s.implied then
          match old.find? fun o => o.race == s.race with
          | some o => { s with spine := o.spine }
          | none => s
        else s }

/-! ### Frame-memory traffic (17 R418) -/

/-- The channels of a pool of the configuration; none when it is not claimed. -/
def Dev.poolChans (d : Dev) (n : Nat) : List Nat := (d.pool n).elim [] fun p => maskChans p.mask

/-- The pool that a ring parameter names in its first descriptor. -/
def Dev.poolOfRing (d : Dev) (key : Nat) : Nat := u16 (d.par key) 0

/-- The ring parameter of a recording source. -/
def sourceKey (ep : Nat) : Nat :=
  let n := ep % 256
  match ep / 256 with
  | 0x0D => pkey 0x0D n 0
  | 0x0B => pkey 0x0B n 0xA
  | _ => pkey 0x11 n 2

/-- What a stream moves to or from pools at its declared rate: pool, written, bytes/s. -/
def Dev.streamFlows (d : Dev) (s : Stream) : List (Nat × Bool × Q) :=
  let half := qDivNat s.rate 2
  if s.implied && s.src / 256 == 0x10 then [(s.dst % 256, true, half), (s.dst % 256, false, half)]
  else match s.kind with
  | some (.boltOut _) | some (.tap _ _) | some (.stats _) | some (.decode _) | some (.proxyIn _) =>
    [(s.dst % 256, true, s.rate)]
  | some (.grist i true) => if i % 4 = 3 then [(d.poolOfRing (pkey 0x0A i 3), true, s.rate)] else []
  | some (.encode _ _ n) => [(d.poolOfRing (pkey 0x0B n 0xA), true, s.rate)]
  | some (.layer o l) =>
    [((if s.src / 256 = 0x0F then s.src % 256 else (d.layerShape o l).2.2.2), false, s.rate)]
  | some (.audio p) => [(d.poolOfRing (pkey 0x11 p 2), !isOut p, s.rate)]
  | some .writer =>
    let slot := (d.store.slots.getD (u8 s.args 0) RecSlot.idle).sources.map (·.ep)
    let n := d.store.geom.elim 1 fun g => max 1 g.channels.length
    slot.map fun ep => (d.poolOfRing (sourceKey ep), false, qDivNat (rateOfRace d.res.streams (sourceRace ep)) n)
  | some (.proxyOut _) =>
    [(d.poolOfRing (if s.src / 256 = 0x08 then pkey 0x08 (s.src % 256) 9 else pkey 0x0B (s.src % 256) 0xA), false, s.rate)]
  | some .pool =>
    (if s.src ≠ 0xFFFF then [(s.src % 256, false, s.rate)] else []) ++
      (if s.dst ≠ 0xFFFF then [(s.dst % 256, true, s.rate)] else [])
  | some (.lane _ out) =>
    if out then (if s.dst ≠ 0xFFFF then [(s.dst % 256, true, s.rate)] else [])
    else (if s.src ≠ 0xFFFF then [(s.src % 256, false, s.rate)] else [])
  | _ => []

/-- P and Q of an encode stream: bytes of a reconstructed picture and of its reduced copy (11 R289). -/
def Dev.reconBytes (d : Dev) (p k : Nat) : Nat × Nat :=
  let w := codedW d.params p k
  let h := codedH d.params p k
  let c := tapCfg d.params p k
  let s := if c.depth = 8 then 1 else 2
  let one := w * h * s
  ((match c.fmt with
    | 2 => one + one / 2
    | 1 => 2 * one
    | _ => 3 * one), 5 * w * h / 16)

/-- Reference lists in use (11 R278, R289). -/
def listsOf (gop : Nat) : Nat := match gop with
  | 0 => 0
  | 1 => 1
  | _ => 2

/-- The further traffic of an encode stream: its input read from the tap's pool, its reconstruction written and read
(11 R289). -/
def Dev.codingFlows (d : Dev) (s : Stream) : List (Nat × Bool × Q) :=
  match s.kind with
  | some (.encode p k n) =>
    let (pb, qb) := d.reconBytes p k
    let rate := codedRate d.params n p
    let at' := fun b => qMul (qOfNat b) rate
    let pool := leNat (d.par (pkey 0x0B n 0xB))
    [(d.poolOfRing (tapKey p k 9), false, at' (tapBytes (tapCfg d.params p k))), (pool, true, at' (pb + qb)),
     (pool, false, at' (listsOf (u8 s.args 3) * (3 * pb + qb)))]
  | _ => []

/-- Load of a channel from a list of flows (17 R418). -/
def Dev.flowLoad (d : Dev) (c : Nat) (flows : List (Nat × Bool × Q)) : Q :=
  qSum (flows.filterMap fun (pool, _, q) =>
    let chans := d.poolChans pool
    if chans.contains c then some (qDivNat q chans.length) else none)

def Dev.streamLoad (d : Dev) (c : Nat) (s : Stream) : Q := d.flowLoad c (d.streamFlows s ++ d.codingFlows s)

/-- The reservations, bytes/s (17 R419). -/
def Dev.reservations (d : Dev) : Q :=
  let cw := writeCapacity d.store
  let host := if d.store.online then
      let left : Q := ⟨cw.num - d.reserve * cw.den, cw.den⟩
      if qLe (qOfNat 16000000000) left then qOfNat 32000000000
      else if left.num < 0 then qZero else ⟨2 * left.num, left.den⟩
    else qZero
  qAdd (qOfNat 3000000000) host

/-- Load of a channel, bytes/s; 0 on an unpopulated one (17 R418). -/
def Dev.load (d : Dev) (c : Nat) : Q :=
  if (d.chanI c).populated then
    qReduce (qAdd (qSum (d.res.streams.map (d.streamLoad c)))
      (qDivNat d.reservations (max 1 (populated d.dram).length)))
  else qZero

/-! ### Regions that a stream crosses, and its spine links (01 R18, R592) -/

/-- The region of the engine that a stream serves. -/
def engineRegion (s : Stream) : Nat :=
  if s.implied && s.src / 256 == 0x10 then regX
  else match s.kind with
  | some (.capture p) | some (.rawTap p) | some (.boltOut p) | some (.tap p _) | some (.stats p) => p
  | some (.grist i _) => i / 4
  | some (.encode _ _ _) | some (.decode _) | some (.lane _ _) => regC
  | some (.layer _ _) | some (.audio _) | some (.proxyOut _) | some (.proxyIn _) => regX
  | _ => regS

/-- The passages of a stream from one region into another: from, to, bytes/s. -/
def Dev.legs (d : Dev) (s : Stream) : List (Nat × Nat × Q) :=
  match s.kind with
  | some (.capture p) => [(regL, p, s.rate)]
  | _ =>
    let e := engineRegion s
    let bulk := match s.kind with
      | some (.lane _ out) => if s.src = 0xFFFF ∨ s.dst = 0xFFFF then
          [if out then (regC, regS, s.rate) else (regS, regC, s.rate)] else []
      | _ => []
    (d.streamFlows s).flatMap (fun (pool, w, q) =>
      let chans := d.poolChans pool
      chans.filterMap fun c =>
        let r := regionOfChan c
        if r = e then none
        else some (if w then (e, r, qDivNat q chans.length) else (r, e, qDivNat q chans.length))) ++ bulk

/-- The sides that a stream needs: region, direction, and rate there. -/
def Dev.sides (d : Dev) (s : Stream) : List (Nat × Bool × Q) :=
  let legs := d.legs s
  (List.range 12).flatMap fun r =>
    let out := legs.filter fun l => l.1 == r
    let inn := legs.filter fun l => l.2.1 == r
    (if out.isEmpty then [] else [(r, false, qSum (out.map (·.2.2)))]) ++
      (if inn.isEmpty then [] else [(r, true, qSum (inn.map (·.2.2)))])

def hopsOn (streams : List Stream) (r : Nat) (inbound : Bool) (link : Nat) : List SpineHop :=
  streams.flatMap fun s => s.spine.filter fun h => h.region == r && h.inbound == inbound && h.link == link

/-- The link of a side that a new stream takes: fewer than 64 streams and the smallest sum of declared rates, the
lowest-numbered on a tie. When every link is full the first is taken, and check 2 fails on it. -/
def chooseLink (streams : List Stream) (r : Nat) (inbound : Bool) : Nat :=
  let free := (List.range 4).filter fun l => decide ((hopsOn streams r inbound l).length < 64)
  let sum := fun l => qSum ((hopsOn streams r inbound l).map (·.rate))
  free.foldl (fun best l => if free.contains best && !qLt (sum l) (sum best) then best else l) (free.headD 0)

/-- A stream placed on the spine beside the streams already placed (01 R592). -/
def Dev.placed (d : Dev) (others : List Stream) (s : Stream) : Stream :=
  { s with spine := (d.sides s).map fun (r, i, q) => ⟨r, i, chooseLink others r i, q⟩ }

/-- Every stream of the configuration that has no place yet is placed, in the order of the list (01 R592). -/
def Dev.withPlaces (d : Dev) : Dev :=
  let done := d.res.streams.filter fun s => !s.spine.isEmpty
  let r := d.res.streams.foldl (fun (acc : List Stream × List Stream) s =>
    if s.spine.isEmpty then
      let t := d.placed (done ++ acc.2) s
      (acc.1 ++ [t], acc.2 ++ [t])
    else (acc.1 ++ [s], acc.2)) (([], []) : List Stream × List Stream)
  d.onRes fun x => { x with streams := r.1 }

/-! ### Stage rates and demand (02 R45, R46) -/

/-- Pixels per second of a pipeline (02 R45). -/
def pipePixels (params : List (Nat × List Byte)) (p : Nat) : Q :=
  let c := capCfg params p
  qMul (qOfNat (mergedW c * mergedH c)) (frameQ params p (mergedH c))

/-- Pixels per second of a raw tap (02 R45). -/
def rawPixels (params : List (Nat × List Byte)) (p point : Nat) : Q :=
  qMul (qOfNat (rawW params p point * rawH params p)) (frameQ params p (rawH params p))

/-- Output pixels per second of a tap (08 R213). -/
def tapPixels' (params : List (Nat × List Byte)) (p k : Nat) : Q :=
  let c := tapCfg params p k
  qMul (qOfNat (c.ow * c.oh)) (frameQ params p c.h)

/-- Equivalent pixels per second that a stream puts on an encode core (11 R273, R274). -/
def Dev.corePixels (d : Dev) (core : Nat) (s : Stream) : Q :=
  match s.kind with
  | some (.encode p k n) =>
    let cores := which 8 fun i => bit (u8 s.args 0) i
    if !cores.contains core then qZero
    else
      let ctus := max 1 (ceilDiv (codedW d.params p k) 64)
      let cols := tileCols ctus cores.length (cores.findIdx (· == core))
      let c := tapCfg d.params p k
      qDivNat (qMul (qOfNat (codedW d.params p k * codedH d.params p k * codingWeight c.fmt c.depth * cols))
        (codedRate d.params n p)) (12 * ctus)
  | _ => qZero

def Dev.coreLoad (d : Dev) (core : Nat) : Q := qSum (d.res.streams.map (d.corePixels core))

/-- Pixels per second of a decode stream: its declared bytes at 1.5 bytes a pixel, the fewest that a decoded pixel
takes: notes/assumptions/33.md. -/
def decodePixels (s : Stream) : Q := ⟨2 * s.rate.num, 3 * s.rate.den⟩

/-- The stages of region `r`, each as required rate and rate at index 1.000 (02 R45). The core side of a rim FIFO
carries the rates of the streams that cross it, which its links count already: notes/assumptions/34.md. -/
def Dev.stages (d : Dev) (r : Nat) : List (Q × Nat) :=
  let links := [false, true].flatMap fun i => (List.range 4).map fun l =>
    (qSum ((hopsOn d.res.streams r i l).map (·.rate)), 48000000000)
  let ports := (List.range 24).flatMap fun c =>
    if regionOfChan c = r then [true, false].map fun w =>
      (qSum (d.res.streams.map fun s => d.flowLoad c ((d.streamFlows s).filter fun f => f.2.1 == w)), 48000000000)
    else []
  let engines := d.res.streams.flatMap fun s => match s.kind with
    | some (.capture p) => if p = r then [(pipePixels d.params p, 4800000000)] else []
    | some (.rawTap p) => if p = r then [(rawPixels d.params p (u8 s.args 0), 4800000000)] else []
    | some (.decode _) => if r = regC then [(decodePixels s, 1000000000)] else []
    | some (.lane _ false) => if r = regC then [(s.rate, 8000000000)] else []
    | _ => []
  let mill := if r < 8 then [((millDemand d.params r (d.millI r).healthy).1, 1)] else []
  let cores := if r = regC then (List.range 8).map fun c => (d.coreLoad c, 1200000000) else []
  links ++ ports ++ engines ++ mill ++ cores

/-- Demand of a region (02 R46). -/
def Dev.demandOf (d : Dev) (r : Nat) : Q :=
  qReduce ((d.stages r).foldl (fun m (q, n) => qMax m (qDivNat q n)) ⟨1, 4⟩)

/-- Demand of every region, in the order of 02 R62. -/
def Dev.demands (d : Dev) : List Q := (List.range 12).map d.demandOf

/-- The largest of a list of demands, with the lowest region that has it (02 R46, R62). -/
def peakOf (l : List Q) : Q × Nat :=
  l.zipIdx.foldl (fun (acc : Q × Nat) x => if qLt acc.1 x.1 then x else acc) (l.headD qZero, 0)

/-- A fraction as an unsigned Q4.12 value, at most 0xFFFF (02 R43). Which neighbour stands for a fraction between two
values is the implementation's (log 122). -/
def q412 (q : Q) : Nat :=
  let r := qReduce (qMul q (qOfNat 4096))
  capN 16 ((qFloor r).toNat + if r.den ≤ 1 then 0 else (Config.q412Up r.num r.den).toNat)

end Sys2Proof.Machine
end

