-- ==== Sys2Proof/Machine/Resulting.lean ====
section
/-!
DEFINITION. The configuration that a seal judges: the landed configuration with every sealed envelope that has not
landed, and the envelope being sealed (01 R26). It is given as a device with those parameters, streams, pools and
recording slots.
-/
namespace Sys2Proof.Machine

/-! ### What the members of an envelope do -/

/-- The members that act on this device, with their indices: on the coordinator of a chain-wide envelope, those that
name it; else all (03 R83, R84). -/
def Dev.localMembers (d : Dev) (e : Env) : List (Member × Nat) :=
  match e.chain with
  | some c =>
    if c.isCoord then e.members.zipIdx.filter fun m => m.1.toAll || d.address == some m.1.dest else e.members.zipIdx
  | none => e.members.zipIdx

/-- The parameters set, as they are kept. -/
def setsOf (l : List (Member × Nat)) : List (Nat × List Byte) :=
  l.filterMap fun m => if m.1.isParam then some (m.1.key, keptForm m.1.key m.1.value) else none

/-- Parameters with a list of settings laid over them. -/
def overlay (params sets : List (Nat × List Byte)) : List (Nat × List Byte) :=
  sets.foldl (fun ps x => setPar ps x.1 x.2) params

def racesReleased (l : List (Member × Nat)) : List Nat := (l.filter fun m => m.1.type == 3).map (·.1.race)
def claimsMade (l : List (Member × Nat)) : List Claim := (l.filter fun m => m.1.type == 4).map (·.1.claim)
def claimsReleased (l : List (Member × Nat)) : List Claim := (l.filter fun m => m.1.type == 5).map (·.1.claim)

/-- Two claims name one unit. -/
def sameUnit (a b : Claim) : Bool := a.kind == b.kind && a.unit == b.unit

/-- The recording slots after the start and stop actions of a member list (15 R383). -/
def slotsAfter (slots : List RecSlot) (l : List (Member × Nat)) : List RecSlot :=
  l.foldl (fun ss m =>
    let (n, eps, _) := recArgs m.1.actArgs
    if m.1.type = 6 ∧ m.1.action = 2 then
      upd ss n fun _ => ⟨true, eps.map fun ep => ⟨ep, 0, 0, 0, none, false, none, none⟩⟩
    else if m.1.type = 6 ∧ m.1.action = 3 then upd ss n fun _ => RecSlot.idle
    else ss) slots

/-! ### Sealed envelopes (R26, R67) -/

/-- Age of a seal sequence: older ones first; envelopes still sealing come last, in the order they began. -/
def Dev.seqAge (d : Dev) (e : Env) : Nat :=
  if e.seq = 0 then 2 ^ 33 + e.sealedAt else (e.seq + 0xFFFFFFFE - d.env.nextSeq) % 0xFFFFFFFE

/-- The envelopes that hold their claims, in seal order, with their numbers. -/
def Dev.heldEnvs (d : Dev) : List (Env × Nat) :=
  sortBy (fun x => d.seqAge x.1) (d.env.envs.zipIdx.filter fun x => x.1.phase = .sealing || x.1.phase = .sealed)

/-- Their members that act on this device. -/
def Dev.heldMembers (d : Dev) : List (Member × Nat) := d.heldEnvs.flatMap fun x => d.localMembers x.1

/-- The configuration of R26 with no envelope of its own: landed and held. What a held envelope releases stays. -/
def Dev.heldConfig (d : Dev) : Dev :=
  let held := d.heldMembers
  if d.heldEnvs.isEmpty then d
  else
    let starts := held.filter fun m => m.1.action != 3
    let d := (d.onParams fun p => overlay p (setsOf held)).onStore fun s => { s with slots := slotsAfter s.slots starts }
    let streams := d.heldEnvs.flatMap (·.1.streams)
    (d.onRes fun r => { r with streams := r.streams.filter (fun s => s.implied || !streams.any fun t => t.race == s.race)
                                ++ streams }).withImplied.withPlaces

/-! ### The configuration with an envelope's own members (R26, R27, R592) -/

/-- The streams that a member list creates, with their members, race numbers assigned: a fixed number, or the lowest
of the pool. A stream that finds the pool empty has none. -/
def ownStreams (params : List (Nat × List Byte)) (used : List Nat) (l : List (Member × Nat)) :
    List (Stream × Option Nat × Nat) :=
  (l.foldl (fun (acc : List (Stream × Option Nat × Nat) × List Nat) m =>
    if m.1.type ≠ 2 then acc
    else match streamKind m.1.src m.1.dst m.1.args with
      | none => acc
      | some k =>
        let race := (fixedRace params k).orElse fun _ => freeRace acc.2
        (acc.1 ++ [({ m.1.stream k with race := race.getD 0 }, race, m.2)], race.getD 0 :: acc.2)) ([], used)).1

/-- What seal works from: the configuration, and the envelope's own streams as they stand in it, with their members. -/
structure Plan where
  config : Dev
  own    : List (Nat × Nat)     -- race number and member
  noRace : Option Nat           -- the first member that finds the pool of race numbers empty

/-- A placement ends with the release of both grist streams of its point: its image is gone (10 R256). -/
def clearImages (gone : List Nat) (params : List (Nat × List Byte)) : List (Nat × List Byte) :=
  params.filter fun x => !(keyBlock x.1 == 0x0A && keyIdx x.1 == 0 && gone.contains (320 + 2 * keyInst x.1) &&
    gone.contains (321 + 2 * keyInst x.1))

/-- The configuration that would result from a member list (R26). -/
def Dev.planOf (d : Dev) (l : List (Member × Nat)) : Plan :=
  let h := d.heldConfig
  let gone := racesReleased l
  let freed := claimsReleased l
  let h := (h.onParams fun p => overlay (clearImages gone p) (setsOf l)).onStore fun s => { s with slots := slotsAfter s.slots l }
  let pools := (claimsMade l).filter fun c => c.kind == 5
  let h := h.onDram fun s =>
    { s with pools := (s.pools.filter fun p => !freed.any fun c => c.kind == 5 && c.unit == p.num) ++
               pools.map fun c => ⟨c.unit, c.size, c.mask, []⟩ }
  let own := ownStreams h.params (h.res.streams.map (·.race)) l
  let h := h.onRes fun r =>
    { r with streams := r.streams.filter (fun s => !gone.contains s.race) ++ own.map (·.1) }
  let mine := own.map (·.1.race)
  let h := h.onRes fun r =>
    { r with streams := r.streams.map fun s =>
        if mine.contains s.race && !s.implied && s.rate.num = 0 then
          { s with rate := (s.kind.bind fun k => h.derived k s.args).getD qZero }
        else s }
  ⟨h.withImplied.withPlaces, own.map fun o => (o.1.race, o.2.2), (own.find? fun o => o.2.1.isNone).map (·.2.2)⟩

/-- The streams that the envelope itself creates, as placed. -/
def Plan.streams (p : Plan) : List Stream :=
  p.config.res.streams.filter fun s => !s.implied && p.own.any fun o => o.1 == s.race

/-! ### Demand now (02 R46, R51, R55) -/

/-- The device without the streams that are shed. -/
def Dev.unshed (d : Dev) : Dev :=
  d.onRes fun r => { r with streams := r.streams.filter fun s => !d.gov.shed.contains s.race }

/-- The demand of each region that VCORE must meet: of what runs, and of what is sealed to land. -/
def Dev.needs (d : Dev) : List Q :=
  let now := d.unshed.demands
  if d.heldEnvs.isEmpty then now else List.zipWith qMax now d.heldConfig.unshed.demands

end Sys2Proof.Machine
end

