-- ==== Sys2Proof/Machine/Governor.lean ====
section
/-!
DEFINITION. The governor: capacity curves, policies, the voltage requested and its ramp, PMBus polls, the margin probe,
and thermal and speed shedding (02 R43 to R59).
-/
namespace Sys2Proof.Machine

/-! ### Capacity (R43, R44) -/

/-- Capacity at a voltage on a curve of five points, linear between them; Q4.12 as a fraction. -/
def capacityAt (curve : List Nat) (mv : Nat) : Q :=
  let v := min 900 (max 700 mv) - 700
  let i := min 3 (v / 50)
  let a := curve.getD i 0
  let b := curve.getD (i + 1) 0
  ⟨(a : Int) * 50 + ((b : Int) - a) * ((v - 50 * i : Nat) : Int), 50 * 4096⟩

def Dev.capacity (d : Dev) (r mv : Nat) : Q := capacityAt (d.gov.curves.getD r []) mv

/-- The ceiling voltage (R47, R53). -/
def Dev.ceiling (d : Dev) : Nat :=
  if d.gov.regFault then d.gov.voutMv.toNat else if d.gov.policy = 2 then d.gov.fixedMv.toNat else 900

/-- Every region's capacity at `mv` is at least its demand times `num` ÷ 100 (R47, R56). -/
def Dev.reaches (d : Dev) (needs : List Q) (num mv : Nat) : Bool :=
  (List.range 12).all fun r =>
    qLe (qDivNat (qMul (needs.getD r qZero) (qOfNat num)) 100) (d.capacity r mv)

/-! ### What is requested (R48, R49, R51) -/

/-- The speed index aimed for in every region: device demand × 1.05 or × 1.15. -/
def Dev.target (d : Dev) (needs : List Q) : Q :=
  qDivNat (qMul (peakOf needs).1 (qOfNat (if d.gov.policy = 0 then 105 else 115))) 100

/-- The voltage requested, and whether the target is past reach at 0.90 V. -/
def Dev.request (d : Dev) (needs : List Q) : Nat × Bool :=
  if d.gov.policy = 2 then (d.gov.fixedMv.toNat, false)
  else
    let t := d.target needs
    match ((List.range 41).map fun i => 700 + 5 * i).find? fun mv =>
        (List.range 12).all fun r => qLe t (d.capacity r mv) with
    | some mv => (mv, false)
    | none => (900, true)

/-- A VOUT_COMMAND write (R52). -/
def Dev.vcoreWrite (d : Dev) (mv : Nat) : Dev := (d.onGov fun g => { g with requestMv := mv }).emit (.pmbus 0x21 mv)

/-- The next write of a raise, at most 10 mV above the last request (R51). -/
def Dev.raiseStep (d : Dev) : Dev :=
  (d.onGov fun g => { g with raising := true }).vcoreWrite (min (d.gov.requestMv + 10) d.gov.finalMv)

/-- The request follows the demand: a rise starts at once, a fall is left to the lowering steps (R51). A regulator
whose mode is wrong is left at its default (R52). -/
def Dev.retarget (d : Dev) : Dev :=
  if !d.gov.voutModeOk || d.halted then d
  else
    let d := d.onGov fun g => { g with finalMv := (d.request d.needs).1 }
    if d.gov.requestMv < d.gov.finalMv && !d.gov.raising then d.raiseStep else d

/-- The governor leaves the fixed policy when it no longer carries the demand (R50). -/
def Dev.govWatch (d : Dev) : Dev :=
  if d.gov.policy = 2 && !d.reaches d.unshed.demands 102 d.gov.fixedMv.toNat then
    ((((d.onGov fun g => { g with policy := 1, fixedLeft := true }).mark 0x2004 3).reportNow 0x0031 0x0200 []).raiseNow 5).retarget
  else d

/-- GOV_CTRL_WRITE: judged on its whole new value (R49, R60). -/
def Dev.govCtrl (d : Dev) (v : Nat) : Dev :=
  let policy := bits v 17 16
  let mv := bits v 9 0
  let ok := decide (policy ≠ 3) && decide (700 ≤ mv) && decide (mv ≤ 900) && decide (mv % 5 = 0) &&
    (policy != 2 || d.reaches d.needs 102 mv)
  if ok then
    (d.onGov fun g => { g with policy := BitVec.ofNat 2 policy, fixedMv := BitVec.ofNat 10 mv }).retarget
  else ((d.onGov fun g => { g with refused := true }).mark 0x2004 2).raiseNow 5

def execGovCtrlWrite (value : Word) (s : State) : Host.Outcome State Fault Refusal :=
  .next { s with dev := s.dev.govCtrl value.toNat }

/-! ### Readings of the regulator (R51 to R53) -/

/-- A reading is within 15 mV of a voltage. -/
def near15 (a b : Nat) : Bool := decide (a ≤ b + 15) && decide (b ≤ a + 15)

/-- The regulator does not follow, after the retries (R53). -/
def Dev.regulatorFails (d : Dev) : Dev :=
  let new := !d.gov.regFault
  let d := (d.onGov fun g => { g with regFault := true, raising := false, retries := 0 }).mark 0x2004 4
  if new then (d.reportNow 0x0030 0x0200 [d.gov.requestMv, d.gov.voutMv.toNat]).raiseNow 5 else d

/-- A READ_VOUT, `ok` when neither it nor the write before it met a NACK or a PEC error: shown, and held against the
request; a raise goes on, and a reading off the request is retried up to 3 times (R51, R52). -/
def Dev.voutReading (d : Dev) (mv : Nat) (ok : Bool) : Dev :=
  let d := if ok then d.onGov fun g => { g with voutMv := BitVec.ofNat 10 (capN 10 mv) } else d
  if ok && near15 mv d.gov.requestMv then
    let d := d.onGov fun g => { g with retries := 0 }
    if !d.gov.raising then d
    else if d.gov.requestMv < d.gov.finalMv then d.raiseStep
    else d.onGov fun g => { g with raising := false }
  else if d.gov.retries < 3 then
    let d := d.onGov fun g => { g with retries := g.retries + 1 }
    if ok then d.emit (.pmbus 0x8B 0) else d.emit (.pmbus 0x21 d.gov.requestMv)
  else d.regulatorFails

/-- A STATUS_WORD with any bit set is reported; one that cannot be read is retried (R52). -/
def Dev.statusWord (d : Dev) (w : BitVec 16) (ok : Bool) : Dev :=
  if !ok then d.emit (.pmbus 0x79 0)
  else if w = 0 then d
  else d.reportNow 0x0030 0x0200 [w.toNat]

/-- SMBALERT: the alert makes the governor read STATUS_WORD (R52). -/
def execSmbalert (statusWord : BitVec 16) (ok : Bool) (s : State) : Host.Outcome State Fault Refusal :=
  .next { s with dev := s.dev.statusWord statusWord ok }

/-- VCORE_LOWER_STEP: one write of at most 10 mV down; a retry in progress delays it (R51). -/
def Dev.lowerStep (d : Dev) : Dev :=
  if d.gov.raising || decide (0 < d.gov.retries) || decide (d.gov.requestMv ≤ d.gov.finalMv) then d
  else d.vcoreWrite (max (d.gov.requestMv - 10) d.gov.finalMv)

def execVcoreLowerStep (s : State) : Host.Outcome State Fault Refusal := .next { s with dev := s.dev.lowerStep }

/-! ### Monitors and the margin probe (R43, R44, R58, R59) -/

/-- The point of the curve whose voltage VCORE sits at; 5 when it sits at none. -/
def Dev.pointNow (d : Dev) : Nat :=
  let g := d.gov
  if g.raising || g.requestMv != g.finalMv || !near15 g.voutMv.toNat g.requestMv then 5
  else ([700, 750, 800, 850, 900].findIdx (· == g.requestMv))

/-- The speed of region `r`: the lowest of its four readings (R43). -/
def slowest (readings : List Nat) (r : Nat) : Nat :=
  let l := (readings.drop (4 * r)).take 4
  l.foldl min (l.headD 0)

/-- MONITOR_WINDOW: 48 readings, four a region; the point that VCORE has sat at is refreshed. -/
def Dev.window (d : Dev) (readings : List Nat) : Dev :=
  let l := (List.range 48).map fun i => capN 16 (readings.getD i 0)
  let p := d.pointNow
  let d := d.onGov fun g =>
    { g with readings := l, curves := g.curves.zipIdx.map fun x => if p < 5 then x.1.set p (slowest l x.2) else x.1 }
  if p < 5 then d.govWatch.retarget else d

def execMonitorWindow (readings : List Nat) (s : State) : Host.Outcome State Fault Refusal :=
  .next { s with dev := s.dev.window readings }

/-- The worst region and its margin, from V1 of each region (R58, R63). -/
def worstMargin (v1 : List Int) : Nat × Int :=
  v1.zipIdx.foldl (fun (acc : Nat × Int) x => if 900 - x.1 < acc.2 then (x.2, 900 - x.1) else acc) (0, 900 - v1.headD 0)

/-- MARGIN_PROBE: at the end of its 10 ms at 0.90 V, the 0.90 V point of every region, V1 of every region and the life
margin are new. The raise to 0.90 V and the return from it are within the command: notes/assumptions/35.md. -/
def Dev.probe (d : Dev) (cap90 : List Nat) (v1 : List Int) (tj : Int) : Dev :=
  let v := (List.range 12).map fun r => v1.getD r 0
  let (r, m) := worstMargin v
  let low := decide (m < 10)
  let new := low && !d.gov.lifeBelow
  let d := d.onGov fun g =>
    { g with curves := g.curves.zipIdx.map fun x => x.1.set 4 (capN 16 (cap90.getD x.2 0)), v1 := v, probeTj := tj,
             probed := true, lifeRegion := BitVec.ofNat 4 r, lifeMv := m, lifeBelow := low,
             lifeLow := g.lifeLow || new }
  let d := if new then ((d.mark 0x2004 7).reportNow 0x0032 0x0200 [r]).raiseNow 5 else d
  d.govWatch.retarget

def execMarginProbe (capacity90 : List Nat) (v1 : List Int) (tj : Int) (s : State) : Host.Outcome State Fault Refusal :=
  .next { s with dev := s.dev.probe capacity90 v1 tj }

/-! ### Shedding (R55 to R57) -/

/-- The service that a stream delivers (23 R540). -/
def serviceOfRace (race : Nat) : Option Nat :=
  if 384 ≤ race ∧ race < 416 then some (endpoint 0x0B (race - 384))
  else if 448 ≤ race ∧ race < 480 then some (endpoint 0x10 ((race - 448) / 8))
  else if 420 ≤ race ∧ race < 428 then some (recordService (ringBolt + race - 420))
  else if 608 ≤ race ∧ race < 636 then some (recordService (ringAudio + race - 608))
  else none

/-- The stream that is shed next: the lowest priority, and within it the highest race number. -/
def Dev.nextShed (d : Dev) : Option Stream :=
  d.unshed.res.streams.foldl (fun (m : Option Stream) s => match m with
    | none => some s
    | some b => if s.prio < b.prio || (s.prio == b.prio && decide (b.race < s.race)) then some s else some b) none

/-- Shedding is called for: Tj at 108 °C, or a region short of speed at the ceiling, once a sweep has measured the regions
(R55; 24 R558). -/
def Dev.mustShed (d : Dev) : Bool :=
  decide (108 ≤ d.hottest) || (d.gov.swept && !d.reaches d.unshed.demands 102 d.ceiling)

/-- Rank 1: one stream is shed at each close while shedding is called for (R55, R56). -/
def Dev.shedRank (d : Dev) : Dev :=
  if d.mustShed then
    let d := if d.gov.shedding then d else (d.onGov fun g => { g with shedding := true }).raiseNow 4
    match d.nextShed with
    | some s =>
      let d := (d.onGov fun g => { g with shed := s.race :: g.shed }).reportNow 0x0021 s.src [s.race]
      match serviceOfRace s.race with
      | some x => d.interrupt x 2
      | none => d
    | none => d
  else if d.gov.shedding then (d.onGov fun g => { g with shedding := false }).raiseNow 4
  else d

/-- SHED_RESTORE: the stream shed last is restored, at or below 100 °C and with every region's capacity at least 1.05
times its restored demand (R56). -/
def Dev.restoreOne (d : Dev) : Dev :=
  match d.gov.shed with
  | [] => d
  | race :: rest =>
    let back := d.onGov fun g => { g with shed := rest }
    if d.hottest ≤ 100 ∧ back.reaches back.unshed.demands 105 back.ceiling then
      let d := match serviceOfRace race with
        | some x => back.deliver x
        | none => back
      d.retarget
    else d

def execShedRestore (s : State) : Host.Outcome State Fault Refusal := .next { s with dev := s.dev.restoreOne }

end Sys2Proof.Machine
end

