-- ==== Sys2Proof/Machine/Checks.lean ====
section
/-!
DEFINITION. What validation checks of parameter values beside their length and their own range, first part: lanes,
capture, front end, colour, taps and statistics (03 R73; 04 R88 to R93; 05 R124, R139, R589; 06 R148 to R167;
07 R175 to R188; 08 R197 to R215; 09 R230 to R232).
-/
namespace Sys2Proof.Machine

/-- What a seal judges its members by. -/
structure Check where
  land : Dev                    -- the landed device
  held : Dev                    -- with what is sealed and has not landed
  conf : Dev                    -- the configuration that would result (01 R26)
  l    : List (Member × Nat)    -- the envelope's own members
  base : List Claim             -- claims landed and held
  kind : Nat
  target : Nat
  landNs : Nat                  -- landing time of kinds 3 and 4

def Check.gone (x : Check) (race : Nat) : Bool := (racesReleased x.l).contains race
def Check.freed (x : Check) (kind unit : Nat) : Bool := (claimsReleased x.l).any (sameUnit ⟨kind, unit, 0, 0⟩)
def Check.made (x : Check) (kind unit : Nat) : Bool := (claimsMade x.l).any (sameUnit ⟨kind, unit, 0, 0⟩)
def Check.had (x : Check) (kind unit : Nat) : Bool := x.base.any (sameUnit ⟨kind, unit, 0, 0⟩)

/-- The unit is claimed in the configuration of 01 R26. -/
def Check.claimed (x : Check) (kind unit : Nat) : Bool := x.made kind unit || (x.had kind unit && !x.freed kind unit)

/-- A value differs from the one in force or sealed. -/
def Check.changes (x : Check) (k : Nat) (v : List Byte) : Bool := v != x.land.par k || v != x.held.par k

/-- A stream is there now, landed or sealed, and the envelope does not release it. -/
def Check.stays (x : Check) (race : Nat) : Bool := x.held.res.streams.any (·.race == race) && !x.gone race

/-- The envelope creates the stream. -/
def Check.creates (x : Check) (k : StreamKind) : Bool :=
  x.l.any fun m => m.1.type == 2 && streamKind m.1.src m.1.dst m.1.args == some k

/-- 0, or the code for a value that breaks a rule. -/
def need (ok : Bool) : Nat := if ok then 0 else 0x11

/-- The first code that is not 0. -/
def firstCode (l : List Nat) : Nat := (l.find? (· != 0)).getD 0

/-! ### Links (04 R92) -/

/-- The lanes that the link parameter of a pipeline names. -/
def capLanes (params : List (Nat × List Byte)) (p : Nat) : List Nat :=
  let v := parOf params (pkey 0x05 p 7)
  if u8 v 0 < 64 then (List.range (u8 v 1)).map (u8 v 0 + ·) else []

/-- The links that the unit claims of an envelope make: each lane that no capture link names goes to the last raster
output or chain port claimed before it, or to the first one claimed. DESIGN CHOICE: notes/assumptions/36.md. -/
def unitLinks (params : List (Nat × List Byte)) (l : List (Member × Nat)) : List (LinkId × List Nat) :=
  let capture := (List.range 8).flatMap (capLanes params)
  let linkOf := fun (c : Claim) => if c.kind = 9 then some (LinkId.raster c.unit)
    else if c.kind = 11 then some (LinkId.chain c.unit) else none
  let claims := claimsMade l
  match claims.findSome? linkOf with
  | none => []
  | some first =>
    let r := claims.foldl (fun (acc : LinkId × List (LinkId × List Nat)) c =>
      match linkOf c with
      | some k => (k, if acc.2.any (·.1 == k) then acc.2 else acc.2 ++ [(k, [])])
      | none =>
        if c.kind = 0 ∧ !capture.contains c.unit then
          (acc.1, acc.2.map fun x => if x.1 == acc.1 then (x.1, insertBy id c.unit x.2) else x)
        else acc) (first, [(first, [])])
    r.2

/-- The links of the landed device and of what is sealed, less those whose lanes the envelope frees or renames. -/
def Check.stayingLinks (x : Check) : List (LinkId × List Nat) :=
  let caps := ((List.range 8).map fun p => (LinkId.capture p, capLanes x.held.params p)).filter fun k =>
    !k.2.isEmpty && k.2.all (x.had 0) && (match k.1 with
      | .capture p => capLanes x.conf.params p == k.2
      | _ => true)
  let units := (x.land.res.links.filter fun k => match k.1 with
      | .capture _ => false
      | _ => true) ++ unitLinks x.held.params x.land.heldMembers
  (caps ++ units).filter fun k => !k.2.any (x.freed 0)

/-- A quad parameter (R88 to R91, R107). -/
def Check.quad (x : Check) (q i : Nat) (v : List Byte) : Nat :=
  let conf := fun i => x.conf.parN 0x04 q i
  if i = 2 then need (u8 v 0 != 1)
  else need (!(conf 1 == 3 && decide (100 < conf 0)) &&
    !(x.changes (pkey 0x04 q i) v && x.stayingLinks.any fun k => k.2.any fun n => n / 4 == q))

/-- A lane parameter (R93, R103). -/
def Check.lane (x : Check) (n i : Nat) (v : List Byte) : Nat :=
  if i < 2 then need (!x.changes (pkey 0x03 n i) v || !x.had 0 n || (x.freed 0 n && !x.made 0 n))
  else if i = 3 then need (decide (u8 v 0 ≤ 15) || u8 v 0 == 255)
  else 0

/-! ### Capture (05) -/

def same0 (a b : Nat) : Bool := a == 0 || b == 0 || a == b

/-- The arrangement rules; a size that is still 0 is not compared (R124; 14 R347). -/
def mergeOk (c : CapCfg) : Bool :=
  let n := List.range c.dies
  n.all (fun i => dieW c i % 8 == 0) && (match c.arr with
    | 0 => n.all fun i => same0 (dieH c 0) (dieH c i)
    | 1 => n.all fun i => same0 (dieW c 0) (dieW c i)
    | _ => c.dies == 4 && same0 (dieW c 0) (dieW c 2) && same0 (dieW c 1) (dieW c 3) &&
        same0 (dieH c 0) (dieH c 1) && same0 (dieH c 2) (dieH c 3)) &&
    decide (mergedW c ≤ 24576) && decide (mergedH c ≤ 16384) && (c.total == 0 || decide (mergedH c ≤ c.total))

/-- Dark columns and row noise against the arrangement (06 R152, R153). -/
def darkOk (params : List (Nat × List Byte)) (p : Nat) : Bool :=
  let c := capCfg params p
  let lr := fun i => (darkL params p i, darkR params p i)
  let rows := List.range (max 1 c.dies)
  (match c.arr with
    | 1 => rows.all fun i => lr i == lr 0
    | 2 => lr 0 == lr 2 && lr 1 == lr 3
    | _ => true) &&
  (u8 (frontB params p 0x44) 0 == 0 || rows.all fun i => decide (16 ≤ darkL params p i + darkR params p i))

/-- The geometry of a pipeline is set. -/
def geometrySet (params : List (Nat × List Byte)) (p : Nat) : Bool :=
  let c := capCfg params p
  mergedW c != 0 && mergedH c != 0

/-- The CFA of a pipeline: the override, else that of the head descriptor held (07 R176). -/
def Dev.cfaOf (d : Dev) (params : List (Nat × List Byte)) (p : Nat) : Option Nat :=
  let o := colourN params p 1
  if o ≠ 255 then some o else if (d.capI p).desc.isEmpty then none else some (u8 (d.capI p).desc 19)

/-- Demosaic mode against the CFA, and quad-Bayer geometry (07 R175, R179). -/
def Check.demosaicOk (x : Check) (p : Nat) : Bool :=
  let ps := x.conf.params
  let mode := colourN ps p 0
  let quad := mode == 2 || mode == 3
  (match x.land.cfaOf ps p with
    | some cfa => if mode ≤ 1 then decide (cfa ≤ 3) else if quad then cfa == 4 else true
    | none => true) &&
  (!quad || !geometrySet ps p || (devW ps p (capCfg ps p) % 4 == 0 && devH (capCfg ps p) % 4 == 0))

/-- Lens shading needs a developed frame of at least 64 × 32 while a selected set is loaded (06 R161). -/
def shadingOk (params : List (Nat × List Byte)) (p : Nat) : Bool :=
  let s := frontB params p 0x68
  let on := (shadingSet params p (u8 s 0)).isSome || (shadingSet params p (u8 s 1)).isSome
  !on || !geometrySet params p || (decide (64 ≤ devW params p (capCfg params p)) && decide (32 ≤ devH (capCfg params p)))

/-! ### Taps (08) -/

/-- The size of a buffer's pool in the configuration; none when the pool is not claimed. -/
def Check.poolSize (x : Check) (n : Nat) : Option Nat := if x.claimed 5 n then (x.conf.pool n).map (·.size) else none

/-- Crop, output size and scale of a tap (R197, R215); a size that is still 0 is not compared. -/
def cropOk (params : List (Nat × List Byte)) (p k : Nat) : Bool :=
  let c := tapCfg params p k
  let cropSet := c.w != 0 || c.h != 0 || c.x != 0 || c.y != 0
  let outSet := c.ow != 0 || c.oh != 0
  (!cropSet || (decide (64 ≤ c.w) && decide (32 ≤ c.h) && c.x % 2 == 0 && c.w % 2 == 0 &&
    (c.fmt != 2 || (c.y % 2 == 0 && c.h % 2 == 0)) &&
    (!geometrySet params p || (decide (c.x + c.w ≤ picW params p) && decide (c.y + c.h ≤ picH params p))))) &&
  (!outSet || (decide (64 ≤ c.ow) && decide (c.ow ≤ 24576) && c.ow % 8 == 0 && decide (32 ≤ c.oh) &&
    decide (c.oh ≤ 16384) && c.oh % 2 == 0)) &&
  (!cropSet || !outSet || (decide (c.ow ≤ 8 * c.w) && decide (c.w ≤ 4 * c.ow) && decide (c.oh ≤ 8 * c.h) &&
    decide (c.h ≤ 4 * c.oh)))

/-- Format, depth and transfer of a tap (R202). -/
def formatOk (params : List (Nat × List Byte)) (p k : Nat) : Bool :=
  let v := parOf params (tapKey p k 5)
  let depths := match u8 v 0 with
    | 0 | 1 | 2 | 3 => [8, 10, 12]
    | 4 => [8, 10]
    | 5 => [16]
    | _ => []
  depths.contains (u8 v 1) && decide (u8 v 2 ≤ 1) && decide (u8 v 3 ≤ 1) && (u8 v 0 == 5 || xferCode params p k != 0)

/-- No two extents of a ring meet (R206). -/
def apart : List (Nat × Nat) → Bool
  | [] => true
  | a :: r => r.all (fun b => !spanMeets a b) && apart r

/-- The raw fields of a ring parameter: 0x13 for its length, 0x11 for a rule broken (R205, R206). `fields` judges one
descriptor, `spans` gives its extents, `most` is the largest pool. -/
def Check.ringCode (x : Check) (v : List Byte) (least buffers most : Nat) (fields : List Byte → Bool)
    (spans : BufDesc → List (Nat × Nat)) : Nat :=
  let n := v.length / 32
  let raw := chunks 32 n v
  if v.length % 32 ≠ 0 ∨ n < least ∨ buffers < n then 0x13
  else if n = 0 then 0
  else
    let pool := u16 v 0
    let ext := (ringDescs v).flatMap spans
    match x.poolSize pool with
    | none => 0x11
    | some size =>
      need (decide (size ≤ most) && raw.all (fun b => u16 b 0 == pool && u16 b 2 == 0 && u32 b 28 == 0 &&
        u32 b 4 % 64 == 0 && fields b) && ext.all (fun e => decide (e.1 + e.2 ≤ size)) && apart ext)

/-- Fields of a tap descriptor: offsets and strides, unused planes 0 (R205). -/
def tapFields (c : TapCfg) (b : List Byte) : Bool :=
  let pl := planesOf c.fmt c.depth c.ow c.oh
  let off := fun i => u32 b (8 + 4 * i)
  let stride := fun i => if i = 0 then u32 b 20 else u32 b 24
  (List.range 3).all (fun i => off i % 256 == 0 && (decide (i < pl.length) || off i == 0)) &&
    u32 b 20 % 256 == 0 && u32 b 24 % 256 == 0 && pl.zipIdx.all fun (r, i) => decide (r.1 ≤ stride i)

def Check.tapRing (x : Check) (p k : Nat) (v : List Byte) : Nat :=
  let c := tapCfg x.conf.params p k
  x.ringCode v 2 16 (2 ^ 32) (tapFields c) fun b => (tapSpans c b).filter fun s => c.ow != 0 || s.1 == b.hdrOff

/-- The ring of a tap that is in force, judged again when the size or the format changes (R206). -/
def Check.tapRingStill (x : Check) (p k : Nat) : Nat :=
  let v := x.conf.par (tapKey p k 9)
  if v.isEmpty then 0 else x.tapRing p k v

/-- Everything of a pipeline that its geometry bears on (06 R152, R161; 07 R179; 08 R197). -/
def Check.pipeOk (x : Check) (p : Nat) : Bool :=
  let ps := x.conf.params
  darkOk ps p && shadingOk ps p && x.demosaicOk p && (List.range 6).all (cropOk ps p)

/-- A consumer slot (R208): detaching always, attaching only to a slot that is empty. A tap feeds encode streams and
chain proxies in order every, raster layers in order latest, and host software in either. -/
def Check.slot (x : Check) (k : Nat) (v : List Byte) (tapOnly : Bool) : Nat :=
  let ep := u16 v 0
  let there := blockHas (ep / 256) (ep % 256) == some true
  if 1 < u8 v 2 then 0x11
  else if ep = 0 then 0
  else need (u16 (x.held.par k) 0 == 0 && u16 (x.land.par k) 0 == 0 &&
    (ep == 0xFFFF || (there && ((tapOnly && ep / 256 == 0x0B && u8 v 2 == 0) ||
      (tapOnly && ep / 256 == 0x10 && u8 v 2 == 1) || (ep / 256 == 0x13 && u8 v 2 == 0)))))

def signed16s (v : List Byte) : List Int := (chunks 2 (v.length / 2) v).map fun b => toSigned 16 (leNat b)

/-- A custom kernel (R200). -/
def kernelOk (v : List Byte) : Bool :=
  let c := signed16s v
  let sums := fun n l => (chunks n 64 l).all fun (ph : List Int) => ph.foldl (· + ·) 0 == 1024
  c.all (fun a => decide (-2048 ≤ a) && decide (a ≤ 2047)) && sums 8 (c.take 512) && sums 6 (c.drop 512)

def Check.tap (x : Check) (p k i : Nat) (v : List Byte) : Nat :=
  let ps := x.conf.params
  match i with
  | 1 => need (cropOk ps p k)
  | 2 => firstCode [need (cropOk ps p k), x.tapRingStill p k]
  | 4 => need (kernelOk v)
  | 5 => firstCode [need (formatOk ps p k && cropOk ps p k), x.tapRingStill p k]
  | 9 => x.tapRing p k v
  | _ => if 0x10 ≤ i then x.slot (tapKey p k i) v true else 0

/-! ### Statistics (09 R230 to R232) -/

/-- A ring whose buffers are blocks of `n` bytes at their header offsets; the plane fields are 0. -/
def Check.blockRing (x : Check) (v : List Byte) (n : Nat) : Nat :=
  x.ringCode v 2 16 (2 ^ 40) (fun b => allZero ((b.drop 8).take 20)) fun b => [(b.hdrOff, n)]

def Check.stats (x : Check) (p i : Nat) (v : List Byte) : Nat :=
  match i with
  | 0 => x.blockRing v 16448
  | 1 => need (decide (u8 v 0 ≤ 5) && [1, 2, 4].contains (u8 v 1))
  | _ => if 0x10 ≤ i then x.slot (pkey 0x09 p i) v false else 0

/-! ### Colour (07) -/

/-- A mill-float word between two bounds. -/
def mfIn (lo hi : Int) (v : List Byte) : Bool :=
  (List.range (v.length / 4)).all fun j => decide (lo * mfOne ≤ mfWord v j) && decide (mfWord v j ≤ hi * mfOne)

def Check.colour (x : Check) (p i : Nat) (v : List Byte) : Nat :=
  match i with
  | 0 => need (x.pipeOk p)
  | 1 => need ((decide (u8 v 0 ≤ 5) || u8 v 0 == 255) && x.demosaicOk p)
  | 0x10 => need (mfIn 0 16 v)
  | 0x11 | 0x12 | 0x13 => need (mfIn (-16) 16 v)
  | 0x14 => need (mfIn (-1) 1 v)
  | 0x21 | 0x29 => need ((List.range (v.length / 4)).all fun j => u8 v (4 * j + 3) == 0)
  | 0x22 | 0x2A => need (decide (mfWord v 0 < mfWord v 1))
  | _ =>
    if 0x100 ≤ i then
      match i % 16 with
      | 1 => need (formatOk x.conf.params p ((i - 0x100) / 16) || allZero (x.conf.par (tapKey p ((i - 0x100) / 16) 5)) &&
          u8 v 0 != 0)
      | 2 | 3 | 4 => need (mfIn (-16) 16 v)
      | 6 => need (decide (0 < mfWord v 0) && decide (mfWord v 0 ≤ mfOne))
      | _ => 0
    else 0

/-! ### Front end (06) -/

/-- The distance of same-colour neighbours (R156). -/
def cfaDist (cfa : Option Nat) : Nat := match cfa with
  | some 4 => 4
  | some 5 => 1
  | _ => 2

def around (n : Nat) : List (Int × Int) :=
  let s : Int := n
  [(s, 0), (-s, 0), (0, s), (0, -s), (s, s), (s, -s), (-s, s), (-s, -s)]

/-- The members of `pts` joined to `comp` through neighbour offsets, after so many rounds. -/
def clusterOf (n : Nat) (pts : List (Int × Int)) : Nat → List (Int × Int) → List (Int × Int)
  | 0, comp => comp
  | fuel + 1, comp =>
    let joined := pts.filter fun a => !comp.contains a && comp.any fun c =>
      (around n).any fun o => (c.1 + o.1, c.2 + o.2) == a
    if joined.isEmpty then comp else clusterOf n pts fuel (comp ++ joined)

/-- The reason that each entry of a defect table fails, in entry order; 0 for none (R155). -/
def defectReasons (params : List (Nat × List Byte)) (p : Nat) (cfa : Option Nat) (v : List Byte) : List Nat :=
  let c := capCfg params p
  let table := defectTable v
  let cols := devCols params p c
  let n := cfaDist cfa
  let devX := fun (col : Nat) => let k := cols.findIdx (· == col); if k < cols.length then some k else none
  let cell := fun (e : Defect) => if e.kind = 0 then (devX e.col).map fun k => ((k : Int), (e.row : Int)) else none
  let usable := fun (a : Int × Int) =>
    decide (0 ≤ a.1) && decide (a.1 < cols.length) && decide (0 ≤ a.2) && decide (a.2 < mergedH c) &&
      !table.any fun e => e.row == a.2.toNat && e.col == cols.getD a.1.toNat 0
  table.zipIdx.map fun (e, i) =>
    let before := table.take i
    let late := before.getLast?.any fun b => decide (e.row * 2 ^ 15 + e.col ≤ b.row * 2 ^ 15 + b.col)
    if late then 1
    else if mergedH c ≤ e.row ∨ mergedW c ≤ e.col then 2
    else if 1 < e.kind then 3
    else match cell e with
      | none => 0
      | some a =>
        if ((around n).countP fun o => usable (a.1 + o.1, a.2 + o.2)) < 2 then 4
        else if 16 < (clusterOf n (before.filterMap cell) 17 [a]).length then 5
        else 0

/-- The first failing entry of a defect table: its index and reason (R155, R170). -/
def firstDefect (reasons : List Nat) : Option (Nat × Nat) :=
  let i := reasons.findIdx (· != 0)
  if i < reasons.length then some (i, reasons.getD i 0) else none

def Check.front (x : Check) (p i : Nat) (v : List Byte) : Nat :=
  let ps := x.conf.params
  match i with
  | 0x30 => need (decide (u8 v 0 ≤ 63) && decide (u8 v 0 + u8 v 1 ≤ 64))
  | 0x44 => need (decide (u8 v 0 ≤ 1) && decide (u8 v 1 ≤ 16) && decide (u16 v 2 ≤ 4095) && darkOk ps p)
  | 0x50 =>
    if v.length % 4 ≠ 0 then 0x13
    else need ((firstDefect (defectReasons ps p (x.land.cfaOf ps p) v)).isNone)
  | 0x51 => need (decide (u8 v 0 ≤ 3))
  | 0x68 => need (decide (u8 v 0 ≤ 7) && decide (u8 v 1 ≤ 7) && decide (u16 v 2 ≤ 256) && shadingOk ps p)
  | _ =>
    if within 0x40 i 0x43 then
      need (decide (u8 v 0 ≤ 64) && decide (u8 v 1 ≤ 64) && u8 v 0 % 8 == 0 && u8 v 1 % 8 == 0 && x.pipeOk p)
    else if within 0x60 i 0x67 then need (shadingOk ps p)
    else 0

/-! ### Capture parameters (05 R124, R139, R589; 04 R92) -/

/-- Placement of a capture link (04 R91, R92). Its lanes are in no other link. -/
def Check.linkOk (x : Check) (p : Nat) : Bool :=
  let lanes := capLanes x.conf.params p
  let first := lanes.headD 0
  let last := first + lanes.length - 1
  let mode := fun q => x.conf.parN 0x04 q 1
  let others := ((List.range 8).filter (· != p)).flatMap (capLanes x.conf.params)
  let units := (x.stayingLinks.filter fun k => match k.1 with
    | .capture _ => false
    | _ => true).flatMap (·.2)
  decide (last < 64) && decide (last / 4 ≤ first / 4 + 1) && lanes.all (x.claimed 0) &&
    lanes.all (fun n => !others.contains n && !units.contains n) && mode (first / 4) == mode (last / 4) &&
    (mode (first / 4) != 3 || (first % 4 == 0 && decide (lanes.length ≤ 3)))

def Check.cap (x : Check) (p i : Nat) (v : List Byte) : Nat :=
  let ps := x.conf.params
  let has := x.stays (x.held.capRace p)
  match i with
  | 5 =>
    let n := leNat v
    let desc := (x.land.capI p).desc
    need ((if n = 0 then !has else decide (100000 ≤ n)) && (n == 0 || desc.isEmpty || decide (10 ^ 12 ≤ n * u32 desc 36)))
  | 6 => need (mergeOk (capCfg ps p))
  | 7 =>
    let off := v == [0xFF, 0]
    let named := decide (u8 v 0 < 64) && decide (1 ≤ u8 v 1) && decide (u8 v 1 ≤ 8)
    need ((off || named) && !(has && x.changes (pkey 0x05 p 7) v) && (off || x.linkOk p))
  | _ =>
    if i = 0 ∨ i = 1 ∨ 0x10 ≤ i then need (mergeOk (capCfg ps p) && x.pipeOk p) else 0

end Sys2Proof.Machine
end

