-- ==== Sys2Proof/Machine/Checks2.lean ====
section
/-!
DEFINITION. What validation checks of parameter values beside their length and their own range, second part: mills,
codecs, bolter, raster, audio, store, memory rate, time, chain and launch slots (10 R256 to R261; 11 R272 to R291;
12 R301, R308; 18 R439 to R450; 19 R459 to R473; 15 R388; 17 R428; 20 R490; 21 R514).
-/
namespace Sys2Proof.Machine

/-! ### Grist (10 R256, R257, R261) -/

/-- The images that the envelope itself places in pipeline `p`, with their instances. -/
def Check.ownImages (x : Check) (p : Nat) : List (Nat × Image10) :=
  x.l.filterMap fun m =>
    if m.1.isParam && keyBlock m.1.key == 0x0A && keyIdx m.1.key == 0 && keyInst m.1.key / 4 == p then
      some (keyInst m.1.key, imageOf m.1.value) else none

/-- Pages and banks of an image equal the envelope's claims in every cluster of its mask, beside those of the other
images that the same envelope places there (R256). -/
def Check.imageClaims (x : Check) (inst : Nat) (v : List Byte) : Bool :=
  let im := imageOf v
  let p := inst / 4
  (imageClusters im).all fun j =>
    let here := (x.ownImages p).filter fun o => bit o.2.mask j
    let others := here.filter (·.1 != inst)
    let fits := fun (kind : Nat) (mask : Image10 → Nat) => (List.range 16).all fun b =>
      (here.any fun o => bit (mask o.2) b) == x.made kind (64 * p + 16 * j + b) &&
        !(bit (mask im) b && others.any fun o => bit (mask o.2) b)
    fits 3 (·.banks) && fits 4 (·.pages)

def Check.mill (x : Check) (inst i : Nat) (v : List Byte) : Nat :=
  let p := inst / 4
  let limit := fun n => 64 + n
  match i with
  | 0 =>
    let free := fun k => (x.held.par (pkey 0x0A inst 0)).isEmpty || (x.gone (320 + 2 * k) && x.gone (321 + 2 * k))
    firstCode [imageCode v (inst % 4) (fun k => xferCode x.conf.params p k),
      need (x.imageClaims inst v && free inst && x.creates (.grist inst false) && x.creates (.grist inst true))]
  | 2 =>
    let ring := x.conf.par (pkey 0x0A inst 3)
    firstCode [need (leNat v % 16 == 0), if ring.isEmpty then 0 else x.blockRing ring (limit (leNat v))]
  | 3 => x.blockRing v (limit (x.conf.parN 0x0A inst 2))
  | _ => if 0x10 ≤ i then x.slot (pkey 0x0A inst i) v false else 0

/-! ### Encode streams (11 R272 to R290) -/

/-- A ring of payload buffers: header offset, payload offset and capacity (11 R286). -/
def payloadFields (b : List Byte) : Bool :=
  u32 b 8 % 256 == 0 && u32 b 12 == 0 && u32 b 16 == 0 && u32 b 20 % 256 == 0 && u32 b 24 == 0

/-- A row of R275: the tap formats, depths and GOP codes that it takes. -/
def profileOk (row fmt depth gop : Nat) : Bool :=
  match row with
  | 0 => fmt == 2 && depth == 8
  | 1 => fmt == 2 && (depth == 8 || depth == 10)
  | 2 => (fmt == 1 || fmt == 2) && (depth == 8 || depth == 10)
  | 3 => (fmt == 1 || fmt == 2) && (depth == 8 || depth == 10) && gop == 0
  | 4 => decide (fmt ≤ 2) && (depth == 8 || depth == 10 || depth == 12) && gop == 0
  | _ => false

/-- M and r of a GOP code (R278). -/
def gopOk (gop m r : Nat) : Bool :=
  match gop with
  | 0 => m == 1
  | 1 | 2 => m == 1 && within 1 r 4
  | 3 => (m == 2 || m == 4 || m == 8) && within 2 r 4
  | _ => false

/-- Widths in luma samples of the tile columns of a stream on `k` cores (R274). -/
def tileWidths (w k : Nat) : List Nat :=
  let n := ceilDiv w 64
  (List.range k).map fun i => min w (((i + 1) * n / k) * 64) - (i * n / k) * 64

/-- The arguments and parameters of an encode stream in the configuration (R272 to R289). -/
def Check.encodeOk (x : Check) (st : Stream) (p k s : Nat) : Bool :=
  let ps := x.conf.params
  let a := st.args
  let c := tapCfg ps p k
  let cores := which 8 fun i => bit (u8 a 0) i
  let high := u8 a 2 == 1
  let w := codedW ps p k
  let h := codedH ps p k
  let (pb, qb) := x.conf.reconBytes p k
  let n := if u8 a 3 = 0 then 0 else u8 a 5
  let cap := u64 (encB ps s 3) 0
  let level := lowestLevel w h (codedRate ps s p) (max cap (u64 (encB ps s 4) 0)) (u32 (encB ps s 4) 8) cores.length high
    (u8 a 1)
  let ring := x.conf.par (pkey 0x0B s 0xA)
  decide (1 ≤ cores.length) && decide (cores.length ≤ 4) && decide (u8 a 2 ≤ 1) && gopOk (u8 a 3) (u8 a 4) (u8 a 5) &&
    profileOk (u8 a 1) c.fmt c.depth (u8 a 3) && (tileWidths w cores.length).all (fun b => decide (256 ≤ b)) &&
    decide (u8 a 4 + 2 ≤ (x.conf.par (tapKey p k 9)).length / 32) &&
    (match level with
      | some l => encN ps s 9 == 0 || (decide (l.idc ≤ encN ps s 9) && hLevels.any fun y => y.idc == encN ps s 9)
      | none => false) &&
    (x.poolSize (encN ps s 0xB)).any (fun size => decide ((n + 1) * (pb + qb) + 1048576 ≤ size)) &&
    (u8 a 3 != 3 || encN ps s 5 % max 1 (u8 a 4) == 0) && !ring.isEmpty

/-- The encode stream of the configuration that carries number `s`. -/
def Check.encodeStill (x : Check) (s : Nat) : Bool :=
  match x.conf.encStream s with
  | some st => x.encodeOk st (tapOf st.src).1 (tapOf st.src).2 s
  | none => true

def Check.enc (x : Check) (s i : Nat) (v : List Byte) : Nat :=
  let own := match i with
    | 2 =>
      let off := fun j => toSigned 8 (u8 v j)
      need (decide (u8 v 0 ≤ 51) && [1, 2, 3].all (fun j => decide (-12 ≤ off j) && decide (off j ≤ 12)) &&
        decide (u8 v 5 ≤ 51) && decide (u8 v 4 ≤ u8 v 5))
    | 3 => need (within 1 (u16 v 8) 240)
    | 4 => need (decide (u8 v 16 ≤ 1))
    | 0xA => x.ringCode v 2 16 (2 ^ 32) payloadFields encSpans
    | _ => 0
  let frozen := [0, 8, 9, 0xA, 0xB].contains i
  firstCode [own, need (!(frozen && x.stays (384 + s) && x.changes (pkey 0x0B s i) v)), need (x.encodeStill s)]

/-! ### Decode cores and bolter (11 R291; 12 R301, R308) -/

def Check.dec (x : Check) (i : Nat) (v : List Byte) : Nat :=
  match i with
  | 1 => x.ringCode v 2 16 (2 ^ 32) (fun b => u32 b 8 % 256 == 0 && u32 b 12 % 256 == 0 && u32 b 16 == 0 &&
      u32 b 20 % 256 == 0 && u32 b 24 % 256 == 0) fun b => [(b.hdrOff, 64)]
  | 2 => need (x.claimed 5 (leNat v))
  | _ => 0

def Check.bolt (x : Check) (n i : Nat) (v : List Byte) : Nat :=
  let ring := x.conf.par (pkey 0x0D n 0)
  let list := x.conf.par (pkey 0x0D n 1)
  let both := need (ring.isEmpty || list.isEmpty || (u16 ring 0 == u16 list 0 &&
    apart ((ringDescs ring ++ ringDescs list).flatMap encSpans)))
  match i with
  | 0 => firstCode [x.ringCode v 2 16 (2 ^ 32) payloadFields encSpans, both]
  | 1 => firstCode [x.ringCode v 0 256 (2 ^ 32) payloadFields encSpans, both]
  | _ => need ([4, 8, 16].contains (u8 v 0))

/-! ### Raster outputs (18) -/

/-- The timing rules (R440). -/
def timingOk (t : RasTiming) (tickNs : Nat) : Bool :=
  within 25000000 t.clock 1200000000 && within 64 t.hAct 8192 && t.hAct % 8 == 0 && decide (t.hTot ≤ 16383) &&
    within 32 t.vAct 4320 && decide (10 ≤ t.vBlank) && decide (t.vTot ≤ 8191) &&
    decide ((tickNs + 4000) * t.clock ≤ 8 * t.hTot * 1000000000)

/-- The lock value against the timing: the frame rate within 200 ppm (R441). -/
def lockOk (v : List Byte) (t : RasTiming) : Bool :=
  let num := u32 v 1
  let den := u32 v 5
  if u8 v 0 = 0 then true
  else u8 v 0 == 1 && num != 0 && den != 0 && (t.clock == 0 ||
    -- |num ÷ den − clock ÷ total| ≤ 200 ppm of clock ÷ total
    let a : Int := (num * (t.hTot * t.vTot) : Nat)
    let b : Int := (t.clock * den : Nat)
    decide ((a - b).natAbs * 1000000 ≤ 200 * b.toNat))

/-- What an enabled layer must keep (R442, R443). -/
def Check.layerOk (x : Check) (o l : Nat) : Bool :=
  let c := x.conf
  let y := c.layerP o l
  let t := c.timingP o
  let onTap := decide (y.src / 256 = 8) && blockHas 8 (y.src % 256) == some true
  let (p, k) := tapOf y.src
  let others := (List.range 16).filter fun n => n != 4 * o + l && (c.layerP (n / 4) (n % 4)).on &&
    (c.cloneOf (n / 4)).isNone && (c.layerP (n / 4) (n % 4)).src == y.src
  decide (y.fmt ≤ 3) && (!y.on ||
    ((t.clock == 0 || (decide (y.x < t.hAct) && decide (y.y < t.vAct))) &&
      (y.src == 0xFFFF || (onTap && (tapCfg c.params p k).fmt == 4 && others.isEmpty &&
        (List.range 4).any fun n =>
          let s := c.par (tapKey p k (0x10 + n))
          u16 s 0 == rasEp o && u8 s 2 == 1))))

/-- A host buffer (R444, R450): rules of 08 R205, and its expected postmark in the same envelope. -/
def Check.hostBufferOk (x : Check) (o l : Nat) (v : List Byte) : Bool :=
  let row := u16 v 14 * layerBytes (x.conf.layerP o l).fmt
  let px := (u32 v 6, u32 v 10 * (u16 v 16 - 1) + row)
  (x.poolSize (u16 v 0)).any (fun size => decide (size ≤ 2 ^ 32) && decide (u32 v 2 + 64 ≤ size) &&
    decide (px.1 + px.2 ≤ size)) && u32 v 2 % 64 == 0 && u32 v 6 % 256 == 0 && u32 v 10 % 256 == 0 &&
    decide (row ≤ u32 v 10) && !spanMeets (u32 v 2, 64) px &&
    x.l.any fun m => m.1.isParam && m.1.key == pkey 0x10 o (0x30 + l)

/-- The hold of a running output with a host layer fits its pool (R450). -/
def Check.holdOk (x : Check) (o : Nat) : Bool :=
  let c := x.conf
  let t := c.timingP o
  !(c.outOn o && (c.cloneOf o).isNone && (List.range 4).any fun l => (c.layerP o l).on && (c.layerP o l).src == 0xFFFF) ||
    (x.poolSize (u16 (c.rasP o 6) 0)).any fun size =>
      decide (2 * t.hAct * t.vAct * (if u8 (c.rasP o 2) 0 = 12 then 8 else 4) ≤ size)

def Check.raster (x : Check) (o i : Nat) (v : List Byte) : Nat :=
  let c := x.conf
  let tick := c.parN 0x01 0 0
  let clone := (c.cloneOf o).isSome
  let t := timingOf (c.rasP o 1)
  firstCode [
    need (!(clone && (i == 1 || i == 3 || decide (0x10 ≤ i)))),
    match i with
    | 0 => need (u8 v 0 == 0 || timingOk (c.timingP o) tick)
    | 1 => need (timingOk t tick && lockOk (c.rasP o 3) t)
    | 2 => need ([8, 10, 12].contains (u8 v 0))
    | 3 => need (lockOk v t)
    | 4 => need (u8 v 0 == 255 || (decide (u8 v 0 < 4) && u8 v 0 != o && (c.cloneOf (u8 v 0)).isNone &&
        (List.range 4).all fun n => c.cloneOf n != some o))
    | 6 => need (decide (leNat v ≤ 255))
    | _ =>
      if within 0x10 i 0x13 then need (decide (u8 v 0 ≤ 1) && x.layerOk o (i - 0x10))
      else if within 0x20 i 0x23 then need (x.hostBufferOk o (i - 0x20) v)
      else 0,
    need (x.holdOk o)]

/-! ### Audio (19) -/

/-- The domain of a port, or of a domain's own instance; none for an AES3 receiver (R458). -/
def domainOf (p : Nat) : Option Nat :=
  if p = 28 then some 0 else if p = 29 then some 1
  else if isAes3Rx p then none else if isOut p then some 0 else some 1

def Check.audio (x : Check) (p i : Nat) (v : List Byte) : Nat :=
  if 28 ≤ p then
    match i with
    | 0 => need ((leNat v == 48000 || leNat v == 96000) && !(x.changes (pkey 0x11 p 0) v &&
        (List.range 28).any fun n => domainOf n == domainOf p &&
          (x.held.parN 0x11 n 0 == 1 || x.land.parN 0x11 n 0 == 1)))
    | 2 => need (decide (u8 v 0 < 28) && !isOut (u8 v 0))
    | _ => 0
  else
    let samples := 4 * x.conf.portPeriod p * x.conf.portChannels p
    let ringOf := fun r => x.ringCode r 2 16 (2 ^ 32)
      (fun b => payloadFields b && decide (samples ≤ u32 b 20)) (audioSpans samples)
    let ring := x.conf.par (pkey 0x11 p 2)
    match i with
    | 1 => need (decide (u8 v 0 ≤ 63) || u8 v 0 == 255)
    | 2 => ringOf v
    | 3 => need (leNat v == 0xFFFF || (isOut p && decide (leNat v < 28) && !isOut (leNat v)))
    | 4 => firstCode [need (leNat v % 16 == 0), if ring.isEmpty then 0 else ringOf ring]
    | 5 => need (decide (u8 v 2 ≤ 1))
    | _ => 0

/-! ### The rest -/

def Check.lslot (x : Check) (n i : Nat) (v : List Byte) : Nat :=
  let period := leNat (x.conf.par (pkey 0x16 n 1))
  let pin := x.conf.par (pkey 0x16 n 2)
  let ok := period == 0 || (decide (x.conf.parN 0x01 0 0 ≤ period) && decide (period ≤ 10 ^ 12) &&
    decide (u32 pin 0 < period))
  match i with
  | 1 => need ok
  | 2 => need (within 8 (u32 v 0) (10 ^ 9) && decide (u8 v 4 ≤ 1) && ok)
  | _ => 0

/-- The fastest rate of 17 R412 that every populated die allows (17 R428). -/
def Dev.rateAllowed (d : Dev) (n : Nat) : Bool :=
  dramRates.contains n && (populated d.dram).all fun c => decide (n ≤ (d.chanI c).limit)

/-- A quad of a chain port runs at 16.0 Gbaud (21 R503), and one of a chain port or a raster output takes
reference B (04 R90). -/
def Check.quadUse (x : Check) (q : Nat) : Bool :=
  (x.stayingLinks ++ unitLinks x.conf.params x.l).all fun k =>
    !k.2.any (fun n => n / 4 == q) || (match k.1 with
      | .chain _ => x.conf.parN 0x04 q 0 == 160 && x.conf.parN 0x04 q 1 == 2
      | .raster _ => x.conf.parN 0x04 q 1 == 2
      | .capture _ => true)

/-- Everything that a value breaks beside its own range: 0, 0x11, or 0x13 for a length that the value itself gives. -/
def Check.value (x : Check) (key : Nat) (v : List Byte) : Nat :=
  let n := keyInst key
  let i := keyIdx key
  match keyBlock key with
  | 0x01 => need (1000000000 % leNat v == 0)
  | 0x03 => x.lane n i v
  | 0x04 => firstCode [x.quad n i v, need (x.quadUse n)]
  | 0x05 => x.cap n i v
  | 0x06 => x.front n i v
  | 0x07 => x.colour n i v
  | 0x08 => x.tap (n / 8) (n % 8) i v
  | 0x09 => x.stats n i v
  | 0x0A => x.mill n i v
  | 0x0B => x.enc n i v
  | 0x0C => x.dec i v
  | 0x0D => x.bolt n i v
  | 0x0E => need (i != 0 || decide ((leNat v : Int) ≤ qFloor (writeCapacity x.land.store)))
  | 0x0F => need (x.land.rateAllowed (leNat v))
  | 0x10 => x.raster n i v
  | 0x11 => x.audio n i v
  | 0x13 =>
    if i = 2 then need (decide (leNat v ≤ 255) || leNat v == 0xFFFF)
    else if i = 8 then need (decide (u8 v 0 < 64)) else 0
  | 0x14 =>
    if 0x8000 ≤ i then need (decide (u8 v 0 ≤ 15) && decide (u8 v 1 ≤ 63) && decide (u8 v 2 ≤ 1) && decide (u8 v 3 ≤ 1))
    else 0
  | 0x16 => x.lslot n i v
  | _ => 0

end Sys2Proof.Machine
end

