-- ==== Sys2Proof/Machine/Validation.lean ====
section
/-!
DEFINITION. Step 1 of seal: every member validated in member order (03 R73, R83; 14 R344, R345, R353 to R356; 01 R24;
05 R131, R134, R139; 09 R226, R229, R231; 15 R383; 20 R489).
-/
namespace Sys2Proof.Machine

/-! ### What the members are judged in (01 R26) -/

/-- The value lies in the range of a numeric parameter. -/
def inRange (f : PInfo) (v : List Byte) : Bool :=
  !f.numeric ||
    (let n : Int := if f.signed then toSigned (8 * v.length) (leNat v) else leNat v
     decide (f.least ≤ n) && decide (n ≤ f.most))

def lengthOk (f : PInfo) (v : List Byte) : Bool := decide (f.lo ≤ v.length) && decide (v.length ≤ f.hi)

/-- A parameter member whose value is well formed by itself. -/
def plainMember (m : Member) : Bool :=
  match paramInfo m.key with
  | some f => !f.ro && lengthOk f m.value && inRange f m.value
  | none => false

/-- The members less those parameter members that are ill formed, and all but the first that sets a key: a value is
judged beside the others that could be in force with it. -/
def judgedMembers (l : List (Member × Nat)) : List (Member × Nat) :=
  l.filter fun m => !m.1.isParam || (plainMember m.1 &&
    !l.any fun o => o.1.isParam && plainMember o.1 && o.1.key == m.1.key && decide (o.2 < m.2))

/-- The units that envelopes hold from seal (01 R17). -/
def heldClaims (d : Dev) : List Claim := claimsMade d.heldMembers

def Dev.checkOf (d : Dev) (e : Env) : Check :=
  let l := d.localMembers e
  { land := d, held := d.heldConfig, conf := (d.planOf (judgedMembers l)).config, l := l,
    base := d.res.claims ++ heldClaims d, kind := e.kind, target := e.target, landNs := e.land }

/-! ### Parameters (14 R344, R345; 01 R31) -/

/-- The tick period lands only at a whole second of an absolute or chain-wide time (01 R31). -/
def Check.kindOk (x : Check) (f : PInfo) (key : Nat) : Bool :=
  bit f.kinds x.kind && (key != pkey 0x01 0 0 || x.landNs % 1000000000 == 0)

/-- A steering parameter of the receive domain, which does not steer (19 R471): notes/assumptions/128.md. -/
def receiveSteering (k : Nat) : Bool := keyBlock k == 0x11 && keyInst k == 29 && within 1 (keyIdx k) 4

def Check.param (x : Check) (m : Member) : Nat :=
  match paramInfo m.key with
  | none => if receiveSteering m.key then 0x11 else 0x10
  | some f =>
    if f.ro then 0x10
    else
      let long := lengthOk f m.value
      let code := if !long then 0 else if !inRange f m.value then 0x11 else x.value m.key m.value
      if code = 0x11 then 0x11
      else if !x.kindOk f m.key then 0x12
      else if !long ∨ code ≠ 0 then 0x13
      else 0

/-! ### Streams (14 R354; 01 R24; 05 R139) -/

/-- The fields of the head descriptor that bound a capture: die count, arrangement, depths, die widths and lines, and
largest frame rate in frames per 1,000 s (05 R138, R139). -/
def withinDescriptor (c : CapCfg) (desc : List Byte) : Bool :=
  c.arr == u8 desc 17 && within 1 c.dies (u8 desc 16) && bit (u8 desc 18) ((c.depth - 10) / 2) &&
    (List.range c.dies).all (fun i =>
      within 1 (dieW c i) (u16 desc (20 + 2 * i)) && within 1 (dieH c i) (u16 desc (28 + 2 * i))) &&
    c.period != 0 && decide (10 ^ 12 ≤ c.period * u32 desc 36)

/-- A capture stream needs a discovered head on the link that its arguments and the parameter name (05 R139). -/
def Check.captureOk (x : Check) (p : Nat) (a : List Byte) : Bool :=
  let c := capCfg x.conf.params p
  let link := parOf x.conf.params (pkey 0x05 p 7)
  link == a.take 2 && u8 a 1 != 0 && x.linkOk p && link == x.land.par (pkey 0x05 p 7) &&
    (x.land.capI p).discovered && !(x.land.capI p).desc.isEmpty && withinDescriptor c (x.land.capI p).desc

/-- What a stream-create member needs beside its endpoints (14 R354 and the chapter of each kind). -/
def Check.streamNeeds (x : Check) (m : Member) (k : StreamKind) : Bool :=
  let a := m.args
  let pool := (x.poolSize (m.dst % 256)).isSome
  let given := fun ep => ep == 0xFFFF || ep / 256 != 0x0F || (x.poolSize (ep % 256)).isSome
  match k with
  | .capture p => x.captureOk p a
  | .rawTap p =>
    decide (u8 a 0 ≤ 2) && [10, 12, 14, 16].contains (u8 a 1) &&
      (u8 a 0 != 0 || u8 a 1 == (capCfg x.conf.params p).depth)
  | .boltOut n =>
    within 16 (u8 a 0) 64 && x.claimed 8 n && pool && (x.conf.rawTapOf n).isSome
  | .tap _ _ | .stats _ => pool
  | .grist _ _ => true
  | .encode p k s =>
    x.encodeOk (m.stream (.encode p k s)) p k s && !x.stays (384 + s) &&
      (which 8 fun i => bit (u8 a 0) i).all fun c => decide ((x.conf.res.streams.countP fun t => match t.kind with
        | some (.encode _ _ _) => bit (u8 t.args 0) c
        | _ => false) ≤ 8)
  | .decode c => x.claimed 7 c && pool
  | .layer _ _ => given m.src
  | .audio _ => given m.src && given m.dst
  | .lane g _ => x.claimed 8 (8 + g) && given m.src && given m.dst
  | .writer => false
  | .proxyOut _ => x.kind == 4
  | .proxyIn _ => x.kind == 4 && pool
  | .pool => given m.src && given m.dst

/-- Streams that follow frames do not land at a raster frame: 06 R163, 08 R214, 09 R231, 10 R258, 11 R290. -/
def framedStream : StreamKind → Bool
  | .capture _ | .rawTap _ | .boltOut _ | .tap _ _ | .stats _ | .grist _ _ | .encode _ _ _ => true
  | _ => false

/-- An endpoint names an instance past the last of its block. -/
def pastLast (ep : Nat) : Bool := ep != 0xFFFF && blockHas (ep / 256) (ep % 256) == some false

def Check.stream (x : Check) (m : Member) : Nat :=
  if pastLast m.src ∨ pastLast m.dst then 0x10
  else match streamKind m.src m.dst m.args with
  | none => 0x11
  | some k =>
    let rate := if m.rate ≠ 0 then some (qOfNat m.rate) else x.conf.derived k m.args
    if !(decide (m.prio ≤ 7) || m.prio == 0xFF) || !rate.any (fun q => decide (0 < q.num)) || !x.streamNeeds m k then 0x11
    else if x.kind = 2 ∧ framedStream k = true then 0x12
    else if !(m.policy == 0xFF || (policiesOf k).contains m.policy) then 0x14
    else 0

/-- A release needs a stream that a member has created (R69, 14 R355 by analogy: notes/assumptions/37.md). -/
def Check.streamRelease (x : Check) (m : Member) : Nat :=
  need (x.held.res.streams.any fun s => !s.implied && s.race == m.race)

/-! ### Claims (14 R355; 04 R92; 21 R503) -/

/-- The units of each resource kind. Of the balls only those of the multi-function pins can be claimed (25 R573). -/
def unitOk (c : Claim) : Bool :=
  match c.kind with
  | 0 | 1 => decide (c.unit < 64)
  | 2 => decide (c.unit % 256 = 64) && within 18 (c.unit / 256) 49
  | 3 | 4 => decide (c.unit < 512)
  | 5 => decide (c.unit < 256)
  | 6 => decide (c.unit < 8)
  | 7 => decide (c.unit < 2)
  | 8 => decide (c.unit < 10)
  | 9 => decide (c.unit < 4)
  | 10 => decide (c.unit < 28)
  | 11 => decide (c.unit < 2)
  | _ => false

/-- The lanes of a raster output or a chain port (04 R92). -/
def lanesPlaced (chain : Bool) (lanes : List Nat) : Bool :=
  let first := lanes.headD 0
  let row := fun n => lanes == (List.range n).map (first + ·)
  if chain then first % 4 == 0 && row 4
  else lanes.isEmpty || row 1 || (first % 2 == 0 && row 2) || (first % 4 == 0 && row 4)

/-- A raster or chain unit keeps the placement rule, and its quads take reference B, those of a chain port at
16.0 Gbaud (04 R90, R92; 21 R503). -/
def Check.placementOk (x : Check) (c : Claim) : Bool :=
  if c.kind ≠ 9 ∧ c.kind ≠ 11 then true
  else
    let id := if c.kind = 9 then LinkId.raster c.unit else LinkId.chain c.unit
    let lanes := ((unitLinks x.conf.params x.l).find? (·.1 == id)).elim [] (·.2)
    lanesPlaced (c.kind == 11) lanes && (lanes.map (· / 4)).all x.quadUse

def Check.claim (x : Check) (c : Claim) : Nat :=
  need (unitOk c && (c.kind != 5 || (c.size != 0 && c.size % 2 ^ 20 == 0 && c.mask != 0)) && x.placementOk c)

def Check.release (x : Check) (c : Claim) : Nat := need (unitOk c && x.had c.kind c.unit)

/-! ### Actions (14 R356) -/

/-- The use of a launch slot and what it needs (20 R489, 05 R135). -/
def Check.armOk (x : Check) (slot : Nat) (a : List Byte) : Bool :=
  let ep := u16 a 11
  x.claimed 1 slot && decide (u32 a 6 < 1000000000) &&
    (match u8 a 10 with
      | 0 => ep == 0 && x.claimed 2 (u16 a 14)
      | 1 => decide (ep / 256 = 0x05) && decide (ep % 256 < 8) && within 1 (u8 a 13) 3 &&
          (x.land.linkI (.capture (ep % 256))).up
      | 2 => ep == endpoint 0x13 0 || ep == endpoint 0x13 1
      | 3 => ep == 0x11FF
      | _ => false)

/-- A recording start (15 R383): the slot is free, and each source is no source of a slot and has a free consumer
slot. -/
def Check.startOk (x : Check) (m : Member × Nat) : Bool :=
  let (n, eps, _) := recArgs m.1.actArgs
  let slots := slotsAfter x.held.store.slots (x.l.filter fun o => o.1.action == 2 && decide (o.2 < m.2))
  let taken := slots.flatMap fun s => s.sources.map (·.ep)
  decide (n < 8) && within 1 (u8 m.1.actArgs 1) 8 && !(slots.getD n RecSlot.idle).running && eps.eraseDups == eps &&
    eps.all fun ep => !taken.contains ep && (match sourceRing ep with
      | some r => !(x.conf.par (sourceKey ep)).isEmpty && decide ((x.land.ringI r).attached.length < 4)
      | none => false)

def Check.action (x : Check) (m : Member × Nat) : Nat :=
  let a := m.1.actArgs
  let n := keyInst m.1.target
  let framed := !(x.kind == 2)          -- lands at kinds 0, 1, 3 and 4
  let timed := bit k034 x.kind          -- lands at kinds 0, 3 and 4
  match actionTarget m.1.action m.1.target with
  | none => 0x11
  | some false => 0x10
  | some true =>
    let (ok, kinds) := match m.1.action with
      | 1 => (x.armOk n a, true)
      | 2 => (x.startOk m, framed)
      | 3 => (decide (u8 a 0 < 8), framed)
      | 0x20 => (within 1 (u8 a 0) 9 && x.conf.parN 0x03 n 2 == 1, timed)
      | 0x21 => (true, timed)
      | 0x30 | 0x31 => (true, framed)
      | _ => (true, true)
    if !ok then 0x11 else if !kinds then 0x12 else 0

/-! ### Control letters (05 R131, R134; 09 R226, R229) -/

def protocolLetter (m : Member) : Bool :=
  m.cls == 5 && (match m.addr with
    | 0xF000 => m.data == [0]
    | 0xF001 => decide (m.data.length = 1) && decide (u8 m.data 0 ≤ 3)
    | 0xF002 => m.data == [0xA5]
    | _ => false)

def Check.letter (x : Check) (m : Member) : Nat :=
  let lat := x.land.latency m.pipe m.cls
  if 8 ≤ m.pipe then 0x10
  else if 8 ≤ m.cls ∨ (0xF000 ≤ m.addr ∧ protocolLetter m = false) ∨ (x.land.capI m.pipe).desc.isEmpty ∨ lat = 15 ∨
      (m.cls = 3 ∧ !(x.l.any fun o => o.1.isParam && o.1.key == pkey 0x05 m.pipe 5)) then 0x11
  else if ((x.kind = 1 ∨ x.kind = 2) ∧ lat = 0) ∨ (x.kind = 1 ∧ m.pipe ≠ x.target) then 0x12
  else 0

/-! ### Duplicates (R73) -/

/-- Two members set one parameter, release one stream, claim or release one unit, create one fixed race number, or are
one action on one target. -/
def clash (params : List (Nat × List Byte)) (a b : Member) : Bool :=
  let fixed := fun (m : Member) => (streamKind m.src m.dst m.args).bind (fixedRace params)
  (a.isParam && b.isParam && a.key == b.key) ||
    (a.type == b.type && (match a.type with
      | 2 => (fixed a).isSome && fixed a == fixed b
      | 3 => a.race == b.race
      | 4 | 5 => sameUnit a.claim b.claim
      | 6 => a.action == b.action && a.target == b.target &&
          (!(a.action == 2 || a.action == 3) || u8 a.actArgs 0 == u8 b.actArgs 0)
      | _ => false))

def Check.duplicate (x : Check) (m : Member × Nat) : Nat :=
  if x.l.any fun o => decide (o.2 < m.2) && clash x.conf.params o.1 m.1 then 0x15 else 0

/-! ### A member, and all of them -/

/-- The code with which a member fails validation; 0 when it passes. -/
def Check.member (x : Check) (m : Member × Nat) : Nat :=
  firstCode [match m.1.type with
    | 0 | 1 => x.param m.1
    | 2 => x.stream m.1
    | 3 => x.streamRelease m.1
    | 4 => x.claim m.1.claim
    | 5 => x.release m.1.claim
    | 6 => x.action m
    | _ => x.letter m.1, x.duplicate m]

/-- A member of a chain-wide envelope names a device of the participant set (R83). -/
def destOk (e : Env) (m : Member) : Bool :=
  match e.chain with
  | some c => !c.isCoord || m.toAll || c.members.contains m.dest
  | none => true

/-- The first member that fails validation, and its code (R73 step 1). -/
def Dev.validate (d : Dev) (e : Env) : Option (Nat × Nat) :=
  let x := d.checkOf e
  e.members.zipIdx.findSome? fun m =>
    let code := if !destOk e m.1 then 0x10
      else if x.l.any (·.2 == m.2) then x.member m else 0
    if code = 0 then none else some (code, m.2)

/-- The defect table that made a member fail, noted for FRONT (06 R155, R170). -/
def Dev.noteDefects (d : Dev) (e : Env) (failed : Nat × Nat) : Dev :=
  match e.members[failed.2]? with
  | some m =>
    if failed.1 = 0x11 ∧ m.isParam ∧ keyBlock m.key = 0x06 ∧ keyIdx m.key = 0x50 then
      let p := keyInst m.key
      let conf := (d.checkOf e).conf
      match firstDefect (defectReasons conf.params p (d.cfaOf conf.params p) m.value) with
      | some (i, why) => d.onPipeI p fun s => { s with rejWhy := BitVec.ofNat 3 why, rejIndex := BitVec.ofNat 15 i }
      | none => d
    else d
  | none => d

/-- The first member that arms a slot for more than 86,400 s after the landing; kinds 0, 1 and 2 count from device time
at the completion of seal (20 R489). -/
def Dev.armedTooFar (d : Dev) (e : Env) : Option Nat :=
  let from' := if e.kind = 3 ∨ e.kind = 4 then e.land else d.nowNs
  ((d.localMembers e).find? fun m => m.1.type == 6 && m.1.action == 1 &&
    decide (from' + 86400 * 1000000000 < u48 m.1.actArgs 0 * 1000000000 + u32 m.1.actArgs 6)).map (·.2)

end Sys2Proof.Machine
end

