-- ==== Sys2Proof/Machine/Admission.lean ====
section
/-!
DEFINITION. Steps 3 and 4 of seal: conflicts with sealed envelopes (03 R76) and admission checks 1 to 8 (01 R28), each
naming the member at fault.
-/
namespace Sys2Proof.Machine

/-! ### Which member a failing check names (01 R28: notes/assumptions/38.md) -/

/-- The smallest of a list of member indices. -/
def firstMember (l : List Nat) : Option Nat := l.foldl (fun (m : Option Nat) n => some (m.elim n (min n))) none

/-- The members of the envelope that create one of these streams. -/
def Plan.creators (p : Plan) (races : List Nat) : List Nat :=
  (p.own.filter fun o => races.contains o.1).map (·.2)

/-- Members that name a block instance: by a parameter, or as an end of a stream. -/
def naming (l : List (Member × Nat)) (block inst : Nat) : List Nat :=
  (l.filter fun m => (m.1.isParam && keyBlock m.1.key == block && keyInst m.1.key == inst) ||
    (m.1.type == 2 && (m.1.src == endpoint block inst || m.1.dst == endpoint block inst))).map (·.2)

/-- Something past its limit: the streams that load it, and the block instances whose parameters bear on it. -/
structure Excess where
  races : List Nat
  parts : List (Nat × Nat)

/-- The member named for an excess: the first that creates one of its streams, else the first that names one of its
parts, else member 0. -/
def Plan.blame (p : Plan) (l : List (Member × Nat)) (x : Excess) : Nat :=
  ((firstMember (p.creators x.races)).orElse fun _ =>
    firstMember (x.parts.flatMap fun b => naming l b.1 b.2)).getD 0

/-- The first member named over all that is past its limit; none when nothing is. -/
def Plan.blameAll (p : Plan) (l : List (Member × Nat)) (xs : List Excess) : Option Nat :=
  firstMember (xs.map (p.blame l))

/-! ### Check 1: resources and race numbers (01 R16, R17, R20; 03 R75; 11 R272; 17 R416) -/

/-- The encode cores that an envelope holds until it lands: of the streams that it creates or releases, and those it
claims (11 R272). -/
def coresTouched (streams : List Stream) (l : List (Member × Nat)) : List Nat :=
  let masks := (l.filterMap fun m =>
      if m.1.type = 2 then match streamKind m.1.src m.1.dst m.1.args with
        | some (.encode _ _ _) => some (u8 m.1.args 0)
        | _ => none
      else none) ++
    ((streams.filter fun s => (racesReleased l).contains s.race && decide (384 ≤ s.race) && decide (s.race < 416)).map
      fun s => u8 s.args 0)
  which 8 fun c => masks.any (fun m => bit m c) || (claimsMade l).any fun k => k.kind == 6 && k.unit == c

/-- Why a member's claim, or the race number of its stream, cannot be had. `done` are the members before it. -/
def Dev.taken (d : Dev) (plan : Plan) (l : List (Member × Nat)) (m : Member × Nat) : Bool :=
  let others := d.heldMembers
  let c := m.1.claim
  if m.1.type = 4 then
    let freed := (claimsReleased l).any (sameUnit c)
    let passes := freed && !([3, 4, 5].contains c.kind)
    if c.kind = 6 then false
    else (d.res.claims.any (sameUnit c) && !passes) || (claimsMade others).any (sameUnit c) ||
      (claimsReleased others).any (sameUnit c) ||
      (c.kind == 5 &&
        let before := (claimsMade (l.filter fun o => decide (o.2 < m.2))).filter (·.kind == 5)
        let s := before.foldl (fun s k => claimPool s k.unit k.size k.mask) d.dram
        (poolPages s c.size c.mask).isNone)
  else if m.1.type = 2 then
    match plan.own.find? (·.2 == m.2) with
    | none => false
    | some (race, _) =>
      let there := d.heldConfig.res.streams.any fun s => !s.implied && s.race == race
      let cores := match streamKind m.1.src m.1.dst m.1.args with
        | some (.encode _ _ _) => which 8 fun c => bit (u8 m.1.args 0) c
        | _ => []
      plan.noRace == some m.2 || (there && !(racesReleased l).contains race) || (racesReleased others).contains race ||
        cores.any (coresTouched d.res.streams others).contains
  else false

/-- A release of an encode stream touches its cores too. -/
def Dev.coresHeld (d : Dev) (m : Member × Nat) : Bool :=
  (m.1.type == 3 || (m.1.type == 4 && m.1.claim.kind == 6)) &&
    (coresTouched d.res.streams [m]).any (coresTouched d.res.streams d.heldMembers).contains

def Dev.check1 (d : Dev) (plan : Plan) (l : List (Member × Nat)) : Option Nat :=
  (l.find? fun m => d.taken plan l m || d.coresHeld m).map (·.2)

/-! ### Checks 2 to 4: the spine (01 R22, R28, R592) -/

/-- Spine links and sides: region, direction, and for a link its number. -/
def spineSides : List (Nat × Bool) := (List.range 12).flatMap fun r => [(r, false), (r, true)]

def Dev.linkExcess (d : Dev) (bad : List SpineHop → Bool) : List Excess :=
  spineSides.flatMap fun x => (List.range 4).filterMap fun k =>
    if bad (hopsOn d.res.streams x.1 x.2 k) then
      some ⟨(d.res.streams.filter fun s => s.spine.any fun h => h.region == x.1 && h.inbound == x.2 && h.link == k).map
        (·.race), []⟩
    else none

def Dev.check2 (d : Dev) : List Excess := d.linkExcess fun l => decide (64 < l.length)
def Dev.check3 (d : Dev) : List Excess := d.linkExcess fun l => qLt (qOfNat 43200000000) (qSum (l.map (·.rate)))
def Dev.check4 (d : Dev) : List Excess :=
  spineSides.filterMap fun x =>
    let on := fun (s : Stream) => s.spine.filter fun h => h.region == x.1 && h.inbound == x.2
    if qLt (qOfNat 172800000000) (qSum ((d.res.streams.flatMap on).map (·.rate))) then
      some ⟨(d.res.streams.filter fun s => !(on s).isEmpty).map (·.race), []⟩
    else none

/-! ### Check 5: engines -/

def past (limit : Nat) (q : Q) : Bool := qLt (qOfNat limit) q

/-- Capture rates: the pipeline at 4.8 Gpixel/s, and the link with its 2 % (02 R45, 05 R123). -/
def Dev.captureExcess (d : Dev) (p : Nat) (s : Stream) : Bool :=
  let lanes := capLanes d.params p
  let line := lanes.length * 10000000 * ((lanes.map fun n => d.parN 0x04 (n / 4) 0).foldl min 160)
  past 4800000000 (pipePixels d.params p) || qLt (qOfNat (100 * line)) (qMul (qOfNat 102) s.rate)

/-- The lanes of a raster output (04 R92). -/
def lanesOf (links : List (LinkId × List Nat)) (id : LinkId) : List Nat := (links.find? (·.1 == id)).elim [] (·.2)

/-- A line of an enabled output fits 95 % of its link (18 R452). -/
def Dev.rasterFits (d : Dev) (links : List (LinkId × List Nat)) (o : Nat) : Bool :=
  let t := d.timingP o
  let lanes := lanesOf links (.raster o)
  let m := d.parN 0x04 (lanes.headD 0 / 4) 0
  decide (t.clock ≤ 1200000000) && !lanes.isEmpty &&
    decide ((3 * u8 (d.rasP o 2) 0 * t.hAct + 24 * 8) * 100 * t.clock ≤ 8 * 95 * lanes.length * 10000000 * m * t.hTot)

/-- The engines of the configuration that are past their limits (02 R45; 05 R123; 08 R213; 10 R260; 11 R273, R291;
12 R312; 18 R452; 21 R512). -/
def Dev.check5 (d : Dev) (links : List (LinkId × List Nat)) : List Excess :=
  let perStream := d.res.streams.filterMap fun s =>
    let bad := match s.kind with
      | some (.capture p) => (d.captureExcess p s, [(0x05, p), (0x04, u8 (d.par (pkey 0x05 p 7)) 0 / 4)])
      | some (.rawTap p) => (past 4800000000 (rawPixels d.params p (u8 s.args 0)), [(0x05, p), (0x06, p)])
      | some (.tap p k) => (past 4800000000 (tapPixels' d.params p k), [(0x08, 8 * p + k), (0x05, p)])
      | some (.decode c) => (past 1000000000 (decodePixels s), [(0x0C, c)])
      | some (.lane g false) => (past 8000000000 s.rate, [(0x0D, 8 + g)])
      | _ => (false, [])
    if bad.1 then some (⟨[s.race], bad.2⟩ : Excess) else none
  let mills := (List.range 8).filterMap fun p =>
    if (List.range 4).all fun j => demandFits (clusterDemand d.params p j ((d.millI p).healthy j)) then none
    else some (⟨(List.range 8).map (320 + 8 * p + ·), ((List.range 4).map fun i => (0x0A, 4 * p + i)) ++ [(0x05, p)]⟩ : Excess)
  let cores := (List.range 8).filterMap fun c =>
    if past 1200000000 (d.coreLoad c) then
      let on := d.res.streams.filter fun s => match s.kind with
        | some (.encode _ _ _) => bit (u8 s.args 0) c
        | _ => false
      some (⟨on.map (·.race), on.flatMap fun s => match s.kind with
        | some (.encode p k n) => [(0x0B, n), (0x08, 8 * p + k), (0x05, p)]
        | _ => []⟩ : Excess)
    else none
  let outs := (List.range 4).filterMap fun o =>
    if d.outOn o && !d.rasterFits links o then some (⟨[], [(0x10, o), (0x10, (d.cloneOf o).getD o)]⟩ : Excess) else none
  let proxies := [false, true].flatMap fun inn => (List.range 2).filterMap fun p =>
    let on := d.res.streams.filter fun s => match s.kind with
      | some (.proxyOut q) => !inn && q == p
      | some (.proxyIn q) => inn && q == p
      | _ => false
    if past 5600000000 (qSum (on.map (·.rate))) then some (⟨on.map (·.race), []⟩ : Excess) else none
  perStream ++ mills ++ cores ++ outs ++ proxies

/-! ### Check 6: the worksheet of frame memory (17 R417 to R420) -/

def Dev.check6 (d : Dev) : List Excess :=
  let rate := d.parN 0x0F 0 0x8000
  let limit := chanCapacity (checkRate d.dram (if rate = 0 then none else some rate))
  (populated d.dram).filterMap fun c =>
    if past limit (d.load c) then
      some ⟨(d.res.streams.filter fun s => decide (0 < (d.streamLoad c s).num)).map (·.race), [(0x0F, 0)]⟩
    else none

/-! ### Check 7: the store (15 R381, R386, R388) -/

/-- The members that bear on recording: starts, stops, the reserve, and the source streams of running slots. -/
def Plan.recordingMembers (p : Plan) (l : List (Member × Nat)) : List Nat :=
  let sources := p.config.store.slots.flatMap fun s => s.sources.map fun x => sourceRace x.ep
  (l.filter fun m => (m.1.type == 6 && (m.1.action == 2 || m.1.action == 3)) ||
    (m.1.isParam && m.1.key == pkey 0x0E 0 0)).map (·.2) ++ p.creators sources

def Dev.storeFits (d : Dev) (starts : List (Member × Nat)) : Bool :=
  let s := d.store
  let cw := writeCapacity s
  let n := s.geom.elim 0 fun g => g.channels.length
  let clips := s.clips.length + sumBy (fun m => (recArgs m.1.actArgs).2.1.length) starts
  (starts.isEmpty || (s.geom.isSome && s.online && !s.locked && !s.offline && decide (s.spare.toNat < 2) &&
    decide (clips ≤ 65536))) &&
    qLe (qOfNat d.reserve) cw && qLe d.runningRate (qOfNat d.reserve) &&
    (List.range 8).all fun k => s.geom.all fun g => (List.range n).all fun i =>
      qLe (qDivNat (d.slotRate k) (max 1 n)) (channelRate s g i)

def Dev.check7 (plan : Plan) (l : List (Member × Nat)) : Option Nat :=
  let who := plan.recordingMembers l
  let starts := l.filter fun m => m.1.type == 6 && m.1.action == 2
  if who.isEmpty || plan.config.storeFits starts then none else firstMember who

/-! ### Check 8: speed (02 R47, R57) -/

/-- The regions in which a shed stream runs (R57). -/
def Dev.shedRegions (d : Dev) : List Nat :=
  let shed := d.res.streams.filter fun s => d.gov.shed.contains s.race
  (List.range 12).filter fun r => shed.any fun s => engineRegion s == r || s.spine.any fun h => h.region == r

/-- Regions past the ceiling, and those that shedding closes to a rise. -/
def Dev.check8 (d : Dev) (conf : Dev) : List Excess :=
  let need := conf.unshed.demands
  let now := d.heldConfig.unshed.demands
  let shed := d.shedRegions
  (List.range 12).filterMap fun r =>
    let q := need.getD r qZero
    let slow := !qLe (qDivNat (qMul q (qOfNat 102)) 100) (d.capacity r d.ceiling)
    if slow || (shed.contains r && qLt (now.getD r qZero) q) then
      some ⟨(conf.res.streams.filter fun s => engineRegion s == r || s.spine.any fun h => h.region == r).map (·.race), []⟩
    else none

/-! ### All checks, in order -/

/-- The links of the configuration with the envelope's own claims. -/
def Dev.plannedLinks (d : Dev) (e : Env) : List (LinkId × List Nat) :=
  let x := d.checkOf e
  x.stayingLinks ++ unitLinks x.conf.params x.l

/-- The first admission check that fails: its code and the member it names (01 R28). -/
def Dev.admission (d : Dev) (e : Env) : Option (Nat × Nat) :=
  let l := d.localMembers e
  let plan := d.planOf l
  let c := plan.config
  let by' := fun (code : Nat) (xs : List Excess) => (plan.blameAll l xs).map fun m => (code, m)
  ((d.check1 plan l).map fun m => (0x21, m)).orElse fun _ =>
  (by' 0x22 c.check2).orElse fun _ =>
  (by' 0x23 c.check3).orElse fun _ =>
  (by' 0x24 c.check4).orElse fun _ =>
  (by' 0x25 (c.check5 (d.plannedLinks e))).orElse fun _ =>
  (by' 0x26 c.check6).orElse fun _ =>
  ((Dev.check7 plan l).map fun m => (0x27, m)).orElse fun _ => by' 0x28 (d.check8 c)

/-! ### Conflicts (03 R76) -/

/-- Two envelopes have one effective landing point. A late kind 3 envelope lands at the next close, as another does. -/
def samePoint (a b : Env) : Bool :=
  let timed := fun (e : Env) => e.kind == 3 || e.kind == 4
  (a.kind == 0 && b.kind == 0) ||
    ((a.kind == 1 || a.kind == 2) && a.kind == b.kind && a.target == b.target && a.land == b.land) ||
    (timed a && timed b && (a.land == b.land || (a.late && b.late)))

/-- The first member that sets a parameter which a sealed envelope sets at the same point. -/
def Dev.conflict (d : Dev) (n : Nat) (e : Env) : Option Nat :=
  let others := (d.heldEnvs.filter fun o => o.2 != n && samePoint o.1 e).flatMap fun o => d.localMembers o.1
  let keys := (setsOf others).map (·.1)
  ((d.localMembers e).find? fun m => m.1.isParam && keys.contains m.1.key).map (·.2)

end Sys2Proof.Machine
end

