-- ==== Sys2Proof/Machine/Envelopes.lean ====
section
/-!
DEFINITION. Envelopes from open to sealed: their dockets, the steps of seal, the wait for a VCORE raise, returns and
receipts, and the messages of chain-wide envelopes (03 R66 to R87; 09 R226 to R228; 13 R331; 14 R358, R359; 21 R510).
-/
namespace Sys2Proof.Machine

/-! ### Receipts (13 R331) -/

/-- The result bytes of an envelope's receipt; `split` holds bytes 28 to 30. -/
def envResult (e : Env) (n member tick : Nat) (split : Nat × Nat × Nat := (0, 0, 0)) : List Byte :=
  let point := match e.kind with
    | 1 | 2 => leBytes 4 e.land ++ leBytes 4 0
    | 3 | 4 => leBytes 4 (nsOf e.land) ++ leBytes 4 (secOf e.land)
    | _ => leBytes 8 0
  leBytes 1 n ++ leBytes 1 e.kind ++ leBytes 2 member ++ leBytes 4 e.seq ++ point ++ leBytes 4 tick ++
    leBytes 1 split.1 ++ leBytes 1 split.2.1 ++ leBytes 1 split.2.2 ++ [0]

/-- The final receipt of an envelope. -/
def finalReceipt (e : Env) (n code member tick : Nat) (split : Nat × Nat × Nat := (0, 0, 0)) : Completion :=
  ⟨e.dk, 0x100 + code, envResult e n member tick split, true, true, 1, true, false⟩

/-- No member, and no chain address, is named. -/
def noMember : Nat := 0xFFFF

/-! ### Messages of chain-wide envelopes (21 R510). Their payloads: notes/assumptions/39.md -/

def refBytes (r : ChainRef) : List Byte := leBytes 1 r.coord ++ leBytes 1 r.env ++ leBytes 4 r.sealSeq

/-- Members addressed to a participant, as prepare carries them: each record, and the staged value after it. -/
def prepareParts (r : ChainRef) (land : Nat) (l : List Member) : List (List Byte) :=
  let body := l.flatMap fun m => m.record ++ m.bulk.getD []
  let head := [0] ++ refBytes r ++ leBytes 8 land
  (chunks 240 (body.length / 240 + 1) body).map fun part => head ++ part

/-- A participant's ready, or refuse with its code. -/
def readyBytes (r : ChainRef) (refuse : Option Nat) : List Byte :=
  [1] ++ refBytes r ++ leBytes 1 refuse.isSome.toNat ++ leBytes 1 (refuse.getD 0)

/-- Commit or abort, with the participant set. -/
def decisionBytes (r : ChainRef) (commit : Bool) (members : List Nat) : List Byte :=
  [2] ++ refBytes r ++ leBytes 1 commit.toNat ++ leBytes 32 (maskOf 256 members.contains)

/-- A participant's outcome. -/
def reportBytes (r : ChainRef) (landed : Bool) (code : Nat) : List Byte :=
  [3] ++ refBytes r ++ leBytes 1 landed.toNat ++ leBytes 1 code

/-- A participant's local envelope. -/
def Env.partOf (e : Env) : Option ChainPart := e.chain.bind fun c => if c.isCoord then none else some c

/-- A participant reports its outcome to the coordinator (R84). -/
def Dev.chainOutcome (d : Dev) (e : Env) (landed : Bool) (code : Nat) : Dev :=
  match e.partOf with
  | some c => d.sendTo 1 c.ref.coord (reportBytes c.ref landed code)
  | none => d

/-! ### Numbers and staging (R66, R70, R81, R82) -/

def Dev.freeEnv (d : Dev) : Option Nat := (List.range 64).find? fun n => (d.envI n).phase == .free
def Dev.envsInUse (d : Dev) : Nat := d.env.envs.countP fun e => e.phase != .free
def bulkOf (l : List Member) : Nat := sumBy (fun (m : Member) => (m.bulk.getD []).length) l

/-- Envelope staging in use: staged members and the bulk values in force. -/
def Dev.staging (d : Dev) : Nat :=
  sumBy (fun (e : Env) => bulkOf e.members) d.env.envs +
    sumBy (fun (x : Nat × List Byte) => if (paramInfo x.1).any (fun f => decide (32 < f.hi)) then x.2.length else 0) d.params

/-- Whether a bulk value of `n` bytes can be added to a member list (R81). -/
def Dev.bulkRoom (d : Dev) (l : List Member) (n : Nat) : Bool :=
  decide (bulkOf l + n ≤ 2 ^ 24) && decide (d.staging + n ≤ 2 ^ 26)

/-! ### Returns (R66, R74) -/

/-- The claims of an envelope are freed: its pools go, its races and units are no longer held. -/
def Dev.dropClaims (d : Dev) (e : Env) : Dev :=
  let pools := ((claimsMade (d.localMembers e)).filter (·.kind == 5)).map (·.unit)
  let landed := d.res.claims
  d.onDram fun s =>
    { s with pools := s.pools.filter fun p => !(pools.contains p.num && !landed.any (sameUnit ⟨5, p.num, 0, 0⟩)) }

/-- A letter's envelope is forgotten, or marked as returned with number 64 (09 R228). -/
def Dev.markLetters (d : Dev) (n : Nat) (returned : Bool) : Dev :=
  d.each (List.range 8) fun d p =>
    let d := d.onCapI p fun c =>
      { c with letters := c.letters.map fun l =>
          match l.env with
          | some (e, m) => if e = n then { l with env := if returned then some (64, m) else none } else l
          | none => l }
    d.onPipeI p fun x =>
      { x with orphans := x.orphans ++ (if returned then
                  (x.delivered.filter fun v => v.env == some n).map fun v => (v.cls, v.first, v.seq) else []),
               delivered := x.delivered.map fun v => if v.env == some n then { v with env := none } else v }

/-- An envelope is returned at seal: only its final receipt, at once; a participant answers refuse (R84, 13 R331). -/
def Dev.returnAtSeal (d : Dev) (n : Nat) (e : Env) (code member : Nat) : Dev :=
  let d := (d.onEnv fun s => { s with returned := bump s.returned }).onEnvI n fun _ => Env.empty
  match e.partOf with
  | some c => d.sendTo 1 c.ref.coord (readyBytes c.ref (some code))
  | none => d.answer (finalReceipt e n code member d.tick.count.toNat)

/-- A sealed envelope is returned: its claims are freed, letters that it sent are orphaned, and its final receipt is
due at rank 8 (R66, R74; 09 R228). `tick` is the count of the close that returns it. -/
def Dev.returnEnv (d : Dev) (n code member tick : Nat) : Dev :=
  let e := d.envI n
  let d := ((d.dropClaims e).markLetters n true).onEnv fun s => { s with returned := bump s.returned }
  let d := (d.onEnvI n fun e => { e with phase := .ended, streams := [], chain := none }).retarget
  match e.partOf with
  | some _ => d.chainOutcome e false code
  | none => (d.raiseNow 88).atClose (finalReceipt e n code member tick)

/-- Rank 8: the numbers of the envelopes whose final receipt is written are free (R66). -/
def Dev.freeNumbers (d : Dev) : Dev :=
  d.onEnv fun s =>
    { s with envs := s.envs.map fun e => if e.phase == .ended && !(e.chain.any (·.holdRcpt)) then Env.empty else e }

/-! ### Landing points (R71, R72, R79, 09 R226 to R228) -/

/-- Frame `f` is ahead of frame `c` (R72). -/
def frameAhead (f c : Nat) : Bool := within 1 ((f + 2 ^ 32 - c % 2 ^ 32) % 2 ^ 32) 16777216

/-- The control-letter members: pipeline, class and latency. -/
def Dev.letterParts (d : Dev) (e : Env) : List (Member × Nat × Nat) :=
  (d.localMembers e).filterMap fun m => if m.1.type = 7 then some (m.1, m.2, d.latency m.1.pipe m.1.cls) else none

/-- The last departure X of a letter aimed at the last gated frame, and whether it has passed (09 R227). -/
def Dev.departureOpen (d : Dev) (p : Nat) : Bool :=
  let x := d.pipeI p
  match x.prevStamp with
  | none => false
  | some st =>
    decide (d.time.dev + (1000 * d.cutoffUs p + 1000 * d.ackUs p) * 2 ^ 32 ≤ st + x.prevPeriod * 2 ^ 32)

/-- How many frames past the last gated frame a kind 1 envelope must aim for its letters to leave (09 R227, R228). -/
def Dev.framesNeeded (d : Dev) (e : Env) : Nat :=
  (d.letterParts e).foldl (fun n (m, _, lat) => max n (lat + if d.departureOpen m.pipe then 0 else 1)) 1

/-- The frame of an output whose commit point came last (18 R447): the one before the current frame while its commit
window is open. -/
def Dev.lastCommit (d : Dev) (o : Nat) : Nat :=
  let r := d.rasterI o
  if r.window then (r.frame - 1).toNat else r.frame.toNat

/-- The landing point in force for a seal that completes now, and whether it was moved (R79, 09 R228). -/
def Dev.aim (d : Dev) (e : Env) : Nat × Bool :=
  match e.kind with
  | 1 =>
    let cur := (d.pipeI e.target).frame.toNat
    let need := d.framesNeeded e
    if frameAhead e.land cur && decide (need ≤ (e.land + 2 ^ 32 - cur) % 2 ^ 32) then (e.land, false)
    else ((cur + need) % 2 ^ 32, true)
  | 2 =>
    let cur := d.lastCommit e.target
    if frameAhead e.land cur then (e.land, false) else ((cur + 1) % 2 ^ 32, true)
  | 3 => (e.land, decide (e.land * 2 ^ 32 < d.time.dev))
  | _ => (e.land, false)

/-! ### Seal (R73) -/

/-- Steps 2 to 4: limits and no-late, conflicts, admission. -/
def Dev.sealChecks (d : Dev) (n : Nat) (e : Env) : Option (Nat × Nat) :=
  let (land, late) := d.aim e
  let moved := { e with land := land, late := late }
  if (e.kind = 3 ∨ e.kind = 4) ∧ d.time.dev + 86400 * 1000000000 * 2 ^ 32 < e.land * 2 ^ 32 then some (0x31, noMember)
  else if late ∧ e.noLate then some (0x32, noMember)
  else ((d.conflict n moved).map fun m => (0x30, m)).orElse fun _ =>
    (d.admission e).orElse fun _ => if d.gov.voutModeOk && d.gov.swept then none else some (0x28, 0)

/-- What returns an envelope at its seal, as far as can be told before the wait for VCORE (R73, 20 R489). -/
def Dev.sealFails (d : Dev) (n : Nat) (e : Env) : Option (Nat × Nat) :=
  let far := (d.armedTooFar e).map fun m => (0x11, m)
  match d.validate e with
  | some (c, m) => some (match far with
      | some (_, f) => if f < m then (0x11, f) else (c, m)
      | none => (c, m))
  | none =>
    if e.kind = 3 ∨ e.kind = 4 then far.orElse fun _ => d.sealChecks n e else (d.sealChecks n e).map fun r => far.getD r

/-- The next seal sequence number (R67). -/
def Dev.nextSeal (d : Dev) : Dev :=
  d.onEnv fun s => { s with nextSeq := if 0xFFFFFFFE ≤ s.nextSeq then 1 else s.nextSeq + 1 }

/-- The pages and banks that an envelope claims are zeroed, and its images are written into them (10 R255, R258). -/
def Dev.placeImages (d : Dev) (e : Env) : Dev :=
  let l := d.localMembers e
  let d := d.each (claimsMade l) fun d c => if c.kind = 3 ∨ c.kind = 4 then d.zeroUnit (c.kind == 4) c.unit else d
  d.each l fun d m =>
    if m.1.isParam ∧ keyBlock m.1.key = 0x0A ∧ keyIdx m.1.key = 0 then d.placeImage (keyInst m.1.key / 4) m.1.value else d

/-- The letters of a sealed envelope whose delivery frame is `frame` of pipeline `p` leave (09 R227). -/
def Dev.lettersLeave (d : Dev) (n p frame : Nat) : Dev :=
  let e := d.envI n
  d.each (e.letters.filter fun l => !l.sent && l.pipe == p && l.frame == some frame) fun d l =>
    match e.members[l.member]? with
    | some m =>
      (d.sendLetter p m.cls m.addr m.data (some (n, l.member)) false false).onEnvI n fun e =>
        { e with letters := e.letters.map fun x => if x.member == l.member then { x with sent := true } else x }
    | none => d

/-- The letter part of a kind 1 envelope aimed at frame `land` (09 R226). -/
def Dev.letterPlan (d : Dev) (e : Env) (land : Nat) : List EnvLetter :=
  if e.kind = 1 then
    (d.letterParts e).map fun (m, i, lat) => ⟨i, m.pipe, m.cls, lat, some ((land + 2 ^ 32 - lat) % 2 ^ 32), false⟩
  else []

/-- The decision deadline of a chain-wide envelope: landing less the budget less 20 µs (R84). -/
def decisionDeadlineNs (land budget : Nat) : Nat := land - budget - 20000

/-- Every participant has answered ready: the coordinator sends commit (R84). -/
def Dev.commitIfReady (d : Dev) (n : Nat) : Dev :=
  match (d.envI n).chain with
  | some c =>
    if c.isCoord && c.decision.isNone && c.members.all c.ready.contains then
      (d.onEnvI n fun e => { e with chain := some { c with decision := some true } }).broadcast 1
        (decisionBytes c.ref true c.members)
    else d
  | none => d

/-- The prepare messages of a coordinator, or the ready of a participant (R84). -/
def Dev.chainSealed (d : Dev) (n : Nat) : Dev :=
  let e := d.envI n
  match e.chain with
  | none => d
  | some c =>
    if c.isCoord then
      let ref : ChainRef := ⟨c.ref.coord, n, e.seq⟩
      let d := d.onEnvI n fun e => { e with chain := some { c with ref := ref, budget := d.budget, ready := [ref.coord] } }
      let d := d.each (c.members.filter (· != ref.coord)) fun d a =>
        d.each (prepareParts ref e.land (e.members.filter fun m => m.toAll || m.dest == a)) fun d part => d.sendTo 1 a part
      d.commitIfReady n
    else d.sendTo 1 c.ref.coord (readyBytes c.ref none)

/-- The seal docket has a receipt of its own reserved, so its seal receipt is written (13 R327). -/
def Dev.sealReceiptDue (d : Dev) (e : Env) : Bool :=
  !e.lone && e.partOf.isNone &&
    (dkQuiet e.dk || match (d.sqI e.dk.sq).fetched.find? fun f => f.idx == e.dk.idx && f.begun with
      | some f => decide (2 ≤ f.reserved)
      | none => true)

/-- Seal completes (R51, R67, R73, R79, R80, R85): a point that has passed meanwhile makes the envelope late, or returns
it; else it takes its sequence number, its seal receipt is written and letters that are due leave. -/
def Dev.completeSeal (d : Dev) (n : Nat) : Dev :=
  let e := d.envI n
  let (land, late) := d.aim e
  let soon := match e.chain with
    | some c => c.isCoord && decide (decisionDeadlineNs e.land d.budget < d.nowNs + 100000)
    | none => false
  let fails := if soon then some (0x33, noMember)
    else if late ∧ e.noLate then some (0x32, noMember)
    else (d.armedTooFar e).map fun m => (0x11, m)
  match fails with
  | some (code, m) => ((d.dropClaims e).returnAtSeal n e code m).retarget
  | none =>
    let seq := d.env.nextSeq
    let d := d.nextSeal.onEnvI n fun e =>
      { e with phase := .sealed, land := land, late := late, seq := seq, letters := d.letterPlan e land,
               mism := (List.range 8).filter fun p => (d.capI p).descMismatch }
    let d := d.placeImages e
    let d := if d.sealReceiptDue e then
        d.answer ⟨e.dk, 0, envResult (d.envI n) n noMember 0, false, false, 1, true, false⟩ else d
    (d.lettersLeave n e.target (d.pipeI e.target).frame.toNat).chainSealed n

/-- The envelope holds its claims and its streams' race numbers, and waits for VCORE (R17, R51, R73 step 5). -/
def Dev.holdClaims (d : Dev) (n : Nat) (e : Env) : Dev :=
  let l := d.localMembers e
  let streams := (d.planOf l).streams
  let last := maxOf ((d.env.envs.filter fun o => o.phase == .sealing).map (·.sealedAt))
  let d := d.onEnvI n fun _ => { e with phase := .sealing, streams := streams, seq := 0, sealedAt := last + 1 }
  d.each ((claimsMade l).filter (·.kind == 5)) fun d c => d.onDram fun s => claimPool s c.unit c.size c.mask

/-- Some region must be faster in `d'` than in `d` (R46, R51). -/
def Dev.demandRises (d d' : Dev) : Bool := (d.needs.zip d'.needs).any fun (a, b) => qLt a b

/-- Seal of envelope `n` with its docket and landing point in `e` (R73). -/
def Dev.sealEnv (d : Dev) (n : Nat) (e : Env) : Dev :=
  match d.sealFails n e with
  | some (code, m) => (d.noteDefects e (code, m)).returnAtSeal n e code m
  | none =>
    let d' := (d.holdClaims n e).retarget
    if d'.gov.raising && d.demandRises d' then d' else d'.completeSeal n

/-- A reading of the regulator within 15 mV of the final request completes every seal that waits (R51), be the last
write of the raise still to come. -/
def Dev.vcoreReached (d : Dev) (mv : Nat) (ok : Bool) : Dev :=
  if ok && near15 mv d.gov.finalMv then
    d.each ((d.heldEnvs.filter fun x => x.1.phase == .sealing).map (·.2)) fun d n => d.completeSeal n
  else d

/-- READ_VOUT (02 R51, R52). -/
def execReadVout (mv : Nat) (ok : Bool) (s : State) : Host.Outcome State Fault Refusal :=
  .next { s with dev := (s.dev.voutReading mv ok).vcoreReached mv ok }

/-- PMBUS_POLL: both readings of each millisecond (02 R52). -/
def execPmbusPoll (mv : Nat) (status : BitVec 16) (ok : Bool) (s : State) : Host.Outcome State Fault Refusal :=
  .next { s with dev := ((s.dev.voutReading mv ok).statusWord status ok).vcoreReached mv ok }

/-! ### Lone parameter writes (01 R14; 14 R358) -/

/-- A lone envelope of one member. -/
def Dev.loneWrite (d : Dev) (k : Docket) (m : Member) : Dev :=
  match d.freeEnv with
  | none => d.finish k 0x0301
  | some n =>
    if !d.bulkRoom [] (m.bulk.getD []).length then d.finish k 0x0303
    else d.sealEnv n { Env.empty with members := [m], dk := k, lone := true }

/-- 0x10. The value bytes past the length are 0, as in a record. -/
def Dev.writeParameter (d : Dev) (k : Docket) : Dev :=
  d.runDocket k [(8, 12), (16, 47)] fun d =>
    let n := u8 k.bytes 12
    if n = 0 ∨ 32 < n then d.finish k 0x0204
    else if !allZero ((k.bytes.drop (16 + n)).take (32 - n)) then d.finish k 0x0202
    else d.loneWrite k ⟨padTo 48 ([0, 0, 0, 0] ++ (k.bytes.drop 8).take 4 ++ leBytes 1 n ++ [0, 0, 0] ++
      (k.bytes.drop 16).take n), none⟩

def execWriteParameter (k : Docket) (s : State) : Host.Outcome State Fault Refusal :=
  .next { s with dev := s.dev.writeParameter k }

/-- The host data of 0x11 has arrived. -/
def Dev.writeBulkData (d : Dev) (k : Docket) (data : List Byte) : Dev :=
  d.loneWrite k ⟨bulkRecord 0 0 (u32 k.bytes 24), some data⟩

/-- 0x11. -/
def Dev.writeBulk (d : Dev) (k : Docket) : Dev :=
  d.runDocket k [(8, 19), (24, 27)] fun d =>
    let len := u32 k.bytes 16
    if u64 k.bytes 8 % 4 ≠ 0 then d.finish k 0x0205
    else if 2 ^ 24 < len then d.finish k 0x0204
    else if d.freeEnv.isNone then d.finish k 0x0301
    else if !d.bulkRoom [] len then d.finish k 0x0303
    else if len = 0 then d.writeBulkData k []
    else d.readHost k (u64 k.bytes 8) len

def execWriteBulkParameter (k : Docket) (s : State) : Host.Outcome State Fault Refusal :=
  .next { s with dev := s.dev.writeBulk k }

/-! ### Dockets of group 0x2_ (14 R359) -/

/-- 0x20. -/
def Dev.openDocket (d : Dev) (k : Docket) : Dev :=
  d.runDocket k [] fun d =>
    match d.freeEnv with
    | none => d.finish k 0x0301
    | some n => (d.onEnvI n fun _ => { Env.empty with phase := .opened }).finish k 0 (leBytes 1 n)

def execOpenEnv (k : Docket) (s : State) : Host.Outcome State Fault Refusal :=
  .next { s with dev := s.dev.openDocket k }

/-- Members are added, and the receipt gives the index of the first. -/
def Dev.addMembers (d : Dev) (k : Docket) (n : Nat) (l : List Member) (rest : List Byte) : Dev :=
  let first := (d.envI n).members.length
  (d.onEnvI n fun e => { e with members := e.members ++ l }).finish k 0 (leBytes 1 n ++ [0] ++ leBytes 2 first ++ rest)

/-- Why `count` members cannot be added to envelope `n`; 0 when they can. -/
def Dev.addStatus (d : Dev) (n count : Nat) : Nat :=
  if 64 ≤ n then 0x0203
  else if (d.envI n).phase != .opened then 0x0206
  else if 1024 < (d.envI n).members.length + count then 0x0302
  else 0

/-- 0x21. -/
def Dev.addDocket (d : Dev) (k : Docket) : Dev :=
  d.runDocket k [(8, 8), (16, 63)] fun d =>
    let r := k.bytes.drop 16
    let st := recordStatus r
    let add := d.addStatus (u8 k.bytes 8) 1
    if st ≠ 0 ∧ st ≠ 0x8201 then d.finish k st
    else if add ≠ 0 ∧ add ≠ 0x0302 then d.finish k add
    else if st ≠ 0 then d.finish k st
    else if add ≠ 0 then d.finish k add
    else d.addMembers k (u8 k.bytes 8) [⟨r, none⟩] []

def execAddMember (k : Docket) (s : State) : Host.Outcome State Fault Refusal :=
  .next { s with dev := s.dev.addDocket k }

/-- The host data of 0x22 has arrived; an envelope that was sealed or filled meanwhile refuses it. -/
def Dev.addBulkData (d : Dev) (k : Docket) (data : List Byte) : Dev :=
  let n := u8 k.bytes 20
  let add := d.addStatus n 1
  if add ≠ 0 then d.finish k add
  else if !d.bulkRoom (d.envI n).members data.length then d.finish k 0x0303
  else d.addMembers k n [⟨bulkRecord (u8 k.bytes 21) (u8 k.bytes 22) (u32 k.bytes 24), some data⟩] []

/-- 0x22. -/
def Dev.addBulk (d : Dev) (k : Docket) : Dev :=
  d.runDocket k [(8, 22), (24, 27)] fun d =>
    let len := u32 k.bytes 16
    let n := u8 k.bytes 20
    let add := d.addStatus n 1
    if 1 < u8 k.bytes 22 then d.finish k 0x0202
    else if u64 k.bytes 8 % 4 ≠ 0 then d.finish k 0x0205
    else if 2 ^ 24 < len then d.finish k 0x0204
    else if add ≠ 0 then d.finish k add
    else if !d.bulkRoom (d.envI n).members len then d.finish k 0x0303
    else if len = 0 then d.addBulkData k []
    else d.readHost k (u64 k.bytes 8) len

def execAddBulkMember (k : Docket) (s : State) : Host.Outcome State Fault Refusal :=
  .next { s with dev := s.dev.addBulk k }

/-- The host data of 0x23 has arrived: all records are added, or none and the first bad one is named. Index fields that
name nothing hold 0xFFFF. -/
def Dev.addListData (d : Dev) (k : Docket) (data : List Byte) : Dev :=
  let n := u8 k.bytes 20
  let records := chunks 48 (data.length / 48) data
  let add := d.addStatus n records.length
  if add ≠ 0 then d.finish k add (leBytes 1 n ++ [0] ++ leBytes 2 0xFFFF ++ leBytes 2 0xFFFF)
  else match records.zipIdx.find? fun r => recordStatus r.1 != 0 with
  | some (r, i) => d.finish k (recordStatus r) (leBytes 1 n ++ [0] ++ leBytes 2 0xFFFF ++ leBytes 2 i)
  | none => d.addMembers k n (records.map fun r => ⟨r, none⟩) (leBytes 2 0xFFFF)

/-- 0x23. -/
def Dev.addList (d : Dev) (k : Docket) : Dev :=
  d.runDocket k [(8, 20)] fun d =>
    let len := u32 k.bytes 16
    let n := u8 k.bytes 20
    let add := d.addStatus n (len / 48)
    if u64 k.bytes 8 % 4 ≠ 0 then d.finish k 0x0205
    else if len < 48 ∨ 49152 < len ∨ len % 48 ≠ 0 then d.finish k 0x0204
    else if add ≠ 0 then d.finish k add (leBytes 1 n ++ [0] ++ leBytes 2 0xFFFF ++ leBytes 2 0xFFFF)
    else d.readHost k (u64 k.bytes 8) len

def execAddMemberList (k : Docket) (s : State) : Host.Outcome State Fault Refusal :=
  .next { s with dev := s.dev.addList k }

/-- The landing point of a seal docket: ns since the epoch, or a frame number (R71). -/
def sealPoint (b : List Byte) : Nat :=
  match u8 b 9 with
  | 1 | 2 => u32 b 12
  | 3 | 4 => u48 b 16 * 1000000000 + u32 b 12
  | _ => 0

/-- The participant set of a kind 4 seal, in address order. -/
def participants (b : List Byte) : List Nat := which 256 fun a => bit (u8 b (24 + a / 8)) (a % 8)

/-- The landing point of a seal docket is one that R71 and R83 allow. -/
def Dev.pointOk (d : Dev) (b : List Byte) : Bool :=
  match u8 b 9 with
  | 0 => true
  | 1 => decide (u8 b 11 < 8)
  | 2 => decide (u8 b 11 < 4)
  | 3 => decide (u32 b 12 < 1000000000)
  | 4 => decide (u32 b 12 < 1000000000) && d.address.any (participants b).contains
  | _ => false

/-- 0x24. -/
def Dev.sealDocket (d : Dev) (k : Docket) : Dev :=
  d.runDocket k [(8, 21), (24, 55)] fun d =>
    let b := k.bytes
    let n := u8 b 8
    if 1 < u8 b 10 then d.finish k 0x0202
    else if 7 < u8 b 9 then d.finish k 0x0204
    else if 64 ≤ n then d.finish k 0x0203
    else if (d.envI n).phase != .opened then d.finish k 0x0206
    else if !d.pointOk b then d.finish k 0x8202
    else
      let chain := if u8 b 9 = 4 then
          some ⟨⟨d.addressByte, n, 0⟩, true, participants b, [], none, [], 0, false, false⟩ else none
      d.sealEnv n { d.envI n with dk := k, kind := u8 b 9, target := u8 b 11, land := sealPoint b,
                                  noLate := u8 b 10 == 1, chain := chain }

def execSealEnv (k : Docket) (s : State) : Host.Outcome State Fault Refusal :=
  .next { s with dev := s.dev.sealDocket k }

/-- 0x25: taken at rank 9 (R68). -/
def Dev.withdrawDocket (d : Dev) (k : Docket) : Dev :=
  d.runDocket k [(8, 8)] fun d =>
    let n := u8 k.bytes 8
    if 64 ≤ n then d.finish k 0x0203
    else match (d.envI n).phase with
    | .sealed => d.onTick fun t => { t with act9 := t.act9 ++ [.withdraw k n] }
    | .ended => d.finish k 0x8203 (envResult (d.envI n) n noMember 0)
    | _ => d.finish k 0x0206

def execWithdraw (k : Docket) (s : State) : Host.Outcome State Fault Refusal :=
  .next { s with dev := s.dev.withdrawDocket k }

/-- Rank 9: the withdraw is taken. The envelope's final receipt comes first; an envelope that has landed or been
returned is unchanged (R68). An undecided chain-wide envelope is aborted everywhere. -/
def Dev.withdrawNow (d : Dev) (k : Docket) (n : Nat) : Dev :=
  let e := d.envI n
  if e.phase != .sealed then d.finish k 0x8203 (envResult e n noMember d.tick.count.toNat)
  else
    let d := match e.chain with
      | some c => if c.isCoord && c.decision.isNone then d.broadcast 1 (decisionBytes c.ref false c.members) else d
      | none => d
    let d := d.returnEnv n 0x53 noMember d.tick.count.toNat
    let (mine, rest) := d.tick.done8.partition fun c => c.final && c.dk == e.dk
    let d := (d.onTick fun t => { t with done8 := rest }).each mine fun d c => d.answer c
    (d.onEnvI n fun _ => Env.empty).finish k 0 (envResult e n noMember d.tick.count.toNat)

/-- 0x26: no final receipt. -/
def Dev.abandonDocket (d : Dev) (k : Docket) : Dev :=
  d.runDocket k [(8, 8)] fun d =>
    let n := u8 k.bytes 8
    if 64 ≤ n then d.finish k 0x0203
    else if (d.envI n).phase != .opened then d.finish k 0x0206
    else (d.onEnvI n fun _ => Env.empty).finish k 0

def execAbandon (k : Docket) (s : State) : Host.Outcome State Fault Refusal :=
  .next { s with dev := s.dev.abandonDocket k }

/-! ### Chain-wide envelopes (R83 to R87; 21 R510) -/

/-- The member of a prepare record: 48 bytes, and for a bulk member its value after them. -/
def preparedMember (r : List Byte) : Member :=
  ⟨padTo 48 r, if u8 r 0 = 1 then some (r.drop 48) else none⟩

/-- CHAIN_PREPARE: a participant takes a local number and seals; with none free it refuses with 0x21. -/
def Dev.prepared (d : Dev) (ref : ChainRef) (landNs : Nat) (records : List (List Byte)) : Dev :=
  if !d.host.ready then d
  else match d.freeEnv with
  | none => d.sendTo 1 ref.coord (readyBytes ref (some 0x21))
  | some n =>
    d.sealEnv n { Env.empty with members := records.map preparedMember, dk := ⟨chainSq + 1, 0, []⟩, kind := 4, land := landNs,
                                 chain := some ⟨ref, false, [], [], none, [], 0, false, false⟩ }

def execChainPrepare (ref : ChainRef) (landNs : Nat) (records : List (List Byte)) (s : State) :
    Host.Outcome State Fault Refusal :=
  .next { s with dev := s.dev.prepared ref landNs records }

/-- The coordinator's sealed envelope of a reference. -/
def Dev.coordinated (d : Dev) (ref : ChainRef) : Option ChainPart :=
  (d.envI ref.env).chain.bind fun c => if c.isCoord && c.ref == ref then some c else none

/-- The coordinator aborts: everywhere the envelope is returned (R84). -/
def Dev.abortChain (d : Dev) (n code addr : Nat) : Dev :=
  match (d.envI n).chain with
  | some c =>
    (d.broadcast 1 (decisionBytes c.ref false c.members)).returnEnv n code addr (d.tick.count.toNat + 1)
  | none => d

/-- CHAIN_READY: commit when every participant is ready, abort at the first refusal. -/
def Dev.readyFrom (d : Dev) (ref : ChainRef) (a : Nat) (refuse : Option Nat) : Dev :=
  match d.coordinated ref with
  | some c =>
    if (d.envI ref.env).phase != .sealed || c.decision.isSome || !c.members.contains a then d
    else match refuse with
    | some _ => d.abortChain ref.env 0x50 a
    | none =>
      (d.onEnvI ref.env fun e => { e with chain := some { c with ready := c.ready ++ [a] } }).commitIfReady ref.env
  | none => d

def execChainReady (ref : ChainRef) (participant : Nat) (refuse : Option Nat) (s : State) :
    Host.Outcome State Fault Refusal :=
  .next { s with dev := s.dev.readyFrom ref participant refuse }

/-- The participants that have not answered, in address order. -/
def ChainPart.silent (c : ChainPart) : List Nat := c.members.filter fun a => !c.ready.contains a

/-- DECISION_DEADLINE: a participant that has not answered aborts the envelope with 0x51. -/
def Dev.deadlinePast (d : Dev) (n : Nat) : Dev :=
  match (d.envI n).chain with
  | some c =>
    if c.isCoord && c.decision.isNone && (d.envI n).phase == .sealed then d.abortChain n 0x51 (c.silent.headD noMember) else d
  | none => d

def execDecisionDeadline (env : Fin 64) (s : State) : Host.Outcome State Fault Refusal :=
  .next { s with dev := s.dev.deadlinePast env }

/-- The participant's local envelope of a reference. -/
def Dev.participating (d : Dev) (ref : ChainRef) : Option (Nat × ChainPart) :=
  d.env.envs.zipIdx.findSome? fun x =>
    match x.1.partOf with
    | some c => if c.ref == ref && (x.1.phase == .sealing || x.1.phase == .sealed) then some (x.2, c) else none
    | none => none

/-- CHAIN_DECISION: the first decision counts; an abort returns the local envelope (R84, R86). -/
def Dev.decided (d : Dev) (ref : ChainRef) (commit : Bool) : Dev :=
  match d.participating ref with
  | some (n, c) =>
    if c.decision.isSome then d
    else if commit then d.onEnvI n fun e => { e with chain := some { c with decision := some true } }
    else d.returnEnv n 0x50 noMember (d.tick.count.toNat + 1)
  | none => d

def execChainDecision (ref : ChainRef) (commit : Bool) (s : State) : Host.Outcome State Fault Refusal :=
  .next { s with dev := s.dev.decided ref commit }

/-- The participants other than the coordinator. -/
def ChainPart.others (c : ChainPart) : List Nat := c.members.filter (· != c.ref.coord)

/-- Those that have not reported landing. -/
def ChainPart.missing (c : ChainPart) : List Nat := c.others.filter fun a => !c.reports.contains (a, true)

/-- The coordinator's final receipt: when every report is in, or at its deadline, with the split flag when a
participant did not report landing (R84, R87). -/
def Dev.closeChain (d : Dev) (n : Nat) : Dev :=
  let e := d.envI n
  match e.chain with
  | some c =>
    if e.phase == .ended && c.holdRcpt then
      let gone := c.missing
      let split := if gone.isEmpty then (0, 0, 0) else (1, min 255 gone.length, gone.headD 0)
      let d := if gone.isEmpty then d else d.raiseNow 90
      (d.onEnvI n fun e => { e with chain := some { c with holdRcpt := false } }).atClose
        (finalReceipt e n (if e.late then 1 else 0) noMember e.sealedAt split)
    else d
  | none => d

/-- CHAIN_REPORT: a participant's outcome. -/
def Dev.reported (d : Dev) (ref : ChainRef) (a : Nat) (landed : Bool) : Dev :=
  match d.coordinated ref with
  | some c =>
    if !c.members.contains a || c.reports.any (·.1 == a) then d
    else
      let c := { c with reports := c.reports ++ [(a, landed)] }
      let d := d.onEnvI ref.env fun e => { e with chain := some c }
      if c.others.all fun a => c.reports.any (·.1 == a) then d.closeChain ref.env else d
  | none => d

def execChainReport (ref : ChainRef) (participant : Nat) (landed : Bool) (s : State) : Host.Outcome State Fault Refusal :=
  .next { s with dev := s.dev.reported ref participant landed }

/-- REPORT_DEADLINE: landing plus twice the budget plus 1 ms. -/
def execReportDeadline (env : Fin 64) (s : State) : Host.Outcome State Fault Refusal :=
  .next { s with dev := s.dev.closeChain env }

end Sys2Proof.Machine
end

