-- ==== Sys2Proof/Machine/Landing.lean ====
section
/-!
DEFINITION. Landings: what each member changes when its envelope lands, the links that claims make, returns at rank 5,
and final receipts (01 R35; 03 R66 to R79, R84 to R87, R593; 04 R89, R92, R102; 09 R225, R229).
-/
namespace Sys2Proof.Machine

/-! ### Parameters -/

/-- The pipeline whose parameter a key names, if any (09 R225). -/
def pipeOfKey (k : Nat) : Option Nat :=
  match keyBlock k with
  | 0x05 | 0x06 | 0x07 | 0x09 => some (keyInst k)
  | 0x08 => some (keyInst k / 8)
  | 0x0A => some (keyInst k / 4)
  | _ => none

/-- The ring of the block instance that a key names (08 R205 and the rings that follow it). -/
def ringOfKey (k : Nat) : Option Nat :=
  let n := keyInst k
  match keyBlock k with
  | 0x08 => some n
  | 0x09 => some (8 * n + 6)
  | 0x0A => if n % 4 = 3 then some (8 * (n / 4) + 7) else none
  | 0x0B => some (ringEnc + n)
  | 0x0C => some (ringDec + n)
  | 0x0D => if n < 8 then some (ringBolt + n) else none
  | 0x11 => if n < 28 then some (ringAudio + n) else none
  | _ => none

/-- The index of the ring parameter of a block. -/
def ringIndex (block : Nat) : Nat :=
  match block with
  | 0x08 => 9
  | 0x09 | 0x0D => 0
  | 0x0A => 3
  | 0x0B => 0xA
  | 0x0C => 1
  | _ => 2

/-- An image lands: the point leaves its failure mode (10 R265). -/
def Dev.landImage (d : Dev) (inst : Nat) : Dev :=
  let keep := ~~~ (BitVec.ofNat 4 (2 ^ (inst % 4)))
  d.onMillI (inst / 4) fun m =>
    { m with passing := m.passing &&& keep, holding := m.holding &&& keep, failing := m.failing &&& keep,
             reported := m.reported.filter fun x => x.1 != inst % 4 }

/-- A queued broadcast is queued for its slot (21 R511). -/
def Dev.landBroadcast (d : Dev) (v : List Byte) : Dev :=
  d.onSlotI (u8 v 0) fun x => { x with queue := x.queue ++ [(u16 v 1, (v.drop 3).take 16)] }

/-- What a landed value changes beside the value in force; `old` is the value before. -/
def Dev.landValue (d : Dev) (k : Nat) (v old : List Byte) (seq : Nat) (kind2 : Bool) : Dev :=
  let b := keyBlock k
  let n := keyInst k
  let i := keyIdx k
  match ringOfKey k with
  | some ring =>
    if b = 0x11 then d.landAudio n i v seq
    else if i = ringIndex b then d.landRing ring v
    else if (b = 0x08 ∨ b = 0x09 ∨ b = 0x0A) ∧ within 0x10 i 0x13 then d.landSlot ring (i - 0x10) v
    else if b = 0x0A ∧ i = 0 then d.landImage n
    else if b = 0x0D ∧ i = 1 then d.landOverflow n v
    else d
  | none =>
    match b with
    | 0x03 => if i = 4 then d.onLaneI n fun x => { x with preset := BitVec.ofNat 3 (leNat v) } else d
    | 0x04 => if i < 2 ∧ v ≠ old then d.onQuadI n fun q => { q with pllLock := false, fwdOk := false } else d
    | 0x0A => if i = 0 then d.landImage n else d
    | 0x0F => if i = 0x8000 then d.landRate (leNat v) else d
    | 0x10 => d.landRaster n k v kind2
    | 0x12 => if i = 0 then d.landSource (leNat old) (leNat v) else d
    | 0x13 => if i = 8 then d.landBroadcast v else if i = 3 then d.checkTopology d.nowNs else d
    | 0x14 | 0x17 => d.landEvt k v
    | _ => d

/-- The encode streams whose pictures a parameter bears on (11 R290). -/
def Dev.coders (d : Dev) (k : Nat) : List Nat :=
  which 32 fun s => (d.encI s).active &&
    ((keyBlock k == 0x0B && keyInst k == s) || pipeOfKey k == some (d.encI s).pipe)

/-- Pictures of frames before the change keep the value before it (11 R290). `frame` is the first frame of the new
value under kind 1; else it is the next one gated. -/
def Dev.keepOlder (d : Dev) (k : Nat) (old : List Byte) (frame : Option Nat) : Dev :=
  d.each (d.coders k) fun d s =>
    let from' := frame.getD ((d.pipeI (d.encI s).pipe).frame.toNat + 1)
    d.onEncI s fun e => { e with older := e.older ++ [(from' % 2 ^ 32, k, old)] }

/-- A parameter lands. A declared period that travels with a class 3 letter waits for that letter, except under kind 1
and before the first frame (09 R229). `letters` are the pipelines of the envelope's class 3 letters. -/
def Dev.landParam (d : Dev) (e : Env) (letters : List Nat) (k : Nat) (v : List Byte) : Dev :=
  let p := keyInst k
  let period := keyBlock k == 0x05 && keyIdx k == 5
  let d := match pipeOfKey k with
    | some p => d.onPipeI p fun x => { x with psetNow := BitVec.ofNat 32 e.seq }
    | none => d
  if period && e.kind != 1 && letters.contains p && (d.pipeI p).prevStamp.isSome then
    d.onPipeI p fun x => { x with periodWait := some (leNat v), periodAt := none }
  else
    let old := d.par k
    let d := if period then d.onPipeI p fun x => { x with periodWait := none, periodAt := none } else d
    let d := if v = old then d else d.keepOlder k old (if e.kind = 1 then some e.land else none)
    (d.onParams fun ps => setPar ps k v).landValue k v old e.seq (e.kind == 2)

/-! ### Streams -/

/-- A release lands. Frames gated before it go on to their end (03 R78); an encode stream codes what it has taken (11
R290). -/
def Dev.endStream (d : Dev) (s : Stream) : Dev :=
  let d := d.onGov fun g => { g with shed := g.shed.filter (· != s.race) }
  match s.kind with
  | some (.capture p) =>
    let d := if (d.pipeI p).cur.any (fun f => !f.gated) then d.setCur p none else d
    d.onCapI p fun c => { c with created := [], descMismatch := false, capturing := false }
  | some (.encode _ _ n) => d.onEncI n fun e => { e with ending := true }
  | some (.decode c) =>
    d.onDecI c fun x => { DecSt.reset with discarded := x.discarded, errors := x.errors, hashBad := x.hashBad }
  | some (.proxyOut _) | some (.proxyIn _) =>
    d.onChain fun c => { c with proxies := c.proxies.filter fun x => x.race != s.race }
  | _ => d

/-- A proxy stream begins, with the lowest of the numbers 0 to 3 that is free (21 R512). -/
def Dev.startProxy (d : Dev) (s : Stream) (port : Nat) : Dev :=
  let used := d.chain.proxies.map (·.num)
  let num := ((List.range 4).find? fun n => !used.contains n).getD 0
  d.onChain fun c => { c with proxies := c.proxies ++ [⟨s.race, num, s.src, s.dst, port, false⟩] }

/-- A stream-create member lands (05 R139, R141; 09 R220, R222, R223; 11 R276; 12 R307). A capture stream begins with
32 frames of convergence service, unless an action member has set another count for them (24 R560). -/
def Dev.beginStream (d : Dev) (s : Stream) : Dev :=
  match s.kind with
  | some (.capture p) =>
    (d.onCapI p fun c => { c with created := c.desc, descMismatch := false, lastMarker := none }).onPipeI p fun x =>
      { x with newCap := true, refValid := false, delivered := [], armed := false, convNew := x.convNew.orElse fun _ => some 32 }
  | some (.encode _ _ n) => d.startEncode n s
  | some (.decode c) =>
    d.onDecI c fun x =>
      { DecSt.reset with active := true, discarded := x.discarded, errors := x.errors, hashBad := x.hashBad }
  | some (.boltOut n) =>
    d.onBoltI n fun b => { b with storedOnly := false, mismAt := [], sizes := [], raws := [], lowRun := false }
  | some (.proxyOut p) | some (.proxyIn p) => d.startProxy s p
  | _ => d

/-- The streams after a landing: the released ones are gone, the envelope's own are there, with the implied streams and
their places on the spine (01 R20, R592). -/
def Dev.landStreams (d : Dev) (e : Env) (gone : List Nat) : Dev :=
  let out := d.res.streams.filter fun s => !s.implied && gone.contains s.race
  let d := d.each out Dev.endStream
  let mine := e.streams.map (·.race)
  let d := d.onRes fun r =>
    { r with streams := r.streams.filter (fun s => s.implied || !(gone.contains s.race || mine.contains s.race)) ++ e.streams }
  d.each e.streams Dev.beginStream

/-! ### Claims and the links they make -/

/-- A released unit is free (R17, R66; 10 R255; 13 R323; 20 R489). -/
def Dev.unclaim (d : Dev) (c : Claim) : Dev :=
  let d := d.onRes fun r => { r with claims := r.claims.filter fun x => !sameUnit c x }
  match c.kind with
  | 1 => d.releaseSlot c.unit
  | 3 | 4 => d.releaseUnit (c.kind == 4) c.unit
  | 5 =>
    (d.onDram fun s => { s with pools := s.pools.filter fun p => p.num != c.unit }).onHost fun h =>
      { h with apertures := h.apertures.map fun a => if a.any (fun x => x.1 == c.unit) then none else a }
  | 8 => d.onBoltI c.unit fun b => { b with active := false }
  | _ => d

/-- A claim lands. A claim of an encode core ends with its envelope (11 R272). -/
def Dev.landClaim (d : Dev) (c : Claim) : Dev :=
  if c.kind = 6 then d
  else
    let d := d.onRes fun r => { r with claims := r.claims.filter (fun x => !sameUnit c x) ++ [c] }
    if c.kind = 8 then d.onBoltI c.unit fun b => { b with active := true } else d

/-- A unit is claimed now. -/
def Dev.holds (d : Dev) (kind unit : Nat) : Bool := d.res.claims.any (sameUnit ⟨kind, unit, 0, 0⟩)

/-- The links of the landed configuration (04 R92): each capture link whose lanes are all claimed, the links of output
and port claims that stay, and those of the envelope's own claims. -/
def Dev.linksNow (d : Dev) (l : List (Member × Nat)) : List (LinkId × List Nat) :=
  let freed := claimsReleased l
  let whole := fun (ns : List Nat) => !ns.isEmpty && ns.all (d.holds 0)
  let caps := ((List.range 8).map fun p => (LinkId.capture p, capLanes d.params p)).filter fun k => whole k.2
  let own := (unitLinks d.params l).filter fun k => whole k.2
  let kept := d.res.links.filter fun k =>
    (match k.1 with
      | .capture _ => false
      | .raster o => d.holds 9 o && !freed.any (sameUnit ⟨9, o, 0, 0⟩)
      | .chain p => d.holds 11 p && !freed.any (sameUnit ⟨11, p, 0, 0⟩)) &&
    whole k.2 && !k.2.any (fun n => freed.any (sameUnit ⟨0, n, 0, 0⟩)) && !own.any (fun o => o.1 == k.1)
  caps ++ kept ++ own

/-- A lane before bring-up, with its transmit preset (04 R105). -/
def Dev.resetLane (d : Dev) (n : Nat) : Dev :=
  d.onLaneI n fun _ => { Lane.reset with preset := BitVec.ofNat 3 (d.parN 0x03 n 4) }

def Dev.onLinkI (d : Dev) (l : LinkId) (f : Link → Link) : Dev :=
  d.onLanes fun a =>
    match l with
    | .capture p => { a with caps := upd a.caps p f }
    | .chain p => { a with chains := upd a.chains p f }
    | .raster o => { a with outs := upd a.outs o f }

/-- A link ends: its lanes are free, and a head is no longer known. -/
def Dev.endLink (d : Dev) (k : LinkId × List Nat) : Dev :=
  let up := (d.linkI k.1).up
  let d := (d.onLinkI k.1 fun _ => Link.reset).each k.2 Dev.resetLane
  match k.1 with
  | .capture p =>
    (if up then d.captureDown p d.nowNs else d).onCapI p fun c =>
      { c with desc := [], discovered := false, freshDesc := false, gotAny := false, silent := false, requests := 0,
               letters := [] }
  | .chain p => if up then d.chainDown p d.nowNs else d
  | .raster _ => d

/-- Bring-up of a link starts (04 R102). A raster link whose lanes have their timing comes up: notes/assumptions/15.md. -/
def Dev.startLink (d : Dev) (k : LinkId × List Nat) : Dev :=
  let d := (d.onLinkI k.1 fun _ => Link.reset).each k.2 Dev.resetLane
  if !receives k.1 && k.2.all (fun n => d.quadReady (n / 4)) then d.linkEvent k.1 true 0 else d

/-- A quad is powered while a lane of it is claimed (04 R89). -/
def Dev.powerQuads (d : Dev) : Dev :=
  d.each (List.range 16) fun d q =>
    let on := (List.range 4).any fun i => d.holds 0 (4 * q + i)
    if on == (d.quadI q).powered then d else d.onQuadI q fun _ => ⟨on, false, false⟩

/-- The links follow the claims and parameters that have landed; a link whose lanes changed hands starts again. -/
def Dev.landLinks (d : Dev) (l : List (Member × Nat)) : Dev :=
  let new := d.linksNow l
  let freed := claimsReleased l
  let stays := fun (k : LinkId × List Nat) => d.res.links.contains k && new.contains k &&
    !k.2.any fun n => freed.any (sameUnit ⟨0, n, 0, 0⟩)
  let gone := d.res.links.filter fun k => !stays k
  let come := new.filter fun k => !stays k
  let d := (d.each gone Dev.endLink).onRes fun r => { r with links := new }
  d.powerQuads.each come Dev.startLink

/-! ### Actions (14 R356) -/

/-- An action member lands; `frame` is the landing frame under kind 1. -/
def Dev.landAction (d : Dev) (m : Member) (frame : Option Nat) : Dev :=
  let a := m.actArgs
  let n := keyInst m.target
  let (slot, eps, take) := recArgs a
  match m.action with
  | 1 => d.armSlot n (u48 a 0 * 1000000000 + u32 a 6) (u8 a 10) (u16 a 11) (u8 a 13) (u16 a 14)
  | 2 => d.startRecording slot take eps frame
  | 3 => d.stopRecording slot frame
  | 0x10 => d.requestKey n (frame.getD ((d.pipeI (d.encI n).pipe).frame + 1).toNat)
  | 0x20 => d.onLaneI n fun x => { x with slip := u8 a 0 }
  | 0x21 =>
    if keyBlock m.target = 0x03 then d.onLaneI n fun x => { x with calDue := true }
    else d.each (List.range 4) fun d i => d.onLaneI (4 * n + i) fun x => { x with calDue := true }
  | 0x30 => d.onPipeI n fun x => { x with convNew := some (u16 a 0) }
  | 0x31 => d.onPipeI n fun x => { x with cands := [] }
  | _ => d

/-! ### One envelope lands (R66, R67, R78, R79) -/

/-- Members in force: releases first, then parameters, streams and claims, and what follows from them, then actions,
and letters of kinds 0, 3 and 4 leave (R17, R78; 05 R134; 09 R229). -/
def Dev.applyMembers (d : Dev) (e : Env) : Dev :=
  let l := d.localMembers e
  let gone := racesReleased l
  let frame := if e.kind = 1 then some e.land else none
  let class3 := (l.filter fun m => m.1.type == 7 && m.1.cls == 3).map fun m => m.1.pipe
  let d := d.each (claimsReleased l) Dev.unclaim
  let d := d.each (claimsMade l) Dev.landClaim
  let d := d.onParams (clearImages gone)
  let d := d.each (setsOf l) fun d x => d.landParam e class3 x.1 x.2
  let d := (d.landStreams e gone).landLinks l
  let d := d.each (l.filter fun m => m.1.type == 6) fun d m => d.landAction m.1 frame
  let d := d.withImplied.withPlaces
  if e.kind = 1 then d
  else d.each (l.filter fun m => m.1.type == 7) fun d m => d.sendLetter m.1.pipe m.1.cls m.1.addr m.1.data none false false

/-- The final receipt of a landed envelope: at rank 8, or under kind 4 when the reports are in (R84, R87). -/
def Dev.landReceipt (d : Dev) (n : Nat) : Dev :=
  let e := d.envI n
  let done := finalReceipt e n (if e.late then 1 else 0) noMember e.sealedAt
  match e.chain with
  | none => d.atClose done
  | some c =>
    if !c.isCoord then d.chainOutcome e true 0
    else
      let waits := !(c.others.all fun a => c.reports.any (·.1 == a))
      let d := d.onEnvI n fun e => { e with chain := some { c with landed := true, holdRcpt := true } }
      if waits then d else d.closeChain n

/-- Envelope `n` lands in the close of tick count `tick`. -/
def Dev.landEnv (d : Dev) (n tick : Nat) : Dev :=
  let land := if (d.envI n).kind = 3 ∧ (d.envI n).late then d.nowNs else (d.envI n).land
  let e := { d.envI n with phase := .ended, land := land, sealedAt := tick }
  let d := ((d.onEnvI n fun _ => { e with streams := [] }).applyMembers e).markLetters n false
  let d := if e.late then (d.onEnv fun s => { s with late := bump s.late }).raiseNow 89 else d
  (d.landReceipt n).retarget

/-! ### Returns at rank 5 (R57, R86, R593) -/

/-- The links that a member uses: capture links of letters, capture streams and triggers; chain ports of proxies and
of chain frames; outputs of layer streams: notes/assumptions/42.md. -/
def Member.links (m : Member) : List LinkId :=
  match m.type with
  | 7 => [.capture m.pipe]
  | 2 => (match streamKind m.src m.dst m.args with
    | some (.capture p) => [.capture p]
    | some (.proxyOut p) | some (.proxyIn p) => [.chain p]
    | some (.layer o _) => [.raster o]
    | _ => [])
  | 6 =>
    let ep := u16 m.actArgs 11
    if m.action ≠ 1 then []
    else if u8 m.actArgs 10 = 1 then [.capture (ep % 256)]
    else if u8 m.actArgs 10 = 2 then [.chain (ep % 256)]
    else []
  | _ => []

/-- A member claims one of the units that an uncorrectable error struck in this tick (R593; 23 R536). -/
def Dev.memberStruck (d : Dev) (m : Member) : Bool :=
  let c := m.claim
  m.type == 4 && d.tick.bad.any fun b =>
    (b.1 == c.kind && decide (c.kind = 3 ∨ c.kind = 4) && b.2 == c.unit) ||
      (b.1 == 5 && c.kind == 5 && (d.pool c.unit).any fun p => p.pages.contains (b.2 / 2 ^ 27, b.2 % 2 ^ 27))

/-- The member that makes an envelope return with 0x40, if any: a failed letter whose cutoff has come, else the first
that uses a link which went down at this close or whose head changed, or a unit that an error struck. -/
def Dev.faulted (d : Dev) (e : Env) (downs : List LinkId) : Option Nat :=
  match e.failed.filter fun x => decide (x.2 ≤ d.time.dev) with
  | some (m, _) => some m
  | none =>
    let bad := fun (l : LinkId) => downs.contains l || (match l with
      | .capture p => (d.capI p).descMismatch && !e.mism.contains p
      | _ => false)
    ((d.localMembers e).find? fun m => m.1.links.any bad || d.memberStruck m.1).map (·.2)

/-- While a stream is shed: the first member that raises demand in a region where a shed stream runs (02 R57). -/
def Dev.raisesShed (d : Dev) (e : Env) : Option Nat :=
  if d.gov.shed.isEmpty then none
  else
    let l := d.localMembers e
    let alone := d.onEnv fun s => { s with envs := [] }
    let plan := alone.planOf l
    let now := alone.unshed.demands
    let then' := plan.config.unshed.demands
    let shed := d.shedRegions
    let short := (List.range 12).filter fun r => shed.contains r && qLt (now.getD r qZero) (then'.getD r qZero)
    plan.blameAll l (short.map fun r =>
      ⟨(plan.config.res.streams.filter fun s => engineRegion s == r || s.spine.any fun h => h.region == r).map (·.race), []⟩)

/-- A kind 4 envelope at its landing time with no decision: a participant returns it with 0x52 and a report, the
coordinator aborts it (R84, R86). -/
def Dev.undecided (d : Dev) (n tick : Nat) (c : ChainPart) : Dev :=
  if c.isCoord then
    (d.broadcast 1 (decisionBytes c.ref false c.members)).returnEnv n 0x51 (c.silent.headD noMember) tick
  else (d.returnEnv n 0x52 noMember tick).reportNow 0x0091 (chainEp 0) [c.ref.coord]

/-- An envelope whose landing point is at hand lands, unless shedding refuses it. -/
def Dev.landOrRefuse (d : Dev) (n tick : Nat) : Dev :=
  match d.raisesShed (d.envI n) with
  | some m => d.returnEnv n 0x41 m tick
  | none => d.landEnv n tick

/-- Rank 5 for one sealed envelope (R71). One with a failed letter waits to be returned. -/
def Dev.landIfDue (d : Dev) (n tick : Nat) : Dev :=
  let e := d.envI n
  let due := decide (e.land * 2 ^ 32 ≤ d.time.dev)
  if e.phase != .sealed || e.failed.isSome then d
  else match e.kind with
  | 0 => d.landOrRefuse n tick
  | 3 => if due || e.late then d.landOrRefuse n tick else d
  | 4 =>
    (match e.chain with
      | some c =>
        if !due then d
        else if c.decision == some true then d.landOrRefuse n tick
        else d.undecided n tick c
      | none => d)
  | _ => d

/-- Rank 5 (01 R35): returns of R593, then landings, in seal order (R67). `downs` are the links that went down at
rank 4. -/
def Dev.landings (d : Dev) (downs : List LinkId) : Dev :=
  let tick := d.tick.count.toNat
  let order := (d.heldEnvs.filter fun x => x.1.phase == .sealed).map (·.2)
  let d := d.each order fun d n =>
    match d.faulted (d.envI n) downs with
    | some m => d.returnEnv n 0x40 m tick
    | none => d
  let d := d.onTick fun t => { t with bad := [] }
  d.each order fun d n => d.landIfDue n tick

end Sys2Proof.Machine
end

