-- ==== Sys2Proof/Machine/Gate.lean ====
section
/-!
DEFINITION. Rank 6 of a close: frame gates with the landings of kind 1 envelopes and the letters that leave, and the
commit points of raster outputs with the landings of kind 2 envelopes (01 R34, R35; 03 R71, R78, R79; 08 R208 to R211;
09 R219 to R229; 12 R300, R308; 18 R447).
-/
namespace Sys2Proof.Machine

/-! ### Frame numbers (R219, R220) -/

/-- The frames missed before a gate: `delta` and `period` in units of 2^-32 ns. A period that is not set misses none:
notes/assumptions/43.md. -/
def missedFrames (delta period : Nat) : Nat :=
  if period = 0 ∨ 2 * delta < 3 * period then 0 else (2 * delta + period) / (2 * period) - 1

/-- m of the gate of a marker stamped `stamp` (R220). -/
def Dev.missedAt (d : Dev) (p stamp : Nat) : Nat :=
  let x := d.pipeI p
  match x.prevStamp with
  | some st => if x.newCap then 0 else missedFrames (stamp - st) (x.prevPeriod * 2 ^ 32)
  | none => 0

/-- The number and the reference values of a gate. -/
def Dev.numberFrame (d : Dev) (p stamp m : Nat) : Dev :=
  d.onPipeI p fun x =>
    { x with frame := x.frame + 1 + BitVec.ofNat 32 m, prevStamp := some stamp, newCap := false, late := false,
             missed := bumpBy x.missed m }

/-! ### Kind 1 envelopes (R221, R226 to R228) -/

/-- Frame `n` lies among the `m` frames skipped before frame `now`. -/
def skippedFrame (n now m : Nat) : Bool := within 1 ((now + 2 ^ 32 - n) % 2 ^ 32) m

/-- The sealed kind 1 envelopes of a pipeline, in seal order. -/
def Dev.frameEnvs (d : Dev) (p : Nat) : List Nat :=
  (d.heldEnvs.filter fun x => x.1.phase == .sealed && x.1.kind == 1 && x.1.target == p).map (·.2)

/-- A gate skips the delivery frame of a letter that has not left: the envelope moves to the smallest frame at which
its letters can still leave, or is returned under the no-late flag (R227, R228; 03 R80). -/
def Dev.reaim (d : Dev) (p n m tick : Nat) : Dev :=
  let now := (d.pipeI p).frame.toNat
  let e := d.envI n
  let waiting := e.letters.filter (!·.sent)
  if !(waiting.any fun l => l.frame.any fun f => skippedFrame f now m) then d
  else if e.noLate then d.returnEnv n 0x32 noMember tick
  else
    let land := (now + maxOf (waiting.map (·.latency))) % 2 ^ 32
    d.onEnvI n fun e =>
      { e with land := land, late := true, letters := e.letters.map fun l =>
          if l.sent then l else { l with frame := some ((land + 2 ^ 32 - l.latency) % 2 ^ 32) } }

/-- A kind 1 envelope whose frame is gated, or was skipped, lands; skipped, it is late (R221). One with a failed letter
waits to be returned. -/
def Dev.landAtFrame (d : Dev) (p n tick : Nat) : Dev :=
  let now := (d.pipeI p).frame.toNat
  let e := d.envI n
  if e.phase != .sealed || e.failed.isSome || frameAhead e.land now then d
  else if e.land != now && e.noLate then d.returnEnv n 0x32 noMember tick
  else
    let d := d.onEnvI n fun e => { e with land := now, late := e.late || e.land != now }
    let late := (d.envI n).late
    let d := d.landOrRefuse n tick
    if late && (d.pipeI p).late == false then d.onPipeI p fun x => { x with late := true } else d

/-- A declared period that waits for this frame is in force (R229). -/
def Dev.duePeriod (d : Dev) (p : Nat) : Dev :=
  match (d.pipeI p).periodAt with
  | some (f, ns) =>
    if seqLe 32 f (d.pipeI p).frame.toNat then
      (d.onParams fun ps => setPar ps (pkey 0x05 p 5) (leBytes 4 ns)).onPipeI p fun x => { x with periodAt := none }
    else d
  | none => d

/-! ### What the frame carries (R224, R225, R228, R231) -/

/-- An orphaned letter still stands at frame `n`: it applies, and no later letter of its class does yet. -/
def stillOrphan (x : PipeSt) (n : Nat) (o : Nat × Nat × Nat) : Bool :=
  !(x.delivered.any fun v => v.cls == o.1 && v.seq != o.2.2 && seqLe 16 o.2.2 v.seq && seqLe 32 v.first n)

/-- LETTERS_ORPHANED at frame `n`. -/
def orphanedAt (x : PipeSt) (n : Nat) : Bool := x.orphans.any fun o => seqLe 32 o.2.1 n && stillOrphan x n o

/-- The letters that later frames still need: those of envelopes not yet landed, those not yet applied, and the latest
applied. -/
def keepDelivered (x : PipeSt) (n : Nat) : List Delivered :=
  x.delivered.filter fun v => v.env.isSome || !seqLe 32 v.first n || v.seq == expectedSeq x n

/-- Convergence service at a gate: a landed count takes effect, and the frame spends one (R231). -/
def stepConvergence (x : PipeSt) : Bool × PipeSt :=
  let left := x.convNew.getD x.convLeft.toNat
  let on := decide (0 < left)
  (on, { x with convNew := none, convOn := on, convLeft := BitVec.ofNat 16 (left - 1) })

/-- The parameters in force for a frame, with its raw tap beside them (03 R78; 06 R164; 12 R298). -/
def Dev.frameParams (d : Dev) (p : Nat) : List (Nat × List Byte) :=
  match d.res.streams.find? fun s => s.race == 256 + 8 * p + 7 with
  | some s =>
    let rho := (d.res.streams.find? fun s => s.race == 420 + p).elim 16 fun s => u8 s.args 0
    d.params ++ [(rawKey p, [BitVec.ofNat 8 (u8 s.args 0), BitVec.ofNat 8 (u8 s.args 1), BitVec.ofNat 8 rho])]
  | none => d.params

/-- The points of a mill through which a frame's data passes unchanged or not at all (10 R265); a shed insertion
stream lets nothing through (02 R55). -/
def Dev.pointsHeld (d : Dev) (p : Nat) : List Nat :=
  which 4 fun pt => (d.millI p).holding.getLsbD pt || d.isShed (320 + 8 * p + 2 * pt) || d.isShed (321 + 8 * p + 2 * pt)

/-- The settings status of the gate, and what the frame carries from it. -/
def Dev.stampFrame (d : Dev) (p m : Nat) (f : Frame) : Frame × Dev :=
  let x := d.pipeI p
  let n := x.frame.toNat
  let (conv, x') := stepConvergence x
  let f := if 0 < m then setStatus f stMissed else f
  let f := if x.late then setStatus f stLate else f
  let f := if orphanedAt x n then setStatus f stOrphaned else f
  let f := if conv then setStatus f stConvergence else f
  let f := { f with gated := true, number := n, pset := x.psetNow.toNat, conv := conv,
                    cfa := (d.cfaOf d.params p).getD 0, params := d.frameParams p,
                    passing := which 4 fun pt => (d.millI p).passing.getLsbD pt, holding := d.pointsHeld p }
  (f, d.onPipeI p fun _ =>
    { x' with pset := x.psetNow, prevPeriod := d.period p, expected := BitVec.ofNat 16 (expectedSeq x n),
              delivered := keepDelivered x n, orphans := x.orphans.filter (stillOrphan x n) })

/-! ### Buffers (08 R208 to R210; 09 R230; 10 R261; 12 R308) -/

/-- A ring takes a buffer for the frame; with none free the frame misses it, and its services are interrupted by the
host when a host slot holds buffers of the ring (23 R540). -/
def Dev.takeBuffer (d : Dev) (ring frame : Nat) (reclaim : Bool) (spans : BufDesc → List (Nat × Nat))
    (event : Option Nat) : Option Nat × Dev :=
  let r := d.ringI ring
  if r.bufs.isEmpty then (none, d)
  else
    let (g, r') := r.gate frame reclaim spans
    let d' := d.onRingI ring fun _ => r'
    let lost := fun (d' : Dev) =>
      let host := r.bufs.any fun b => b.held.any fun k => (r.slots.getD k Slot.none).endpoint == 0xFFFF
      let d' := d'.missRing ring (if host then 1 else 2)
      match event with
      | some s => d'.raiseNow s
      | none => d'
    match g with
    | .taken o => (some o, d')
    | .reclaimed o => (some o, lost d')
    | .skipped => (none, lost d')

def Dev.runs (d : Dev) (race : Nat) : Bool := d.res.streams.any (fun s => s.race == race) && !d.isShed race

/-- The buffer that tap `k` takes. -/
def Dev.tapBuffer (d : Dev) (p k : Nat) (f : Frame) : Option Nat × Dev :=
  let c := tapCfg f.params p k
  if c.enabled && d.runs (256 + 8 * p + k) then
    d.takeBuffer (8 * p + k) f.number c.reclaim (tapSpans c) (some (128 + 6 * p + k))
  else (none, d)

/-- The extents of a block ring's buffer: the block at its header offset. -/
def blockSpans (n : Nat) (b : BufDesc) : List (Nat × Nat) := [(b.hdrOff, n)]

def Dev.statsBuffer (d : Dev) (p : Nat) (f : Frame) : Option Nat × Dev :=
  if d.runs (256 + 8 * p + 6) then d.takeBuffer (8 * p + 6) f.number false (blockSpans 16448) none else (none, d)

def Dev.gsBuffer (d : Dev) (p : Nat) (f : Frame) : Option Nat × Dev :=
  let limit := leNat (parOf f.params (pkey 0x0A (4 * p + 3) 2))
  if (placedImage f.params p 3).isEmpty || f.passing.contains 3 || f.holding.contains 3 then (none, d)
  else d.takeBuffer (8 * p + 7) f.number false (blockSpans (64 + limit)) none

/-- The slot that the raw lane takes for the frame's record. -/
def Dev.rawBuffer (d : Dev) (p : Nat) (f : Frame) : Option Nat × Dev :=
  if d.runs (256 + 8 * p + 7) && d.runs (420 + p) then d.takeBuffer (ringBolt + p) f.number false encSpans none
  else (none, d)

/-- The buffers of a frame. -/
def Dev.takeBuffers (d : Dev) (p : Nat) (f : Frame) : Frame × Dev :=
  let (taps, d) := (List.range 6).foldl (fun (acc : List (Option Nat) × Dev) k =>
    let (o, d) := acc.2.tapBuffer p k f
    (acc.1 ++ [o], d)) ([], d)
  let (s, d) := d.statsBuffer p f
  let (g, d) := d.gsBuffer p f
  let (b, d) := d.rawBuffer p f
  ({ f with bufs := taps ++ [s, g, b] }, d)

/-! ### The gate -/

/-- The frame is put back where it was: the open frame, or one that ended before its gate. -/
def Dev.storeFrame (d : Dev) (p stamp : Nat) (f : Frame) : Dev :=
  d.onPipeI p fun x =>
    { x with cur := x.cur.map fun c => if c.stamp == stamp && !c.gated then f else c,
             ended := x.ended.map fun c => if c.stamp == stamp && !c.gated then f else c }

/-- The ungated frame of a marker. -/
def Dev.ungated (d : Dev) (p stamp : Nat) : Option Frame :=
  ((d.pipeI p).ended ++ (d.pipeI p).cur.toList).find? fun f => f.stamp == stamp && !f.gated

def Dev.forgetFrame (d : Dev) (p stamp : Nat) : Dev :=
  d.onPipeI p fun x =>
    { x with cur := x.cur.filter fun c => !(c.stamp == stamp && !c.gated),
             ended := x.ended.filter fun c => !(c.stamp == stamp && !c.gated) }

/-- The header checks of a frame that is known when it is gated (R222, R223). -/
def Dev.settleGated (d : Dev) (p : Nat) (f : Frame) : Dev :=
  let open' := (d.pipeI p).cur
  if open'.any fun c => c.number == f.number && c.gated then d.settleFrame p d.nowNs
  else
    let d := (d.setCur p (some f)).settleFrame p d.nowNs
    let f' := (d.pipeI p).cur.getD f
    let f' := if (f'.dies.getD 0 DieFrame.empty).header then f' else setStatus f' stUnknown
    d.onPipeI p fun x => { x with cur := open', ended := x.ended.map fun c => if c.number == f.number then f' else c }

/-- The landings of a gate, and the letters that leave with it, in seal order (R221, R227). -/
def Dev.gateEnvs (d : Dev) (p m tick : Nat) : Dev :=
  let d := d.each (d.frameEnvs p) fun d n => d.reaim p n m tick
  let d := d.each (d.frameEnvs p) fun d n => d.landAtFrame p n tick
  d.each (d.frameEnvs p) fun d n => d.lettersLeave n p (d.pipeI p).frame.toNat

/-- The gate of a marker of pipeline `p` (R34, R219, R220). -/
def Dev.gate (d : Dev) (p stamp : Nat) : Dev :=
  match d.ungated p stamp with
  | none => d
  | some f0 =>
    if !d.hasCapture p || !(d.linkI (.capture p)).up then d.forgetFrame p stamp
    else
      let m := d.missedAt p stamp
      let d := (d.numberFrame p stamp m).duePeriod p
      let d := (d.gateEnvs p m d.tick.count.toNat).millGate p
      let (f, d) := d.stampFrame p m f0
      let d := d.raiseNow (176 + p)
      if f.aborted || d.isShed (d.capRace p) then
        (((d.forgetFrame p stamp).frameLost p (d.capRace p) f.number d.nowNs).missPipe p 2)
      else
        let (f, d) := d.takeBuffers p f
        (d.storeFrame p stamp f).settleGated p f

/-! ### Commit points (18 R447; 03 R71, R79) -/

/-- The kind 2 envelopes of an output whose frame has its commit point now land; a late one counts as missed (18
R448). -/
def Dev.commitEnvs (d : Dev) (o tick : Nat) : Dev :=
  let now := (d.rasterI o).frame.toNat
  let due := (d.heldEnvs.filter fun x =>
    x.1.phase == .sealed && x.1.kind == 2 && x.1.target == o && !frameAhead x.1.land now).map (·.2)
  d.each due fun d n =>
    let e := d.envI n
    if e.failed.isSome then d
    else if e.land != now && e.noLate then d.returnEnv n 0x32 noMember tick
    else
      let d := d.onEnvI n fun e => { e with land := now, late := e.late || e.land != now }
      let d := if (d.envI n).late then d.missedCommit o d.nowNs else d
      d.landOrRefuse n tick

/-- The commit point of output `o`, stamped `stamp`, in units of 2^-32 ns. -/
def Dev.commit (d : Dev) (o stamp : Nat) : Dev := (d.commitEnvs o d.tick.count.toNat).commitOutput o (stamp / 2 ^ 32)

/-! ### Rank 6 -/

/-- What rank 6 takes: the gate of a pipeline, or the commit point of an output. -/
inductive Rank6 where
  | gate (p stamp : Nat)
  | commit (o stamp : Nat)

def Rank6.stamp : Rank6 → Nat
  | .gate _ s => s
  | .commit _ s => s

def Rank6.source : Rank6 → Nat
  | .gate p _ => 176 + p
  | .commit o _ => 244 + 2 * o

/-- Rank 6: gates and commit points by stamp, and at one stamp by source number (01 R35). -/
def Dev.gates (d : Dev) : Dev :=
  let all := d.tick.markers.map (fun m => Rank6.gate m.1 m.2) ++ d.tick.commits.map fun c => Rank6.commit c.1 c.2
  let list := sortBy Rank6.stamp (sortBy Rank6.source all)
  let d := d.onTick fun t => { t with markers := [] }
  let d := d.each list fun d x => match x with
    | .gate p s => d.gate p s
    | .commit o s => d.commit o s
  d.onTick fun t => { t with commits := [] }

end Sys2Proof.Machine
end

