-- ==== Sys2Proof/Machine/Admin.lean ====
section
/-!
DEFINITION. Dockets of groups 0x0_, 0x1_ (reads) and 0x3_: queues and moderation, apertures, identify, buffers, copies,
parameter reads, head descriptors and embedded data (13 R324, R334, R337; 14 R344 to R352, R357, R358, R360; 08 R208).
-/
namespace Sys2Proof.Machine

/-! ### Queues (14 R357) -/

/-- A docket of opcodes 0x01 to 0x07 runs only on SQ0 (13 R324). -/
def Dev.onAdmin (d : Dev) (k : Docket) (used : List (Nat × Nat)) (work : Dev → Dev) : Dev :=
  d.runDocket k used fun d => if k.sq = 0 then work d else d.finish k 0x0208

/-- NO_OPERATION. -/
def execNoOperation (d : Docket) (s : State) : Host.Outcome State Fault Refusal :=
  .next { s with dev := s.dev.runDocket d [] fun x => x.finish d 0 }

/-- What is wrong with the ring operands of a create docket; 0 when nothing is (13 R324, 14 R348). -/
def ringStatus (k : Docket) : Nat :=
  if u64 k.bytes 8 % 4096 ≠ 0 then 0x0205
  else if u16 k.bytes 16 < 2 ∨ 4096 < u16 k.bytes 16 then 0x0204
  else if u8 k.bytes 22 = 0 ∨ 64 ≤ u8 k.bytes 22 ∨ 64 ≤ u8 k.bytes 18 then 0x0203
  else 0

/-- A completion queue is enabled: phase 1, armed, empty; the receipts kept for it are written first (13 R326, R334,
R338). -/
def Dev.enableCq (d : Dev) (n base entries vector count time : Nat) : Dev :=
  let d := d.onCqI n fun q =>
    { CompQ.none with enabled := true, base := BitVec.ofNat 64 base, entries := entries, vector := vector, count := count,
                      timeUs := time, armed := true, phase := true, kept := q.kept }
  d.drainKept (d.cqI n).kept.length n

/-- CREATE_CQ. -/
def Dev.createCq (d : Dev) (k : Docket) : Dev :=
  d.onAdmin k [(8, 22)] fun d =>
    let n := u8 k.bytes 22
    if ringStatus k ≠ 0 then d.finish k (ringStatus k)
    else if u8 k.bytes 19 = 0 then d.finish k 0x0204
    else if (d.cqI n).enabled then d.finish k 0x0304
    else (d.enableCq n (u64 k.bytes 8) (u16 k.bytes 16) (u8 k.bytes 18) (u8 k.bytes 19) (u16 k.bytes 20)).finish k 0

def execCreateCq (d : Docket) (s : State) : Host.Outcome State Fault Refusal :=
  .next { s with dev := s.dev.createCq d }

/-- A submission queue exists and is bound to a completion queue (13 R324). -/
def Dev.bound (d : Dev) (n : Nat) : Bool := d.host.sqs.any fun q => q.enabled && q.cq == n

/-- DELETE_CQ. -/
def Dev.deleteCq (d : Dev) (k : Docket) : Dev :=
  d.onAdmin k [(22, 22)] fun d =>
    let n := u8 k.bytes 22
    if n = 0 ∨ 64 ≤ n then d.finish k 0x0203
    else if !(d.cqI n).enabled || d.bound n then d.finish k 0x0304
    else (d.onCqI n fun q => { CompQ.none with kept := q.kept }).finish k 0

def execDeleteCq (d : Docket) (s : State) : Host.Outcome State Fault Refusal :=
  .next { s with dev := s.dev.deleteCq d }

/-- CREATE_SQ. -/
def Dev.createSq (d : Dev) (k : Docket) : Dev :=
  d.onAdmin k [(8, 20), (22, 22)] fun d =>
    let n := u8 k.bytes 22
    if 2 ≤ u8 k.bytes 20 then d.finish k 0x0202
    else if ringStatus k ≠ 0 then d.finish k (ringStatus k)
    else if 3 < u8 k.bytes 19 then d.finish k 0x0204
    else if (d.sqI n).enabled || !(d.cqI (u8 k.bytes 18)).enabled then d.finish k 0x0304
    else
      (d.onSqI n fun _ =>
        { SubQ.none with enabled := true, base := BitVec.ofNat 64 (u64 k.bytes 8), entries := u16 k.bytes 16,
                         cq := u8 k.bytes 18, cls := u8 k.bytes 19, freezeOnErr := u8 k.bytes 20 == 1 }).finish k 0

def execCreateSq (d : Docket) (s : State) : Host.Outcome State Fault Refusal :=
  .next { s with dev := s.dev.createSq d }

/-- A waiting docket ends without running. -/
def Dev.notRun (d : Dev) (k : Docket) (status : Nat) : Dev :=
  (d.onSqI k.sq fun q =>
    { q with fetched := q.fetched.map fun f => if f.idx == k.idx && !f.begun then { f with begun := true } else f }).answer
    ⟨k, status, [], true, false, 1, false, false⟩

/-- DELETE_SQ: each waiting docket writes 0x0602, and the delete receipt comes after the last receipt of the queue
(13 R337). -/
def Dev.deleteSq (d : Dev) (k : Docket) : Dev :=
  d.onAdmin k [(22, 22)] fun d =>
    let n := u8 k.bytes 22
    if n = 0 ∨ 64 ≤ n then d.finish k 0x0203
    else if !(d.sqI n).enabled || (d.sqI n).deleting.isSome then d.finish k 0x0304
    else
      let waiting := (d.sqI n).fetched.filter fun f => !f.begun
      let d := d.each waiting fun d f => d.notRun ⟨n, f.idx, f.bytes⟩ 0x0602
      (d.onSqI n fun q => { q with deleting := some k }).finishDelete n

def execDeleteSq (d : Docket) (s : State) : Host.Outcome State Fault Refusal :=
  .next { s with dev := s.dev.deleteSq d }

/-- A host-side action waits for rank 9 (01 R35). -/
def Dev.atRank9 (d : Dev) (a : HostAct) : Dev := d.onTick fun t => { t with act9 := t.act9 ++ [a] }

/-- SET_MODERATION: it takes effect at rank 9, where its receipt is written (14 R357). -/
def Dev.setModeration (d : Dev) (k : Docket) : Dev :=
  d.onAdmin k [(18, 22)] fun d =>
    if 64 ≤ u8 k.bytes 18 ∨ 64 ≤ u8 k.bytes 22 then d.finish k 0x0203
    else if u8 k.bytes 19 = 0 then d.finish k 0x0204
    else if !(d.cqI (u8 k.bytes 22)).enabled then d.finish k 0x0304
    else d.atRank9 (.moderation k (u8 k.bytes 22) (u8 k.bytes 18) (u8 k.bytes 19) (u16 k.bytes 20))

def execSetModeration (d : Docket) (s : State) : Host.Outcome State Fault Refusal :=
  .next { s with dev := s.dev.setModeration d }

/-! ### Apertures (13 R323) -/

def apertureBytes : Nat := 2 ^ 24

/-- Why an aperture cannot be mapped; 0 when it can. -/
def Dev.mapStatus (d : Dev) (pool off : Nat) : Nat :=
  match d.pool pool with
  | none => 0x8001
  | some p => if p.size ≤ off * apertureBytes then 0x8002 else 0

/-- MAP_APERTURE: judged when it begins, it takes effect at rank 9. -/
def Dev.mapAperture (d : Dev) (k : Docket) : Dev :=
  d.onAdmin k [(8, 8), (10, 15)] fun d =>
    let pool := u16 k.bytes 10
    if 64 ≤ u8 k.bytes 8 ∨ 256 ≤ pool then d.finish k 0x0203
    else if d.mapStatus pool (u32 k.bytes 12) ≠ 0 then d.finish k (d.mapStatus pool (u32 k.bytes 12))
    else d.atRank9 (.aperture k (u8 k.bytes 8) (some (pool, u32 k.bytes 12)))

def execMapAperture (d : Docket) (s : State) : Host.Outcome State Fault Refusal :=
  .next { s with dev := s.dev.mapAperture d }

/-- UNMAP_APERTURE: it takes effect at rank 9. -/
def Dev.unmapAperture (d : Dev) (k : Docket) : Dev :=
  d.onAdmin k [(8, 8)] fun d =>
    if 64 ≤ u8 k.bytes 8 then d.finish k 0x0203 else d.atRank9 (.aperture k (u8 k.bytes 8) none)

def execUnmapAperture (d : Docket) (s : State) : Host.Outcome State Fault Refusal :=
  .next { s with dev := s.dev.unmapAperture d }

/-! ### Identify -/

/-- DEV_ID (13 R341). -/
def devId : Nat := packWord [(16, 0x4880), (8, Config.stepping.toNat)]

/-- Frame memory that the pages of R415 hold, MiB. -/
def Dev.frameMemoryMiB (d : Dev) : Nat := sumBy (chanPages d.dram) (populated d.dram)

/-- The identify block (14 R357). What its frame memory counts: notes/assumptions/45.md. -/
def Dev.identifyBlock (d : Dev) : List Byte :=
  padTo 4096 (leBytes 4 devId ++ leBytes 8 Config.serial.toNat ++ leBytes 4 d.boot.version.toNat ++
    leBytes 4 (d.boot.staged.elim 0 (·.version)) ++ leBytes 4 d.frameMemoryMiB ++ leBytes 8 d.store.capacity ++
    leBytes 1 d.addressByte)

/-- A docket that writes one object of fixed size to host memory (14 R350). -/
def Dev.writeObject (d : Dev) (k : Docket) (size : Nat) (go : Dev → Dev) : Dev :=
  if u64 k.bytes 8 % 4 ≠ 0 then d.finish k 0x0205
  else if u32 k.bytes 16 < size then d.finish k 0x0204
  else go d

/-- IDENTIFY. -/
def Dev.identify (d : Dev) (k : Docket) : Dev :=
  d.runDocket k [(8, 19)] fun d =>
    d.writeObject k 4096 fun d => (d.hostWrite (u64 k.bytes 8) d.identifyBlock).finish k 0 (leBytes 4 4096)

def execIdentify (d : Docket) (s : State) : Host.Outcome State Fault Refusal :=
  .next { s with dev := s.dev.identify d }

/-! ### Buffers (08 R208, R212) -/

/-- The status of a key that a read docket names: a missing instance, or no parameter (14 R344). -/
def keyStatus (k : Nat) : Nat :=
  if blockHas (keyBlock k) (keyInst k) = some false then 0x0203
  else if (paramInfo k).isNone then 0x8102
  else 0

/-- The status of a key that must name a ring. -/
def ringKeyStatus (k : Nat) : Nat :=
  if keyStatus k ≠ 0 then keyStatus k
  else if (ringOfKey k).isSome && keyIdx k == ringIndex (keyBlock k) then 0 else 0x8102

/-- TAKE_BUFFER: host software takes by the slot's order (14 R357). -/
def Dev.takeBufferDocket (d : Dev) (k : Docket) : Dev :=
  d.runDocket k [(24, 28)] fun d =>
    let key := u32 k.bytes 24
    let slot := u8 k.bytes 28
    let ring := (ringOfKey key).getD 0
    if ringKeyStatus key = 0x0203 then d.finish k 0x0203
    else if 3 < slot then d.finish k 0x0204
    else if ringKeyStatus key ≠ 0 then d.finish k (ringKeyStatus key)
    else if ((d.ringI ring).slots.getD slot Slot.none).endpoint ≠ 0xFFFF ∨ (d.par key).isEmpty then d.finish k 0x8003
    else match d.takeFrom ring slot true with
      | (none, d) => d.finish k 0 [0xFF]
      | (some b, d) =>
        d.finish k 0 (leBytes 4 b.idx ++ leBytes 4 b.pset ++ leBytes 16 b.postmark)

def execTakeBuffer (d : Docket) (s : State) : Host.Outcome State Fault Refusal :=
  .next { s with dev := s.dev.takeBufferDocket d }

/-- The buffer of an index that a slot holds: the retiring ring's first (14 R357, 08 R212). -/
def Ring.heldBy (r : Ring) (slot idx : Nat) : Option Buf :=
  let mine := r.bufs.filter fun b => b.idx == idx && b.held.contains slot && !b.pend.contains slot
  (mine.find? (·.old)).orElse fun _ => mine.head?

/-- RELEASE_BUFFER: the release is taken at rank 9 (08 R209). A slot that is not attached to the host holds no buffer
(14 R357). -/
def Dev.releaseBufferDocket (d : Dev) (k : Docket) : Dev :=
  d.runDocket k [(24, 29)] fun d =>
    let key := u32 k.bytes 24
    let slot := u8 k.bytes 28
    let ring := (ringOfKey key).getD 0
    if ringKeyStatus key = 0x0203 then d.finish k 0x0203
    else if 3 < slot then d.finish k 0x0204
    else if ringKeyStatus key ≠ 0 then d.finish k (ringKeyStatus key)
    else if (d.par key).isEmpty then d.finish k 0x8003
    else if ((d.ringI ring).slots.getD slot Slot.none).endpoint ≠ 0xFFFF then d.finish k 0x8004
    else match (d.ringI ring).heldBy slot (u8 k.bytes 29) with
      | none => d.finish k 0x8004
      | some b => (d.queueRelease ring slot b.order true).finish k 0

def execReleaseBuffer (d : Docket) (s : State) : Host.Outcome State Fault Refusal :=
  .next { s with dev := s.dev.releaseBufferDocket d }

/-! ### Copies (14 R351, R357) -/

/-- Why a copy moves no data; 0 when it does. -/
def Dev.copyStatus (d : Dev) (k : Docket) : Nat :=
  match d.pool (u16 k.bytes 22) with
  | none => 0x8001
  | some p => if p.size < u64 k.bytes 24 + u32 k.bytes 16 then 0x8002 else 0

/-- COPY. A copy to the pool reads host memory first. -/
def Dev.copyDocket (d : Dev) (k : Docket) : Dev :=
  d.runDocket k [(8, 20), (22, 31)] fun d =>
    let len := u32 k.bytes 16
    if u64 k.bytes 8 % 4 ≠ 0 then d.finish k 0x0205
    else if len < 4 ∨ 2 ^ 24 < len ∨ len % 4 ≠ 0 then d.finish k 0x0204
    else if 256 ≤ u16 k.bytes 22 then d.finish k 0x0203
    else if 1 < u8 k.bytes 20 then d.finish k 0x0204
    else if d.copyStatus k ≠ 0 then d.finish k (d.copyStatus k)
    else if u8 k.bytes 20 = 1 then d.readHost k (u64 k.bytes 8) len
    else (d.hostWrite (u64 k.bytes 8) (d.memRead (u16 k.bytes 22) (u64 k.bytes 24) len)).finish8 k 0

def execCopy (d : Docket) (s : State) : Host.Outcome State Fault Refusal :=
  .next { s with dev := s.dev.copyDocket d }

/-- The host data of a copy arrives; a pool that an envelope released meanwhile takes nothing. -/
def Dev.copyData (d : Dev) (k : Docket) (data : List Byte) : Dev :=
  if d.copyStatus k ≠ 0 then d.finish8 k (d.copyStatus k)
  else (d.memWrite (u16 k.bytes 22) (u64 k.bytes 24) data).finish8 k 0

/-! ### Reading parameters (14 R345, R358) -/

/-- What a pool adds to each of its channels (17 R431). -/
def Dev.poolLoad (d : Dev) (n : Nat) : Q :=
  let flows := d.res.streams.flatMap fun s => d.streamFlows s ++ d.codingFlows s
  qDivNat (qSum ((flows.filter fun f => f.1 == n).map (·.2.2))) (max 1 (d.poolChans n).length)

/-- Load of a channel, Q4.12 of its capacity at the rate in force (17 R432). -/
def Dev.chanShare (d : Dev) (c : Nat) : Nat := q412 (qDivNat (d.load c) (max 1 (chanCapacity d.dram.rate.toNat)))

def govValue (d : Dev) (r i : Nat) : List Byte :=
  if i < 5 then leBytes 2 ((d.gov.curves.getD r []).getD i 0)
  else if i < 12 then leBytes 2 (d.gov.readings.getD (4 * r + (i - 8)) 0)
  else if i = 12 then leBytes 2 (q412 (d.unshed.demandOf r))
  else leBytes 2 (ofSigned 16 (d.gov.v1.getD r 0))

/-- An entry of the step log (20 R480). -/
def StepEntry.bytes (e : StepEntry) : List Byte :=
  leBytes 8 e.tick ++ leBytes 8 (ofSigned 64 e.offset) ++ leBytes 6 e.secs ++ leBytes 1 e.epoch ++ leBytes 1 e.cause

/-- A broadcast received (22 R527). -/
def bcastBytes (b : Nat × Nat × Nat × Nat × List Byte) : List Byte :=
  leBytes 1 b.1 ++ leBytes 1 b.2.1 ++ leBytes 2 b.2.2.1 ++ leBytes 4 (nsOf b.2.2.2.1) ++ leBytes 6 (secOf b.2.2.2.1) ++
    leBytes 2 0 ++ padTo 16 b.2.2.2.2

def sourceBytes (x : Source) : List Byte :=
  leBytes 4 x.raises.toNat ++ leBytes 4 (nsOf x.stampNs) ++ leBytes 6 (secOf x.stampNs) ++ leBytes 1 x.epoch ++ [0]

/-- The value of a read-only parameter (14 R347 and the chapters it names). One that holds nothing yet reads as 0:
notes/assumptions/45.md. -/
def Dev.roValue (d : Dev) (k : Nat) : List Byte :=
  let n := keyInst k
  let i := keyIdx k
  match keyBlock k with
  | 0x02 => govValue d n i
  | 0x05 =>
    if i = 0x100 then padTo 64 (d.capI n).desc
    else match (d.capI n).events[i - 0x110]? with
      | some (code, payload) => leBytes 2 code ++ leBytes 2 0 ++ padTo 32 payload
      | none => List.replicate 36 0
  | 0x06 =>
    if i = 0x110 then (d.pipeI n).cands.flatMap fun (x : Nat × Nat) => leBytes 4 (x.1 * 2 ^ 15 + x.2)
    else leBytes 4 ((d.pipeI n).clamp.getD (i - 0x100) 0)
  | 0x0F =>
    if i = 0 then leBytes 8 ((d.pool n).elim 0 (·.size))
    else if i = 1 then leBytes 4 ((d.pool n).elim 0 (·.mask))
    else if i = 2 then leBytes 8 (qFloor (d.poolLoad n)).toNat
    else (List.range 24).flatMap fun c => leBytes 2 (d.chanShare c)
  | 0x11 => padTo 48 (d.portI n).goodCs
  | 0x12 =>
    if i = 0x20 then padTo 384 (d.time.steps.flatMap (·.bytes))
    else leBytes 16 (if i = 0x30 then d.time.ppsCap else d.time.htpCap)
  | 0x14 => sourceBytes (d.srcI n)
  | 0x16 =>
    let x := d.slotI n
    leBytes 1 (launchCode x.state) ++ leBytes 4 (capN 32 x.firings) ++ leBytes 4 (capN 32 x.missed) ++
      leBytes 1 x.emptyFire.toNat
  | 0x17 =>
    if i = 0x20 then padTo 512 ((lastN 16 d.chain.bcasts).flatMap bcastBytes) else sourceBytes (d.srcI (256 + n))
  | _ => []

/-- The value that a read returns (14 R345). -/
def Dev.readPar (d : Dev) (k : Nat) : List Byte :=
  if (paramInfo k).any (·.ro) then d.roValue k else d.par k

/-- READ_PARAMETER. -/
def Dev.readParameter (d : Dev) (k : Docket) : Dev :=
  d.runDocket k [(8, 11)] fun d =>
    let key := u32 k.bytes 8
    if keyStatus key ≠ 0 then d.finish k (keyStatus key)
    else d.finish k 0 (leBytes 4 (d.readPar key).length ++ padTo 20 (d.readPar key))

def execReadParameter (d : Docket) (s : State) : Host.Outcome State Fault Refusal :=
  .next { s with dev := s.dev.readParameter d }

/-- READ_PARAMETER_TO_HOST. -/
def Dev.readToHost (d : Dev) (k : Docket) : Dev :=
  d.runDocket k [(8, 19), (24, 31)] fun d =>
    let key := u32 k.bytes 24
    let off := u32 k.bytes 28
    let len := u32 k.bytes 16
    if u64 k.bytes 8 % 4 ≠ 0 then d.finish k 0x0205
    else if len = 0 ∨ 2 ^ 24 < len then d.finish k 0x0204
    else if keyStatus key ≠ 0 then d.finish k (keyStatus key)
    else
      let v := d.readPar key
      if v.length ≤ off then d.finish k 0x8101
      else
        let data := (v.drop off).take len
        (d.hostWrite (u64 k.bytes 8) data).finish k 0 (leBytes 4 data.length ++ leBytes 4 v.length)

def execReadParameterToHost (d : Docket) (s : State) : Host.Outcome State Fault Refusal :=
  .next { s with dev := s.dev.readToHost d }

/-- The result of a describe docket. -/
def describe (f : PInfo) : List Byte :=
  let num := fun (v : Int) => if f.numeric && decide (f.hi ≤ 8) then leBytes 8 (ofSigned 64 v) else leBytes 8 0
  leBytes 4 f.hi ++
    leBytes 1 (packWord [(0, (decide (32 < f.hi)).toNat), (1, f.ro.toNat), (2, (decide (f.lo ≠ f.hi)).toNat)]) ++
    leBytes 1 f.kinds ++ [0, 0] ++ num f.least ++ num f.most

/-- DESCRIBE_PARAMETER. -/
def Dev.describeParameter (d : Dev) (k : Docket) : Dev :=
  d.runDocket k [(8, 11)] fun d =>
    let key := u32 k.bytes 8
    match paramInfo key with
    | some f => d.finish k 0 (describe f)
    | none => d.finish k (keyStatus key)

def execDescribeParameter (d : Docket) (s : State) : Host.Outcome State Fault Refusal :=
  .next { s with dev := s.dev.describeParameter d }

/-! ### Sensor dockets (14 R360) -/

/-- READ_HEAD_DESCRIPTOR. -/
def Dev.readDescriptor (d : Dev) (k : Docket) : Dev :=
  d.runDocket k [(8, 19), (24, 24)] fun d =>
    d.writeObject k 64 fun d =>
      let p := u8 k.bytes 24
      if 8 ≤ p then d.finish k 0x0203
      else if (d.capI p).desc.isEmpty then d.finish k 0x8301
      else (d.hostWrite (u64 k.bytes 8) (padTo 64 (d.capI p).desc)).finish k 0 (leBytes 4 64)

def execReadHeadDescriptor (d : Docket) (s : State) : Host.Outcome State Fault Refusal :=
  .next { s with dev := s.dev.readDescriptor d }

/-- READ_EMBEDDED_DATA: that of the last frame to complete. -/
def Dev.readEmbedded (d : Dev) (k : Docket) : Dev :=
  d.runDocket k [(8, 19), (24, 25)] fun d =>
    let len := u32 k.bytes 16
    let p := u8 k.bytes 24
    let die := u8 k.bytes 25
    if u64 k.bytes 8 % 4 ≠ 0 then d.finish k 0x0205
    else if len = 0 ∨ 4096 < len then d.finish k 0x0204
    else if 8 ≤ p ∨ d.parN 0x05 p 1 ≤ die then d.finish k 0x0203
    else
      let data := ((d.capI p).embed.getD die []).take len
      if data.isEmpty then d.finish k 0x8302
      else (d.hostWrite (u64 k.bytes 8) data).finish k 0 (leBytes 4 data.length ++ leBytes 4 (d.capI p).embedFrame)

def execReadEmbeddedData (d : Docket) (s : State) : Host.Outcome State Fault Refusal :=
  .next { s with dev := s.dev.readEmbedded d }

end Sys2Proof.Machine
end

