-- ==== Sys2Proof/Machine/Firmware.lean ====
section
/-!
DEFINITION. Boot-flash images, staging, activation and its fallback (24 R552 to R554, R561 to R563).
-/
namespace Sys2Proof.Machine

/-! ### Images (R553, R554) -/

/-- An image is accepted against a fused minimum (R554). -/
def accepted (min : Nat) (i : Image) : Bool := i.formOk && i.keyOk && i.sigOk && decide (min ≤ i.security)

/-- The image that a byte string spells: header, payload and signature block (R553). What the fuses hold and whether
the signature verifies are the part's own: notes/assumptions/46.md. -/
def imageOfBytes (b : List Byte) : Image :=
  let n := u32 b 16
  let sig := b.drop (256 + n)
  let zero := fun (l : List Byte) (i k : Nat) => allZero ((l.drop i).take k)
  { version := u32 b 8, security := u8 b 12,
    formOk := b.take 4 == [0x4B, 0x54, 0x46, 0x31] && u32 b 4 == 1 && u16 b 24 == 0x4880 && b.length == n + 512 &&
      u32 b 20 == crc32c ((b.drop 256).take n) && decide (u8 b 12 < 64) && zero b 13 3 && zero b 26 230 &&
      zero sig 1 3 && zero sig 197 59,
    keyOk := decide (u8 sig 0 < 4) && Config.keyFused (u8 sig 0) ((sig.drop 4).take 97),
    sigOk := Config.signatureVerifies ((sig.drop 4).take 97) (b.take (256 + n)) ((sig.drop 101).take 96) }

/-! ### Staging (R561) -/

/-- STAGE_FIRMWARE: the image is read from host memory. -/
def Dev.stageDocket (d : Dev) (k : Docket) : Dev :=
  d.runDocket k [(8, 19)] fun d =>
    let len := u32 k.bytes 16
    if u64 k.bytes 8 % 4 ≠ 0 then d.finish k 0x0205
    else if len = 0 ∨ 2 ^ 24 < len then d.finish k 0x0204
    else if d.boot.activating then d.finish k 0x8902
    else d.readHost k (u64 k.bytes 8) len

def execStageFirmware (d : Docket) (s : State) : Host.Outcome State Fault Refusal :=
  .next { s with dev := s.dev.stageDocket d }

/-- The image arrives: accepted, it goes to the slot that is not running. -/
def Dev.stageData (d : Dev) (k : Docket) (data : List Byte) : Dev :=
  let i := imageOfBytes data
  if d.boot.activating then d.finish k 0x8902
  else if !accepted d.boot.minSecurity.toNat i then d.finish k 0x8901
  else
    ((d.onBoot fun b => { b with staged := some i, images := b.images.set (1 - b.slot) (some i) }).raiseNow 7).finish k 0
      (leBytes 4 i.version)

/-! ### Directories (R552) -/

/-- The directory copy in use: the higher sequence whose CRC passes. -/
def usedDirectory (l : List Directory) : Option Directory :=
  (l.filter (·.valid)).foldl (fun (m : Option Directory) x => match m with
    | some y => if y.seq < x.seq then some x else m
    | none => some x) none

/-- The copy that is not in use is rewritten, naming a slot, with the next sequence. -/
def rewriteDirectory (l : List Directory) (slot : Nat) : List Directory :=
  match usedDirectory l with
  | some u => [u, ⟨u.seq + 1, slot, true⟩]
  | none => [⟨1, slot, true⟩]

/-- The slots in the order in which the boot ROM tries them: the active one first (R554). -/
def bootOrder (l : List Directory) : List Nat :=
  let a := (usedDirectory l).elim 0 (·.active)
  [a, 1 - a]

/-- The slot and image that start, if any is accepted (R554). -/
def bootChoice (min : Nat) (dirs : List Directory) (images : List (Option Image)) : Option (Nat × Image) :=
  (bootOrder dirs).findSome? fun n => match images.getD n none with
    | some i => if accepted min i then some (n, i) else none
    | none => none

/-! ### Activation (R562, R563) -/

/-- FIRMWARE_ACTIVATION: the directory names the staged slot, and the clerks stop beginning dockets. They resume at a
close (`resumeClerks`), or by ACTIVATION_FALLBACK. -/
def Dev.activate (d : Dev) (k : Docket) : Dev :=
  d.gated k [] fun d =>
    if d.boot.staged.isNone then d.finish k 0x8E01
    else
      let d := d.onBoot fun b =>
        { b with prevDirs := b.dirs, dirs := rewriteDirectory b.dirs (1 - b.slot), activating := true,
                 actDocket := some k, actAt := d.tick.tclk }
      (d.onHost fun h => { h with ready := false }).raiseNow 7

def execFirmwareActivation (d : Docket) (s : State) : Host.Outcome State Fault Refusal :=
  .next { s with dev := s.dev.activate d }

/-- The clerks take dockets again, and the activation docket is answered with `how` in byte 8. -/
def Dev.endActivation (d : Dev) (how : Nat) : Dev :=
  let k := d.boot.actDocket
  let d := d.onBoot fun b => { b with activating := false, actDocket := none, prevDirs := [] }
  let d := (d.onHost fun h => { h with ready := true }).raiseNow 7
  match k with
  | some k => d.finish k 0 (leBytes 1 how)
  | none => d

/-- A close at which the clerks may resume on the new image: at the latest 100 ms after the activation began, before that
when the part is done (a free value). A new image that is not accepted never resumes (R562). -/
def Dev.resumeClerks (d : Dev) : Dev :=
  let n := 1 - d.boot.slot
  match d.boot.activating, d.boot.images.getD n none with
  | true, some i =>
    if accepted d.boot.minSecurity.toNat i then
      let late := decide (12500000 ≤ d.tick.tclk - d.boot.actAt)
      let now := late || d.free % 2 == 1
      let d := d.used 1
      if now then
        let d := d.onBoot fun b =>
          { b with slot := n, version := BitVec.ofNat 32 i.version, security := BitVec.ofNat 6 i.security, staged := none }
        (d.onHealth fun h => { h with imageSec := 0 }).endActivation 1
      else d
    else d
  | _, _ => d

/-- ACTIVATION_FALLBACK: the previous slot and the previous directory come back (R563). -/
def Dev.fallBack (d : Dev) : Dev :=
  if d.boot.activating then
    ((d.onBoot fun b => { b with dirs := b.prevDirs, fallback := true }).mark 0x17000 4).endActivation 2
  else d

def execActivationFallback (s : State) : Host.Outcome State Fault Refusal := .next { s with dev := s.dev.fallBack }

/-- SECURITY_MINIMUM_RAISE: the image has run for an hour; the minimum never falls (R554). -/
def Dev.raiseMinimum (d : Dev) : Dev :=
  if 3600 ≤ d.health.imageSec then
    d.onBoot fun b => { b with minSecurity := if b.minSecurity < b.security then b.security else b.minSecurity }
  else d

def execSecurityMinimumRaise (s : State) : Host.Outcome State Fault Refusal := .next { s with dev := s.dev.raiseMinimum }

end Sys2Proof.Machine
end

