-- ==== Sys2Proof/Machine/Host.lean ====
section
/-!
DEFINITION. The host's side of the queues: doorbells, fetch, freeze and resume, the administration queue, the dead-letter
log, host reads, BAR2, the presence window, the host driver reset, and rank 9 (13 R319 to R340; 01 R14, R35).
-/
namespace Sys2Proof.Machine

/-! ### Doorbells (13 R325, R326) -/

/-- SQ_TAIL: a doorbell releases dockets at rank 9; its reserved bits are ignored (00_scope R8). -/
def Dev.sqTail (d : Dev) (n value : Nat) : Dev :=
  let q := d.sqI n
  let tail := value % 4096
  if !q.enabled || q.deleting.isSome then d
  else if q.entries ≤ tail then d.badDoorbell n tail
  else (d.onSqI n fun q => { q with tailReg := BitVec.ofNat 12 tail }).atRank9 (.doorbell n tail)

def execSqTail (q : Fin 64) (value : Word) (_cyc : Nat) (s : State) : Host.Outcome State Fault Refusal :=
  .next { s with dev := s.dev.sqTail q value.toNat }

/-- CQ_HEAD: receipts are consumed up to the head, and the queue is armed (13 R326, R334). -/
def Dev.cqHead (d : Dev) (n value : Nat) : Dev :=
  let q := d.cqI n
  let head := value % 4096
  if !q.enabled then d
  else if q.entries ≤ head ∨ cqUsed q < (head + q.entries - q.head) % q.entries then d.badDoorbell n head
  else
    let d := d.onCqI n fun q => { q with head := head, armed := true }
    d.drainKept (d.cqI n).kept.length n

def execCqHead (q : Fin 64) (value : Word) (_cyc : Nat) (s : State) : Host.Outcome State Fault Refusal :=
  .next { s with dev := s.dev.cqHead q value.toNat }

/-! ### Fetch (13 R327, R336) -/

/-- DOCKET_FETCH: the slot that arbitration chooses is read. -/
def execDocketFetch (bytes : List Byte) (s : State) : Host.Outcome State Fault Refusal :=
  .next { s with dev := s.dev.fetchOne (some (padTo 64 bytes)) }

/-- DOCKET_FETCH_FAILED. -/
def execDocketFetchFailed (s : State) : Host.Outcome State Fault Refusal :=
  .next { s with dev := s.dev.fetchOne none }

/-! ### Freeze and resume (13 R336, R337) -/

/-- SQn_CTRL: FREEZE and ACTION are taken at rank 9. -/
def Dev.sqAction (d : Dev) (n code : Nat) : Dev := d.atRank9 (.action n code)

def execFreeze (q : Fin 64) (s : State) : Host.Outcome State Fault Refusal :=
  .next { s with dev := s.dev.sqAction q 4 }

def execRetry (q : Fin 64) (s : State) : Host.Outcome State Fault Refusal :=
  .next { s with dev := s.dev.sqAction q 1 }

def execSkip (q : Fin 64) (s : State) : Host.Outcome State Fault Refusal :=
  .next { s with dev := s.dev.sqAction q 2 }

def execQueueFlush (q : Fin 64) (s : State) : Host.Outcome State Fault Refusal :=
  .next { s with dev := s.dev.sqAction q 3 }

/-- The oldest docket that a host freeze forgets, or the fetch position (R336). -/
def oldestWaiting (q : SubQ) : Nat :=
  match q.fetched.find? (fun f => !f.begun) with
  | some f => f.idx
  | none => q.fetch

/-- A freeze or a resume action, at rank 9. -/
def Dev.takeAction (d : Dev) (n code : Nat) : Dev :=
  let q := d.sqI n
  if !q.enabled then d
  else if code = 4 then if q.frozen then d else d.freezeQueue n (oldestWaiting q) true
  else if !q.frozen then d
  else
    let next := if q.entries ≤ q.fetch + 1 then 0 else q.fetch + 1
    d.onSqI n fun q =>
      { q with frozen := false, hostFreeze := false,
               fetch := if code = 2 ∧ q.hostFreeze = false then next else q.fetch,
               flushEnd := if code = 3 ∧ q.limit ≠ q.fetch then some q.limit else none }

/-! ### The administration queue (13 R324, R334, R341) -/

/-- The docket of queue `n` (any queue below 64 with none) after that queue has gone: its number moves by
`orphanBase`. -/
def orphanName (n : Option Nat) (k : Docket) : Docket :=
  if k.sq < 64 && n.all (· == k.sq) then { k with sq := k.sq + orphanBase } else k

def renameAct (f : Docket → Docket) : HostAct → HostAct
  | .moderation k a b c t => .moderation (f k) a b c t
  | .aperture k i m => .aperture (f k) i m
  | .lockAddress k a => .lockAddress (f k) a
  | .withdraw k n => .withdraw (f k) n
  | .doorbell n t => .doorbell n t
  | .action n c => .action n c
  | .arb l m h => .arb l m h
  | .driverReset => .driverReset

/-- Every docket that is held anywhere, renamed. -/
def Dev.renameDockets (d : Dev) (f : Docket → Docket) : Dev :=
  let d := d.onEnv fun e => { e with envs := e.envs.map fun x => { x with dk := f x.dk } }
  let d := d.onStore fun s =>
    { s with holes := s.holes.map fun h => { h with d := f h.d }, early := s.early.map f,
             flushes := s.flushes.map fun x => (f x.1, x.2) }
  let d := d.onBolt fun l =>
    l.map fun b => { b with flush := b.flush.map f, jobs := b.jobs.map fun j => { j with dk := f j.dk } }
  let d := d.onTick fun t =>
    { t with done8 := t.done8.map fun c => { c with dk := f c.dk }, act9 := t.act9.map (renameAct f) }
  let d := d.onChain fun c =>
    { c with fwd := c.fwd.map fun x => { x with dk := f x.dk }, echoes := c.echoes.map fun x => (x.1, f x.2.1, x.2.2) }
  let d := d.onBoot fun b => { b with actDocket := b.actDocket.map f }
  d.onHost fun h =>
    { h with waitData := h.waitData.map fun w => { w with d := f w.d },
             sqs := h.sqs.map fun q => { q with deleting := q.deleting.map f } }

/-- The receipt of a begun docket is kept: that of a sealing or sealed envelope, or of a store command (03 R68,
16 R406). -/
def Dev.keepsReceipt (d : Dev) (k : Docket) : Bool :=
  within 0x40 (dkOp k) 0x46 ||
    d.env.envs.any fun e => e.dk.sq == k.sq && e.dk.idx == k.idx && e.phase != .free && e.phase != .opened

/-- Queue `n` is deleted with its waiting dockets dropped and its begun dockets left to run (13 R338). `keep` tells
whether receipts may be kept. -/
def Dev.dropQueue (d : Dev) (n : Nat) (keep : Bool) : Dev :=
  let q := d.sqI n
  let begun := (q.fetched.filter (·.begun)).map fun f => (⟨n, f.idx, f.bytes⟩ : Docket)
  let left := begun.map fun k => (⟨orphanName none k, q.cq, keep && d.keepsReceipt k, sqHead q⟩ : Orphan)
  let held := sumBy (·.reserved) q.fetched
  let d := d.onCqI q.cq fun c => { c with reserved := c.reserved - held }
  let d := (d.onSqI n fun _ => SubQ.none).renameDockets (orphanName (some n))
  d.onHost fun h => { h with orphans := h.orphans ++ left }

/-- ADM_CTRL: ENABLE sets up SQ0 and CQ0, or is refused; clearing it deletes them (R341; notes/assumptions/47.md). -/
def Dev.admCtrl (d : Dev) (value : Nat) : Dev :=
  let h := d.host
  let d := if bit value 1 && d.clears 0x24 1 then d.onHost fun h => { h with admErr := false } else d
  if bit value 0 && !h.admEn then
    if h.sqLast = 0 ∨ h.cqLast = 0 then (d.onHost fun h => { h with admErr := true }).mark 0x24 1
    else
      let base := fun (lo hi : BitVec 32) => hi.toNat * 2 ^ 32 + lo.toNat / 4096 * 4096
      let d := d.onHost fun h => { h with admEn := true }
      let d := d.onSqI 0 fun _ =>
        { SubQ.none with enabled := true, base := BitVec.ofNat 64 (base h.admSqLo h.admSqHi), entries := h.sqLast.toNat + 1 }
      d.enableCq 0 (base h.admCqLo h.admCqHi) (h.cqLast.toNat + 1) 0 1 0
  else if !bit value 0 && h.admEn then
    let d := (d.onHost fun h => { h with admEn := false }).dropQueue 0 false
    if d.bound 0 then d else d.onCqI 0 fun q => { CompQ.none with kept := q.kept }
  else d

def execAdmEnable (value : Word) (s : State) : Host.Outcome State Fault Refusal :=
  .next { s with dev := s.dev.admCtrl value.toNat }

/-! ### The dead-letter log (13 R335) -/

/-- Up to `n` of the oldest entries go, but for those of tick `now`. -/
def dropOldest (now : Nat) : Nat → List DlogEntry → List DlogEntry
  | 0, l => l
  | _, [] => []
  | n + 1, e :: es => if e.tick = now then e :: dropOldest now (n + 1) es else dropOldest now n es

/-- DLOG_CLEAR. -/
def Dev.dlogClear (d : Dev) (value : Nat) : Dev :=
  d.onHost fun h => { h with dlog := dropOldest d.closeCount (value % 256) h.dlog }

def execDlogClear (value : Word) (s : State) : Host.Outcome State Fault Refusal :=
  .next { s with dev := s.dev.dlogClear value.toNat }

/-! ### Host data (13 R319; 14 R349) -/

/-- The wait that an answer of the host ends: a docket of queue `sq`, or of the queue of that number that a host driver
reset deleted. -/
def Dev.takeWait (d : Dev) (sq idx : Nat) : Option (Waiting × Dev) :=
  (takeFirst (fun (w : Waiting) => (w.d.sq == sq || w.d.sq == sq + orphanBase) && w.d.idx == idx) d.host.waitData).map
    fun (w, rest) => (w, d.onHost fun h => { h with waitData := rest })

/-- HOST_READ_COMPLETE: the docket goes on with exactly the bytes it asked for. -/
def Dev.hostData (d : Dev) (sq idx : Nat) (data : List Byte) : Dev :=
  match d.takeWait sq idx with
  | none => d
  | some (w, d) =>
    let k := w.d
    let data := padTo w.len data
    match dkOp k with
    | 0x0B => d.copyData k data
    | 0x11 => d.writeBulkData k data
    | 0x22 => d.addBulkData k data
    | 0x23 => d.addListData k data
    | 0x40 | 0x41 | 0x42 => d.storeData k data
    | 0x60 | 0x61 | 0x62 => d.jobData k data
    | 0x93 => d.stageData k data
    | 0xE2 => d.keyData k data
    | _ => d

def execHostReadComplete (sq idx : Nat) (data : List Byte) (s : State) : Host.Outcome State Fault Refusal :=
  .next { s with dev := s.dev.hostData sq idx data }

/-- HOST_READ_FAILED: the docket fails with 0x0501. -/
def Dev.hostDataFailed (d : Dev) (sq idx : Nat) : Dev :=
  match d.takeWait sq idx with
  | none => d
  | some (w, d) =>
    match dkOp w.d with
    | 0x40 | 0x41 | 0x42 => d.storeFailed w.d
    | 0x60 | 0x61 | 0x62 => d.jobFailed w.d
    | 0x0B => d.finish8 w.d 0x0501
    | _ => d.finish w.d 0x0501

def execHostReadFailed (sq idx : Nat) (s : State) : Host.Outcome State Fault Refusal :=
  .next { s with dev := s.dev.hostDataFailed sq idx }

/-! ### BAR2 (13 R323) -/

/-- The pool and offset that a BAR2 access of `length` bytes reaches, if its aperture is mapped and it lies within the
aperture and the pool. -/
def Dev.bar2Target (d : Dev) (offset length : Nat) : Option (Nat × Nat) :=
  match d.host.apertures.getD (offset / apertureBytes) none with
  | none => none
  | some (pool, base) =>
    let at' := base * apertureBytes + offset % apertureBytes
    if offset % apertureBytes + length ≤ apertureBytes && (d.pool pool).any (fun p => decide (at' + length ≤ p.size)) then
      some (pool, at')
    else none

/-- BAR2_ACCESS: a read, or a write of `data`. -/
def Dev.bar2 (d : Dev) (offset length : Nat) (data : Option (List Byte)) : Dev :=
  let n := data.elim length (·.length)
  match d.bar2Target offset n, data with
  | some (pool, at'), some bs => d.memWrite pool at' bs
  | some (pool, at'), none => d.emit (.readBytes (d.memRead pool at' n))
  | none, some _ => d.onHost fun h => { h with bar2Err := bump h.bar2Err }
  | none, none => (d.onHost fun h => { h with bar2Err := bump h.bar2Err }).emit .unsupportedRequest

def execBar2Access (offset length : Nat) (data : Option (List Byte)) (s : State) : Host.Outcome State Fault Refusal :=
  .next { s with dev := s.dev.bar2 offset length data }

/-! ### The presence window (13 R339, R340) -/

/-- 30 s in TCLK cycles. -/
def presenceCycles : Nat := 3750000000

/-- The window closes, which raises event 6. -/
def Dev.closePresence (d : Dev) : Dev :=
  if d.host.presOpen then (d.onHost fun h => { h with presOpen := false }).raiseNow 6 else d

/-- PRESENCE_N: low for 20 ms opens the window at this tick's close, or restarts its 30 s; high for 20 ms ends an
assertion. No window opens while PRESENCE_STUCK holds. -/
def Dev.presence (d : Dev) (low : Bool) : Dev :=
  if !low then d.onHost fun h => { h with presLow := false, presStuck := false }
  else d.onHost fun h => { h with presLow := true, presDue := h.presDue || !h.presStuck }

def execPresenceN (low : Bool) (_cyc : Nat) (s : State) : Host.Outcome State Fault Refusal :=
  .next { s with dev := s.dev.presence low }

/-- At a close: an assertion opens or restarts the window, and a window whose 30 s have run out closes. -/
def Dev.presenceRank (d : Dev) : Dev :=
  let d := if d.host.presDue then
      let opens := !d.host.presOpen
      let d := d.onHost fun h =>
        { h with presDue := false, presOpen := true, presEnd := d.tick.tclk + presenceCycles }
      if opens then d.raiseNow 6 else d
    else d
  if d.host.presOpen && decide (d.host.presEnd ≤ d.tick.tclk) then d.closePresence else d

/-- PRESENCE_WINDOW_CLOSE: the 30 s have run out; the window closes at this tick's close. -/
def Dev.presenceOver (d : Dev) (cyc : Nat) : Dev :=
  if d.host.presOpen then d.onHost fun h => { h with presEnd := min h.presEnd (d.tclkAt cyc) } else d

def execPresenceWindowClose (cyc : Nat) (s : State) : Host.Outcome State Fault Refusal :=
  .next { s with dev := s.dev.presenceOver cyc }

/-- PRESENCE_STUCK: PRESENCE_N has been low for more than 60 s. -/
def Dev.stuck (d : Dev) (cyc : Nat) : Dev :=
  if d.host.presLow && !d.host.presStuck then
    ((d.onHost fun h => { h with presStuck := true, presDue := false }).report 0x008B 0 (d.nsAt cyc) []).closePresence
  else d

def execPresenceStuck (cyc : Nat) (s : State) : Host.Outcome State Fault Refusal :=
  .next { s with dev := s.dev.stuck cyc }

/-! ### Host driver reset (13 R338; 24 R549) -/

/-- Every buffer that a host slot holds is released (08 R208). -/
def Ring.releaseHost (r : Ring) : Ring :=
  (List.range 4).foldl (fun (r : Ring) k =>
    if (r.slots.getD k Slot.none).endpoint = 0xFFFF then
      (r.bufs.filter fun b => b.held.contains k).foldl (fun (r : Ring) b => r.release k b.order) r
    else r) r

def Dev.releaseHost (d : Dev) : Dev :=
  let f := fun (l : List Ring) => l.map (·.releaseHost)
  ((((d.onTaps f).onEncRings f).onDecRings f).onBoltRings f).onAudioRings f

/-- A begun store docket of a deleted queue is still running (16 R406). -/
def Dev.storeBusy (d : Dev) : Bool := d.host.orphans.any fun o => within 0x40 (dkOp o.dk) 0x46

/-- A host driver reset, at rank 9 of its close: every queue is deleted, open envelopes are abandoned, host slots release
their buffers and the presence window closes. Receipts that waited in D3 for a queue go with it. -/
def Dev.driverReset (d : Dev) : Dev :=
  let d := d.each (List.range 64) fun d n => d.dropQueue n true
  let d := d.onHost fun h =>
    { h with admEn := false, heldRcpt := [], presDue := false,
             cqs := h.cqs.map fun q => { CompQ.none with kept := q.kept } }
  let d := d.onEnv fun e => { e with envs := e.envs.map fun x => if x.phase = .opened then Env.empty else x }
  let d := d.releaseHost.closePresence
  d.onHost fun h => { h with hdrBusy := d.storeBusy }

/-- HOST_DRIVER_RESET: DEV_CTRL.HDR or a Function Level Reset; HDR_BUSY is set until it is done. -/
def Dev.requestReset (d : Dev) : Dev := (d.onHost fun h => { h with hdrBusy := true }).atRank9 .driverReset

def execHostDriverReset (_flr : Bool) (s : State) : Host.Outcome State Fault Refusal :=
  .next { s with dev := s.dev.requestReset }

/-! ### Rank 9 -/

/-- A weight of 0 leaves a field unchanged (13 R341). -/
def newWeight (old new : BitVec 8) : BitVec 8 := if new = 0 then old else new

/-- A host-side action is taken. -/
def Dev.act (d : Dev) : HostAct → Dev
  | .doorbell n tail => if (d.sqI n).enabled then d.onSqI n fun q => { q with limit := tail } else d
  | .action n code => d.takeAction n code
  | .moderation k cq vector count time =>
    (d.onCqI cq fun q => if q.enabled then { q with vector := vector, count := count, timeUs := time } else q).finish k 0
  | .aperture k i map =>
    let st := map.elim 0 fun m => d.mapStatus m.1 m.2
    if st ≠ 0 then d.finish k st
    else (d.onHost fun h => { h with apertures := h.apertures.set i map }).finish k 0
  | .arb low medium high =>
    (d.onHost fun h =>
      { h with arbLow := newWeight h.arbLow low, arbMed := newWeight h.arbMed medium, arbHigh := newWeight h.arbHigh high }
    ).roundOver
  | .lockAddress k a => d.lockAddress k a
  | .withdraw k n => d.withdrawNow k n
  | .driverReset => d.driverReset

/-- The actions of the tick in the order they were written; each may rename the dockets of those after it. -/
def Dev.acts : Nat → Dev → Dev
  | 0, d => d
  | fuel + 1, d =>
    match d.tick.act9 with
    | [] => d
    | a :: rest => Dev.acts fuel ((d.onTick fun t => { t with act9 := rest }).act a)

/-- Rank 9: host releases, then host-side actions (01 R14, R35; 08 R209). -/
def Dev.hostRank (d : Dev) : Dev :=
  let list := d.tick.rel9
  let d := d.onTick fun t => { t with rel9 := [] }
  let d := d.each list fun d (ring, slot, o) => d.onRingI ring fun r => r.release slot o
  (Dev.acts d.tick.act9.length d.roundOver).presenceRank

end Sys2Proof.Machine
end

