-- ==== Sys2Proof/Machine/Boot.lean ====
section
/-!
DEFINITION. Resets and start-up (24 R547 to R560), and boundary scan (25 R586).
-/
namespace Sys2Proof.Machine

/-! ### What a reset leaves (24 R549, R551, R556) -/

/-- The device in reset: the boot flash, the fuses, the NAND contents and the health record are kept, and pool pages are
never cleared; every other state is at its value after reset. What the host sees of memory, the model's own log of
outputs and its free values stay. -/
def Dev.cleared (d : Dev) : Dev :=
  let r := Dev.reset
  { r with
    mem := d.mem, hostMem := d.hostMem, out := d.out, fresh := d.fresh, store := d.store,
    mills := d.mills.map fun m => { MillSt.reset with retired := m.retired },
    dram := { r.dram with marked := d.dram.marked, chans := d.dram.chans.map fun c => { Chan.none with trained := c.trained } },
    health := { r.health with
      clerksRetired := d.health.clerksRetired, clerkFails := d.health.clerkFails, life := d.health.kept,
      kept := d.health.kept, chainAddr := d.health.chainAddr, copies := d.health.copies, scrubs := d.health.scrubs },
    boot := { r.boot with minSecurity := d.boot.minSecurity, dirs := d.boot.dirs, images := d.boot.images,
                          inReset := true, powerOn := false } }

/-- PORESET_N low: the device is in reset, and the store loses what was not on the medium (R548). -/
def State.powerDown (s : State) : State :=
  { s with dev := s.dev.lossOfPower.cleared, ledger := LedgerSt.reset, periodNs := 250 }

def execPoresetNLow (s : State) : Host.Outcome State Fault Refusal := .next s.powerDown

/-! ### Start-up (R554 to R558; 17 R413) -/

/-- A memory channel as the board has it: channel, GiB, ranks, limit of its dies, highest rate that passes training. -/
abbrev BoardChan := Nat × Nat × Nat × Nat × Nat

/-- Two channels match: die density, ranks and rate limit (17 R413). -/
def sameDies (a b : BoardChan) : Bool := a.2.1 == b.2.1 && a.2.2.1 == b.2.2.1 && a.2.2.2.1 == b.2.2.2.1

/-- The highest rate of R412 at which both channels of a pair pass, 0 for none (24 R557). -/
def pairRate (a b : BoardChan) : Nat :=
  (dramRates.find? fun r =>
    [a, b].all fun x => decide (r ≤ x.2.2.2.1) && decide (r ≤ x.2.2.2.2)).getD 0

/-- The complete pairs of a board whose channels match each other. -/
def boardPairs (l : List BoardChan) : List (BoardChan × BoardChan) :=
  (List.range 12).filterMap fun k =>
    match l.find? (·.1 == 2 * k), l.find? (·.1 == 2 * k + 1) with
    | some a, some b => if sameDies a b && decide (0 < a.2.1) && decide (a.2.1 ≤ 8) then some (a, b) else none
    | _, _ => none

/-- The reference pair and the data rate (17 R413, 24 R557). -/
def referencePair (l : List BoardChan) : Option ((BoardChan × BoardChan) × Nat) :=
  ((boardPairs l).find? fun p => pairRate p.1 p.2 != 0).map fun p => (p, pairRate p.1 p.2)

/-- Step 5: the controller comes up on the reference pair and on every pair that matches it and passes at its rate; a
report names each channel left out, and event 15 is raised (17 R413; 24 R557). -/
def Dev.trainMemory (d : Dev) (l : List BoardChan) : Dev :=
  let up := match referencePair l with
    | none => []
    | some (p, rate) => (boardPairs l).filter fun (q : BoardChan × BoardChan) => sameDies q.1 p.1 && decide (rate ≤ pairRate q.1 q.2)
  let rate := (referencePair l).elim 0 (·.2)
  let chans := up.flatMap fun (q : BoardChan × BoardChan) => [q.1, q.2]
  let out := l.filter fun (c : BoardChan) => !chans.any (·.1 == c.1)
  let d := d.each chans fun d (c : BoardChan) =>
    d.onChanI c.1 fun x =>
      { x with populated := true, gib := c.2.1, ranks := c.2.2.1, limit := c.2.2.2.1,
               trained := if x.trained.contains rate then x.trained else x.trained ++ [rate] }
  let d := d.onDram fun s => { s with rate := BitVec.ofNat 16 rate, ready := decide (rate ≠ 0) }
  let d := if rate = 0 then d else d.onParams fun p => setPar p (pkey 0x0F 0 0x8000) (leBytes 2 rate)
  let d := d.each out fun d (c : BoardChan) => d.reportNow 0x0070 (endpoint 0x0F 0) [c.1]
  let d := if l.isEmpty then d.reportNow 0x0070 (endpoint 0x0F 0) [] else d
  if out.isEmpty && !l.isEmpty then d else d.raiseNow 15

/-- Steps 4 and 7: VOUT_MODE, the confirmation of 0.90 V, and, unless the mode is wrong, the sweep with the first margin
probe (02 R52, R53; 24 R558). -/
def Dev.raiseCore (d : Dev) (b : BoardState) : Dev :=
  let d := d.onGov fun g =>
    { g with voutModeOk := b.voutModeOk, voutMv := BitVec.ofNat 10 (capN 10 b.regulatorMv), tj := List.replicate 13 b.tj }
  if !b.voutModeOk then (d.onBoot fun x => { x with failedStep := 4 }).reportNow 0x0030 0x0200 [b.regulatorMv]
  else
    let d := d.emit (.pmbus 0x21 900)
    if near15 b.regulatorMv 900 then d
    else (d.onBoot fun x => { x with failedStep := 4 }).regulatorFails

def Dev.sweep (d : Dev) (b : BoardState) : Dev :=
  if !b.voutModeOk then d
  else
    let curves := (List.range 12).map fun r => (List.range 5).map fun i => capN 16 ((b.curves.getD r []).getD i 0)
    let d := d.onGov fun g => { g with swept := true, curves := curves }
    d.probe (d.gov.curves.map fun c => c.getD 4 0) (b.v1.map Int.ofNat) b.tj

/-- Step 8: the self-test of every engine; one that fails is retired (10 R264). -/
def Dev.testEngines (d : Dev) (b : BoardState) : Dev :=
  let d := d.onMills fun l => l.map fun m => { m with tested := true }
  d.each b.badEngines fun d (p, c, e) =>
    if (retiredIn (d.millI p).retired c).getD e true then d else d.retireEngine p c e 0

/-- Three clerks run and the fourth stands by; with three or fewer left all run (23 R537, R538). -/
def Dev.startClerks (d : Dev) : Dev :=
  d.onHealth fun h =>
    let left := which 4 fun i => !(h.clerksRetired.getD i false)
    { h with active := (List.range 4).map fun i => (left.take 3).contains i,
             standby := (List.range 4).map fun i => (left.drop 3).contains i }

/-- The locked address stands in the chain map from start-up (21 R497, R498). -/
def Dev.startChain (d : Dev) : Dev :=
  match d.address with
  | some a => (d.onChain fun c => { c with map := c.map.set a { ChainEntry.absent with present := true } }).followMaster
  | none => d

/-- The boot flash as the board has it. -/
def Dev.program (d : Dev) (flash : Option (Nat × Option Image × Option Image)) : Dev :=
  match flash with
  | some (active, a, b) => d.onBoot fun x => { x with dirs := [⟨1, active % 2, true⟩], images := [a, b] }
  | none => d

/-- The steps of R555 up to READY. With no accepted image the device stops at step 3, and with no memory at step 5
(R554; 17 R413). MSI-X Enable is taken as set by the host's enumeration: notes/assumptions/44.md. -/
def Dev.startUp (d : Dev) (b : BoardState) (powerOn halted : Bool) : Dev :=
  let d := d.program b.flash
  let d := d.onBoot fun x =>
    { x with inReset := false, devReset := false, powerOn := powerOn, device := !powerOn, halt := halted,
             startMs := BitVec.ofNat 16 (capN 16 b.startMs) }
  let d := d.onHost fun h => { h with msixOn := true }
  match bootChoice d.boot.minSecurity.toNat d.boot.dirs d.boot.images with
  | none => d.onBoot fun x => { x with noImage := true, failedStep := 3, phase := 3 }
  | some (slot, image) =>
    let d := d.onBoot fun x =>
      { x with slot := slot, version := BitVec.ofNat 32 image.version, security := BitVec.ofNat 6 image.security, phase := 5 }
    let d := (d.raiseCore b).trainMemory b.channels
    if !d.dram.ready then d.onBoot fun x => { x with failedStep := if x.failedStep = 0 then 5 else x.failedStep }
    else
      let d := ((d.sweep b).testEngines b).startClerks.startChain
      let d := d.onHost fun h => { h with ready := d.health.active.count true != 1 }
      d.onBoot fun x => { x with phase := 10 }

/-- POWER_ON_RESET: the rising edge of PORESET_N. After rails raised out of order start-up is not guaranteed (R547): a
free value tells whether it happens. -/
def execPowerOnReset (b : BoardState) (s : State) : Host.Outcome State Fault Refusal :=
  let s := s.powerDown
  let starts := b.railsInOrder || s.dev.free % 2 == 1
  let d := if b.railsInOrder then s.dev else s.dev.used 1
  .next { s with dev := if starts then d.startUp b true false else d }

/-- DEVICE_RESET: DEVRST_N low. The store runs its sequence, unless a halt has run it, and the device is in reset. After
a halt, while a sensor reads 95 °C or more, DEVRST_N is ignored (R549, R550). -/
def State.deviceReset (s : State) : State :=
  let halted := s.dev.halted
  if s.dev.boot.inReset then { s with dev := s.dev.onBoot fun b => { b with devReset := true } }
  else if halted && decide (95 ≤ s.dev.hottest) then s
  else
    let d := if halted then s.dev else s.dev.powerDownStore
    { s with
      dev := d.lossOfPower.cleared.onBoot fun b => { b with devReset := true, halt := halted, storeSeq := true },
      ledger := LedgerSt.reset, periodNs := 250 }

def execDeviceReset (s : State) : Host.Outcome State Fault Refusal := .next s.deviceReset

/-- Boundary scan reaches no running device: once DEVRST_N is high the instructions that need it low act as BYPASS
(25 R586). -/
def JtagSt.settle (j : JtagSt) : JtagSt :=
  match j.instr with
  | .extest | .clamp | .highz => { j with instr := .bypass, driven := false, floated := false }
  | _ => j

/-- DEVICE_RESET_RELEASE: start-up follows once DEVRST_N is high and Tj is below 95 °C (R550). -/
def State.releaseReset (s : State) (high : Bool) (tj : Int) (b : BoardState) : State :=
  let s := if high then { s with jtag := s.jtag.settle, dev := s.dev.onBoot fun x => { x with devReset := false } } else s
  if s.dev.boot.inReset && s.dev.boot.storeSeq && !s.dev.boot.devReset && decide (tj < 95) then
    { s with dev := s.dev.startUp b false s.dev.boot.halt }
  else s

def execDeviceResetRelease (devrstHigh : Bool) (tj : Int) (b : BoardState) (s : State) : Host.Outcome State Fault Refusal :=
  .next (s.releaseReset devrstHigh tj b)

/-- PCIE_FUNDAMENTAL_RESET: the link and configuration space, the MSI-X table with them, then a host driver reset
(R549). -/
def Dev.pcieReset (d : Dev) : Dev :=
  let d := (d.onBoot fun b => { b with pcie := true }).mark 0x1700C 2
  (d.onHost fun h =>
    { h with msix := List.replicate 64 MsixVec.reset, pba := List.replicate 64 false, funcMask := false }).requestReset

def execPcieFundamentalReset (_cause : PcieCause) (s : State) : Host.Outcome State Fault Refusal :=
  .next { s with dev := s.dev.pcieReset }

/-! ### Boundary scan (25 R586) -/

/-- IDCODE: stepping in [31:28], part number in [27:12], the manufacturer, and 1 (IEEE 1149.1). -/
def idcodeWord : Nat :=
  packWord [(28, Config.stepping.toNat % 16), (12, 0x4880), (1, Config.manufacturer.toNat), (0, 1)]

/-- What leaves by TDO. -/
def State.tdo (s : State) (j : JtagSt) (bits : List Bool) : State := { s with jtag := j, dev := s.dev.emit (.tdo bits) }

/-- An instruction that takes effect only while DEVRST_N is low, and otherwise acts as BYPASS. -/
def State.inResetOnly (s : State) (j : JtagSt) : State :=
  if s.dev.boot.devReset then s.tdo j [false]
  else s.tdo ⟨.bypass, s.jtag.cells, false, false⟩ [false]

def execBypass (s : State) : Host.Outcome State Fault Refusal :=
  .next (s.tdo ⟨.bypass, s.jtag.cells, false, false⟩ [false])

def execIdcode (s : State) : Host.Outcome State Fault Refusal :=
  .next (s.tdo ⟨.idcode, s.jtag.cells, false, false⟩ ((List.range 32).map fun i => bit idcodeWord i))

/-- SAMPLE/PRELOAD: the cells shift out what the pins were, which the command does not say, and take the preload. -/
def execSamplePreload (preload : List Bool) (s : State) : Host.Outcome State Fault Refusal :=
  let pins := (List.range preload.length).map fun i => s.dev.freeAt i % 2 == 1
  let s := { s with dev := s.dev.used preload.length }
  .next (s.tdo ⟨.samplePreload, preload, false, false⟩ pins)

def execExtest (s : State) : Host.Outcome State Fault Refusal :=
  .next (s.inResetOnly ⟨.extest, s.jtag.cells, true, false⟩)

def execClamp (s : State) : Host.Outcome State Fault Refusal :=
  .next (s.inResetOnly ⟨.clamp, s.jtag.cells, true, false⟩)

def execHighz (s : State) : Host.Outcome State Fault Refusal :=
  .next (s.inResetOnly ⟨.highz, s.jtag.cells, false, true⟩)

end Sys2Proof.Machine
end

