-- ==== Sys2Proof/Machine/Regs.lean ====
section
/-!
DEFINITION. The registers of BAR0 as the host reads and writes them (13 R321, R322, R341, R342; the register rules of each
block), with the effects of a read (00_scope R7).
-/
namespace Sys2Proof.Machine

/-- A flag as a field. -/
def flag (b : Bool) : Nat := if b then 1 else 0

/-- Instance and offset within it, of an offset from the base of an array of register sets of `size` bytes. -/
def slotOf (base size off : Nat) : Nat × Nat := ((off - base) / size, (off - base) % size)

/-! ### What a pipeline has in force (03 R78; notes/assumptions/48.md) -/

/-- The newest frame that the pipeline has gated. -/
def Dev.newestGated (d : Dev) (p : Nat) : Option Frame :=
  let x := d.pipeI p
  match x.cur.filter (·.gated) with
  | some f => some f
  | none => match x.ended.getLast? with
    | some f => some f
    | none => x.done

/-- Parameter values in force in a pipeline: those of its newest gated frame while it captures, else those landed. -/
def Dev.inForce (d : Dev) (p : Nat) : List (Nat × List Byte) :=
  if d.hasCapture p then (d.newestGated p).elim d.params (·.params) else d.params

/-! ### DEV, TICK, GOV, ENV (13 R341; 01 R38 to R40; 02 R60 to R65; 03 R82) -/

def Dev.presenceLeft (d : Dev) : Nat :=
  if d.host.presOpen then min 30 ((d.host.presEnd - d.tick.tclk) / 125000000) else 0

def Dev.devReg (d : Dev) (o : Nat) : Nat :=
  let h := d.host
  match o with
  | 0x00 => devId
  | 0x08 =>
    packWord [(16, d.presenceLeft), (4, flag h.dbBad), (3, flag h.presStuck), (2, flag h.presOpen), (1, flag h.hdrBusy),
      (0, flag h.ready)]
  | 0x0C => packWord [(16, h.arbLow.toNat), (8, h.arbMed.toNat), (0, h.arbHigh.toNat)]
  | 0x10 => h.admSqLo.toNat
  | 0x14 => h.admSqHi.toNat
  | 0x18 => h.admCqLo.toNat
  | 0x1C => h.admCqHi.toNat
  | 0x20 => packWord [(16, h.cqLast.toNat), (0, h.sqLast.toNat)]
  | 0x24 => packWord [(1, flag h.admErr), (0, flag h.admEn)]
  | 0x28 => packWord [(16, h.dlogLost.toNat), (0, h.dlog.length)]
  | 0x30 => h.bar2Err.toNat
  | _ => 0

def State.tickReg (s : State) (o : Nat) : Nat :=
  let t := s.dev.tick
  match o with
  | 0x00 => s.periodNs.toNat
  | 0x08 => t.count.toNat % 2 ^ 32
  | 0x0C => t.hiLatch.toNat
  | 0x10 => packWord [(8, t.overruns.toNat), (2, flag t.overrun), (1, flag t.storm), (0, flag t.stepped)]
  | _ => 0

def Dev.govReg (d : Dev) (o : Nat) : Nat :=
  let g := d.gov
  match o with
  | 0x00 => packWord [(16, g.policy.toNat), (0, g.fixedMv.toNat)]
  | 0x04 =>
    packWord [(16, g.voutMv.toNat), (8, capN 8 g.shed.length), (7, flag g.lifeLow), (6, flag g.hot), (5, flag g.shedding),
      (4, flag g.regFault), (3, flag g.fixedLeft), (2, flag g.refused), (1, flag (d.request d.needs).2),
      (0, flag g.raising)]
  | 0x08 =>
    let (q, r) := peakOf d.unshed.demands
    packWord [(16, r), (0, q412 q)]
  | 0x0C => packWord [(28, g.lifeRegion.toNat), (0, ofSigned 16 g.lifeMv)]
  | 0x10 => g.pmbusAddr.toNat
  | 0x14 => capN 32 (d.health.life.highvNs / 3600000000000)
  | _ => 0

def Dev.envReg (d : Dev) (o : Nat) : Nat :=
  match o with
  | 0x00 =>
    packWord [(24, d.env.late.toNat), (16, d.env.returned.toNat), (7, capN 7 (ceilDiv d.staging (2 ^ 20))), (0, d.envsInUse)]
  | _ => 0

/-! ### LANE, CAP (04 R110 to R114; 05 R143, R144) -/

def Dev.laneReg (d : Dev) (n o : Nat) : Nat :=
  let x := d.laneI n
  match o with
  | 0x0 =>
    packWord [(12, x.boundary.toNat), (8, (d.linkOfLane n).elim 0xF (·.2.2)), (5, d.parN 0x03 n 2 % 2),
      (4, d.parN 0x03 n 0 % 2), (3, flag x.deskewed), (2, flag x.aligned), (1, flag x.sync), (0, flag x.cdrLock)]
  | 0x4 => packWord [(16, x.codeViol.toNat), (0, x.dispErr.toNat)]
  | 0x8 =>
    let dfe := fun i => (x.dfe.getD i 0).toNat
    packWord [(24, x.fom.toNat), (20, x.ctle.toNat), (16, dfe 0), (12, dfe 1), (8, dfe 2), (4, dfe 3), (0, dfe 4)]
  | 0xC => packWord [(24, x.fomBefore.toNat), (16, x.fomAfter.toNat), (8, x.calTemp.toNat), (0, x.calResult.toNat)]
  | _ => 0

def Dev.quadReg (d : Dev) (q o : Nat) : Nat :=
  let x := d.quadI q
  match o with
  | 0x0 =>
    packWord [(8, if x.powered then d.quadM q else 0), (4, if x.powered then d.quadMode q else 0), (2, flag x.fwdOk),
      (1, flag x.pllLock), (0, flag x.powered)]
  | _ => 0

def Dev.capReg (d : Dev) (p o : Nat) : Nat :=
  let x := d.capI p
  match o with
  | 0x0 =>
    packWord [(16, x.lastCount.toNat), (12, x.dieOos.toNat), (5, flag x.silent), (4, flag x.descMismatch),
      (3, flag (x.capturing && !x.descMismatch)), (2, flag x.discovered), (1, flag (d.pipeI p).cur.isSome),
      (0, flag (d.lanes.caps.getD p Link.reset).up)]
  | 0x4 => packWord [(16, x.dropped.toNat), (8, x.repaired.toNat), (0, x.retries.toNat)]
  | _ => 0

/-! ### FRONT, COLOUR, TAP, STATS (06 R168 to R171; 07 R193 to R195; 08 R216 to R218; 09 R235 to R238) -/

def Dev.frontReg (d : Dev) (p o : Nat) : Nat :=
  let x := d.pipeI p
  let v := d.inForce p
  match o with
  | 0x00 =>
    let sel := frontB v p 0x68
    let whole := decide (256 ≤ u16 sel 2)
    packWord [(24, if whole then 255 else u16 sel 2), (21, u8 sel 1 % 8), (18, u8 sel (if whole then 1 else 0) % 8),
      (16, frontN v p 0 % 4), (12, x.counts.clampHeld), (10, u8 (frontB v p 0x51) 0 % 4), (9, u8 (frontB v p 0x44) 0 % 2),
      (8, flag x.candFull)]
  | 0x04 => (frontB v p 0x50).length / 4
  | 0x08 => packWord [(16, x.rejWhy.toNat), (0, x.rejIndex.toNat)]
  | 0x0C => packWord [(16, capN 16 x.counts.dyn), (0, capN 16 x.counts.sat)]
  | 0x10 => packWord [(24, capN 8 x.counts.unresolved), (16, capN 8 x.cands.length), (0, capN 16 x.counts.rowClipped)]
  | _ => 0

def Dev.colourReg (d : Dev) (p o : Nat) : Nat :=
  let v := d.inForce p
  let c := (d.pipeI p).counts
  let outs := fun (k : Nat) =>
    let prim := fun i => colourN v p (0x100 + 16 * (k + i)) % 16
    let xfer := fun i => xferCode v p (k + i) % 16
    packWord [(20, prim 2), (16, xfer 2), (12, prim 1), (8, xfer 1), (4, prim 0), (0, xfer 0)]
  match o with
  | 0x00 =>
    let cfa := if d.hasCapture p then (d.newestGated p).elim ((d.cfaOf v p).getD 0) (·.cfa) else (d.cfaOf v p).getD 0
    packWord [(24, colourN v p 0 % 8), (22, colourN v p 0x20 % 4), (20, colourN v p 0x28 % 4), (19, colourN v p 0x30 % 2),
      (16, cfa % 8)]
  | 0x04 => outs 0
  | 0x08 => outs 3
  | 0x0C => packWord [(16, capN 16 c.mfSat), (0, capN 16 c.lutClamp)]
  | 0x10 => capN 16 c.xferClip
  | _ => 0

def Dev.tapReg (d : Dev) (p k o : Nat) : Nat :=
  let c := tapCfg (d.inForce p) p k
  let r := d.ringI (8 * p + k)
  match o with
  | 0x00 => packWord [(16, c.y % 2 ^ 14), (0, c.x % 2 ^ 15)]
  | 0x04 => packWord [(16, c.h % 2 ^ 15), (0, c.w)]
  | 0x08 => packWord [(16, c.oh % 2 ^ 15), (0, c.ow)]
  | 0x0C => capN 16 ((d.pipeI p).tapClips.getD k 0)
  | 0x10 =>
    packWord [(31, flag c.enabled), (26, capN 5 (r.count .full)), (21, capN 5 (r.count .free)),
      (17, maskOf 4 r.attached.contains), (16, flag c.reclaim), (14, c.kernel % 4), (13, flag c.narrow), (12, flag c.bt2020),
      (8, c.fmt % 16)]
  | 0x14 => packWord [(24, r.skipped.toNat), (16, r.reclaimed.toNat), (8, r.dropped.toNat)]
  | _ => 0

def Dev.statsReg (d : Dev) (p o : Nat) : Nat :=
  let x := d.pipeI p
  match o with
  | 0x00 => x.frame.toNat
  | 0x04 => x.pset.toNat
  | 0x08 => packWord [(16, x.href.toNat), (0, x.expected.toNat)]
  | 0x0C =>
    let runs := d.runs (256 + 8 * p + 6) && !(d.ringI (8 * p + 6)).bufs.isEmpty
    packWord [(16, x.convLeft.toNat), (8, x.slips.toNat), (4, flag (orphanedAt x x.frame.toNat)), (3, flag x.mismatch),
      (2, flag x.countSlip), (1, flag x.convOn), (0, flag runs)]
  | 0x10 => x.missed.toNat
  | _ => 0

/-! ### MILL, CODEC, BOLT (10 R266 to R270; 11 R293 to R295; 12 R315, R316) -/

def Dev.millReg (d : Dev) (p o : Nat) : Nat :=
  let x := d.millI p
  let lost := fun c => maskOf 16 fun e => (retiredIn x.retired c).getD e false
  let good := fun c => if x.tested then x.healthy c else 0
  match o with
  | 0x00 =>
    packWord [(12, flag x.overflow), (8, x.passing.toNat), (4, x.holding.toNat),
      (0, maskOf 4 fun pt => !(placedImage (d.inForce p) p pt).isEmpty)]
  | 0x04 => packWord [(24, good 3), (16, good 2), (8, good 1), (0, good 0)]
  | 0x08 => packWord [(16, lost 1), (0, lost 0)]
  | 0x0C => packWord [(16, lost 3), (0, lost 2)]
  | 0x10 =>
    let (q, c) := millDemand d.params p x.healthy
    packWord [(16, c), (0, q412 q)]
  | 0x14 => packWord [(16, x.faults.toNat), (0, x.saturated.toNat)]
  | 0x18 => packWord [(16, x.collisions.toNat), (8, x.reissued.toNat)]
  | _ => 0

def Dev.encReg (d : Dev) (n o : Nat) : Nat :=
  let x := d.encI n
  match o with
  | 0x0 =>
    packWord [(24, x.cores.toNat), (16, x.level.toNat), (13, x.profile.toNat), (11, x.gop.toNat), (10, flag x.tier),
      (9, encN d.params n 1 % 2), (8, flag x.keyPending), (7, flag x.stalled), (0, flag x.active)]
  | 0x4 => packWord [(16, x.qpMax.toNat), (8, x.qpMin.toNat), (0, x.qpPic.toNat)]
  | 0x8 => x.lastBits.toNat
  | 0xC => packWord [(24, x.exhausted.toNat), (16, x.capExceeded.toNat), (8, x.keyReq.toNat), (0, x.filler.toNat)]
  | _ => 0

def Dev.decReg (d : Dev) (c o : Nat) : Nat :=
  let x := d.decI c
  match o with
  | 0x0 =>
    packWord [(8, x.level.toNat), (3, flag x.concealing), (2, flag x.stopped), (1, flag x.synced), (0, flag x.active)]
  | 0x4 => packWord [(16, x.discarded.toNat), (8, x.errors.toNat), (0, x.hashBad.toNat)]
  | _ => 0

/-- Mean ratio of the last records, in sixteenths: their raw bytes over their record bytes (R315). -/
def meanRatio (x : BoltSt) : Nat :=
  let out := sumBy id x.sizes
  if out = 0 then 0 else capN 8 (16 * sumBy id x.raws / out)

/-- Lanes 0 to 7 are the raw lanes, 8 and 9 the general ones. -/
def Dev.boltReg (d : Dev) (n o : Nat) : Nat :=
  let x := d.boltI n
  match o with
  | 0x0 =>
    packWord [(24, if n < 8 then meanRatio x else 0), (16, capN 8 (x.ovf.countP (·.st == .free))), (3, flag x.ratioLow),
      (2, flag x.storedOnly), (1, flag (!x.flush.isEmpty || x.jobs.any (·.op == 0x63))), (0, flag x.active)]
  | 0x4 => packWord [(16, x.stored.toNat), (8, x.mismatches.toNat), (0, x.dropped.toNat)]
  | _ => 0

/-! ### STORE, DRAM, RASTER (16 R407 to R410; 17 R433 to R436; 18 R454 to R456) -/

def Dev.storeReg (d : Dev) (o : Nat) : Nat :=
  let x := d.store
  match o with
  | 0x00 =>
    packWord [(24, maskOf 8 fun i => (x.slots.getD i RecSlot.idle).running), (18, x.spare.toNat), (9, flag x.recovered),
      (8, flag x.pfailSeen), (7, flag x.parked), (6, flag (decide (0 < d.dirtyLimit))), (5, flag (!x.lost.isEmpty)),
      (4, flag x.locked), (3, flag x.online)]
  | 0x04 =>
    packWord [(24, capN 8 x.recHoles.length), (9, capN 9 (x.holes.countP (!·.granted))), (0, capN 9 x.holes.length)]
  | 0x08 => ceilDiv (dirtyBytes x) 1024
  | 0x0C => d.dirtyLimit / 1024
  | 0x10 => packWord [(16, x.readFailed.toNat), (8, x.relocated.toNat), (4, x.lostCnt.toNat), (0, x.recovClips.toNat)]
  | _ => 0

def Dev.dramReg (d : Dev) (o : Nat) : Nat :=
  let x := d.dram
  let mask := fun (f : Chan → Bool) => maskOf 24 fun c => (d.chanI c).populated && f (d.chanI c)
  match o with
  | 0x00 => packWord [(16, x.rate.toNat), (2, flag x.switching), (1, flag x.setB), (0, flag x.ready)]
  | 0x04 => mask fun _ => true
  | 0x08 => mask fun c => decide (8 ≤ c.mult)
  | 0x0C => mask fun c => !c.panics.isEmpty
  | 0x10 =>
    let worst := (populated x).foldl (fun (m : Nat × Nat) c => if m.2 < d.chanShare c then (c, d.chanShare c) else m)
      ((populated x).headD 0, 0)
    packWord [(16, worst.1), (0, worst.2)]
  | 0x14 => packWord [(16, x.panicsCnt.toNat), (8, x.forcedRef.toNat), (0, x.retrForced.toNat)]
  | _ => 0

def Dev.rasterReg (d : Dev) (n o : Nat) : Nat :=
  let x := d.rasterI n
  match o with
  | 0x0 =>
    packWord [(31, flag x.enabled), (30, flag (d.masterOf n).isSome), (28, (d.masterOf n).getD 0 % 4), (27, flag x.locked),
      (26, flag x.subst), (25, flag x.retiming), (24, flag x.holdValid), (20, maskOf 4 fun l => (d.layer n l).on),
      (16, x.suspect.toNat), (0, x.line.toNat)]
  | 0x4 => x.frame.toNat
  | 0x8 => packWord [(24, x.missed.toNat), (16, x.substituted.toNat), (8, x.torn.toNat), (0, x.underflow.toNat)]
  | 0xC => ofSigned 32 x.lockErr
  | _ => 0

/-! ### AUDIO, TIME, CHAIN (19 R474 to R476; 20 R494 to R496; 21 R516 to R518) -/

def Dev.audioReg (d : Dev) (p o : Nat) : Nat :=
  let x := d.portI p
  match o with
  | 0x00 =>
    packWord [(31, flag x.enabled), (30, flag x.running), (29, flag x.locked), (28, flag x.rateWrong), (27, flag x.underrun),
      (26, flag x.leadShort), (0, x.rateHz.toNat)]
  | 0x04 => x.index.toNat % 2 ^ 32
  | 0x08 => x.hiLatch.toNat
  | 0x0C =>
    packWord [(24, x.underruns.toNat), (16, x.discarded.toNat), (8, x.glitches.toNat), (4, x.zcTimeouts.toNat),
      (0, x.csErrors.toNat)]
  | 0x10 => x.parity.toNat
  | _ => 0

def Dev.audioClkReg (d : Dev) (n o : Nat) : Nat :=
  let x := d.domI n
  match o with
  | 0x0 =>
    packWord [(16, x.control.toNat), (8, ofSigned 8 (clampI (-127) 127 (quotTrunc x.error steerUnit))), (3, flag x.clamped),
      (2, flag x.steerLocked), (1, flag x.rateWrong), (0, flag x.clockOk)]
  | _ => 0

def Dev.timeReg (d : Dev) (o : Nat) : Nat :=
  let t := d.time
  let armed := fun b => maskOf 32 fun i => (d.slotI (b + i)).state == .armed
  let fired := fun b => maskOf 32 fun i => (d.slotI (b + i)).fired
  match o with
  | 0x00 => t.secLo.toNat
  | 0x04 => t.secHi.toNat
  | 0x08 => nsOf (d.timeAt 0 % timeWrap / 2 ^ 32)
  | 0x0C => t.fracL.toNat
  | 0x10 =>
    packWord [(16, t.outliers.toNat), (10, flag (t.servo == .holdover)), (9, flag t.holdoverF), (8, flag t.stepped),
      (4, d.timeSource % 4), (0, servoCode t.servo)]
  | 0x14 => ofSigned 32 (clampI (-(2 ^ 31 - 1)) (2 ^ 31 - 1) (roundAway t.offset 1000))
  | 0x18 => t.addend.toNat % 2 ^ 32
  | 0x1C => t.addend.toNat / 2 ^ 32
  | 0x20 => armed 0
  | 0x24 => armed 32
  | 0x28 => fired 0
  | 0x2C => fired 32
  | _ => 0

def Dev.chainPortReg (d : Dev) (p o : Nat) : Nat :=
  let x := d.cportI p
  match o with
  | 0x0 =>
    packWord [(24, x.neighbour.toNat), (18, flag x.nbValid), (17, flag (d.holds 11 p)), (16, flag (d.chainUp p)),
      (0, (clampI 0 65535 (roundAway (d.ptpI p).delayPs 1000)).toNat)]
  | 0x4 => packWord [(16, x.framesBad.toNat), (8, x.hopsExp.toNat), (0, x.resent.toNat)]
  | _ => 0

def Dev.chainReg (d : Dev) (o : Nat) : Nat :=
  let c := d.chain
  if within 0x10 o 0x2F then d.chainPortReg ((o - 0x10) / 0x10) ((o - 0x10) % 0x10)
  else match o with
    | 0x0 =>
      packWord [(24, d.addressByte), (15, d.devices), (6, d.topology), (5, flag (d.timeMaster.isSome && d.timeMaster == d.address)),
        (4, c.upstream % 2), (3, flag c.conflict), (0, flag d.address.isSome)]
    | 0x4 => packWord [(16, c.duplicates.toNat), (8, c.failovers.toNat), (0, c.lateRcpt.toNat)]
    | _ => 0

/-! ### EVT, FAULT, HEALTH, BOOT (22 R528 to R530; 23 R544 to R546; 24 R564, R565) -/

def Dev.evtReg (d : Dev) (o : Nat) : Nat :=
  if o < 0x28 then maskOf 32 fun b => (d.srcI (8 * o + b)).pending
  else if o = 0x40 then packWord [(16, d.evt.spurious.toNat), (8, d.evt.wakes.toNat)]
  else if within 0x100 o 0x1FF then
    let t := (o - 0x100) / 0x10
    match o % 0x10 with
    | 0x0 => (d.bestSource t).getD 0x3FF
    | 0x4 =>
      packWord [(10, d.tgtVector t % 64), (6, d.tgtThreshold t % 16), (4, flag (d.bestSource t).isSome),
        (3, flag (d.tgtI t).wakeSent), (2, flag (d.tgtParked t)), (1, flag (d.tgtMasked t)), (0, flag (d.tgtI t).sent)]
    | _ => 0
  else 0

def State.faultReg (s : State) (o : Nat) : Nat :=
  match o with
  | 0x0 =>
    packWord [(16, s.ledger.lost.toNat), (12, flag s.dev.faults.supplyHalt), (11, flag s.dev.faults.thermalHalt),
      (0, s.ledger.entries.length)]
  | _ => 0

/-- CALIBRATING reads 0: every calibration item is one command here (notes/assumptions/48.md). -/
def Dev.healthReg (d : Dev) (o : Nat) : Nat :=
  let h := d.health
  match o with
  | 0x0 =>
    packWord [(24, h.failovers.toNat), (4, maskOf 4 fun i => h.clerksRetired.getD i false),
      (0, maskOf 4 fun i => h.active.getD i false)]
  | 0x4 => packWord [(16, h.corrDram.toNat), (8, h.corrSram.toNat), (0, h.uncorr.toNat)]
  | _ => 0

def Dev.bootReg (d : Dev) (o : Nat) : Nat :=
  let b := d.boot
  match o with
  | 0x0 =>
    packWord [(26, b.minSecurity.toNat), (20, b.security.toNat), (16, b.failedStep.toNat), (12, b.phase.toNat),
      (5, flag b.noImage), (4, flag b.fallback), (3, flag b.activating), (2, flag b.staged.isSome), (1, b.slot % 2)]
  | 0x4 => b.version.toNat
  | 0x8 => (b.staged.elim 0 (·.version)) % 2 ^ 32
  | 0xC => packWord [(16, b.startMs.toNat), (3, flag b.halt), (2, flag b.pcie), (1, flag b.device), (0, flag b.powerOn)]
  | _ => 0

/-! ### QUEUE, DLOG, DOORBELL, MSI-X (13 R334, R335, R342) -/

def Dev.queueReg (d : Dev) (o : Nat) : Nat :=
  let (n, r) := slotOf 0 0x10 (o % 0x400)
  let q := d.sqI n
  let c := d.cqI n
  if o < 0x400 then match r with
    | 0x0 =>
      packWord [(18, q.cq), (16, q.cls), (15, flag q.freezeOnErr), (14, flag q.frozen), (13, flag q.enabled), (0, q.fetch)]
    | _ => 0
  else if o < 0x800 then match r with
    | 0x0 =>
      packWord [(24, capN 8 c.pend.length), (14, c.vector), (13, flag c.armed), (12, flag c.phase), (0, c.tail)]
    | 0x4 => packWord [(16, c.timeUs), (0, c.count)]
    | _ => 0
  else 0

/-- A dead-letter entry, 128 bytes (R335). -/
def DlogEntry.asBytes (e : DlogEntry) : List Byte :=
  padTo 128 (padTo 64 e.docket ++ padTo 32 e.receipt ++ leBytes 8 e.tick ++ leBytes 1 e.queue ++ leBytes 1 e.cause ++
    leBytes 2 e.ring ++ leBytes 1 (flag e.froze))

def Dev.dlogReg (d : Dev) (o : Nat) : Nat :=
  match d.host.dlog[o / 0x80]? with
  | some e => u32 e.asBytes (o % 0x80)
  | none => 0

def Dev.doorbellReg (d : Dev) (o : Nat) : Nat :=
  if o < 0x200 then
    if o % 8 = 0 then (d.sqI (o / 8)).tailReg.toNat else (d.cqI (o / 8)).head
  else 0

def Dev.msixReg (d : Dev) (o : Nat) : Nat :=
  if o < 0x400 then
    let v := d.msixVec (o / 16)
    match o % 16 with
    | 0x0 => v.addr.toNat % 2 ^ 32
    | 0x4 => v.addr.toNat / 2 ^ 32
    | 0x8 => v.data.toNat
    | _ => flag v.masked
  else if o = 0x1000 then maskOf 32 fun i => d.host.pba.getD i false
  else if o = 0x1004 then maskOf 32 fun i => d.host.pba.getD (32 + i) false
  else 0

/-! ### The whole of BAR0 (13 R321) -/

/-- The word that a register of BAR0 holds; an offset that no block defines reads 0. -/
def State.reg (s : State) (off : Nat) : Nat :=
  let d := s.dev
  let o := off % 0x1000
  let w := match off / 0x1000 with
    | 0x00 => d.devReg o
    | 0x01 => s.tickReg o
    | 0x02 => d.govReg o
    | 0x03 => d.envReg o
    | 0x04 => d.laneReg (o / 0x40) (o % 0x40)
    | 0x05 => if o < 0x100 then d.quadReg (o / 0x10) (o % 0x10) else 0
    | 0x06 => if o < 0x200 then d.capReg (o / 0x40) (o % 0x40) else 0
    | 0x07 => if o < 0x100 then d.frontReg (o / 0x20) (o % 0x20) else 0
    | 0x08 => if o < 0x100 then d.colourReg (o / 0x20) (o % 0x20) else 0
    | 0x09 => if o % 0x200 < 0xC0 then d.tapReg (o / 0x200) (o % 0x200 / 0x20) (o % 0x20) else 0
    | 0x0A => if o < 0x100 then d.statsReg (o / 0x20) (o % 0x20) else 0
    | 0x0B => if o < 0x200 then d.millReg (o / 0x40) (o % 0x40) else 0
    | 0x0C =>
      if o < 0x800 then d.encReg (o / 0x40) (o % 0x40)
      else if o < 0x880 then d.decReg ((o - 0x800) / 0x40) (o % 0x40) else 0
    | 0x0D =>
      if o < 0x200 then d.boltReg (o / 0x40) (o % 0x40)
      else if within 0x400 o 0x47F then d.boltReg (8 + (o - 0x400) / 0x40) (o % 0x40) else 0
    | 0x0E => d.storeReg o
    | 0x0F => d.dramReg o
    | 0x10 => if o < 0x100 then d.rasterReg (o / 0x40) (o % 0x40) else 0
    | 0x11 =>
      if o < 0x380 then d.audioReg (o / 0x20) (o % 0x20)
      else if within 0x400 o 0x41F then d.audioClkReg ((o - 0x400) / 0x10) (o % 0x10) else 0
    | 0x12 => d.timeReg o
    | 0x13 => d.chainReg o
    | 0x14 => d.evtReg o
    | 0x15 => s.faultReg o
    | 0x16 => d.healthReg o
    | 0x17 => d.bootReg o
    | 0x20 => d.queueReg o
    | 0x21 => d.dlogReg o
    | 0x22 => d.dlogReg (0x1000 + o)
    | 0x23 => d.dlogReg (0x2000 + o)
    | 0x24 => d.dlogReg (0x3000 + o)
    | 0x100 => d.doorbellReg o
    | 0x200 => d.msixReg o
    | 0x201 => d.msixReg (0x1000 + o)
    | _ => 0
  w % 2 ^ 32

/-! ### What a read clears or latches (00_scope R7; 01 R39; 19 R475; 20 R494) -/

/-- The effect of a read on the device, beside its value. -/
def Dev.afterRead (d : Dev) (off : Nat) : Dev :=
  let o := off % 0x1000
  let n40 := o / 0x40
  let n20 := o / 0x20
  match off / 0x1000 with
  | 0x00 =>
    if o = 0x28 then d.onHost fun h => { h with dlogLost := 0 }
    else if o = 0x30 then d.onHost fun h => { h with bar2Err := 0 }
    else d
  | 0x01 =>
    if o = 0x08 then d.onTick fun t => { t with hiLatch := BitVec.ofNat 32 (t.count.toNat / 2 ^ 32) }
    else if o = 0x10 then d.onTick fun t => { t with overruns := 0 }
    else d
  | 0x03 => if o = 0 then d.onEnv fun e => { e with late := 0, returned := 0 } else d
  | 0x04 => if o % 0x40 = 4 then d.onLaneI n40 fun x => { x with codeViol := 0, dispErr := 0 } else d
  | 0x06 => if o % 0x40 = 4 then d.onCapI n40 fun x => { x with dropped := 0, repaired := 0, retries := 0 } else d
  | 0x09 =>
    if o % 0x200 < 0xC0 ∧ o % 0x20 = 0x14 then
      d.onRingI (8 * (o / 0x200) + o % 0x200 / 0x20) fun r => { r with skipped := 0, reclaimed := 0, dropped := 0 }
    else d
  | 0x0A =>
    if o % 0x20 = 0x0C then d.onPipeI n20 fun x => { x with slips := 0 }
    else if o % 0x20 = 0x10 then d.onPipeI n20 fun x => { x with missed := 0 }
    else d
  | 0x0B =>
    if o % 0x40 = 0x14 then d.onMillI n40 fun x => { x with faults := 0, saturated := 0 }
    else if o % 0x40 = 0x18 then d.onMillI n40 fun x => { x with collisions := 0, reissued := 0 }
    else d
  | 0x0C =>
    if o < 0x800 ∧ o % 0x40 = 0x0C then
      d.onEncI n40 fun x => { x with exhausted := 0, capExceeded := 0, keyReq := 0, filler := 0 }
    else if within 0x800 o 0x87F && o % 0x40 == 4 then
      d.onDecI ((o - 0x800) / 0x40) fun x => { x with discarded := 0, errors := 0, hashBad := 0 }
    else d
  | 0x0D =>
    let clear := fun (x : BoltSt) => { x with stored := 0, mismatches := 0, dropped := 0 }
    if o < 0x200 ∧ o % 0x40 = 4 then d.onBoltI n40 clear
    else if within 0x400 o 0x47F && o % 0x40 == 4 then d.onBoltI (8 + (o - 0x400) / 0x40) clear
    else d
  | 0x0E =>
    if o = 0x10 then d.onStore fun s => { s with readFailed := 0, relocated := 0, lostCnt := 0, recovClips := 0 } else d
  | 0x0F => if o = 0x14 then d.onDram fun s => { s with panicsCnt := 0, forcedRef := 0, retrForced := 0 } else d
  | 0x10 =>
    if o % 0x40 = 8 then d.onRasterI n40 fun x => { x with missed := 0, substituted := 0, torn := 0, underflow := 0 } else d
  | 0x11 =>
    if 0x380 ≤ o then d
    else match o % 0x20 with
      | 0x04 => d.onPortI n20 fun x => { x with hiLatch := BitVec.ofNat 32 (x.index.toNat / 2 ^ 32) }
      | 0x0C =>
        d.onPortI n20 fun x =>
          { x with underruns := 0, discarded := 0, glitches := 0, zcTimeouts := 0, csErrors := 0 }
      | 0x10 => d.onPortI n20 fun x => { x with parity := 0 }
      | _ => d
  | 0x12 => if o = 0x10 then d.onTime fun t => { t with outliers := 0 } else d
  | 0x13 =>
    if o = 4 then d.onChain fun c => { c with duplicates := 0, failovers := 0, lateRcpt := 0 }
    else if o = 0x14 ∨ o = 0x24 then
      d.onCportI ((o - 0x10) / 0x10) fun x => { x with framesBad := 0, hopsExp := 0, resent := 0 }
    else d
  | 0x14 => if o = 0x40 then d.onEvt fun e => { e with spurious := 0, wakes := 0 } else d
  | 0x16 =>
    if o = 0 then d.onHealth fun h => { h with failovers := 0 }
    else if o = 4 then d.onHealth fun h => { h with corrDram := 0, corrSram := 0, uncorr := 0 }
    else d
  | _ => d

/-- A 32-bit read of BAR0. An unaligned one completes with Completer Abort (13 R322). -/
def State.readReg (s : State) (off : Nat) : State :=
  if off % 4 ≠ 0 then { s with dev := (s.dev.emit .completerAbort).emit .aerCorrectable }
  else if off = 0x12008 then { s with dev := s.dev.timeNsRead 0 }
  else if within 0x14100 off 0x141FF && off % 0x10 == 0 then { s with dev := s.dev.claim ((off - 0x14100) / 0x10) }
  else
    let v := s.reg off
    let ledger := if off = 0x15000 then { s.ledger with lost := 0 } else s.ledger
    { s with ledger := ledger, dev := (s.dev.afterRead off).emit (.readData v) }

/-- READ_CLEAR_COUNTER: a read of a register that a read clears. -/
def execReadClearCounter (offset : BitVec 24) (s : State) : Host.Outcome State Fault Refusal :=
  .next (s.readReg offset.toNat)

def execTickCountLoRead (s : State) : Host.Outcome State Fault Refusal := .next (s.readReg 0x1008)

def execAudioIndexLoRead (port : Fin 28) (s : State) : Host.Outcome State Fault Refusal :=
  .next (s.readReg (0x11004 + 0x20 * port))

/-! ### Writes (13 R322) -/

/-- A clear of W1C bit `b` of the register at `off` by a write of `v`: it takes effect unless an event has set the bit in
this tick (00_scope R7). -/
def Dev.w1c (d : Dev) (off v b : Nat) (f : Dev → Dev) : Dev := if bit v b && d.clears off b then f d else d

/-- Writes to DEV. -/
def Dev.writeDev (d : Dev) (o v : Nat) : Dev :=
  let adm := fun (f : HostSt → HostSt) => if d.host.admEn then d else d.onHost f
  match o with
  | 0x04 => if bit v 0 then d.requestReset else d
  | 0x08 => d.w1c 0x8 v 4 (·.onHost fun h => { h with dbBad := false })
  | 0x0C => d.atRank9 (.arb (BitVec.ofNat 8 (v / 65536)) (BitVec.ofNat 8 (v / 256)) (BitVec.ofNat 8 v))
  | 0x10 => adm fun h => { h with admSqLo := BitVec.ofNat 32 (v / 4096 * 4096) }
  | 0x14 => adm fun h => { h with admSqHi := BitVec.ofNat 32 v }
  | 0x18 => adm fun h => { h with admCqLo := BitVec.ofNat 32 (v / 4096 * 4096) }
  | 0x1C => adm fun h => { h with admCqHi := BitVec.ofNat 32 v }
  | 0x20 => adm fun h => { h with cqLast := BitVec.ofNat 12 (v / 65536), sqLast := BitVec.ofNat 12 v }
  | 0x24 => d.admCtrl v
  | 0x2C => d.dlogClear v
  | _ => d

/-- Writes to TICK and GOV. -/
def Dev.writeTick (d : Dev) (o v : Nat) : Dev :=
  if o = 0x10 then
    let d := d.w1c 0x1010 v 2 (·.onTick fun t => { t with overrun := false })
    let d := d.w1c 0x1010 v 1 (·.onTick fun t => { t with storm := false })
    d.w1c 0x1010 v 0 (·.onTick fun t => { t with stepped := false })
  else d

def Dev.writeGov (d : Dev) (o v : Nat) : Dev :=
  match o with
  | 0x00 => d.govCtrl v
  | 0x04 =>
    let d := d.w1c 0x2004 v 7 (·.onGov fun g => { g with lifeLow := false })
    let d := d.w1c 0x2004 v 4 fun d => (d.onGov fun g => { g with regFault := false }).retarget
    let d := d.w1c 0x2004 v 3 (·.onGov fun g => { g with fixedLeft := false })
    d.w1c 0x2004 v 2 (·.onGov fun g => { g with refused := false })
  | 0x10 => d.onGov fun g => { g with pmbusAddr := BitVec.ofNat 7 v }
  | _ => d

/-- Writes to TIME: W1C flags and the firing bits of the launch slots. -/
def Dev.writeTime (d : Dev) (o v : Nat) : Dev :=
  match o with
  | 0x10 =>
    let d := d.w1c 0x12010 v 9 (·.onTime fun t => { t with holdoverF := false })
    d.w1c 0x12010 v 8 (·.onTime fun t => { t with stepped := false })
  | 0x28 => d.each (List.range 32) fun d i => d.w1c 0x12028 v i (·.onSlotI i fun x => { x with fired := false })
  | 0x2C => d.each (List.range 32) fun d i => d.w1c 0x1202C v i (·.onSlotI (32 + i) fun x => { x with fired := false })
  | _ => d

/-- Writes to SQn_CTRL; with both fields set the freeze comes first. -/
def Dev.writeQueue (d : Dev) (o v : Nat) : Dev :=
  if 0x400 ≤ o ∨ o % 0x10 ≠ 4 then d
  else
    let n := o / 0x10
    let d := if bit v 4 then d.sqAction n 4 else d
    if v % 4 = 0 then d else d.sqAction n (v % 4)

/-- Writes to the MSI-X table; an unmasked vector sends what waits in the PBA. -/
def Dev.writeMsix (d : Dev) (o v : Nat) : Dev :=
  if 0x400 ≤ o then d
  else
    let put := fun (f : MsixVec → MsixVec) => d.onHost fun h => { h with msix := upd h.msix (o / 16) f }
    match o % 16 with
    | 0x0 => put fun x => { x with addr := BitVec.ofNat 64 (x.addr.toNat / 2 ^ 32 * 2 ^ 32 + v) }
    | 0x4 => put fun x => { x with addr := BitVec.ofNat 64 (v * 2 ^ 32 + x.addr.toNat % 2 ^ 32) }
    | 0x8 => put fun x => { x with data := BitVec.ofNat 32 v }
    | _ => (put fun x => { x with masked := bit v 0 }).sendPending (o / 16)

/-- The W1C bits of the remaining blocks. -/
def Dev.writeFlags (d : Dev) (off v : Nat) : Dev :=
  let o := off % 0x1000
  match off / 0x1000 with
  | 0x07 => if o % 0x20 = 0 then d.w1c off v 8 (·.onPipeI (o / 0x20) fun x => { x with candFull := false }) else d
  | 0x0A =>
    if o % 0x20 = 0x0C then
      let d := d.w1c off v 3 (·.onPipeI (o / 0x20) fun x => { x with mismatch := false })
      d.w1c off v 2 (·.onPipeI (o / 0x20) fun x => { x with countSlip := false })
    else d
  | 0x0B => if o % 0x40 = 0 then d.w1c off v 12 (·.onMillI (o / 0x40) fun x => { x with overflow := false }) else d
  | 0x0D =>
    let low := fun (n : Nat) => d.w1c off v 3 (·.onBoltI n fun x => { x with ratioLow := false })
    if o % 0x40 ≠ 0 then d
    else if o < 0x200 then low (o / 0x40)
    else if within 0x400 o 0x47F then low (8 + (o - 0x400) / 0x40)
    else d
  | 0x0E =>
    if o = 0 then
      let d := d.w1c off v 9 (·.onStore fun s => { s with recovered := false })
      d.w1c off v 8 (·.onStore fun s => { s with pfailSeen := false })
    else d
  | 0x11 =>
    if o < 0x380 ∧ o % 0x20 = 0 then d.w1c off v 26 (·.onPortI (o / 0x20) fun x => { x with leadShort := false })
    else if within 0x400 o 0x41F && o % 0x10 == 0 then
      d.w1c off v 3 (·.onDomI ((o - 0x400) / 0x10) fun x => { x with clamped := false })
    else d
  | 0x13 => if o = 0 then d.w1c off v 3 (·.onChain fun c => { c with conflict := false }) else d
  | 0x17 =>
    if o = 0 then d.w1c off v 4 (·.onBoot fun b => { b with fallback := false })
    else if o = 0x0C then d.w1c off v 2 (·.onBoot fun b => { b with pcie := false })
    else d
  | _ => d

/-- A 32-bit write of BAR0; writes to read-only fields and to offsets that no block defines are ignored (00_scope R7;
13 R322). -/
def Dev.writeReg (d : Dev) (off v : Nat) : Dev :=
  let o := off % 0x1000
  match off / 0x1000 with
  | 0x00 => d.writeDev o v
  | 0x01 => d.writeTick o v
  | 0x02 => d.writeGov o v
  | 0x12 => d.writeTime o v
  | 0x20 => d.writeQueue o v
  | 0x100 => if 0x200 ≤ o then d else if o % 8 = 0 then d.sqTail (o / 8) v else d.cqHead (o / 8) v
  | 0x200 => d.writeMsix o v
  | _ => d.writeFlags off v

/-- REGISTER_WRITE: 4 bytes aligned to 4, or 8 bytes aligned to 8 as two writes, lower address first; any other access is
discarded (R322). -/
def Dev.busWrite (d : Dev) (off size v : Nat) : Dev :=
  if size = 4 ∧ off % 4 = 0 then d.writeReg off (v % 2 ^ 32)
  else if size = 8 ∧ off % 8 = 0 then (d.writeReg off (v % 2 ^ 32)).writeReg (off + 4) (v / 2 ^ 32)
  else d.emit .aerCorrectable

def execRegisterWrite (offset : BitVec 24) (size : Nat) (value : BitVec 64) (s : State) : Host.Outcome State Fault Refusal :=
  .next { s with dev := s.dev.busWrite offset.toNat size value.toNat }

end Sys2Proof.Machine
end

