-- ==== Sys2Proof/Machine/Close.lean ====
section
/-!
DEFINITION. The close of a tick, rank by rank (01 R30 to R37, R590; 23 R535).
-/
namespace Sys2Proof.Machine

/-! ### The end of the tick (R30, R32, R36, R37) -/

/-- The device time at which the tick ends, in units of 2^-32 ns: the next multiple of the period `p` ns, or, after a
step, the first one at least half a period ahead (R30, R36). -/
def boundary (now p : Nat) (half : Bool) : Nat :=
  let unit := max 1 p * 2 ^ 32
  if half then ceilDiv (now + unit / 2) unit * unit else (now / unit + 1) * unit

def State.endOfTick (s : State) : Nat := boundary s.dev.time.dev s.periodNs.toNat s.dev.tick.halfNext

/-- TCLK cycles of the tick: the first at which device time reaches or passes its end. -/
def State.tickCycles (s : State) : Nat := ceilDiv (s.endOfTick - s.dev.time.dev) s.dev.time.addend.toNat

/-- The tick ends and its close begins: time and the count move on, and a close that overran the next tick counts. -/
def State.endTick (s : State) (overran : Bool) : State :=
  let n := s.tickCycles
  let d := s.dev.onTime fun t => { t with dev := (t.dev + n * t.addend.toNat) % timeWrap }
  let d := d.onTick fun t => { t with count := t.count + 1, tclk := t.tclk + n, inClose := true, halfNext := false }
  let d := if overran then
      (d.onTick fun t => { t with overrun := true, overruns := bump t.overruns }).raiseNow 2
    else d
  { s with dev := d }

/-! ### Rank 1: trips and shedding (23 R535; 16 R403; 02 R55) -/

/-- Every frame in a pipeline ends in abort, with its copy toward the bolter (01 R23). -/
def Dev.abortPipe (d : Dev) (p : Nat) : Dev :=
  let d := d.abortFrame p 0 0
  let left := (d.pipeI p).done.toList ++ (d.pipeI p).ended
  let d := d.each left fun d f =>
    let d := d.dropBuffers p f d.nowNs
    if (((f.buf 8).bind (d.ringI (ringBolt + p)).byOrder).elim false fun b => b.st == .filling) then d.dropRaw p f else d
  let d := d.each (d.pipeI p).ended fun d f => d.frameLost p (128 + 16 * p) f.number d.nowNs
  d.onPipeI p fun x => { x with ended := [] }

/-- The recordings of every running slot are interrupted by the board (23 R540). -/
def Dev.recordingsStop (d : Dev) : Dev :=
  d.each ((d.store.slots.filter (·.running)).flatMap (·.sources)) fun d x =>
    match sourceRing x.ep with
    | some r => d.interrupt (recordService r) 0
    | none => d

/-- The action of a thermal trip or of a rail out of range: frames end in abort, the store runs its sequence, outputs send
idle, and VCORE goes down to 0.70 V. -/
def Dev.halt (d : Dev) : Dev :=
  let d := d.each (List.range 8) Dev.abortPipe
  let d := d.each (which 4 d.outputOn) fun d o => d.interrupt (rasEp o) 0
  let d := d.each (which 32 fun n => (d.encI n).active) fun d n => d.interrupt (endpoint 0x0B n) 0
  let d := d.recordingsStop
  let d := if d.store.parked then d else d.powerDownStore
  (d.stopRasters.stopAudio d.nowNs).onGov fun g => { g with finalMv := 700, raising := false }

/-- A trip acts; its report is filed first. A halt that holds is not entered again. -/
def Dev.tripActs (d : Dev) : Trip → Dev
  | .thermal =>
    if d.faults.thermalHalt then d
    else ((d.reportNow 0x00B0 healthEp []).halt).onFaults fun f => { f with thermalHalt := true }
  | .supply =>
    if d.faults.supplyHalt then d
    else ((d.reportNow 0x00B1 healthEp []).halt).onFaults fun f => { f with supplyHalt := true }
  | .pfail => (if d.store.parked then d else d.powerDownStore).recordingsStop.reportNow 0x00B1 healthEp []

def Dev.tripRank (d : Dev) : Dev :=
  let trips := sortBy (·.2) d.tick.trips
  let d := d.onTick fun t => { t with trips := [] }
  (d.each trips fun d t => d.tripActs t.1).shedRank

/-! ### Rank 4: links (04 R97) -/

/-- The event source of a link change. -/
def linkSource : LinkId → Nat
  | .capture p => 96 + 4 * p
  | .raster o => 245 + 2 * o
  | .chain p => 298 + p

/-- One link's change takes effect. -/
def Dev.linkChange (d : Dev) (l : LinkId) (up : Bool) : Dev :=
  let d := d.onLink l fun x => { up := up, trained := x.trained || up }
  match l with
  | .capture p => if up then d.captureUp p d.nowNs else d.captureDown p d.nowNs
  | .chain p => if up then d.chainCameUp p d.nowNs else d.chainDown p d.nowNs
  | .raster o => d.raiseNow (245 + 2 * o)

def Dev.linkRank (d : Dev) : Dev :=
  let list := sortBy (·.2.2) (sortBy (fun x => linkSource x.1) d.tick.links)
  let d := d.onTick fun t => { t with links := [] }
  d.each list fun d (l, up, _) => d.linkChange l up

/-- The links that went down in the tick. -/
def Dev.downs (d : Dev) : List LinkId := (d.tick.links.filter fun x => !x.2.1).map (·.1)

/-! ### Ranks 5 to 7; a halt overrides them (R35) -/

/-- A tick period: 100 to 8,000 ns, dividing 1,000,000,000 exactly (R30). -/
def legalPeriod (n : Nat) : Bool := decide (100 ≤ n) && decide (n ≤ 8000) && 1000000000 % n == 0

/-- The tick period in force follows its parameter, which lands at rank 5 only (R31) and only with a legal period
(R30). -/
def State.takePeriod (s : State) : State :=
  let p := s.dev.parN 0x01 0 0
  if legalPeriod p then { s with periodNs := BitVec.ofNat 13 p } else s

/-- What a halt leaves of the tick's markers, commit points and struck units. -/
def Dev.forgetTick (d : Dev) : Dev := d.onTick fun t => { t with markers := [], commits := [], bad := [] }

def State.dataRanks (s : State) (downs : List LinkId) : State :=
  if s.dev.halted then { s with dev := s.dev.forgetTick }
  else
    let s := State.takePeriod { s with dev := s.dev.landings downs }
    let s := { s with dev := s.dev.gates }
    { s with dev := s.dev.launchRank s.endOfTick }

/-! ### Rank 8 (R35; 08 R209; 03 R66; 16 R395) -/

/-- Releases by encoders, raster layers and proxies. -/
def Dev.release8 (d : Dev) : Dev :=
  let list := d.tick.rel8
  let d := d.onTick fun t => { t with rel8 := [] }
  d.each list fun d (ring, slot, o) => d.onRingI ring fun r => r.release slot o

/-- A host driver reset is over once its store dockets have ended (13 R338; 16 R406). -/
def Dev.resetOver (d : Dev) : Dev :=
  let waits := d.tick.act9.any fun a => match a with
    | .driverReset => true
    | _ => false
  d.onHost fun h => { h with hdrBusy := h.hdrBusy && (waits || d.storeBusy) }

/-- Rank 8, and what ends with the tick: `ns` is its length. -/
def Dev.completions (d : Dev) (ns : Nat) : Dev :=
  let d := d.closeReceipts.releaseHoles.freeNumbers.release8
  let d := d.each (List.range 8) Dev.freeChains
  let d := d.each (List.range 8) Dev.zeroLeft
  let d := d.each (List.range 64) fun d n => refuseUnknown 64 d n
  ((refuseChain 64 d).proxiesRun.expireEchoes.accrue ns).resetOver.resumeClerks

/-! ### The whole close -/

/-- The close is over: a new addend counts from the next cycle (20 R478). -/
def Dev.endClose (d : Dev) : Dev :=
  (d.onTime fun t => { t with addend := t.newAddend.getD t.addend, newAddend := none }).onTick fun t =>
    { t with inClose := false, w1c := [] }

/-- TICK_CLOSE. Nothing closes while the device is held in reset. -/
def State.closeTick (s : State) (overran : Bool) : State :=
  if s.dev.boot.inReset then s
  else
    let ns := 8 * s.tickCycles
    let s := s.endTick overran
    let s := { s with dev := s.dev.tripRank.timeRank }
    let s := s.ledgerRank
    let downs := s.dev.downs
    let s := State.dataRanks { s with dev := s.dev.linkRank } downs
    { s with dev := ((s.dev.completions ns).hostRank.eventRank).endClose }

def execTickClose (overran : Bool) (s : State) : Host.Outcome State Fault Refusal := .next (s.closeTick overran)

end Sys2Proof.Machine
end

