-- ==== Sys2Proof/Machine/Dispatch.lean ====
section
/-!
DEFINITION. What each command does: one arm for every row of spec/opcode_table.json, each a direct call of its meaning.
-/
namespace Sys2Proof.Machine

def exec (i : Instr) (s : State) : Host.Outcome State Fault Refusal :=
  match i with
  | .noOperation d => Sys2Proof.Machine.execNoOperation d s
  | .createCq d => Sys2Proof.Machine.execCreateCq d s
  | .deleteCq d => Sys2Proof.Machine.execDeleteCq d s
  | .createSq d => Sys2Proof.Machine.execCreateSq d s
  | .deleteSq d => Sys2Proof.Machine.execDeleteSq d s
  | .setModeration d => Sys2Proof.Machine.execSetModeration d s
  | .mapAperture d => Sys2Proof.Machine.execMapAperture d s
  | .unmapAperture d => Sys2Proof.Machine.execUnmapAperture d s
  | .identify d => Sys2Proof.Machine.execIdentify d s
  | .takeBuffer d => Sys2Proof.Machine.execTakeBuffer d s
  | .releaseBuffer d => Sys2Proof.Machine.execReleaseBuffer d s
  | .copy d => Sys2Proof.Machine.execCopy d s
  | .writeParameter d => Sys2Proof.Machine.execWriteParameter d s
  | .writeBulkParameter d => Sys2Proof.Machine.execWriteBulkParameter d s
  | .readParameter d => Sys2Proof.Machine.execReadParameter d s
  | .readParameterToHost d => Sys2Proof.Machine.execReadParameterToHost d s
  | .describeParameter d => Sys2Proof.Machine.execDescribeParameter d s
  | .openEnv d => Sys2Proof.Machine.execOpenEnv d s
  | .addMember d => Sys2Proof.Machine.execAddMember d s
  | .addBulkMember d => Sys2Proof.Machine.execAddBulkMember d s
  | .addMemberList d => Sys2Proof.Machine.execAddMemberList d s
  | .sealEnv d => Sys2Proof.Machine.execSealEnv d s
  | .withdraw d => Sys2Proof.Machine.execWithdraw d s
  | .abandon d => Sys2Proof.Machine.execAbandon d s
  | .readHeadDescriptor d => Sys2Proof.Machine.execReadHeadDescriptor d s
  | .readEmbeddedData d => Sys2Proof.Machine.execReadEmbeddedData d s
  | .readAes3ChannelStatus d => Sys2Proof.Machine.execReadAes3ChannelStatus d s
  | .read d => Sys2Proof.Machine.execRead d s
  | .write d => Sys2Proof.Machine.execWrite d s
  | .registeredWrite d => Sys2Proof.Machine.execRegisteredWrite d s
  | .flush d => Sys2Proof.Machine.execFlush d s
  | .deallocate d => Sys2Proof.Machine.execDeallocate d s
  | .storeInformation d => Sys2Proof.Machine.execStoreInformation d s
  | .clipExtents d => Sys2Proof.Machine.execClipExtents d s
  | .decodeFeed d => Sys2Proof.Machine.execDecodeFeed d s
  | .decodeDrain d => Sys2Proof.Machine.execDecodeDrain d s
  | .decodeRestart d => Sys2Proof.Machine.execDecodeRestart d s
  | .compress d => Sys2Proof.Machine.execCompress d s
  | .decompress d => Sys2Proof.Machine.execDecompress d s
  | .rawDecode d => Sys2Proof.Machine.execRawDecode d s
  | .bolterFlush d => Sys2Proof.Machine.execBolterFlush d s
  | .bolterJobComplete lane => Sys2Proof.Machine.execBolterJobComplete lane s
  | .readTime d cyc => Sys2Proof.Machine.execReadTime d cyc s
  | .stepTime d cyc => Sys2Proof.Machine.execStepTime d cyc s
  | .adjustRate d => Sys2Proof.Machine.execAdjustRate d s
  | .readLaunchRecord d => Sys2Proof.Machine.execReadLaunchRecord d s
  | .chainMap d => Sys2Proof.Machine.execChainMap d s
  | .chainEcho d => Sys2Proof.Machine.execChainEcho d s
  | .readFaultLedger d => Sys2Proof.Machine.execReadFaultLedger d s
  | .clearFaultLedger d => Sys2Proof.Machine.execClearFaultLedger d s
  | .readHealthRecord d => Sys2Proof.Machine.execReadHealthRecord d s
  | .stageFirmware d => Sys2Proof.Machine.execStageFirmware d s
  | .firmwareActivation d => Sys2Proof.Machine.execFirmwareActivation d s
  | .activationFallback => Sys2Proof.Machine.execActivationFallback s
  | .storeSanitize d => Sys2Proof.Machine.execStoreSanitize d s
  | .storeKeyInstallation d => Sys2Proof.Machine.execStoreKeyInstallation d s
  | .chainAddressLock d => Sys2Proof.Machine.execChainAddressLock d s
  | .calibrationDataReset d => Sys2Proof.Machine.execCalibrationDataReset d s
  | .sqTail q value cyc => Sys2Proof.Machine.execSqTail q value cyc s
  | .cqHead q value cyc => Sys2Proof.Machine.execCqHead q value cyc s
  | .docketFetch bytes => Sys2Proof.Machine.execDocketFetch bytes s
  | .docketFetchFailed => Sys2Proof.Machine.execDocketFetchFailed s
  | .hostReadFailed sq idx => Sys2Proof.Machine.execHostReadFailed sq idx s
  | .freeze q => Sys2Proof.Machine.execFreeze q s
  | .retry q => Sys2Proof.Machine.execRetry q s
  | .skip q => Sys2Proof.Machine.execSkip q s
  | .queueFlush q => Sys2Proof.Machine.execQueueFlush q s
  | .hostDriverReset flr => Sys2Proof.Machine.execHostDriverReset flr s
  | .admEnable value => Sys2Proof.Machine.execAdmEnable value s
  | .dlogClear value => Sys2Proof.Machine.execDlogClear value s
  | .govCtrlWrite value => Sys2Proof.Machine.execGovCtrlWrite value s
  | .registerWrite offset size value => Sys2Proof.Machine.execRegisterWrite offset size value s
  | .readClearCounter offset => Sys2Proof.Machine.execReadClearCounter offset s
  | .tickCountLoRead => Sys2Proof.Machine.execTickCountLoRead s
  | .timeNsRead cyc => Sys2Proof.Machine.execTimeNsRead cyc s
  | .audioIndexLoRead port => Sys2Proof.Machine.execAudioIndexLoRead port s
  | .evtClaimRead target => Sys2Proof.Machine.execEvtClaimRead target s
  | .bar2Access offset length data => Sys2Proof.Machine.execBar2Access offset length data s
  | .msixPendingSend vector => Sys2Proof.Machine.execMsixPendingSend vector s
  | .d3Entry cold => Sys2Proof.Machine.execD3Entry cold s
  | .d0Return => Sys2Proof.Machine.execD0Return s
  | .pcieFundamentalReset cause => Sys2Proof.Machine.execPcieFundamentalReset cause s
  | .tickClose overran => Sys2Proof.Machine.execTickClose overran s
  | .shedRestore => Sys2Proof.Machine.execShedRestore s
  | .laneSlipApplied lane => Sys2Proof.Machine.execLaneSlipApplied lane s
  | .launchSlotFire slot departNs => Sys2Proof.Machine.execLaunchSlotFire slot departNs s
  | .monitorWindow readings => Sys2Proof.Machine.execMonitorWindow readings s
  | .marginProbe capacity90 v1 tj => Sys2Proof.Machine.execMarginProbe capacity90 v1 tj s
  | .readVout mv ok => Sys2Proof.Machine.execReadVout mv ok s
  | .pmbusPoll mv statusWord ok => Sys2Proof.Machine.execPmbusPoll mv statusWord ok s
  | .smbalert statusWord ok => Sys2Proof.Machine.execSmbalert statusWord ok s
  | .vcoreLowerStep => Sys2Proof.Machine.execVcoreLowerStep s
  | .chainPrepare ref landNs records => Sys2Proof.Machine.execChainPrepare ref landNs records s
  | .chainReady ref participant refuse => Sys2Proof.Machine.execChainReady ref participant refuse s
  | .chainDecision ref commit => Sys2Proof.Machine.execChainDecision ref commit s
  | .decisionDeadline env => Sys2Proof.Machine.execDecisionDeadline env s
  | .chainReport ref participant landed => Sys2Proof.Machine.execChainReport ref participant landed s
  | .reportDeadline env => Sys2Proof.Machine.execReportDeadline env s
  | .pllLock quad => Sys2Proof.Machine.execPllLock quad s
  | .cdrLock lane => Sys2Proof.Machine.execCdrLock lane s
  | .sync lane boundary ctle dfe cyc => Sys2Proof.Machine.execSync lane boundary ctle dfe cyc s
  | .alignmentOrderedSet lane index count skew cyc => Sys2Proof.Machine.execAlignmentOrderedSet lane index count skew cyc s
  | .presetRequest lane preset => Sys2Proof.Machine.execPresetRequest lane preset s
  | .laneCodeError lane kind symbol cyc => Sys2Proof.Machine.execLaneCodeError lane kind symbol cyc s
  | .syncLost lane fwdClock cyc => Sys2Proof.Machine.execSyncLost lane fwdClock cyc s
  | .deskewRetry lane => Sys2Proof.Machine.execDeskewRetry lane s
  | .linkNotUp lane cyc => Sys2Proof.Machine.execLinkNotUp lane cyc s
  | .skipPair lane high => Sys2Proof.Machine.execSkipPair lane high s
  | .fomMeasure lane w h cyc => Sys2Proof.Machine.execFomMeasure lane w h cyc s
  | .recalibration lane tj ctle w h => Sys2Proof.Machine.execRecalibration lane tj ctle w h s
  | .slicerSwap lane w h => Sys2Proof.Machine.execSlicerSwap lane w h s
  | .swapPostponed lane => Sys2Proof.Machine.execSwapPostponed lane s
  | .calibrationStarved lane cyc => Sys2Proof.Machine.execCalibrationStarved lane cyc s
  | .frameMarker pipe cyc => Sys2Proof.Machine.execFrameMarker pipe cyc s
  | .lineMarker pipe cyc => Sys2Proof.Machine.execLineMarker pipe cyc s
  | .frameHeader pipe die count payload chk cyc => Sys2Proof.Machine.execFrameHeader pipe die count payload chk cyc s
  | .activeLineSegment pipe die line offset payload chk cyc => Sys2Proof.Machine.execActiveLineSegment pipe die line offset payload chk cyc s
  | .opticalBlackLineSegment pipe die row offset payload chk cyc => Sys2Proof.Machine.execOpticalBlackLineSegment pipe die row offset payload chk cyc s
  | .embeddedData pipe die chunk payload chk cyc => Sys2Proof.Machine.execEmbeddedData pipe die chunk payload chk cyc s
  | .frameTrailer pipe die count status chk cyc => Sys2Proof.Machine.execFrameTrailer pipe die count status chk cyc s
  | .letterAcknowledge pipe seq result cyc => Sys2Proof.Machine.execLetterAcknowledge pipe seq result cyc s
  | .headDescriptor pipe payload cyc => Sys2Proof.Machine.execHeadDescriptor pipe payload cyc s
  | .headEvent pipe code payload cyc => Sys2Proof.Machine.execHeadEvent pipe code payload cyc s
  | .unknownPacket pipe type cyc => Sys2Proof.Machine.execUnknownPacket pipe type cyc s
  | .abort pipe cyc => Sys2Proof.Machine.execAbort pipe cyc s
  | .frameTimeout pipe cyc => Sys2Proof.Machine.execFrameTimeout pipe cyc s
  | .letterResend pipe seq => Sys2Proof.Machine.execLetterResend pipe seq s
  | .letterCutoff pipe seq => Sys2Proof.Machine.execLetterCutoff pipe seq s
  | .descriptorRequest pipe cyc => Sys2Proof.Machine.execDescriptorRequest pipe cyc s
  | .pipelineFrameComplete pipe => Sys2Proof.Machine.execPipelineFrameComplete pipe s
  | .tapBufferFull pipe tap => Sys2Proof.Machine.execTapBufferFull pipe tap s
  | .statisticsBlockFull pipe => Sys2Proof.Machine.execStatisticsBlockFull pipe s
  | .sourceBufferOverflow race cyc => Sys2Proof.Machine.execSourceBufferOverflow race cyc s
  | .panic race => Sys2Proof.Machine.execPanic race s
  | .calm race => Sys2Proof.Machine.execCalm race s
  | .topWeir race cyc => Sys2Proof.Machine.execTopWeir race cyc s
  | .tileRun pipe point tile cyc => Sys2Proof.Machine.execTileRun pipe point tile cyc s
  | .frameEndRun pipe point cluster cyc => Sys2Proof.Machine.execFrameEndRun pipe point cluster cyc s
  | .engineReset mill cluster engine cyc => Sys2Proof.Machine.execEngineReset mill cluster engine cyc s
  | .engineSelfTest mill cluster engine pass cyc => Sys2Proof.Machine.execEngineSelfTest mill cluster engine pass cyc s
  | .encodePicture core => Sys2Proof.Machine.execEncodePicture core s
  | .encodeOutputResume stream => Sys2Proof.Machine.execEncodeOutputResume stream s
  | .encodeStreamEnd stream => Sys2Proof.Machine.execEncodeStreamEnd stream s
  | .decodeAccessUnit core au cyc => Sys2Proof.Machine.execDecodeAccessUnit core au cyc s
  | .bolterRecord lane mismatched cyc => Sys2Proof.Machine.execBolterRecord lane mismatched cyc s
  | .pigeonholeGrant lockSeq => Sys2Proof.Machine.execPigeonholeGrant lockSeq s
  | .writeBuffered lockSeq => Sys2Proof.Machine.execWriteBuffered lockSeq s
  | .pageProgramComplete die block blocks ok => Sys2Proof.Machine.execPageProgramComplete die block blocks ok s
  | .blockEraseComplete die block ok => Sys2Proof.Machine.execBlockEraseComplete die block ok s
  | .codewordRead lba step => Sys2Proof.Machine.execCodewordRead lba step s
  | .blockRefresh die block => Sys2Proof.Machine.execBlockRefresh die block s
  | .wearMove die => Sys2Proof.Machine.execWearMove die s
  | .dieRetired die => Sys2Proof.Machine.execDieRetired die s
  | .rebuildComplete die => Sys2Proof.Machine.execRebuildComplete die s
  | .recordUnit slot source => Sys2Proof.Machine.execRecordUnit slot source s
  | .channelWindow channel => Sys2Proof.Machine.execChannelWindow channel s
  | .pfailN low cyc => Sys2Proof.Machine.execPfailN low cyc s
  | .leavePark => Sys2Proof.Machine.execLeavePark s
  | .storeBringup geom => Sys2Proof.Machine.execStoreBringup geom s
  | .refreshDue channel => Sys2Proof.Machine.execRefreshDue channel s
  | .mr4Poll channel rates cyc => Sys2Proof.Machine.execMr4Poll channel rates cyc s
  | .oscillatorPoll channel counts => Sys2Proof.Machine.execOscillatorPoll channel counts s
  | .retraining channel => Sys2Proof.Machine.execRetraining channel s
  | .retrainsForced channel => Sys2Proof.Machine.execRetrainsForced channel s
  | .frequencyChange channel => Sys2Proof.Machine.execFrequencyChange channel s
  | .memoryEccError memory corrected cyc => Sys2Proof.Machine.execMemoryEccError memory corrected cyc s
  | .eccHour => Sys2Proof.Machine.execEccHour s
  | .scrub => Sys2Proof.Machine.execScrub s
  | .rasterFrameStart out cyc => Sys2Proof.Machine.execRasterFrameStart out cyc s
  | .commitPoint out cyc => Sys2Proof.Machine.execCommitPoint out cyc s
  | .fetchEnd out cyc => Sys2Proof.Machine.execFetchEnd out cyc s
  | .retimeEnd out cyc => Sys2Proof.Machine.execRetimeEnd out cyc s
  | .timeLockSteer out errNs => Sys2Proof.Machine.execTimeLockSteer out errNs s
  | .audioPortStart port cyc => Sys2Proof.Machine.execAudioPortStart port cyc s
  | .audioPeriodBoundary port samples cyc => Sys2Proof.Machine.execAudioPeriodBoundary port samples cyc s
  | .audioFetchLead port cyc => Sys2Proof.Machine.execAudioFetchLead port cyc s
  | .zeroCrossingTimeout port channel => Sys2Proof.Machine.execZeroCrossingTimeout port channel s
  | .audioClockWindow clock window cyc => Sys2Proof.Machine.execAudioClockWindow clock window cyc s
  | .clockStop clock cyc => Sys2Proof.Machine.execClockStop clock cyc s
  | .clockReturn clock missed cyc => Sys2Proof.Machine.execClockReturn clock missed cyc s
  | .longStop clock cyc => Sys2Proof.Machine.execLongStop clock cyc s
  | .aes3Lock receiver rateHz => Sys2Proof.Machine.execAes3Lock receiver rateHz s
  | .aes3Block receiver zInPlace ch0 ch1 => Sys2Proof.Machine.execAes3Block receiver zInPlace ch0 ch1 s
  | .steeringUpdate txIndex cyc => Sys2Proof.Machine.execSteeringUpdate txIndex cyc s
  | .ppsIn edgeNs cyc => Sys2Proof.Machine.execPpsIn edgeNs cyc s
  | .htpIn edgeNs cyc => Sys2Proof.Machine.execHtpIn edgeNs cyc s
  | .syncMessage port twoStep seqId t2ps cyc => Sys2Proof.Machine.execSyncMessage port twoStep seqId t2ps cyc s
  | .followUp port seqId t1ps correctionPs cyc => Sys2Proof.Machine.execFollowUp port seqId t1ps correctionPs cyc s
  | .pdelayReq port seqId t2ps t3ps => Sys2Proof.Machine.execPdelayReq port seqId t2ps t3ps s
  | .pdelayRespFollowUp port seqId t3ps => Sys2Proof.Machine.execPdelayRespFollowUp port seqId t3ps s
  | .announce port master hops => Sys2Proof.Machine.execAnnounce port master hops s
  | .syncInterval port pdelay t1ps => Sys2Proof.Machine.execSyncInterval port pdelay t1ps s
  | .holdover cyc => Sys2Proof.Machine.execHoldover cyc s
  | .helloTimer => Sys2Proof.Machine.execHelloTimer s
  | .hello port addr hops source servo cyc => Sys2Proof.Machine.execHello port addr hops source servo cyc s
  | .addressAbsent addr cyc => Sys2Proof.Machine.execAddressAbsent addr cyc s
  | .ringBreak port endA endB cyc => Sys2Proof.Machine.execRingBreak port endA endB cyc s
  | .courierFrame f cyc => Sys2Proof.Machine.execCourierFrame f cyc s
  | .forwardedDocket src seq bytes => Sys2Proof.Machine.execForwardedDocket src seq bytes s
  | .forwardedReceipt src seq receipt => Sys2Proof.Machine.execForwardedReceipt src seq receipt s
  | .forwardTimeout seq => Sys2Proof.Machine.execForwardTimeout seq s
  | .eventBroadcast src code payload cyc => Sys2Proof.Machine.execEventBroadcast src code payload cyc s
  | .remoteFaultReport src cls stampNs epoch endpoint detail cyc => Sys2Proof.Machine.execRemoteFaultReport src cls stampNs epoch endpoint detail cyc s
  | .echo src seq reply elapsedNs => Sys2Proof.Machine.execEcho src seq reply elapsedNs s
  | .proxyFrame stream offset data last => Sys2Proof.Machine.execProxyFrame stream offset data last s
  | .clerkWatchdog clerk selfTestOk cyc => Sys2Proof.Machine.execClerkWatchdog clerk selfTestOk cyc s
  | .healthRecordWrite hourly => Sys2Proof.Machine.execHealthRecordWrite hourly s
  | .supplyOutOfRange cyc => Sys2Proof.Machine.execSupplyOutOfRange cyc s
  | .thermalTrip sensor tj cyc => Sys2Proof.Machine.execThermalTrip sensor tj cyc s
  | .presenceN low cyc => Sys2Proof.Machine.execPresenceN low cyc s
  | .presenceWindowClose cyc => Sys2Proof.Machine.execPresenceWindowClose cyc s
  | .presenceStuck cyc => Sys2Proof.Machine.execPresenceStuck cyc s
  | .securityMinimumRaise => Sys2Proof.Machine.execSecurityMinimumRaise s
  | .powerOnReset b => Sys2Proof.Machine.execPowerOnReset b s
  | .deviceReset => Sys2Proof.Machine.execDeviceReset s
  | .bypass => Sys2Proof.Machine.execBypass s
  | .idcode => Sys2Proof.Machine.execIdcode s
  | .samplePreload preload => Sys2Proof.Machine.execSamplePreload preload s
  | .extest => Sys2Proof.Machine.execExtest s
  | .clamp => Sys2Proof.Machine.execClamp s
  | .highz => Sys2Proof.Machine.execHighz s
  | .hostReadComplete sq idx data => Sys2Proof.Machine.execHostReadComplete sq idx data s
  | .pdelayResp port seqId t4ps t2ps => Sys2Proof.Machine.execPdelayResp port seqId t4ps t2ps s
  | .nandTraining channel => Sys2Proof.Machine.execNandTraining channel s
  | .poresetNLow => Sys2Proof.Machine.execPoresetNLow s
  | .deviceResetRelease devrstHigh tj b => Sys2Proof.Machine.execDeviceResetRelease devrstHigh tj b s

end Sys2Proof.Machine
end

