-- ==== Sys2Proof/Safety.lean ====
section
/-!
DEFINITION. What a safe state is, and the other terms that the statements use: the state's invariant, which row a docket command is, and when a docket runs.
-/
namespace Sys2Proof.Machine

/-- What every step keeps: the ledger holds at most 1,024 entries (23 R531), and the tick period is legal (01 R30). -/
def State.Inv (s : State) : Prop := s.ledger.entries.length ≤ 1024 ∧ legalPeriod s.periodNs.toNat = true

/-- The state with another device part; the queue, the period, the ledger and the scan port stay. -/
def State.withDev (s : State) (d : Dev) : State := { s with dev := d }

/-- A docket that its command runs here: it may begin (13 R328), it does not go to another device (21 R508), and the
bytes that no operand uses are 0 (13 R329). -/
def Dev.runsHere (d : Dev) (k : Docket) (used : List (Nat × Nat)) : Prop :=
  d.canBegin k = true ∧ d.forwards k = false ∧ reservedZero k used = true

/-- The state after docket `k` has begun and done `work`; a waiting docket of an unknown opcode that now stands first in
its queue is then refused (13 R332). -/
def State.after (s : State) (k : Docket) (work : Dev → Dev) : State :=
  { s with dev := refuseUnknown 64 (work (s.dev.begin k)) k.sq }

/-- The docket that a command carries, with the bytes from byte 8 on that its row uses (14 R357 to R364).
-/
def docketRow : Instr → Option (Docket × List (Nat × Nat))
  | .noOperation d => some (d, [])
  | .createCq d => some (d, [(8, 22)])
  | .deleteCq d => some (d, [(22, 22)])
  | .createSq d => some (d, [(8, 20), (22, 22)])
  | .deleteSq d => some (d, [(22, 22)])
  | .setModeration d => some (d, [(18, 22)])
  | .mapAperture d => some (d, [(8, 8), (10, 15)])
  | .unmapAperture d => some (d, [(8, 8)])
  | .identify d => some (d, [(8, 19)])
  | .takeBuffer d => some (d, [(24, 28)])
  | .releaseBuffer d => some (d, [(24, 29)])
  | .copy d => some (d, [(8, 20), (22, 31)])
  | .writeParameter d => some (d, [(8, 12), (16, 47)])
  | .writeBulkParameter d => some (d, [(8, 19), (24, 27)])
  | .readParameter d => some (d, [(8, 11)])
  | .readParameterToHost d => some (d, [(8, 19), (24, 31)])
  | .describeParameter d => some (d, [(8, 11)])
  | .openEnv d => some (d, [])
  | .addMember d => some (d, [(8, 8), (16, 63)])
  | .addBulkMember d => some (d, [(8, 22), (24, 27)])
  | .addMemberList d => some (d, [(8, 20)])
  | .sealEnv d => some (d, [(8, 21), (24, 55)])
  | .withdraw d => some (d, [(8, 8)])
  | .abandon d => some (d, [(8, 8)])
  | .readHeadDescriptor d => some (d, [(8, 19), (24, 24)])
  | .readEmbeddedData d => some (d, [(8, 19), (24, 25)])
  | .readAes3ChannelStatus d => some (d, [(8, 8)])
  | .read d => some (d, [(8, 19), (20, 20), (24, 31)])
  | .write d => some (d, [(8, 19), (20, 20), (24, 31)])
  | .registeredWrite d => some (d, [(8, 19), (20, 20), (24, 31)])
  | .flush d => some (d, [])
  | .deallocate d => some (d, [(16, 19), (24, 31)])
  | .storeInformation d => some (d, [(8, 19)])
  | .clipExtents d => some (d, [(8, 19), (24, 31)])
  | .decodeFeed d => some (d, [(8, 8), (16, 19), (24, 31)])
  | .decodeDrain d => some (d, [(8, 8)])
  | .decodeRestart d => some (d, [(8, 8)])
  | .compress d => some (d, [(8, 15), (16, 19), (20, 20), (21, 21), (22, 22), (24, 31)])
  | .decompress d => some (d, [(8, 15), (16, 19), (20, 20), (21, 21), (22, 22), (24, 31)])
  | .rawDecode d => some (d, [(8, 15), (16, 19), (20, 20), (21, 21), (22, 22), (24, 31)])
  | .bolterFlush d => some (d, [(20, 20), (21, 21)])
  | .readTime d _ => some (d, [])
  | .stepTime d _ => some (d, [(8, 15)])
  | .adjustRate d => some (d, [(8, 11)])
  | .readLaunchRecord d => some (d, [(8, 8)])
  | .chainMap d => some (d, [(8, 19)])
  | .chainEcho d => some (d, [(8, 8)])
  | .readFaultLedger d => some (d, [(8, 19)])
  | .clearFaultLedger d => some (d, [(8, 11)])
  | .readHealthRecord d => some (d, [(8, 19)])
  | .stageFirmware d => some (d, [(8, 19)])
  | .firmwareActivation d => some (d, [])
  | .storeSanitize d => some (d, [(8, 8)])
  | .storeKeyInstallation d => some (d, [(8, 19)])
  | .chainAddressLock d => some (d, [(8, 8)])
  | .calibrationDataReset d => some (d, [(8, 8)])
  | _ => none

end Sys2Proof.Machine
end

