-- ==== Sys2Proof/Certificates/Slice0/Obligations.lean ====
section
/-!
DEFINITION. The statements about the model, from the numbered rules of spec/.
-/
open Sys2Proof Sys2Proof.Machine

/-- A step runs the command at the front of the queue. For every command c and state s with c at the front of its
queue, step of s is exec of c on s with the rest of the queue. On an empty queue a step leaves the state as it
is (the model's choice, log 1). (01_architecture.md) -/
def Obligations.StepRunsFrontCommand : Prop :=
  (∀ (c : Instr) (rest : List Instr) (s : State), s.pending = c :: rest → step s = exec c { s with pending := rest }) ∧
    ∀ s : State, s.pending = [] → step s = .next s

/-- No command stops the block, and none touches the queue of those behind it. Every command on every state answers
a next state, whose queue of waiting commands is the one before. The model has no fault and no refusal beside
the one for a command without a meaning. (13_host_queues.md, 14_dockets.md) -/
def Obligations.EveryCommandAnswersNext : Prop :=
  ∀ (c : Instr) (s : State), ∃ t, exec c s = .next t ∧ t.pending = s.pending

/-- Every step keeps the bound of the fault ledger and a legal tick period. For every state whose ledger holds at
most 1,024 entries and whose tick period is a whole number of nanoseconds from 100 to 8,000 that divides
1,000,000,000, a step that answers a next state leaves both true. It holds of every state, reached or not. (01_architecture.md, 23_health.md) -/
def Obligations.StepKeepsInvariant : Prop :=
  ∀ s t : State, s.Inv → step s = .next t → t.Inv

/-- The state after reset meets the invariant. At reset the ledger is empty and the tick period is 250 ns. (01_architecture.md, 23_health.md) -/
def Obligations.ResetMeetsInvariant : Prop :=
  State.reset.Inv ∧ State.reset.periodNs = 250 ∧ State.reset.ledger.entries = []

/-- Only a tick close or a reset changes the tick period. If a command leaves the tick period different from what it
was, the command is TICK_CLOSE, or one of PORESET_N low, POWER_ON_RESET, DEVICE_RESET and its release, after
which the period is 250 ns. (01_architecture.md, 24_startup.md) -/
def Obligations.PeriodChangesOnlyAtClose : Prop :=
  ∀ (c : Instr) (s t : State), exec c s = .next t → t.periodNs ≠ s.periodNs →
    (∃ o, c = .tickClose o) ∨
      ((c = .poresetNLow ∨ (∃ b, c = .powerOnReset b) ∨ c = .deviceReset ∨ ∃ h j b, c = .deviceResetRelease h j b) ∧
        t.periodNs = 250)

/-- Only a tick close, the clear docket and a reset change the fault ledger. If a command leaves the fault ledger
different from what it was, the command is TICK_CLOSE (reports enter at rank 3), docket 0x91
(CLEAR_FAULT_LEDGER), a read of FAULT_STATUS that clears LOST, or a reset. (23_health.md, 24_startup.md) -/
def Obligations.LedgerWriters : Prop :=
  ∀ (c : Instr) (s t : State), exec c s = .next t → t.ledger ≠ s.ledger →
    (∃ o, c = .tickClose o) ∨ (∃ k, c = .clearFaultLedger k) ∨ (∃ o, c = .readClearCounter o) ∨
      c = .poresetNLow ∨ (∃ b, c = .powerOnReset b) ∨ c = .deviceReset ∨ ∃ h j b, c = .deviceResetRelease h j b

/-- Only the boundary-scan instructions and a release of reset change the boundary-scan port. If a command leaves
the scan port different from what it was, the command is one of the six scan instructions or the release of a
device reset, which ends EXTEST, CLAMP and HIGHZ. And a scan instruction changes nothing else of the device but
the free values taken and the log of what left by TDO. (25_package.md) -/
def Obligations.ScanPortWriters : Prop :=
  (∀ (c : Instr) (s t : State), exec c s = .next t → t.jtag ≠ s.jtag →
    c = .bypass ∨ c = .idcode ∨ (∃ p, c = .samplePreload p) ∨ c = .extest ∨ c = .clamp ∨ c = .highz ∨
      ∃ h j b, c = .deviceResetRelease h j b) ∧
  ∀ (c : Instr) (s t : State), (c = .bypass ∨ c = .idcode ∨ (∃ p, c = .samplePreload p) ∨ c = .extest ∨ c = .clamp ∨
      c = .highz) → exec c s = .next t →
    t = { s with jtag := t.jtag, dev := { s.dev with out := t.dev.out, fresh := t.dev.fresh } }

/-- What each boundary-scan instruction puts into effect and shifts out. BYPASS shifts one 0. IDCODE shifts 32 bits
that carry 0x4880 in [27:12] and 1 in bit 0. SAMPLE/PRELOAD loads the cells and shifts out as many free values
as there are cells (log 113). EXTEST and CLAMP drive the outputs from the cells and HIGHZ floats them while
DEVRST_N is low, and at any other time the three act as BYPASS. The cells are kept by all but SAMPLE/PRELOAD. (25_package.md) -/
def Obligations.BoundaryScanInstructions : Prop :=
  (∀ s : State, exec .bypass s =
      .next { s with jtag := ⟨.bypass, s.jtag.cells, false, false⟩, dev := s.dev.emit (.tdo [false]) }) ∧
    (∀ s : State, ∃ bits : List Bool, bits.length = 32 ∧ bits.getD 0 false = true ∧
      (∀ i, i < 16 → bits.getD (12 + i) false = bit 0x4880 i) ∧
      exec .idcode s = .next { s with jtag := ⟨.idcode, s.jtag.cells, false, false⟩, dev := s.dev.emit (.tdo bits) }) ∧
    (∀ (s : State) (cells : List Bool), exec (.samplePreload cells) s =
      .next { s with jtag := ⟨.samplePreload, cells, false, false⟩,
                     dev := (s.dev.used cells.length).emit
                       (.tdo ((List.range cells.length).map fun i => s.dev.freeAt i % 2 == 1)) }) ∧
    (∀ s : State, s.dev.boot.devReset = true →
      exec .extest s = .next { s with jtag := ⟨.extest, s.jtag.cells, true, false⟩, dev := s.dev.emit (.tdo [false]) } ∧
      exec .clamp s = .next { s with jtag := ⟨.clamp, s.jtag.cells, true, false⟩, dev := s.dev.emit (.tdo [false]) } ∧
      exec .highz s = .next { s with jtag := ⟨.highz, s.jtag.cells, false, true⟩, dev := s.dev.emit (.tdo [false]) }) ∧
    ∀ s : State, s.dev.boot.devReset = false →
      exec .extest s = exec .bypass s ∧ exec .clamp s = exec .bypass s ∧ exec .highz s = exec .bypass s

/-- The queue dockets on SQ0: no operation, create and delete a completion or a submission queue. On SQ0, a docket
of these that runs and whose operands and queue meet the rules ends with status 0. CREATE_CQ leaves the queue
enabled with base, entries, vector, count and time of the docket, armed, phase 1, empty, with the receipts kept
for it written first. DELETE_CQ of an existing queue that no submission queue is bound to leaves nothing of it
but its kept receipts. CREATE_SQ leaves the queue enabled with base, entries, completion queue, class and
freeze-on-error of the docket and empty. DELETE_SQ writes 0x0602 for each waiting docket, marks the queue as
going, and its own receipt waits for the begun dockets. Nothing else changes but what the receipts change. (13_host_queues.md, 14_dockets.md) -/
def Obligations.QueueDocketsComplete : Prop :=
  (∀ (s : State) (k : Docket), s.dev.runsHere k [] → exec (.noOperation k) s = .next (s.after k fun d => d.finish k 0)) ∧
    (∀ (s : State) (k : Docket), s.dev.runsHere k [(8, 22)] → k.sq = 0 → ringStatus k = 0 → u8 k.bytes 19 ≠ 0 →
      (s.dev.cqI (u8 k.bytes 22)).enabled = false →
      exec (.createCq k) s = .next (s.after k fun d =>
        let d := d.onCqI (u8 k.bytes 22) fun q =>
          { CompQ.none with enabled := true, base := BitVec.ofNat 64 (u64 k.bytes 8), entries := u16 k.bytes 16,
                            vector := u8 k.bytes 18, count := u8 k.bytes 19, timeUs := u16 k.bytes 20, armed := true,
                            phase := true, kept := q.kept }
        (d.drainKept (d.cqI (u8 k.bytes 22)).kept.length (u8 k.bytes 22)).finish k 0)) ∧
    (∀ (s : State) (k : Docket), s.dev.runsHere k [(22, 22)] → k.sq = 0 → 0 < u8 k.bytes 22 → u8 k.bytes 22 < 64 →
      (s.dev.cqI (u8 k.bytes 22)).enabled = true →
      (∀ q ∈ s.dev.host.sqs, q.enabled = true → q.cq ≠ u8 k.bytes 22) →
      exec (.deleteCq k) s = .next (s.after k fun d =>
        (d.onCqI (u8 k.bytes 22) fun q => { CompQ.none with kept := q.kept }).finish k 0)) ∧
    (∀ (s : State) (k : Docket), s.dev.runsHere k [(8, 20), (22, 22)] → k.sq = 0 → u8 k.bytes 20 < 2 → ringStatus k = 0 →
      u8 k.bytes 19 ≤ 3 → (s.dev.sqI (u8 k.bytes 22)).enabled = false → (s.dev.cqI (u8 k.bytes 18)).enabled = true →
      exec (.createSq k) s = .next (s.after k fun d =>
        (d.onSqI (u8 k.bytes 22) fun _ =>
          { SubQ.none with enabled := true, base := BitVec.ofNat 64 (u64 k.bytes 8), entries := u16 k.bytes 16,
                           cq := u8 k.bytes 18, cls := u8 k.bytes 19, freezeOnErr := u8 k.bytes 20 == 1 }).finish k 0)) ∧
    ∀ (s : State) (k : Docket), s.dev.runsHere k [(22, 22)] → k.sq = 0 → 0 < u8 k.bytes 22 → u8 k.bytes 22 < 64 →
      (s.dev.sqI (u8 k.bytes 22)).enabled = true → (s.dev.sqI (u8 k.bytes 22)).deleting = none →
      exec (.deleteSq k) s = .next (s.after k fun d =>
        let n := u8 k.bytes 22
        let d := d.each ((d.sqI n).fetched.filter fun f => !f.begun) fun d f => d.notRun ⟨n, f.idx, f.bytes⟩ 0x0602
        (d.onSqI n fun q => { q with deleting := some k }).finishDelete n)

/-- Queue and aperture dockets on any other queue than SQ0 are refused with 0x0208. A create or delete docket, a
moderation docket or an aperture docket that runs on a queue other than SQ0 changes nothing but what its receipt
of 0x0208 changes. (13_host_queues.md) -/
def Obligations.AdminOnlyOnSq0 : Prop :=
  ∀ (s : State) (k : Docket), k.sq ≠ 0 →
    (s.dev.runsHere k [(8, 22)] → exec (.createCq k) s = .next (s.after k fun d => d.finish k 0x0208)) ∧
    (s.dev.runsHere k [(22, 22)] → exec (.deleteCq k) s = .next (s.after k fun d => d.finish k 0x0208)) ∧
    (s.dev.runsHere k [(8, 20), (22, 22)] → exec (.createSq k) s = .next (s.after k fun d => d.finish k 0x0208)) ∧
    (s.dev.runsHere k [(22, 22)] → exec (.deleteSq k) s = .next (s.after k fun d => d.finish k 0x0208)) ∧
    (s.dev.runsHere k [(18, 22)] → exec (.setModeration k) s = .next (s.after k fun d => d.finish k 0x0208)) ∧
    (s.dev.runsHere k [(8, 8), (10, 15)] → exec (.mapAperture k) s = .next (s.after k fun d => d.finish k 0x0208)) ∧
    (s.dev.runsHere k [(8, 8)] → exec (.unmapAperture k) s = .next (s.after k fun d => d.finish k 0x0208))

/-- The moderation and aperture dockets take effect at rank 9 of their close. A moderation or aperture docket that
runs on SQ0 with operands in range, an existing completion queue, or a claimed pool that holds the offset, waits
as a host-side action of its close. Taken, the moderation action sets vector, count and time of the queue, and
the aperture action sets or clears the aperture, and each ends its docket with status 0. (13_host_queues.md, 14_dockets.md) -/
def Obligations.ModerationAndApertureDockets : Prop :=
  (∀ (s : State) (k : Docket), s.dev.runsHere k [(18, 22)] → k.sq = 0 → u8 k.bytes 18 < 64 → u8 k.bytes 22 < 64 →
      u8 k.bytes 19 ≠ 0 → (s.dev.cqI (u8 k.bytes 22)).enabled = true →
      exec (.setModeration k) s = .next (s.after k fun d => d.onTick fun t =>
        { t with act9 := t.act9 ++ [.moderation k (u8 k.bytes 22) (u8 k.bytes 18) (u8 k.bytes 19) (u16 k.bytes 20)] })) ∧
    (∀ (s : State) (k : Docket) (p : Pool), s.dev.runsHere k [(8, 8), (10, 15)] → k.sq = 0 → u8 k.bytes 8 < 64 →
      u16 k.bytes 10 < 256 → s.dev.pool (u16 k.bytes 10) = some p → u32 k.bytes 12 * 2 ^ 24 < p.size →
      exec (.mapAperture k) s = .next (s.after k fun d => d.onTick fun t =>
        { t with act9 := t.act9 ++ [.aperture k (u8 k.bytes 8) (some (u16 k.bytes 10, u32 k.bytes 12))] })) ∧
    (∀ (s : State) (k : Docket), s.dev.runsHere k [(8, 8)] → k.sq = 0 → u8 k.bytes 8 < 64 →
      exec (.unmapAperture k) s = .next (s.after k fun d => d.onTick fun t =>
        { t with act9 := t.act9 ++ [.aperture k (u8 k.bytes 8) none] })) ∧
    (∀ (d : Dev) (k : Docket) (cq v c t : Nat), (d.cqI cq).enabled = true →
      d.act (.moderation k cq v c t) =
        (d.onCqI cq fun q => if q.enabled then { q with vector := v, count := c, timeUs := t } else q).finish k 0) ∧
    (∀ (d : Dev) (k : Docket) (i : Nat),
      d.act (.aperture k i none) = (d.onHost fun h => { h with apertures := h.apertures.set i none }).finish k 0) ∧
    ∀ (d : Dev) (k : Docket) (i n off : Nat) (p : Pool), d.pool n = some p → off * 2 ^ 24 < p.size →
      d.act (.aperture k i (some (n, off))) =
        (d.onHost fun h => { h with apertures := h.apertures.set i (some (n, off)) }).finish k 0

/-- A docket with a reserved field that is not 0 is refused with 0x0202 and has no other effect. For each of the
commands of one docket with the operand bytes of its row: when the docket may begin, does not go to another
device, and some byte that no operand uses (bytes 5 to 7, flag bits [7:4] or an unused operand byte) is not 0,
and fewer than 384 host pigeonholes are held, the docket changes nothing but what its receipt of 0x0202 changes. (13_host_queues.md, 14_dockets.md) -/
def Obligations.ReservedDocketFieldRefused : Prop :=
  ∀ (c : Instr) (k : Docket) (used : List (Nat × Nat)) (s : State), docketRow c = some (k, used) →
    s.dev.canBegin k = true → s.dev.forwards k = false → reservedZero k used = false →
    s.dev.store.holes.length < 384 →
    exec c s = .next (s.after k fun d => d.finish k 0x0202)

/-- A docket that may not begin yet changes nothing. While the sorting office takes no dockets, or an earlier docket
of its queue has not begun, or under FENCE has not written its first receipt, the command of a docket leaves the
state as it is. An earlier docket is one fetched before it from its queue. (13_host_queues.md) -/
def Obligations.DocketWaitsItsTurn : Prop :=
  (∀ (c : Instr) (k : Docket) (used : List (Nat × Nat)) (s : State), docketRow c = some (k, used) →
      s.dev.canBegin k = false → exec c s = .next s) ∧
    (∀ (d : Dev) (k : Docket), d.host.ready = false → d.canBegin k = false) ∧
    (∀ (d : Dev) (k : Docket) (before' after : List Fetched) (f : Fetched), k.sq < 64 →
      (d.sqI k.sq).fetched = before' ++ f :: after → f.idx = k.idx → f.begun = false →
      (∀ e ∈ before', e.idx = k.idx → e.begun = true) →
      (∃ e ∈ before', e.begun = false ∨ (dkFence k = true ∧ e.wrote = false)) → d.canBegin k = false)

/-- Identify, and taking and releasing a buffer by host software. IDENTIFY with an aligned address and room for
4,096 bytes writes the identify block to host memory and answers 4,096. TAKE_BUFFER on a ring whose slot is the
host's answers index, parameter set and postmark of the buffer that the slot's order picks, or 0xFF when there
is none. RELEASE_BUFFER of a buffer that the slot holds queues the release for rank 9 of the close. (08_taps.md, 14_dockets.md) -/
def Obligations.IdentifyAndBufferDockets : Prop :=
  (∀ (s : State) (k : Docket), s.dev.runsHere k [(8, 19)] → u64 k.bytes 8 % 4 = 0 → 4096 ≤ u32 k.bytes 16 →
      exec (.identify k) s = .next (s.after k fun d =>
        (d.hostWrite (u64 k.bytes 8) d.identifyBlock).finish k 0 (leBytes 4 4096))) ∧
    (∀ (s : State) (k : Docket) (ring : Nat), s.dev.runsHere k [(24, 28)] → u8 k.bytes 28 ≤ 3 →
      ringKeyStatus (u32 k.bytes 24) = 0 → ringOfKey (u32 k.bytes 24) = some ring →
      ((s.dev.ringI ring).slots.getD (u8 k.bytes 28) Slot.none).endpoint = 0xFFFF → s.dev.par (u32 k.bytes 24) ≠ [] →
      exec (.takeBuffer k) s = .next (s.after k fun d =>
        match d.takeFrom ring (u8 k.bytes 28) true with
        | (none, d) => d.finish k 0 [0xFF]
        | (some b, d) => d.finish k 0 (leBytes 4 b.idx ++ leBytes 4 b.pset ++ leBytes 16 b.postmark))) ∧
    ∀ (s : State) (k : Docket) (ring : Nat) (b : Buf), s.dev.runsHere k [(24, 29)] → u8 k.bytes 28 ≤ 3 →
      ringKeyStatus (u32 k.bytes 24) = 0 → ringOfKey (u32 k.bytes 24) = some ring →
      ((s.dev.ringI ring).slots.getD (u8 k.bytes 28) Slot.none).endpoint = 0xFFFF → s.dev.par (u32 k.bytes 24) ≠ [] →
      (s.dev.ringI ring).heldBy (u8 k.bytes 28) (u8 k.bytes 29) = some b →
      exec (.releaseBuffer k) s = .next (s.after k fun d =>
        (d.queueRelease ring (u8 k.bytes 28) b.order true).finish k 0)

/-- A copy from a pool moves its bytes at once; a copy to a pool waits for the host's data. COPY with an aligned
address, a length of 4 to 2^24 bytes that is a multiple of 4, and a range inside a claimed pool: from the pool,
the bytes are written to host memory and the receipt is due at rank 8; to the pool, the docket waits for its
host data. HOST_READ_COMPLETE for it writes the data to the pool, and HOST_READ_FAILED ends it with 0x0501 at
rank 8 and moves nothing. (13_host_queues.md, 14_dockets.md) -/
def Obligations.CopyDocketAndHostData : Prop :=
  (∀ (s : State) (k : Docket), s.dev.runsHere k [(8, 20), (22, 31)] → u64 k.bytes 8 % 4 = 0 → 4 ≤ u32 k.bytes 16 →
      u32 k.bytes 16 ≤ 2 ^ 24 → u32 k.bytes 16 % 4 = 0 → u16 k.bytes 22 < 256 → s.dev.copyStatus k = 0 →
      (u8 k.bytes 20 = 0 → exec (.copy k) s = .next (s.after k fun d =>
        (d.hostWrite (u64 k.bytes 8) (d.memRead (u16 k.bytes 22) (u64 k.bytes 24) (u32 k.bytes 16))).finish8 k 0)) ∧
      (u8 k.bytes 20 = 1 → exec (.copy k) s = .next (s.after k fun d => d.readHost k (u64 k.bytes 8) (u32 k.bytes 16)))) ∧
    (∀ (s : State) (k : Docket) (data : List Byte) (addr len : Nat) (rest : List Waiting), k.sq < 64 → dkOp k = 0x0B →
      s.dev.host.waitData = ⟨k, addr, len⟩ :: rest → data.length = len → s.dev.copyStatus k = 0 →
      exec (.hostReadComplete k.sq k.idx data) s =
        .next (s.withDev (
          ((s.dev.onHost fun h => { h with waitData := rest }).memWrite (u16 k.bytes 22) (u64 k.bytes 24) data).finish8 k 0))) ∧
    ∀ (s : State) (k : Docket) (addr len : Nat) (rest : List Waiting), k.sq < 64 → dkOp k = 0x0B →
      s.dev.host.waitData = ⟨k, addr, len⟩ :: rest →
      exec (.hostReadFailed k.sq k.idx) s =
        .next (s.withDev ((s.dev.onHost fun h => { h with waitData := rest }).finish8 k 0x0501))

/-- Reading and describing parameters, head descriptors and embedded data. READ_PARAMETER of an existing key answers
the value's length and its first 20 bytes. READ_PARAMETER_TO_HOST writes the part of the value that starts at
the docket's offset to host memory. DESCRIBE_PARAMETER answers the description of an existing key.
READ_HEAD_DESCRIPTOR writes the valid descriptor held, and READ_EMBEDDED_DATA the die's embedded data of the
last frame to complete. (05_sensor_links.md, 14_dockets.md) -/
def Obligations.ParameterReadDockets : Prop :=
  (∀ (s : State) (k : Docket), s.dev.runsHere k [(8, 11)] → keyStatus (u32 k.bytes 8) = 0 →
      exec (.readParameter k) s = .next (s.after k fun d =>
        d.finish k 0 (leBytes 4 (d.readPar (u32 k.bytes 8)).length ++ padTo 20 (d.readPar (u32 k.bytes 8))))) ∧
    (∀ (s : State) (k : Docket), s.dev.runsHere k [(8, 19), (24, 31)] → u64 k.bytes 8 % 4 = 0 → 0 < u32 k.bytes 16 →
      u32 k.bytes 16 ≤ 2 ^ 24 → keyStatus (u32 k.bytes 24) = 0 →
      u32 k.bytes 28 < (s.dev.readPar (u32 k.bytes 24)).length →
      exec (.readParameterToHost k) s = .next (s.after k fun d =>
        let v := d.readPar (u32 k.bytes 24)
        let data := (v.drop (u32 k.bytes 28)).take (u32 k.bytes 16)
        (d.hostWrite (u64 k.bytes 8) data).finish k 0 (leBytes 4 data.length ++ leBytes 4 v.length))) ∧
    (∀ (s : State) (k : Docket) (f : PInfo), s.dev.runsHere k [(8, 11)] → paramInfo (u32 k.bytes 8) = some f →
      exec (.describeParameter k) s = .next (s.after k fun d => d.finish k 0 (describe f))) ∧
    (∀ (s : State) (k : Docket), s.dev.runsHere k [(8, 19), (24, 24)] → u64 k.bytes 8 % 4 = 0 → 64 ≤ u32 k.bytes 16 →
      u8 k.bytes 24 < 8 → (s.dev.capI (u8 k.bytes 24)).desc ≠ [] →
      exec (.readHeadDescriptor k) s = .next (s.after k fun d =>
        (d.hostWrite (u64 k.bytes 8) (padTo 64 (d.capI (u8 k.bytes 24)).desc)).finish k 0 (leBytes 4 64))) ∧
    ∀ (s : State) (k : Docket) (data : List Byte), s.dev.runsHere k [(8, 19), (24, 25)] → u64 k.bytes 8 % 4 = 0 →
      0 < u32 k.bytes 16 → u32 k.bytes 16 ≤ 4096 → u8 k.bytes 24 < 8 →
      u8 k.bytes 25 < s.dev.parN 0x05 (u8 k.bytes 24) 1 →
      data = ((s.dev.capI (u8 k.bytes 24)).embed.getD (u8 k.bytes 25) []).take (u32 k.bytes 16) → data ≠ [] →
      exec (.readEmbeddedData k) s = .next (s.after k fun d =>
        (d.hostWrite (u64 k.bytes 8) data).finish k 0
          (leBytes 4 data.length ++ leBytes 4 (d.capI (u8 k.bytes 24)).embedFrame))

/-- A receipt of a docket on a completion queue is written at the queue's tail with status, tag, head and phase. In
D0, the only receipt of a docket that its queue holds as begun, without QUIET and with a status of class 0 or 1,
is written as 32 bytes at base + 32 × tail: status, tag, the queue's head after the docket has gone, the queue's
number, the phase bit, and 24 result bytes. The tail moves on by one, the phase inverts at the wrap, the receipt
counts as pending, its reservation is freed, and the docket leaves the queue. (13_host_queues.md) -/
def Obligations.ReceiptIsWritten : Prop :=
  ∀ (d : Dev) (k : Docket) (status : Nat) (result : List Byte) (f : Fetched) (n : Nat), n = k.sq → n < 64 →
    d.host.sqs.length = 64 → d.host.cqs.length = 64 → d.host.power = .d0 → (d.sqI n).cq < 64 →
    (d.cqI (d.sqI n).cq).enabled = true → (d.sqI n).fetched = [f] → f.idx = k.idx → f.begun = true →
    (d.sqI n).deleting = none → (d.sqI n).frozen = false → dkQuiet k = false → status / 256 ≤ 1 → result.length ≤ 24 →
    let c := d.cqI (d.sqI n).cq
    let t := d.finish k status result
    t.hostMem = hostCellWrite d.hostMem (c.base.toNat + 32 * c.tail)
        (leBytes 2 status ++ leBytes 2 (dkTag k) ++ leBytes 2 (d.sqI n).fetch ++ leBytes 1 n ++
          [if c.phase then 1 else 0] ++ padTo 24 result) ∧
      (t.cqI (d.sqI n).cq).tail = (if c.entries ≤ c.tail + 1 then 0 else c.tail + 1) ∧
      (t.cqI (d.sqI n).cq).phase = (if c.entries ≤ c.tail + 1 then !c.phase else c.phase) ∧
      (t.cqI (d.sqI n).cq).pend.length = c.pend.length + 1 ∧
      (t.cqI (d.sqI n).cq).reserved = c.reserved - f.reserved ∧ (t.sqI n).fetched = [] ∧ t.host.dlog = d.host.dlog

/-- Doorbell writes: a tail below entries waits for rank 9, a head up to the tail is taken, any other value is
refused. A tail below the entries of an existing queue is kept in SQn_TAIL and waits for rank 9 of its close,
where it releases the dockets up to it. A tail of entries or more, a head of entries or more, and a head past
the device's tail change nothing but DB_BAD, which is set, and a dead-letter entry of cause 3 that names queue
and value. An accepted head moves the head, arms the queue and lets kept receipts be written. Only the low 12
bits of the value count. (13_host_queues.md) -/
def Obligations.DoorbellWrites : Prop :=
  (∀ (q : Fin 64) (v : Word) (cyc : Nat) (s : State), (s.dev.sqI q).enabled = true → (s.dev.sqI q).deleting = none →
      v.toNat % 4096 < (s.dev.sqI q).entries →
      exec (.sqTail q v cyc) s = .next (s.withDev (
        (s.dev.onSqI q fun x => { x with tailReg := BitVec.ofNat 12 (v.toNat % 4096) }).onTick fun t =>
          { t with act9 := t.act9 ++ [.doorbell q (v.toNat % 4096)] }))) ∧
    (∀ (q : Fin 64) (v : Word) (cyc : Nat) (s : State), (s.dev.sqI q).enabled = true → (s.dev.sqI q).deleting = none →
      (s.dev.sqI q).entries ≤ v.toNat % 4096 →
      exec (.sqTail q v cyc) s = .next (s.withDev (s.dev.badDoorbell q (v.toNat % 4096)))) ∧
    (∀ (q : Fin 64) (v : Word) (cyc : Nat) (s : State), (s.dev.cqI q).enabled = true →
      v.toNat % 4096 < (s.dev.cqI q).entries →
      (v.toNat % 4096 + (s.dev.cqI q).entries - (s.dev.cqI q).head) % (s.dev.cqI q).entries ≤ cqUsed (s.dev.cqI q) →
      exec (.cqHead q v cyc) s = .next (s.withDev (
        let d := s.dev.onCqI q fun x => { x with head := v.toNat % 4096, armed := true }
        d.drainKept (d.cqI q).kept.length q))) ∧
    (∀ (q : Fin 64) (v : Word) (cyc : Nat) (s : State), (s.dev.cqI q).enabled = true →
      ((s.dev.cqI q).entries ≤ v.toNat % 4096 ∨ cqUsed (s.dev.cqI q) <
        (v.toNat % 4096 + (s.dev.cqI q).entries - (s.dev.cqI q).head) % (s.dev.cqI q).entries) →
      exec (.cqHead q v cyc) s = .next (s.withDev (s.dev.badDoorbell q (v.toNat % 4096)))) ∧
    (∀ (d : Dev) (n v : Nat), d.host.dlog.length < 128 → ∃ t : TickSt,
      d.badDoorbell n v = { d with tick := t, host := { d.host with dbBad := true, dlog := d.host.dlog ++
        [⟨List.replicate 64 0, List.replicate 32 0, d.closeCount, n, 3, v, false⟩] } } ∧
        t = { d.tick with w1c := t.w1c }) ∧
    ∀ (d : Dev) (n v : Nat), (d.sqI n).enabled = true → d.act (.doorbell n v) = d.onSqI n fun q => { q with limit := v }

/-- A fetch takes one slot of the queue that arbitration gives, or writes a fetch failure. In D0, while the sorting
office takes dockets and fewer than 384 host pigeonholes are held, DOCKET_FETCH of a slot whose receipts fit the
room of its completion queue moves the fetch position on by one round the ring, reserves the receipts, and puts
the docket behind those fetched; a waiting docket of an unknown opcode is then refused. DOCKET_FETCH_FAILED does
the same and answers the slot with 0x0502. (13_host_queues.md) -/
def Obligations.DocketFetch : Prop :=
  ∀ (s : State) (n : Nat) (shares : List Nat) (b : List Byte), s.dev.host.ready = true → s.dev.host.power = .d0 →
    s.dev.store.holes.length < 384 → s.dev.arbitrate = some (n, shares) → (s.dev.sqI n).flushEnd = none → b.length = 64 →
    let q := s.dev.sqI n
    let take := fun (need : Nat) (bytes : List Byte) (begun : Bool) =>
      ((s.dev.onHost fun h => { h with shares := shares, turn := h.turn.set q.cls n }).onCqI q.cq fun c =>
          { c with reserved := c.reserved + need }).onSqI n fun x =>
        { x with fetch := if x.entries ≤ q.fetch + 1 then 0 else q.fetch + 1, need := 1,
                 fetched := x.fetched ++ [⟨q.fetch, bytes, begun, need, false⟩] }
    (reserveOf b (s.dev.cqI q.cq).entries ≤ cqRoom (s.dev.cqI q.cq) →
      exec (.docketFetch b) s =
        .next (s.withDev (refuseUnknown 64 (take (reserveOf b (s.dev.cqI q.cq).entries) b false) n))) ∧
    (1 ≤ cqRoom (s.dev.cqI q.cq) →
      exec .docketFetchFailed s =
        .next (s.withDev (
          (take 1 (List.replicate 64 0) true).answer
            ⟨⟨n, q.fetch, List.replicate 64 0⟩, 0x0502, [], true, false, 2, true, false⟩)))

/-- Freeze, retry, skip and flush are taken at rank 9 of their close. FREEZE, RETRY, SKIP and QUEUE_FLUSH each wait
as a host-side action of their close. Taken: freeze forgets the waiting dockets, frees their reservations and
sets the fetch position to the oldest of them; retry resumes at the failing index; skip resumes after it, and as
retry under a host freeze; flush resumes at the failing index with everything up to the tail to be answered
0x0601. An action on a queue that is not frozen changes nothing. (13_host_queues.md) -/
def Obligations.QueueActions : Prop :=
  (∀ (q : Fin 64) (s : State),
      exec (.retry q) s = .next (s.withDev (s.dev.onTick fun t => { t with act9 := t.act9 ++ [.action q 1] })) ∧
      exec (.skip q) s = .next (s.withDev (s.dev.onTick fun t => { t with act9 := t.act9 ++ [.action q 2] })) ∧
      exec (.queueFlush q) s = .next (s.withDev (s.dev.onTick fun t => { t with act9 := t.act9 ++ [.action q 3] })) ∧
      exec (.freeze q) s = .next (s.withDev (s.dev.onTick fun t => { t with act9 := t.act9 ++ [.action q 4] }))) ∧
    (∀ (d : Dev) (n : Nat), (d.sqI n).enabled = true → (d.sqI n).frozen = true → (d.sqI n).hostFreeze = false →
      d.act (.action n 1) = d.onSqI n fun q => { q with frozen := false, flushEnd := none }) ∧
    (∀ (d : Dev) (n : Nat), n < d.host.sqs.length → (d.sqI n).enabled = true → (d.sqI n).frozen = true →
      (d.sqI n).flushEnd = none →
      ((d.act (.action n 2)).sqI n).frozen = false ∧
      ((d.act (.action n 2)).sqI n).fetch = (if (d.sqI n).hostFreeze then (d.sqI n).fetch
        else if (d.sqI n).entries ≤ (d.sqI n).fetch + 1 then 0 else (d.sqI n).fetch + 1) ∧
      ((d.act (.action n 3)).sqI n).frozen = false ∧ ((d.act (.action n 3)).sqI n).fetch = (d.sqI n).fetch ∧
      ((d.act (.action n 3)).sqI n).flushEnd = (if (d.sqI n).limit = (d.sqI n).fetch then none else some (d.sqI n).limit)) ∧
    (∀ (d : Dev) (n : Nat), n < d.host.sqs.length → (d.sqI n).enabled = true → (d.sqI n).frozen = false →
      ((d.act (.action n 4)).sqI n).frozen = true ∧ ((d.act (.action n 4)).sqI n).fetch = oldestWaiting (d.sqI n) ∧
      ((d.act (.action n 4)).sqI n).fetched = (d.sqI n).fetched.filter (·.begun) ∧
      ∀ code, code ≠ 4 → d.act (.action n code) = d)

/-- Host driver reset, the administration queue and clearing the dead-letter log. HOST_DRIVER_RESET sets HDR_BUSY
and waits for rank 9; taken there, it leaves no submission queue enabled, no open envelope, the administration
queue disabled and the presence window closed, and keeps the dead-letter log and the apertures. ADM_CTRL.ENABLE
with both LAST fields not 0 enables SQ0 and CQ0 at the ADM bases with LAST + 1 entries, CQ0 with vector 0, count
1 and time 0; with a LAST field of 0 it sets ADM_ERR and enables nothing. DLOG_CLEAR removes the N oldest
entries that are not of this tick. (13_host_queues.md, 24_startup.md) -/
def Obligations.HostResetAndAdminQueue : Prop :=
  (∀ (flr : Bool) (s : State), exec (.hostDriverReset flr) s = .next (s.withDev (
      (s.dev.onHost fun h => { h with hdrBusy := true }).onTick fun t => { t with act9 := t.act9 ++ [.driverReset] }))) ∧
    (∀ (d : Dev) (n : Nat), d.host.sqs.length = 64 →
      ((d.act .driverReset).sqI n).enabled = false ∧ ((d.act .driverReset).envI n).phase ≠ .opened ∧
      (d.act .driverReset).host.admEn = false ∧ (d.act .driverReset).host.presOpen = false ∧
      (d.act .driverReset).host.dlog = d.host.dlog ∧ (d.act .driverReset).host.apertures = d.host.apertures) ∧
    (∀ (v : Word) (s : State), bit v.toNat 0 = true → bit v.toNat 1 = false → s.dev.host.admEn = false →
      s.dev.host.sqLast ≠ 0 → s.dev.host.cqLast ≠ 0 →
      exec (.admEnable v) s = .next (s.withDev (
        let h := s.dev.host
        let d := (s.dev.onHost fun h => { h with admEn := true }).onSqI 0 fun _ =>
          { SubQ.none with enabled := true, entries := h.sqLast.toNat + 1,
                           base := BitVec.ofNat 64 (h.admSqHi.toNat * 2 ^ 32 + h.admSqLo.toNat / 4096 * 4096) }
        d.enableCq 0 (h.admCqHi.toNat * 2 ^ 32 + h.admCqLo.toNat / 4096 * 4096) (h.cqLast.toNat + 1) 0 1 0))) ∧
    (∀ (v : Word) (s : State), bit v.toNat 0 = true → bit v.toNat 1 = false → s.dev.host.admEn = false →
      (s.dev.host.sqLast = 0 ∨ s.dev.host.cqLast = 0) → ∃ t : TickSt,
      exec (.admEnable v) s = .next (s.withDev ({ s.dev with tick := t, host := { s.dev.host with admErr := true } })) ∧
        t = { s.dev.tick with w1c := t.w1c }) ∧
    ∀ (v : Word) (s : State), (∀ e ∈ s.dev.host.dlog, e.tick ≠ s.dev.closeCount) →
      exec (.dlogClear v) s = .next (s.withDev (s.dev.onHost fun h => { h with dlog := h.dlog.drop (v.toNat % 256) }))

/-- BAR2 reads and writes reach the mapped pool; any other access is refused and counted. An access through a mapped
aperture that stays inside the aperture and its pool reads or writes the pool's bytes and changes nothing else.
Every other access counts in BAR2_ERRORS, which stops at its largest value; a write does nothing more and a read
is answered Unsupported Request. (13_host_queues.md) -/
def Obligations.Bar2Accesses : Prop :=
  (∀ (off len pool base : Nat) (p : Pool) (s : State),
      s.dev.host.apertures.getD (off / 2 ^ 24) none = some (pool, base) → s.dev.pool pool = some p →
      off % 2 ^ 24 + len ≤ 2 ^ 24 → base * 2 ^ 24 + off % 2 ^ 24 + len ≤ p.size →
      exec (.bar2Access off len none) s = .next (s.withDev (
        s.dev.emit (.readBytes (s.dev.memRead pool (base * 2 ^ 24 + off % 2 ^ 24) len)))) ∧
      ∀ bs : List Byte, bs.length = len →
        exec (.bar2Access off len (some bs)) s = .next (s.withDev (
          s.dev.memWrite pool (base * 2 ^ 24 + off % 2 ^ 24) bs))) ∧
    ∀ (off len : Nat) (s : State), s.dev.host.apertures.getD (off / 2 ^ 24) none = none →
      exec (.bar2Access off len none) s = .next (s.withDev (
        (s.dev.onHost fun h => { h with bar2Err := bump h.bar2Err }).emit .unsupportedRequest)) ∧
      ∀ bs : List Byte, exec (.bar2Access off len (some bs)) s = .next (s.withDev (
        s.dev.onHost fun h => { h with bar2Err := bump h.bar2Err }))

/-- The presence window opens at the close of its tick for 3,750,000,000 TCLK cycles and closes when they have run
out. PRESENCE_N low asks for the window, unless PRESENCE_STUCK holds; PRESENCE_N high ends the assertion and
clears PRESENCE_STUCK (log 51). At rank 9 of the close the window opens, or starts its 30 s again, and event 6
is raised when it opens. PRESENCE_WINDOW_CLOSE brings its end to the present cycle, and the close at which the
end is reached closes it with event 6. PRESENCE_STUCK while PRESENCE_N is low sets the bit, files a report of
class 0x008B and closes the window. (13_host_queues.md) -/
def Obligations.PresenceWindow : Prop :=
  (∀ (cyc : Nat) (s : State), exec (.presenceN false cyc) s = .next (s.withDev (s.dev.onHost fun h =>
      { h with presLow := false, presStuck := false }))) ∧
    (∀ (cyc : Nat) (s : State), s.dev.host.presStuck = false →
      exec (.presenceN true cyc) s = .next (s.withDev (s.dev.onHost fun h =>
        { h with presLow := true, presDue := true }))) ∧
    (∀ d : Dev, d.host.presDue = true → d.host.presOpen = false →
      d.presenceRank = (d.onHost fun h =>
        { h with presDue := false, presOpen := true, presEnd := d.tick.tclk + 3750000000 }).raiseNow 6) ∧
    (∀ (cyc : Nat) (s : State), s.dev.host.presOpen = true →
      exec (.presenceWindowClose cyc) s = .next (s.withDev (s.dev.onHost fun h =>
        { h with presEnd := min h.presEnd (s.dev.tick.tclk + cyc) }))) ∧
    (∀ d : Dev, d.host.presDue = false → d.host.presOpen = true → d.host.presEnd ≤ d.tick.tclk →
      d.presenceRank = (d.onHost fun h => { h with presOpen := false }).raiseNow 6) ∧
    ∀ (cyc : Nat) (s : State), s.dev.host.presLow = true → s.dev.host.presStuck = false → s.dev.host.presOpen = false →
      exec (.presenceStuck cyc) s = .next (s.withDev (
        (s.dev.onHost fun h => { h with presStuck := true, presDue := false }).report 0x008B 0 (s.dev.nsAt cyc) []))

/-- Opening an envelope, adding members and abandoning it. OPEN takes the lowest free number (log 24), leaves an
empty open envelope there and answers the number. ADD_MEMBER of a record whose fields are right appends it and
answers number and index. ADD_BULK_MEMBER and ADD_MEMBER_LIST with data to read wait for the host's data; when
it arrives the bulk member, or every record of a list whose records are all right, is appended. ABANDON of an
open envelope frees its number and writes no final receipt. (03_envelopes.md, 14_dockets.md) -/
def Obligations.EnvelopeMemberDockets : Prop :=
  (∀ (s : State) (k : Docket) (n : Nat), s.dev.runsHere k [] → n < 64 → (s.dev.envI n).phase = .free →
      (∀ m, m < n → (s.dev.envI m).phase ≠ .free) →
      exec (.openEnv k) s = .next (s.after k fun d =>
        (d.onEnvI n fun _ => { Env.empty with phase := .opened }).finish k 0 (leBytes 1 n))) ∧
    (∀ (s : State) (k : Docket), s.dev.runsHere k [(8, 8), (16, 63)] → recordStatus (k.bytes.drop 16) = 0 →
      u8 k.bytes 8 < 64 → (s.dev.envI (u8 k.bytes 8)).phase = .opened → (s.dev.envI (u8 k.bytes 8)).members.length < 1024 →
      exec (.addMember k) s = .next (s.after k fun d =>
        (d.onEnvI (u8 k.bytes 8) fun e => { e with members := e.members ++ [⟨k.bytes.drop 16, none⟩] }).finish k 0
          (leBytes 1 (u8 k.bytes 8) ++ [0] ++ leBytes 2 (s.dev.envI (u8 k.bytes 8)).members.length))) ∧
    (∀ (s : State) (k : Docket), s.dev.runsHere k [(8, 22), (24, 27)] → u8 k.bytes 22 ≤ 1 → u64 k.bytes 8 % 4 = 0 →
      0 < u32 k.bytes 16 → u32 k.bytes 16 ≤ 2 ^ 24 → s.dev.addStatus (u8 k.bytes 20) 1 = 0 →
      s.dev.bulkRoom (s.dev.envI (u8 k.bytes 20)).members (u32 k.bytes 16) = true →
      exec (.addBulkMember k) s = .next (s.after k fun d => d.readHost k (u64 k.bytes 8) (u32 k.bytes 16))) ∧
    (∀ (s : State) (k : Docket) (data : List Byte) (addr : Nat) (rest : List Waiting), k.sq < 64 → dkOp k = 0x22 →
      s.dev.host.waitData = ⟨k, addr, data.length⟩ :: rest → s.dev.addStatus (u8 k.bytes 20) 1 = 0 →
      s.dev.bulkRoom (s.dev.envI (u8 k.bytes 20)).members data.length = true →
      exec (.hostReadComplete k.sq k.idx data) s = .next (s.withDev (
        ((s.dev.onHost fun h => { h with waitData := rest }).onEnvI (u8 k.bytes 20) fun e =>
          { e with members := e.members ++
              [⟨bulkRecord (u8 k.bytes 21) (u8 k.bytes 22) (u32 k.bytes 24), some data⟩] }).finish k 0
          (leBytes 1 (u8 k.bytes 20) ++ [0] ++ leBytes 2 (s.dev.envI (u8 k.bytes 20)).members.length)))) ∧
    (∀ (s : State) (k : Docket), s.dev.runsHere k [(8, 20)] → u64 k.bytes 8 % 4 = 0 → 48 ≤ u32 k.bytes 16 →
      u32 k.bytes 16 ≤ 49152 → u32 k.bytes 16 % 48 = 0 → s.dev.addStatus (u8 k.bytes 20) (u32 k.bytes 16 / 48) = 0 →
      exec (.addMemberList k) s = .next (s.after k fun d => d.readHost k (u64 k.bytes 8) (u32 k.bytes 16))) ∧
    (∀ (s : State) (k : Docket) (data : List Byte) (addr : Nat) (rest : List Waiting), k.sq < 64 → dkOp k = 0x23 →
      s.dev.host.waitData = ⟨k, addr, data.length⟩ :: rest →
      s.dev.addStatus (u8 k.bytes 20) (chunks 48 (data.length / 48) data).length = 0 →
      (∀ r ∈ chunks 48 (data.length / 48) data, recordStatus r = 0) →
      exec (.hostReadComplete k.sq k.idx data) s = .next (s.withDev (
        ((s.dev.onHost fun h => { h with waitData := rest }).onEnvI (u8 k.bytes 20) fun e =>
          { e with members := e.members ++ (chunks 48 (data.length / 48) data).map fun r => ⟨r, none⟩ }).finish k 0
          (leBytes 1 (u8 k.bytes 20) ++ [0] ++ leBytes 2 (s.dev.envI (u8 k.bytes 20)).members.length ++
            leBytes 2 0xFFFF)))) ∧
    ∀ (s : State) (k : Docket), s.dev.runsHere k [(8, 8)] → u8 k.bytes 8 < 64 → (s.dev.envI (u8 k.bytes 8)).phase = .opened →
      exec (.abandon k) s = .next (s.after k fun d => (d.onEnvI (u8 k.bytes 8) fun _ => Env.empty).finish k 0)

/-- A seal that passes every check holds its claims and completes; a lone parameter write seals an envelope of its
own. SEAL of an open envelope with a landing point that its kind allows, and lone parameter writes with a free
number and room, run the seal of R73 on the members. When nothing fails, the envelope holds its claims and
stream numbers, VCORE is aimed at what it will need, and the seal completes at once unless the demand of some
region rises and a raise is under way: then it waits for READ_VOUT or PMBUS_POLL. When something fails, the
envelope is returned at seal with the code and the member. (03_envelopes.md, 14_dockets.md) -/
def Obligations.SealDockets : Prop :=
  (∀ (s : State) (k : Docket) (e : Env), s.dev.runsHere k [(8, 21), (24, 55)] → u8 k.bytes 10 ≤ 1 → u8 k.bytes 9 ≤ 3 →
      u8 k.bytes 8 < 64 → (s.dev.envI (u8 k.bytes 8)).phase = .opened → s.dev.pointOk k.bytes = true →
      e = { s.dev.envI (u8 k.bytes 8) with
              dk := k, kind := u8 k.bytes 9, target := u8 k.bytes 11,
              land := sealPoint k.bytes, noLate := u8 k.bytes 10 == 1, chain := none } →
      exec (.sealEnv k) s = .next (s.after k fun d => d.sealEnv (u8 k.bytes 8) e)) ∧
    (∀ (s : State) (k : Docket) (n : Nat), s.dev.runsHere k [(8, 12), (16, 47)] → s.dev.freeEnv = some n →
      0 < u8 k.bytes 12 → u8 k.bytes 12 ≤ 32 → allZero ((k.bytes.drop (16 + u8 k.bytes 12)).take (32 - u8 k.bytes 12)) = true →
      s.dev.bulkRoom [] 0 = true →
      exec (.writeParameter k) s = .next (s.after k fun d => d.sealEnv n { Env.empty with
        members := [⟨padTo 48 ([0, 0, 0, 0] ++ (k.bytes.drop 8).take 4 ++ leBytes 1 (u8 k.bytes 12) ++ [0, 0, 0] ++
          (k.bytes.drop 16).take (u8 k.bytes 12)), none⟩], dk := k, lone := true })) ∧
    (∀ (s : State) (k : Docket), s.dev.runsHere k [(8, 19), (24, 27)] → u64 k.bytes 8 % 4 = 0 → 0 < u32 k.bytes 16 →
      u32 k.bytes 16 ≤ 2 ^ 24 → s.dev.freeEnv.isSome = true → s.dev.bulkRoom [] (u32 k.bytes 16) = true →
      exec (.writeBulkParameter k) s = .next (s.after k fun d => d.readHost k (u64 k.bytes 8) (u32 k.bytes 16))) ∧
    (∀ (s : State) (k : Docket) (data : List Byte) (addr n : Nat) (rest : List Waiting), k.sq < 64 → dkOp k = 0x11 →
      s.dev.host.waitData = ⟨k, addr, data.length⟩ :: rest → s.dev.freeEnv = some n → s.dev.bulkRoom [] data.length = true →
      exec (.hostReadComplete k.sq k.idx data) s = .next (s.withDev (
        (s.dev.onHost fun h => { h with waitData := rest }).sealEnv n { Env.empty with
          members := [⟨bulkRecord 0 0 (u32 k.bytes 24), some data⟩], dk := k, lone := true }))) ∧
    (∀ (d : Dev) (n : Nat) (e : Env), d.sealFails n e = none →
      d.sealEnv n e = (if ((d.holdClaims n e).retarget).gov.raising = true ∧
          d.demandRises (d.holdClaims n e).retarget = true then (d.holdClaims n e).retarget
        else ((d.holdClaims n e).retarget).completeSeal n)) ∧
    ∀ (d : Dev) (n code m : Nat) (e : Env), d.sealFails n e = some (code, m) →
      d.sealEnv n e = (d.noteDefects e (code, m)).returnAtSeal n e code m

/-- Each completed seal takes the next seal sequence number, 1 to 0xFFFFFFFE and round. When the seal of an envelope
of no chain completes, its point still ahead and its slots within reach, the envelope is sealed with the next
sequence number, which is never 0 or 0xFFFFFFFF, and the number after the last one is 1. The envelope frees its
number when it is returned at that moment instead. (03_envelopes.md) -/
def Obligations.SealSequenceNumbers : Prop :=
  (∀ (d : Dev) (n : Nat), n < d.env.envs.length → (d.envI n).chain = none → (d.aim (d.envI n)).2 = false →
      d.armedTooFar (d.envI n) = none → 1 ≤ d.env.nextSeq → d.env.nextSeq ≤ 0xFFFFFFFE → (d.envI n).kind = 0 →
      ((d.completeSeal n).envI n).phase = .sealed ∧ ((d.completeSeal n).envI n).seq = d.env.nextSeq ∧
      (d.completeSeal n).env.nextSeq = (if d.env.nextSeq = 0xFFFFFFFE then 1 else d.env.nextSeq + 1)) ∧
    ∀ (d : Dev) (n : Nat), (d.envI n).chain = none → (d.aim (d.envI n)).2 = true → (d.envI n).noLate = true →
      d.completeSeal n = ((d.dropClaims (d.envI n)).returnAtSeal n (d.envI n) 0x32 0xFFFF).retarget

/-- A withdraw waits for rank 9 and returns a sealed envelope; a withdraw that comes too late changes nothing.
WITHDRAW of a sealed envelope waits as a host-side action. Taken while the envelope is still sealed and of no
chain, it returns the envelope with code 0x53, whose final receipt is written first, frees its number and
answers 0; taken when it has landed or been returned it answers 0x8203 and leaves the envelope as it is. (03_envelopes.md) -/
def Obligations.WithdrawAndReturn : Prop :=
  (∀ (s : State) (k : Docket), s.dev.runsHere k [(8, 8)] → u8 k.bytes 8 < 64 → (s.dev.envI (u8 k.bytes 8)).phase = .sealed →
      exec (.withdraw k) s = .next (s.after k fun d =>
        d.onTick fun t => { t with act9 := t.act9 ++ [.withdraw k (u8 k.bytes 8)] })) ∧
    (∀ (d : Dev) (k : Docket) (n : Nat), (d.envI n).phase = .sealed → (d.envI n).chain = none → d.tick.done8 = [] →
      d.act (.withdraw k n) =
        let e := d.envI n
        let r := d.returnEnv n 0x53 0xFFFF d.tick.count.toNat
        let (mine, rest) := r.tick.done8.partition fun c => c.final && c.dk == e.dk
        (((r.onTick fun t => { t with done8 := rest }).each mine fun d c => d.answer c).onEnvI n fun _ => Env.empty).finish
          k 0 (envResult e n 0xFFFF d.tick.count.toNat)) ∧
    ∀ (d : Dev) (k : Docket) (n : Nat), (d.envI n).phase ≠ .sealed →
      d.act (.withdraw k n) = d.finish k 0x8203 (envResult (d.envI n) n 0xFFFF d.tick.count.toNat)

/-- The messages of a chain-wide envelope: prepare, ready, decision, reports and their deadlines. CHAIN_PREPARE with
a free number seals a local envelope of kind 4 from the records, and with none free answers refuse with 0x21.
CHAIN_READY of the last participant makes the coordinator commit, and a refusal aborts with code 0x50 naming the
address. DECISION_DEADLINE of an undecided envelope aborts it with 0x51 naming the lowest address that has not
answered. CHAIN_DECISION is taken once: commit is kept, abort returns the local envelope with 0x50. CHAIN_REPORT
records the first outcome of a participant; when every participant has reported, or at REPORT_DEADLINE, the
final receipt is due, with the split flag, the count and the lowest address of those that did not report
landing. (03_envelopes.md, 21_chain.md) -/
def Obligations.ChainWideEnvelopes : Prop :=
  (∀ (s : State) (ref : ChainRef) (land n : Nat) (recs : List (List Byte)), s.dev.host.ready = true →
      s.dev.freeEnv = some n →
      exec (.chainPrepare ref land recs) s = .next (s.withDev (s.dev.sealEnv n { Env.empty with
        members := recs.map preparedMember, dk := ⟨65, 0, []⟩, kind := 4, land := land,
        chain := some ⟨ref, false, [], [], none, [], 0, false, false⟩ }))) ∧
    (∀ (s : State) (ref : ChainRef) (land : Nat) (recs : List (List Byte)), s.dev.host.ready = true →
      s.dev.freeEnv = none →
      exec (.chainPrepare ref land recs) s = .next (s.withDev (s.dev.sendTo 1 ref.coord (readyBytes ref (some 0x21))))) ∧
    (∀ (s : State) (ref : ChainRef) (a : Nat) (c : ChainPart), s.dev.coordinated ref = some c → c.decision = none →
      (s.dev.envI ref.env).phase = .sealed → a ∈ c.members →
      exec (.chainReady ref a none) s = .next (s.withDev ((s.dev.onEnvI ref.env fun e =>
        { e with chain := some { c with ready := c.ready ++ [a] } }).commitIfReady ref.env)) ∧
      (∀ why, exec (.chainReady ref a (some why)) s = .next (s.withDev (s.dev.abortChain ref.env 0x50 a)))) ∧
    (∀ (s : State) (n : Fin 64) (c : ChainPart), (s.dev.envI n).chain = some c → c.isCoord = true → c.decision = none →
      (s.dev.envI n).phase = .sealed →
      exec (.decisionDeadline n) s = .next (s.withDev (
        (s.dev.broadcast 1 (decisionBytes c.ref false c.members)).returnEnv n 0x51
          ((c.members.filter fun a => !c.ready.contains a).headD 0xFFFF) (s.dev.tick.count.toNat + 1)))) ∧
    (∀ (s : State) (ref : ChainRef) (n : Nat) (c : ChainPart), s.dev.participating ref = some (n, c) → c.decision = none →
      exec (.chainDecision ref true) s = .next (s.withDev (s.dev.onEnvI n fun e =>
        { e with chain := some { c with decision := some true } })) ∧
      exec (.chainDecision ref false) s = .next (s.withDev (
        s.dev.returnEnv n 0x50 0xFFFF (s.dev.tick.count.toNat + 1)))) ∧
    (∀ (s : State) (ref : ChainRef) (a : Nat) (l : Bool) (c : ChainPart), s.dev.coordinated ref = some c → a ∈ c.members →
      (∀ r ∈ c.reports, r.1 ≠ a) →
      exec (.chainReport ref a l) s = .next (s.withDev (
        let d := s.dev.onEnvI ref.env fun e => { e with chain := some { c with reports := c.reports ++ [(a, l)] } }
        if c.others.all fun x => (c.reports ++ [(a, l)]).any (·.1 == x) then d.closeChain ref.env else d))) ∧
    ∀ (s : State) (n : Fin 64) (c : ChainPart), (s.dev.envI n).chain = some c → (s.dev.envI n).phase = .ended →
      c.holdRcpt = true →
      exec (.reportDeadline n) s = .next (s.withDev (
        let gone := c.missing
        let d := if gone.isEmpty then s.dev else s.dev.raiseNow 90
        (d.onEnvI n fun e => { e with chain := some { c with holdRcpt := false } }).atClose
          (finalReceipt (s.dev.envI n) n (if (s.dev.envI n).late then 1 else 0) 0xFFFF (s.dev.envI n).sealedAt
            (if gone.isEmpty then (0, 0, 0) else (1, min 255 gone.length, gone.headD 0)))))

/-- A read takes a shared pigeonhole; a write, a registered write and a deallocate take an exclusive one. While
fewer than 384 host pigeonholes are held, a read, write, registered write or deallocate that runs with operands
in range takes the next lock sequence and one pigeonhole over its whole block range, not granted yet, at the end
of the table. The pigeonhole of a read is shared, and that of the other three is exclusive. Nothing else
changes. (R394) -/
def Obligations.PigeonholesSharedAndExclusive : Prop :=
  (∀ (s : State) (k : Docket), s.dev.store.holes.length < 384 → s.dev.runsHere k [(8, 19), (20, 20), (24, 31)] →
      u8 k.bytes 20 ≤ 1 → u64 k.bytes 8 % (if u8 k.bytes 20 = 1 then 8 else 4) = 0 →
      4096 ≤ u32 k.bytes 16 → u32 k.bytes 16 ≤ 16777216 → u32 k.bytes 16 % 4096 = 0 →
      let take := fun (shared : Bool) => State.after s k fun d =>
        let lock := (d.store.lockSeq + 1) % 2 ^ 32
        d.onStore fun x => { x with
          lockSeq := lock,
          holes := x.holes ++ [{ lock := lock, first := u64 k.bytes 24, blocks := u32 k.bytes 16 / 4096, shared := shared,
                                 granted := false, d := k, cls := d.classOf k, pages := none, need := [], failed := [],
                                 moved := false, ended := false }] }
      exec (.read k) s = .next (take true) ∧ exec (.write k) s = .next (take false) ∧
        exec (.registeredWrite k) s = .next (take false)) ∧
    ∀ (s : State) (k : Docket), s.dev.store.holes.length < 384 → s.dev.runsHere k [(16, 19), (24, 31)] →
      0 < u32 k.bytes 16 → u32 k.bytes 16 ≤ 4096 →
      exec (.deallocate k) s = .next (State.after s k fun d =>
        let lock := (d.store.lockSeq + 1) % 2 ^ 32
        d.onStore fun x => { x with
          lockSeq := lock,
          holes := x.holes ++ [{ lock := lock, first := u64 k.bytes 24, blocks := u32 k.bytes 16, shared := false,
                                 granted := false, d := k, cls := d.classOf k, pages := none, need := [], failed := [],
                                 moved := false, ended := false }] })

/-- No store docket overtakes an earlier one of a conflicting mode on an overlapping block. A pigeonhole whose range
overlaps an earlier one in the table is not granted unless both are shared: its grant leaves the state as it is.
The same holds while the store is parked, and before bring-up has ended. A granted one that passes the checks of
R390 goes on: a read without a page list to its codewords, a write to its host data, a deallocate to its effect
and its receipt. (16_store_commands.md) -/
def Obligations.PigeonholesFirstInFirstOut : Prop :=
  (∀ (s : State) (pre post : List Hole) (h : Hole), s.dev.store.holes = pre ++ h :: post →
      (∀ x ∈ pre, x.lock ≠ h.lock) →
      ((∃ x ∈ pre, x.first < h.first + h.blocks ∧ h.first < x.first + x.blocks ∧ (x.shared = false ∨ h.shared = false)) ∨
        s.dev.store.parked = true ∨
        (s.dev.store.online = false ∧ s.dev.store.offline = false ∧ s.dev.store.locked = false)) →
      exec (.pigeonholeGrant h.lock) s = .next s) ∧
    ∀ (s : State) (pre post : List Hole) (h : Hole), s.dev.store.holes = pre ++ h :: post →
      (∀ x ∈ pre, x.lock ≠ h.lock) → s.dev.store.parked = false → s.dev.store.online = true → h.granted = false →
      (∀ x ∈ pre, (x.first + x.blocks ≤ h.first ∨ h.first + h.blocks ≤ x.first) ∨ (x.shared = true ∧ h.shared = true)) →
      storeRefusal s.dev.store { h with granted := true } = none →
      let h' : Hole := { h with granted := true }
      let d := s.dev.onHole h.lock fun _ => h'
      (dkOp h.d = 0x44 → exec (.pigeonholeGrant h.lock) s = .next (s.withDev (d.runDeallocate h'))) ∧
      (dkOp h.d = 0x40 → u8 h.d.bytes 20 = 0 →
        exec (.pigeonholeGrant h.lock) s = .next (s.withDev (d.startRead h'))) ∧
      ((dkOp h.d = 0x41 ∨ dkOp h.d = 0x42) → u8 h.d.bytes 20 = 0 → h.pages = none →
        exec (.pigeonholeGrant h.lock) s =
          .next (s.withDev (d.readHost h.d (u64 h.d.bytes 8) (4096 * h.blocks))))

/-- A read of blocks that hold nothing sends zeros with status 0, and a read of buffered blocks sends the buffer. A
read that is granted while no block of its range is on the medium without being in the write buffer ends at
once: host memory gets, for each block, the newest buffered data, or 4,096 zero bytes for a block that was never
written or was deallocated, and the receipt of status 0 is due at rank 8. (D0, one buffer of host memory.) (16_store_commands.md) -/
def Obligations.UnwrittenBlocksReadZeros : Prop :=
  ∀ (d : Dev) (h : Hole), d.host.power = .d0 → h.pages = none → h.failed = [] → 0 < h.blocks →
    (∀ i, i < h.blocks → onMedium d.store (h.first + i) = none ∨ buffered d.store (h.first + i) ≠ none) →
    (∀ i v, i < h.blocks → buffered d.store (h.first + i) = some (some v) → v.length = 4096) →
    d.startRead h =
      ((d.onHole h.lock fun _ => { h with need := [] }).onHostMem fun m =>
        hostCellWrite m (u64 h.d.bytes 8) ((List.range h.blocks).flatMap fun i => match buffered d.store (h.first + i) with
          | some (some v) => v
          | _ => List.replicate 4096 0)).endHole { h with need := [] } 0

/-- Flush, store information and clip extents. With the store up, FLUSH covers every receipted write and deallocate
that is not on the medium: with none, its receipt of status 0 is due at rank 8, and otherwise it waits for them.
STORE_INFORMATION writes the 512 bytes of store information to host memory and answers 512. CLIP_EXTENTS writes
the summary of a known clip and as many extents as fit, and answers their number and whether more are left.
Before bring-up has ended these dockets wait. (15_clip_store_media.md, 16_store_commands.md) -/
def Obligations.StoreReadOutDockets : Prop :=
  (∀ (s : State) (k : Docket), s.dev.runsHere k [] → s.dev.store.online = true → s.dev.store.offline = false →
      s.dev.store.locked = false →
      exec (.flush k) s = .next (s.after k fun d =>
        (d.onStore fun x => { x with flushes := x.flushes ++
          [(k, (((x.dirty.filter (·.receipted)).map (·.lock)) ++ x.lostWr.map (·.1)).eraseDups)] }).settleStore)) ∧
    (∀ (d : Dev) (k : Docket), d.store.dirty = [] → d.store.lostWr = [] → d.store.holes = [] →
      (d.onStore fun x => { x with flushes := [(k, [])] }).settleStore =
        (d.finish8 k 0).onStore fun x => { x with flushes := [] }) ∧
    (∀ (s : State) (k : Docket), s.dev.runsHere k [(8, 19)] → s.dev.store.online = true → s.dev.store.offline = false →
      s.dev.store.locked = false → u64 k.bytes 8 % 4 = 0 → 512 ≤ u32 k.bytes 16 →
      exec (.storeInformation k) s = .next (s.after k fun d =>
        (d.hostWrite (u64 k.bytes 8) d.storeInfo).finish8 k 0 (leBytes 4 512))) ∧
    (∀ (s : State) (k : Docket) (c : Clip), s.dev.runsHere k [(8, 19), (24, 31)] → s.dev.store.online = true →
      s.dev.store.offline = false → s.dev.store.locked = false → u64 k.bytes 8 % 4 = 0 → 64 ≤ u32 k.bytes 16 →
      s.dev.store.clips.find? (fun c => c.id == u64 k.bytes 24) = some c →
      exec (.clipExtents k) s = .next (s.after k fun d =>
        let n := min c.extents.length ((u32 k.bytes 16 - 64) / 16)
        (d.hostWrite (u64 k.bytes 8) (clipSummary c ++
            (c.extents.take n).flatMap fun e => leBytes 8 e.1 ++ leBytes 4 e.2 ++ leBytes 4 0)).finish8 k 0
          (leBytes 4 n ++ leBytes 1 (decide (n < c.extents.length)).toNat))) ∧
    ∀ (s : State) (k : Docket), s.dev.runsHere k [] → s.dev.store.online = false → s.dev.store.offline = false →
      s.dev.store.locked = false →
      exec (.flush k) s = .next (s.after k fun d => d.onStore fun x => { x with early := x.early ++ [k] })

/-- A plain write is receipted within the dirty limit, and reaches the medium with its pages. WRITE_BUFFERED of a
plain write whose data is in the buffer marks its blocks receipted and makes its receipt of status 0 due when
the dirty bytes with its own are within the limit, and changes nothing when they are not. When the only buffered
block is receipted and its page is programmed, the block leaves the buffer and stands on the medium. (16_store_commands.md) -/
def Obligations.WriteReceipts : Prop :=
  (∀ (s : State) (h : Hole), s.dev.store.holes.find? (fun x => x.lock == h.lock) = some h → h.moved = true →
      h.ended = false → dkOp h.d = 0x41 →
      dirtyBytes s.dev.store + 4096 * s.dev.store.dirty.countP (fun e => e.lock == h.lock && !e.receipted) ≤
        s.dev.dirtyLimit →
      exec (.writeBuffered h.lock) s = .next (s.withDev (
        (s.dev.onStore fun x => { x with dirty := x.dirty.map fun e =>
          if e.lock = h.lock then { e with receipted := true } else e }).endHole h 0))) ∧
    (∀ (s : State) (h : Hole), s.dev.store.holes.find? (fun x => x.lock == h.lock) = some h →
      s.dev.dirtyLimit <
        dirtyBytes s.dev.store + 4096 * s.dev.store.dirty.countP (fun e => e.lock == h.lock && !e.receipted) →
      exec (.writeBuffered h.lock) s = .next s) ∧
    ∀ (s : State) (die block lba lock : Nat) (v : List Byte), s.dev.store.units = [] →
      s.dev.store.dirty = [⟨lock, lba, some v, true, false⟩] →
      ∃ t : State, exec (.pageProgramComplete die block [lba] true) s = .next t ∧ t.dev.store.dirty = [] ∧
        onMedium t.dev.store lba = some v

/-- Erases, refreshes, wear moves, retired dies and the read ladder act on the medium. An erase that succeeds is
counted and leaves the block empty; one that fails retires a block that is not bad: the free spare falls by one
and the spare state follows. BLOCK_REFRESH empties a block queued for refresh. WEAR_MOVE moves the data of the
least-erased block of its die that holds data when the die's counts differ by more than the threshold.
DIE_RETIRED of a die takes it and its good blocks out and degrades the store, until REBUILD_COMPLETE. A codeword
that needs a retry or soft decode queues a refresh of its block, a rebuild retires the block, and a failure
damages the clip that holds it. (15_clip_store_media.md) -/
def Obligations.MediumMaintenance : Prop :=
  (∀ (s : State) (die block : Nat),
      exec (.blockEraseComplete die block true) s = .next (s.withDev (
        (s.dev.onStore fun x => onBlk x die block fun b =>
          { b with erases := b.erases + 1, lbas := [], refresh := false }).checkWear)) ∧
      ((∀ b ∈ s.dev.store.blocks, b.die = die → b.block = block → b.bad = false) →
        exec (.blockEraseComplete die block false) s = .next (s.withDev (
          (s.dev.onStore fun x =>
            let y := onBlk x die block fun b => { b with bad := true, lbas := [], refresh := false }
            { y with free := y.free - 1 }).checkSpare))) ∧
      exec (.blockRefresh die block) s = .next (s.withDev (s.dev.onStore fun x =>
        { x with blocks := x.blocks.map fun b =>
            if b.die = die ∧ b.block = block ∧ b.refresh = true then { b with lbas := [], refresh := false } else b }))) ∧
    (∀ (s : State) (x y : NandBlk), x ∈ s.dev.store.blocks → x.bad = false → x.lbas ≠ [] →
      (∀ z ∈ s.dev.store.blocks, z.die = x.die → z.bad = false → z.lbas ≠ [] → z = x ∨ x.erases < z.erases) →
      y ∈ s.dev.store.blocks → y.die = x.die → y.bad = false → x.erases + s.dev.parN 0x0E 0 1 < y.erases →
      exec (.wearMove x.die) s = .next (s.withDev (s.dev.onStore fun t =>
        { t with blocks := t.blocks.map fun b =>
            if b.die = x.die ∧ b.block = x.block then { b with lbas := [] } else b }))) ∧
    (∀ (s : State) (die : Nat) (g : NandGeometry), s.dev.store.geom = some g → die < dieCount g →
      die ∉ s.dev.store.retired →
      exec (.dieRetired die) s = .next (s.withDev (
        ((s.dev.onStore fun x =>
          { x with retired := x.retired ++ [die], lost := x.lost ++ [die],
                   free := x.free - (blocksPerDie g - g.badPerDie - x.blocks.countP fun b => b.die == die && b.bad),
                   blocks := x.blocks.filter fun b => b.die != die }).raiseNow 14).checkSpare))) ∧
    (∀ (s : State) (die : Nat),
      exec (.rebuildComplete die) s = .next (s.withDev (
        s.dev.onStore fun x => { x with lost := x.lost.filter (· != die) }))) ∧
    ∀ (s : State) (lba : Nat) (b : NandBlk), s.dev.store.holes = [] →
      s.dev.store.blocks.find? (fun b => b.lbas.contains lba) = some b →
      exec (.codewordRead lba .hard) s = .next s ∧
      (∀ step, step = .retry ∨ step = .soft → exec (.codewordRead lba step) s = .next (s.withDev (
        s.dev.onStore fun x => onBlk x b.die b.block fun y => { y with refresh := true }))) ∧
      exec (.codewordRead lba .rebuild) s = .next (s.withDev (s.dev.retireBlock b.die b.block)) ∧
      exec (.codewordRead lba .failed) s = .next (s.withDev (s.dev.onStore fun x =>
        { x with clips := x.clips.map fun c => if inExtents c.extents lba then { c with damaged := true } else c }))

/-- The last codeword of a read ends it, and a failed block is sent as zeros with status 0x8408. When the one read
that waits for a block needs nothing else, CODEWORD_READ ends it: data that was read goes to host memory with
status 0; a codeword that failed counts in READ_FAILED, goes as zeros, and ends the read with status 0x8408 and
the first failed block and the number of failed blocks as its result. (15_clip_store_media.md, 16_store_commands.md) -/
def Obligations.ReadEndsWithItsLastCodeword : Prop :=
  ∀ (s : State) (h : Hole) (lba : Nat), s.dev.store.holes = [h] → s.dev.store.blocks = [] → s.dev.store.clips = [] →
    h.granted = true → h.ended = false → h.need = [lba] → h.failed = [] → h.pages = none → h.blocks = 1 → h.first = lba →
    s.dev.host.power = .d0 → (blockValue s.dev.store lba).length = 4096 →
    (∃ t : State, exec (.codewordRead lba .hard) s = .next t ∧
      t.dev.hostMem = hostCellWrite s.dev.hostMem (u64 h.d.bytes 8) (blockValue s.dev.store lba) ∧
      t.dev.store.readFailed = s.dev.store.readFailed ∧
      t.dev.tick.done8 = s.dev.tick.done8 ++ [⟨h.d, 0, [], true, false, 1, true, false⟩]) ∧
    ∃ t : State, exec (.codewordRead lba .failed) s = .next t ∧
      t.dev.hostMem = hostCellWrite s.dev.hostMem (u64 h.d.bytes 8) (List.replicate 4096 0) ∧
      t.dev.store.readFailed = bump s.dev.store.readFailed ∧
      t.dev.tick.done8 = s.dev.tick.done8 ++ [⟨h.d, 0x8408, leBytes 8 lba ++ leBytes 4 1, true, false, 1, true, false⟩]

/-- Bring-up of the store, parking, leaving park, channel windows and NAND training. STORE_BRINGUP of a medium that
meets R366 on a store that was never formatted formats it: the capacity of R369 is fixed, the store is online,
empty, with the next clip 1, and event 11 is raised; a medium that does not meet R366 leaves the store offline
with event 14 and a report of class 0x0060. PFAIL_N going low is a trip of the running tick, high only ends the
assertion, and LEAVE_PARK ends park while PFAIL_N is high and no halt holds. CHANNEL_WINDOW of a populated
channel of an online store puts out the window's work, and NAND_TRAINING of one raises event 9; for another
channel both change nothing. (15_clip_store_media.md, 16_store_commands.md, 24_startup.md) -/
def Obligations.StoreStartAndPark : Prop :=
  (∀ (s : State) (g : NandGeometry), geometryOk g = true → s.dev.store.formatted = false → s.dev.store.early = [] →
      ∃ t : State, exec (.storeBringup g) s = .next t ∧ t.dev.store.formatted = true ∧ t.dev.store.online = true ∧
        t.dev.store.locked = false ∧ t.dev.store.geom = some g ∧ t.dev.store.good = goodBlocks g ∧
        t.dev.store.capacity = capacityOf g (goodBlocks g) ∧ t.dev.store.bands = [] ∧ t.dev.store.clips = [] ∧
        t.dev.store.nextClip = 1 ∧ (11, s.dev.nowNs, s.dev.time.epoch.toNat) ∈ t.dev.evt.raised) ∧
    (∀ (s : State) (g : NandGeometry), geometryOk g = false → s.dev.store.early = [] →
      exec (.storeBringup g) s = .next (s.withDev (
        ((((s.dev.onStore fun x => { x with offline := true, online := false, geom := none }).reportNow 0x0060 storeEp
          []).raiseNow 14).onStore fun x => { x with early := [] }).onBoot fun b => { b with phase := 0xF }))) ∧
    (∀ (s : State) (cyc : Nat), s.dev.store.pfailLow = false →
      exec (.pfailN true cyc) s = .next (s.withDev (
        (s.dev.onStore fun x => { x with pfailLow := true }).onTick fun t =>
          { t with trips := t.trips ++ [(.pfail, s.dev.timeAt cyc)] }))) ∧
    (∀ (s : State) (cyc : Nat), exec (.pfailN false cyc) s = .next (s.withDev (
        s.dev.onStore fun x => { x with pfailLow := false }))) ∧
    (∀ s : State, s.dev.store.parked = true → s.dev.store.pfailLow = false → s.dev.halted = false →
      exec .leavePark s = .next (s.withDev (s.dev.onStore fun x => { x with parked := false, pfailKept := false }))) ∧
    (∀ s : State, s.dev.store.pfailLow = true → exec .leavePark s = .next s) ∧
    (∀ (s : State) (g : NandGeometry) (c : Fin 16), s.dev.store.geom = some g → c.val ∈ g.channels →
      exec (.nandTraining c) s = .next (s.withDev (s.dev.raiseNow 9)) ∧
      (s.dev.store.online = true → ∃ rec' maint host, exec (.channelWindow c) s =
        .next (s.withDev (s.dev.emit (.nandWork c rec' maint host))) ∧
        rec' ≤ s.dev.reserve / max 1 g.channels.length / 10000)) ∧
    ∀ (s : State) (g : NandGeometry) (c : Fin 16), s.dev.store.geom = some g → c.val ∉ g.channels →
      exec (.nandTraining c) s = .next s ∧ exec (.channelWindow c) s = .next s

/-- Store sanitize replaces the data key and empties the store; mode 1 erases every good block too. Inside the
presence window, with no recording running, a sanitize docket of mode 0 or 1 on an unlocked store takes a new
data key (a free value), frees every band, removes every clip and its data, and starts clip identifiers at 1.
Retirements and bad blocks stay; erase counts stay in mode 0, and rise by one for every good block in mode 1.
All of it holds when the receipt of status 0 is made, which is due at rank 8. (R377) -/
def Obligations.StoreSanitizeErases : Prop :=
  ∀ (s : State) (k : Docket), s.dev.runsHere k [(8, 8)] → s.dev.host.presOpen = true → u8 k.bytes 8 ≤ 1 →
    (∀ r ∈ s.dev.store.slots, r.running = false) → s.dev.store.locked = false →
    exec (.storeSanitize k) s = .next (s.after k fun d =>
      ((((d.onStore fun x =>
        { x with dataKey := d.free, wrapKey := x.keptKey, wrapSeq := x.wrapSeq + 1, bands := [], clips := [], nextClip := 1,
                 lbas := [], dirty := [], locked := false, online := x.online || x.locked,
                 erases := x.erases + u8 k.bytes 8,
                 blocks := x.blocks.map fun b =>
                   { b with lbas := [], refresh := false, erases := if b.bad then b.erases else b.erases + u8 k.bytes 8 }
        }).used 1).checkWear).finish8 k
            0).settleStore)

/-- The store key unlocks a locked store only when it unwraps the data key. Inside the presence window a key docket
of 64 bytes at an aligned address waits for its host data. The key that arrives unlocks a locked store, raises
event 14 and answers 1 when it is the wrapping key, answers 0 and changes nothing else when it is not, and
rewraps the data key of an unlocked store that is up and answers 2. (15_clip_store_media.md, 14_dockets.md) -/
def Obligations.StoreKeyInstallation : Prop :=
  (∀ (s : State) (k : Docket), s.dev.runsHere k [(8, 19)] → s.dev.host.presOpen = true → u64 k.bytes 8 % 4 = 0 →
      u32 k.bytes 16 = 64 →
      exec (.storeKeyInstallation k) s = .next (s.after k fun d => d.readHost k (u64 k.bytes 8) 64)) ∧
    ∀ (s : State) (k : Docket) (addr : Nat) (key : List Byte) (rest : List Waiting), k.sq < 64 → dkOp k = 0xE2 →
      s.dev.host.waitData = ⟨k, addr, 64⟩ :: rest → key.length = 64 →
      let d := s.dev.onHost fun h => { h with waitData := rest }
      (s.dev.store.locked = true → key = s.dev.store.wrapKey → exec (.hostReadComplete k.sq k.idx key) s =
        .next (s.withDev (
          ((d.onStore fun x => { x with keptKey := key, locked := false, online := true }).raiseNow 14).finish8 k 0 [1]))) ∧
      (s.dev.store.locked = true → key ≠ s.dev.store.wrapKey → exec (.hostReadComplete k.sq k.idx key) s =
        .next (s.withDev (d.finish8 k 0 [0]))) ∧
      (s.dev.store.locked = false → s.dev.store.online = true → exec (.hostReadComplete k.sq k.idx key) s =
        .next (s.withDev (
          (d.onStore fun x => { x with wrapKey := key, keptKey := key, wrapSeq := x.wrapSeq + 1 }).finish8 k 0 [2])))

/-- A slot's writers take the next full buffer of a source into its clip. While the store is online, not parked and
no stream of the slot is shed, RECORD_UNIT of a running source whose next unit is one full buffer, and whose
clip has room for it in its last band, takes the buffer, adds a unit of the buffer's bytes, rounded up to whole
blocks, to the clip, and hands its blocks to the writers. While the store is parked, or when the slot has no
such source, nothing changes. (15_clip_store_media.md) -/
def Obligations.RecordUnits : Prop :=
  (∀ (s : State) (n : Fin 8) (ep ring : Nat) (x : RecSrc) (b : Buf) (c : Clip), s.dev.store.parked = false →
      s.dev.store.online = true → (∀ ch, ch < 16 → s.dev.isShed (480 + 8 * ch + n) = false) → s.dev.store.slots.length = 8 →
      (s.dev.store.slots.getD n RecSlot.idle).sources = [x] → x.ep = ep → sourceRing ep = some ring →
      (s.dev.ringI ring).waitingFor x.cslot = [b] → s.dev.continues ring b = false →
      x.fromFrame = none → x.waitKey = false → x.stopOrd = none → x.stopFrame = none → x.clip = c.id → c.id ≠ 0 →
      s.dev.store.clips = [c] → c.extents.length < 262144 → c.bands ≠ [] →
      c.fill + ceilDiv (s.dev.bufBytes ring b).length 4096 ≤ 1024 → 0 < (s.dev.bufBytes ring b).length →
      ∃ (t : State) (u : RecUnit) (c' : Clip), exec (.recordUnit n ep) s = .next t ∧
        t.dev.store.units = s.dev.store.units ++ [u] ∧ u.slot = n ∧ u.ep = ep ∧ u.orders = [b.order] ∧ u.clip = c.id ∧
        u.bytes = 4096 * ceilDiv (s.dev.bufBytes ring b).length 4096 ∧ t.dev.store.clips = [c'] ∧
        c'.bytes = c.bytes + u.bytes ∧ c'.units = c.units + 1 ∧ c'.last = b.postmark ∧
        t.dev.ringI ring = (s.dev.ringI ring).take x.cslot b.order) ∧
    (∀ (s : State) (n : Fin 8) (ep : Nat), s.dev.store.parked = true → exec (.recordUnit n ep) s = .next s) ∧
    ∀ (s : State) (n : Fin 8) (ep : Nat), (∀ x ∈ (s.dev.store.slots.getD n RecSlot.idle).sources, x.ep ≠ ep) →
      exec (.recordUnit n ep) s = .next s

/-- A core codes the next picture of its first stream, and a stalled or ended stream moves its output.
ENCODE_PICTURE of a core with no stalled stream codes the first picture planned of its first stream: the plan
moves on, the decode order counts it, and under picture control the QP of the picture and of every row is the
base QP of its type. A stream with pieces that wait goes on at ENCODE_OUTPUT_RESUME: with a buffer for its last
piece it is no longer stalled. ENCODE_STREAM_END of a released stream that has coded everything writes the
closing piece and ends the stream; of any other stream it changes nothing. (11_coding.md) -/
def Obligations.EncodePictures : Prop :=
  (∀ (s : State) (core : Fin 8) (n : Nat) (rest : List Nat) (pic : CodedPic) (more : List CodedPic) (b : Buf),
      s.dev.coreStreams core = n :: rest → (∀ m ∈ n :: rest, (s.dev.encI m).stalled = false) →
      (s.dev.encI n).plan = pic :: more →
      (s.dev.ringI (8 * (s.dev.encI n).pipe + (s.dev.encI n).tap)).byOrder pic.order = some b →
      ∃ t : State, exec (.encodePicture core) s = .next t ∧ (t.dev.encI n).plan = more ∧
        (t.dev.encI n).decOrder = (s.dev.encI n).decOrder + 1 ∧
        (t.dev.encI n).fKey = (if pic.key then pic.frame else (s.dev.encI n).fKey) ∧
        (encN (s.dev.encParams n pic.frame) n 1 = 0 →
          let qp := BitVec.ofNat 8 (baseQp (s.dev.encParams n pic.frame) n pic.type pic.tid)
          (t.dev.encI n).qpPic = qp ∧ (t.dev.encI n).qpMin = qp ∧ (t.dev.encI n).qpMax = qp)) ∧
    (∀ (s : State) (core : Fin 8), (∃ m ∈ s.dev.coreStreams core, (s.dev.encI m).stalled = true) →
      exec (.encodePicture core) s = .next s) ∧
    (∀ (s : State) (n : Fin 32) (piece : List Byte) (d : Dev), (s.dev.encI n).pendingAu = [piece] →
      s.dev.putPiece (64 + n) piece (u32 piece 1) = some d →
      exec (.encodeOutputResume n) s = .next (s.withDev (d.onEncI n fun e => { e with pendingAu := [], stalled := false }))) ∧
    (∀ (s : State) (n : Fin 32), (s.dev.encI n).ending = true → (s.dev.encI n).taken = [] → (s.dev.encI n).plan = [] →
      (s.dev.encI n).pendingAu = [] → (∃ b, (s.dev.ringI (64 + n)).freeBuf encSpans = some b) → s.dev.enc.length = 32 →
      ∃ t : State, exec (.encodeStreamEnd n) s = .next t ∧ t.dev.encI n = EncSt.reset ∧
        (t.dev.ringI (64 + n)).nextOrd = (s.dev.ringI (64 + n)).nextOrd + 1) ∧
    ∀ (s : State) (n : Fin 32), ((s.dev.encI n).ending = false ∨ (s.dev.encI n).taken ≠ [] ∨ (s.dev.encI n).plan ≠ [] ∨
        (s.dev.encI n).pendingAu ≠ []) →
      exec (.encodeStreamEnd n) s = .next s

/-- Feeding, draining and restarting a decode core, and what it makes of an access unit. On an active core,
DECODE_FEED of 1 to 2^24 bytes inside the input pool queues the range and its receipt is due at rank 8;
DECODE_DRAIN answers the pictures output since the last drain; DECODE_RESTART forgets synchronisation and input.
An access unit that is no IRAP picture is discarded while the core is stopped or not synchronised, with event
232 + core; one that breaks H.265 counts an error with a report of class 0x0050; a sequence parameter set that
the core does not take stops it with a report of class 0x0051. (11_coding.md, 14_dockets.md) -/
def Obligations.DecodeCommands : Prop :=
  (∀ (s : State) (k : Docket) (p : Pool), s.dev.runsHere k [(8, 8), (16, 19), (24, 31)] → 0 < u32 k.bytes 16 →
      u32 k.bytes 16 ≤ 2 ^ 24 → u8 k.bytes 8 ≤ 1 → (s.dev.decI (u8 k.bytes 8)).active = true →
      s.dev.pool (decN s.dev.params (u8 k.bytes 8) 2) = some p → u64 k.bytes 24 + u32 k.bytes 16 ≤ p.size →
      exec (.decodeFeed k) s = .next (s.after k fun d => (d.onDecI (u8 k.bytes 8) fun x =>
        { x with input := x.input ++ [(u64 k.bytes 24, u32 k.bytes 16)] }).finish8 k 0)) ∧
    (∀ (s : State) (k : Docket), s.dev.runsHere k [(8, 8)] → u8 k.bytes 8 ≤ 1 →
      (s.dev.decI (u8 k.bytes 8)).active = true →
      exec (.decodeDrain k) s = .next (s.after k fun d =>
        (d.onDecI (u8 k.bytes 8) fun x => { x with pictures := 0 }).finish k 0
          (leBytes 4 (d.decI (u8 k.bytes 8)).pictures)) ∧
      exec (.decodeRestart k) s = .next (s.after k fun d => (d.onDecI (u8 k.bytes 8) fun x =>
        { x with synced := false, stopped := false, concealing := false, craStart := false, input := [] }).finish k 0)) ∧
    ∀ (s : State) (c : Fin 2) (au : AccessUnit) (cyc : Nat), (s.dev.decI c).active = true →
      s.dev.isShed (417 + 2 * c) = false →
      ((au.irap = false ∧ (s.dev.decI c).stopped = true) ∨
          (au.irap = false ∧ (s.dev.decI c).synced = false ∧ (s.dev.decI c).stopped = false ∧ au.newSps = false) →
        exec (.decodeAccessUnit c au cyc) s = .next (s.withDev (
          (s.dev.onDecI c fun x => { x with input := x.input.drop 1, discarded := bump x.discarded }).raise (232 + c)
            (s.dev.nsAt cyc)))) ∧
      ((s.dev.decI c).stopped = false → au.newSps = true → au.spsOk = false →
        exec (.decodeAccessUnit c au cyc) s = .next (s.withDev (
          ((s.dev.onDecI c fun x => { x with input := x.input.drop 1, stopped := true, synced := false }).report 0x0051
            (endpoint 0x0C c) (s.dev.nsAt cyc) [au.level]).raise (232 + c) (s.dev.nsAt cyc)))) ∧
      ((s.dev.decI c).stopped = false → au.newSps = false → (s.dev.decI c).synced = true → (s.dev.decI c).craStart = false →
        au.parseOk = false →
        exec (.decodeAccessUnit c au cyc) s = .next (s.withDev (
          ((s.dev.onDecI c fun x => { x with input := x.input.drop 1, errors := bump x.errors }).report 0x0050
            (endpoint 0x0C c) (s.dev.nsAt cyc) [c]).raise (232 + c) (s.dev.nsAt cyc))))

/-- Jobs of the general bolter lanes are queued in order, read their lists and inputs, and end in order. COMPRESS,
DECOMPRESS and RAW_DECODE with operands in range on an active lane queue a job and read its segment list; the
list is read once and then the input. BOLTER_FLUSH of a general lane queues behind the jobs; of a raw lane with
no record in progress it answers the last record's frame. BOLTER_JOB_COMPLETE changes nothing while the oldest
job still waits for its input. It ends a flush, or a raw decode whose record header fails its check with 0x8604,
and a compress job with the CRC-32C of its input and status 0 or 0x8601. (12_bolter.md, 14_dockets.md) -/
def Obligations.GeneralLaneJobs : Prop :=
  (∀ (s : State) (k : Docket), s.dev.runsHere k [(8, 15), (16, 19), (20, 20), (21, 21), (22, 22), (24, 31)] →
      u8 k.bytes 21 ≤ 1 → u64 k.bytes 8 % 4 = 0 → u64 k.bytes 24 % 4 = 0 → 0 < u32 k.bytes 16 → u32 k.bytes 16 ≤ 2 ^ 24 →
      0 < u8 k.bytes 22 → u8 k.bytes 22 ≤ 16 → u8 k.bytes 20 ≤ 1 → (s.dev.boltI (8 + u8 k.bytes 20)).active = true →
      let t := s.after k fun d => (d.onBoltI (8 + u8 k.bytes 20) fun b =>
        { b with jobs := b.jobs ++ [⟨dkOp k, k, u8 k.bytes 21 == 1, 0, none, none⟩] }).readHost k (u64 k.bytes 24)
          (16 * u8 k.bytes 22)
      exec (.compress k) s = .next t ∧ exec (.decompress k) s = .next t ∧ exec (.rawDecode k) s = .next t) ∧
    (∀ (s : State) (k : Docket), s.dev.runsHere k [(20, 20), (21, 21)] → u8 k.bytes 21 ≤ 2 →
      (s.dev.boltI (u8 k.bytes 20)).active = true →
      (8 ≤ u8 k.bytes 20 → u8 k.bytes 20 ≤ 9 → exec (.bolterFlush k) s = .next (s.after k fun d =>
        d.onBoltI (u8 k.bytes 20) fun b => { b with jobs := b.jobs ++ [⟨0x63, k, false, u8 k.bytes 21, none, none⟩] })) ∧
      (u8 k.bytes 20 < 8 → s.dev.recordFrame (u8 k.bytes 20) = none → exec (.bolterFlush k) s = .next (s.after k fun d =>
        d.finish8 k 0 (leBytes 4 ((d.pipeI (u8 k.bytes 20)).lastRecord.getD 0xFFFFFFFF)))) ∧
      (u8 k.bytes 20 < 8 → (s.dev.recordFrame (u8 k.bytes 20)).isSome = true → exec (.bolterFlush k) s =
        .next (s.after k fun d => d.onBoltI (u8 k.bytes 20) fun b => { b with flush := b.flush ++ [k] }))) ∧
    ∀ (s : State) (n : Fin 2) (j : BoltJob) (rest : List BoltJob), (s.dev.boltI (8 + n)).jobs = j :: rest →
      s.dev.isShed (428 + 2 * n) = false → s.dev.isShed (429 + 2 * n) = false →
      (j.op ≠ 0x63 → j.input = none → exec (.bolterJobComplete n) s = .next s) ∧
      (j.op = 0x63 → j.mode = 0 → exec (.bolterJobComplete n) s = .next (s.withDev (
        (s.dev.onBoltI (8 + n) fun b => { b with jobs := rest }).finish8 j.dk 0 (leBytes 4 0xFFFFFFFF)))) ∧
      (∀ (input : List Byte) (segs : List (Nat × Nat)), j.op = 0x62 → j.input = some input → j.segs = some segs →
        rawDecode input = none → exec (.bolterJobComplete n) s = .next (s.withDev (
          (s.dev.onBoltI (8 + n) fun b => { b with jobs := rest }).finish8 j.dk 0x8604 (leBytes 4 0)))) ∧
      ∀ (input : List Byte) (segs : List (Nat × Nat)), j.op = 0x60 → j.input = some input → j.segs = some segs →
        ∃ (t : State) (st len extra : Nat), exec (.bolterJobComplete n) s = .next t ∧ (st = 0 ∨ st = 0x8601) ∧
          len ≤ segRoom segs ∧ t.dev.tick.done8 = s.dev.tick.done8 ++
            [⟨j.dk, st, leBytes 4 len ++ leBytes 4 (crc32c input) ++ leBytes 1 extra, true, false, 1, true, false⟩]

/-- A raw lane writes one record for each frame that took a slot, or drops it when its overflow list runs short.
BOLTER_RECORD with no frame to record changes nothing. With one, whose record fits the slot and the free
overflow buffers, the frame is the lane's last record and its slot no longer fills; when the overflow buffers
run short, the record counts in DROPPED and its slot is freed. A mismatched block counts in MISMATCHES, with a
report of class 0x0059 and event 234 + lane, and the third within one hour of operation makes a raw lane write
stored blocks only. (12_bolter.md) -/
def Obligations.BolterRecords : Prop :=
  (∀ (s : State) (n : Fin 8) (bad : List Nat) (cyc : Nat), s.dev.recordFrame n = none →
      exec (.bolterRecord n bad cyc) s = .next s) ∧
    (∀ (s : State) (n : Fin 8) (f : Frame) (cyc : Nat), s.dev.recordFrame n = some f → (s.dev.boltI n).ovf = [] →
      s.dev.pipe.length = 8 → s.dev.bolt.length = 10 → s.dev.boltRings.length = 10 →
      ∃ t : State, exec (.bolterRecord n [] cyc) s = .next t ∧
        ((t.dev.pipeI n).lastRecord = some f.number ∧ (t.dev.boltI n).dropped = (s.dev.boltI n).dropped ∨
          (t.dev.boltI n).dropped = bump (s.dev.boltI n).dropped ∧
            (t.dev.pipeI n).lastRecord = (s.dev.pipeI n).lastRecord)) ∧
    (∀ (d : Dev) (n frame ns a b : Nat), n < 8 → n < d.bolt.length → (d.boltI n).mismAt = [a, b] →
      d.tick.tclk / 125000000 < b + 3600 → ((d.mismatch n frame ns).boltI n).storedOnly = true) ∧
    ∀ (d : Dev) (n frame ns : Nat), n < d.bolt.length →
      ((d.mismatch n frame ns).boltI n).mismatches = bump (d.boltI n).mismatches ∧
      (d.mismatch n frame ns).faults.reports =
        d.faults.reports ++ [⟨0x0059, ns, d.time.epoch.toNat, endpoint 0x0D n, [n, frame]⟩] ∧
      (234 + n, ns, d.time.epoch.toNat) ∈ (d.mismatch n frame ns).evt.raised

/-- Reading, stepping and trimming device time, and the step log. READ_TIME answers the time, epoch and tick count
of its cycle, and TIME_NS_READ gives the nanoseconds and latches the rest. STEP_TIME under the host source, or
of whole seconds under PPS, asks for a step that does not go below 0 s; at rank 2 the step moves device time by
whole nanoseconds, leaves the fraction and the tick count, counts the epoch up and enters the step log, which
keeps the last 16 and reads as parameter 0x0020. ADJUST_RATE within 500 ppm under the host source sets the
addend that takes effect after the close. READ_LAUNCH_RECORD answers target, difference and state of a slot.
HOLDOVER of a servo that follows PPS or the chain sets its flag and files a report of class 0x0089. (R480) -/
def Obligations.DeviceTimeCommands : Prop :=
  (∀ (s : State) (k : Docket) (cyc : Nat), s.dev.runsHere k [] →
      exec (.readTime k cyc) s = .next (s.after k fun d =>
        let t := d.timeAt cyc % (2 ^ 48 * 1000000000 * 2 ^ 32)
        d.finish k 0 (leBytes 6 (t / 2 ^ 32 / 1000000000) ++ leBytes 2 d.time.epoch.toNat ++
          leBytes 4 (t / 2 ^ 32 % 1000000000) ++ leBytes 4 (t % 2 ^ 32) ++ leBytes 8 d.tick.count.toNat))) ∧
    (∀ (s : State) (cyc : Nat), ∃ t : State, exec (.timeNsRead cyc) s = .next t ∧
        t.dev.out = .readData (s.dev.timeAt cyc % (2 ^ 48 * 1000000000 * 2 ^ 32) / 2 ^ 32 % 1000000000) :: s.dev.out ∧
        t.dev.time.fracL = BitVec.ofNat 32 (s.dev.timeAt cyc) ∧
        t.dev.time.secLo = BitVec.ofNat 32 (s.dev.timeAt cyc % (2 ^ 48 * 1000000000 * 2 ^ 32) / 2 ^ 32 / 1000000000)) ∧
    (∀ (s : State) (k : Docket) (cyc : Nat), s.dev.runsHere k [(8, 15)] →
      let n := toSigned 64 (u64 k.bytes 8)
      (s.dev.timeSource = 2 ∨ (s.dev.timeSource = 1 ∧ n % 1000000000 = 0)) → s.dev.tick.steps = [] →
      0 ≤ (s.dev.timeAt cyc : Int) + n * 2 ^ 32 →
      exec (.stepTime k cyc) s = .next (s.after k fun d =>
        (d.onTick fun t => { t with steps := t.steps ++ [(n, if d.timeSource = 1 then 2 else 1)] }).finish k 0)) ∧
    (∀ (d : Dev) (n : Int) (c : Nat), 0 ≤ (d.time.dev : Int) + n * 2 ^ 32 →
      (d.time.dev : Int) + n * 2 ^ 32 < 2 ^ 48 * 1000000000 * 2 ^ 32 →
      let t := d.applyStep n c
      (t.time.dev : Int) = d.time.dev + n * 2 ^ 32 ∧ t.time.epoch = d.time.epoch + 1 ∧ t.tick.count = d.tick.count ∧
        t.time.addend = d.time.addend ∧
        t.time.steps = lastN 16 (d.time.steps ++
          [⟨d.tick.count.toNat, n, t.time.dev / 2 ^ 32 / 1000000000, t.time.epoch.toNat, c⟩])) ∧
    (∀ d : Dev, d.readPar (pkey 0x12 0 0x20) = padTo 384 (d.time.steps.flatMap fun e =>
      leBytes 8 e.tick ++ leBytes 8 (ofSigned 64 e.offset) ++ leBytes 6 e.secs ++ leBytes 1 e.epoch ++ leBytes 1 e.cause)) ∧
    (∀ (s : State) (k : Docket), s.dev.runsHere k [(8, 11)] → (toSigned 32 (u32 k.bytes 8)).natAbs ≤ 500000000 →
      s.dev.timeSource = 2 →
      exec (.adjustRate k) s = .next (s.after k fun d => (d.onTime fun t =>
        { t with rate := toSigned 32 (u32 k.bytes 8) * 65536,
                 newAddend := some (BitVec.ofNat 40 (addendOf (toSigned 32 (u32 k.bytes 8) * 65536))) }).finish k 0)) ∧
    (∀ (s : State) (k : Docket), s.dev.runsHere k [(8, 8)] → u8 k.bytes 8 ≤ 63 →
      exec (.readLaunchRecord k) s = .next (s.after k fun d =>
        let x := d.slotI (u8 k.bytes 8)
        d.finish k 0 (leBytes 6 (secOf x.recTarget) ++ [0, 0] ++ leBytes 4 (nsOf x.recTarget) ++
          leBytes 4 (ofSigned 32 x.recDiff) ++ leBytes 1 (launchCode x.state)))) ∧
    ∀ (s : State) (cyc : Nat), (s.dev.timeSource = 1 ∨ s.dev.timeSource = 3) →
      (s.dev.time.servo = .locked ∨ s.dev.time.servo = .acquiring) →
      ∃ t : State, exec (.holdover cyc) s = .next t ∧ t.dev.time.servo = .holdover ∧ t.dev.time.holdoverF = true ∧
        t.dev.time.dev = s.dev.time.dev ∧
        t.dev.faults.reports = s.dev.faults.reports ++
          [⟨0x0089, s.dev.nsAt cyc, s.dev.time.epoch.toNat, 0x1200, []⟩]

/-- Captured edges, IEEE 1588 messages and launch-slot firings. A PPS_IN or HTP_IN edge at least 100 ms after the
last one stamped on its pin is stamped, less the cable correction, counted, and raises event 16 or 17; an
earlier one is ignored. On a port that is up of a device that may originate frames: a two-step Sync leaves its
stamp for its Follow_Up, which gives the offset sample of a device that follows the chain on its upstream port;
a Pdelay_Req is answered twice; the two answers to this device's own request give the port's delay; ANNOUNCE
keeps the master and its hops; SYNC_INTERVAL sends the port's request. A scheduled pin slot makes its two edges,
records departure and target, is fired, and raises event 24 + slot. (20_time.md) -/
def Obligations.TimeCapturesAndMessages : Prop :=
  (∀ (s : State) (edge cyc : Nat), s.dev.time.ppsLast.elim True (fun l => l + 100000000 ≤ s.dev.upNs cyc) →
      s.dev.timeSource ≠ 1 →
      exec (.ppsIn edge cyc) s = .next (s.withDev ((s.dev.onTime fun t =>
        { t with ppsCount := t.ppsCount + 1, ppsLast := some (s.dev.upNs cyc),
                 ppsCap := postmarkNat ((edge : Int) - s.dev.parI 2 0x12 0 8).toNat t.epoch.toNat
                   ((t.ppsCount + 1) % 2 ^ 32) 0xC0 }).raise 16 (s.dev.nsAt cyc)))) ∧
    (∀ (s : State) (edge cyc : Nat), s.dev.time.htpLast.elim True (fun l => l + 100000000 ≤ s.dev.upNs cyc) →
      exec (.htpIn edge cyc) s = .next (s.withDev ((s.dev.onTime fun t =>
        { t with htpCount := t.htpCount + 1, htpLast := some (s.dev.upNs cyc),
                 htpCap := postmarkNat ((edge : Int) - s.dev.parI 2 0x12 0 9).toNat t.epoch.toNat
                   ((t.htpCount + 1) % 2 ^ 32) 0xC1 }).raise 17 (s.dev.nsAt cyc)))) ∧
    (∀ (s : State) (edge cyc l : Nat), s.dev.upNs cyc < l + 100000000 →
      (s.dev.time.ppsLast = some l → exec (.ppsIn edge cyc) s = .next s) ∧
      (s.dev.time.htpLast = some l → exec (.htpIn edge cyc) s = .next s)) ∧
    (∀ (s : State) (p : Fin 2) (n cyc : Nat) (t2 t1 corr : Int), s.dev.mayOriginate = true → s.dev.chainUp p = true →
      s.dev.time.ptp.length = 2 →
      exec (.syncMessage p true n t2 cyc) s = .next (s.withDev (s.dev.onPtpI p fun x => { x with syncT2 := some (n, t2) })) ∧
      exec (.syncMessage p false n t2 cyc) s = .next s ∧
      ((s.dev.ptpI p).syncT2 = some (n, t2) → s.dev.timeSource = 3 → s.dev.timeMaster.isSome = true →
        s.dev.chain.upstream = p →
        exec (.followUp p n t1 corr cyc) s = .next (s.withDev (
          (s.dev.onPtpI p fun x => { x with syncT2 := none }).onTick fun t => { t with samples := t.samples ++
            [(t2 - s.dev.parI 4 0x12 0 (0x10 + p) - t1 - (s.dev.ptpI p).delayPs - corr, 3)] })))) ∧
    (∀ (s : State) (p : Fin 2) (n : Nat) (a b c e : Int), s.dev.mayOriginate = true → s.dev.chainUp p = true →
      exec (.pdelayReq p n b c) s = .next (s.withDev ((s.dev.emit (.ptp p 3 n b)).emit (.ptp p 10 n c))) ∧
      ((s.dev.ptpI p).t1 = some (n, a) → exec (.pdelayResp p n e b) s = .next (s.withDev (
        s.dev.onPtpI p fun x => { x with t2 := some (n, b), t4 := some (n, e) }))) ∧
      ((s.dev.ptpI p).t1 = some (n, a) → (s.dev.ptpI p).t2 = some (n, b) → (s.dev.ptpI p).t4 = some (n, e) →
        exec (.pdelayRespFollowUp p n c) s = .next (s.withDev (s.dev.onPtpI p fun x =>
          { x with delayPs := ((e - a) - (c - b)) / 2, t1 := none, t2 := none, t4 := none }))) ∧
      exec (.syncInterval p true a) s = .next (s.withDev (
        (s.dev.onPtpI p fun x => { x with t1 := some (x.pseqId, a), t2 := none, t4 := none,
                                          pseqId := (x.pseqId + 1) % 65536 }).emit (.ptp p 2 (s.dev.ptpI p).pseqId a)))) ∧
    (∀ (s : State) (p : Fin 2) (m hops : Nat), s.dev.mayOriginate = true → s.dev.chainUp p = true →
      ∃ t : State, exec (.announce p m hops) s = .next t ∧ (p.val, m, hops) ∈ t.dev.chain.masters ∧
        t.dev.chain.map = s.dev.chain.map) ∧
    ∀ (s : State) (n : Fin 64) (at' : Int), (s.dev.slotI n).state = .armed → (s.dev.slotI n).scheduled = true →
      (s.dev.slotI n).use = 0 → s.dev.lslot n 1 = 0 → s.dev.time.slots.length = 64 →
      ∃ t : State, exec (.launchSlotFire n at') s = .next t ∧ (t.dev.slotI n).state = .fired ∧
        (t.dev.slotI n).recTarget = (s.dev.slotI n).target ∧ (t.dev.slotI n).recDiff = at' - (s.dev.slotI n).target ∧
        (t.dev.slotI n).fired = true ∧
        (∃ low, t.dev.out = .pin (s.dev.slotI n).ball low :: .pin (s.dev.slotI n).ball (!low) :: s.dev.out) ∧
        t.dev.evt.raised = s.dev.evt.raised ++ [(24 + n.val, at'.toNat, s.dev.time.epoch.toNat)]

/-- Hellos, absences and ring breaks keep the chain map. HELLO_TIMER broadcasts this device's address, time source
and servo state. A hello of another device on a port that is up marks its address present with hops by that
port, source and servo, and one from the next device names the port's neighbour; a hello of another device with
this device's own address is a conflict, with a report of class 0x0090 and event 301 when it is new.
ADDRESS_ABSENT takes the address out of the map. RING_BREAK breaks the ring, counts a failover and raises event
303. (21_chain.md) -/
def Obligations.ChainMapCommands : Prop :=
  (∀ s : State, exec .helloTimer s = .next (s.withDev (s.dev.broadcast 6 (leBytes 1 s.dev.addressByte ++
      leBytes 1 s.dev.timeSource ++ leBytes 1 (servoCode s.dev.time.servo))))) ∧
    (∀ (s : State) (p : Fin 2) (a hops src servo cyc : Nat), s.dev.chainUp p = true → a < 256 → s.dev.address ≠ some a →
      s.dev.chain.map.length = 256 → s.dev.chain.ports.length = 2 →
      ∃ t : State, exec (.hello p a hops src servo cyc) s = .next t ∧ (t.dev.mapEntry a).present = true ∧
        (t.dev.mapEntry a).source = src ∧ (t.dev.mapEntry a).servo = servo ∧
        (t.dev.mapEntry a).h0 = (if p = 0 then hops else (s.dev.mapEntry a).h0) ∧
        (t.dev.mapEntry a).h1 = (if p = 1 then hops else (s.dev.mapEntry a).h1) ∧
        (hops ≤ 1 → (t.dev.cportI p).neighbour = BitVec.ofNat 8 a ∧ (t.dev.cportI p).nbValid = true) ∧
        ∀ b, b ≠ a → t.dev.mapEntry b = s.dev.mapEntry b) ∧
    (∀ (s : State) (p : Fin 2) (a hops src servo cyc : Nat), s.dev.chainUp p = true → a < 256 → s.dev.address = some a →
      s.dev.chain.map.length = 256 → ∃ t : State, exec (.hello p a hops src servo cyc) s = .next t ∧
        t.dev.chain.conflict = true ∧ (t.dev.mapEntry a).conflict = true ∧ t.dev.mayOriginate = false ∧
        (s.dev.chain.conflict = false → t.dev.faults.reports = s.dev.faults.reports ++
          [⟨0x0090, s.dev.nsAt cyc, s.dev.time.epoch.toNat, 0x1300 + p, [a]⟩] ∧
          (301, s.dev.nsAt cyc, s.dev.time.epoch.toNat) ∈ t.dev.evt.raised)) ∧
    (∀ (s : State) (p : Fin 2) (a hops src servo cyc : Nat), s.dev.chainUp p = false →
      exec (.hello p a hops src servo cyc) s = .next s) ∧
    (∀ (s : State) (a : Fin 256) (cyc : Nat), s.dev.address ≠ some a.val → s.dev.chain.map.length = 256 →
      ∃ t : State, exec (.addressAbsent a cyc) s = .next t ∧ t.dev.mapEntry a = ChainEntry.absent ∧
        ∀ b, b ≠ a.val → t.dev.mapEntry b = s.dev.mapEntry b) ∧
    ∀ (s : State) (p : Fin 2) (a b cyc : Nat), ∃ t : State, exec (.ringBreak p a b cyc) s = .next t ∧
      t.dev.chain.failovers = bump s.dev.chain.failovers ∧
      (303, s.dev.nsAt cyc, s.dev.time.epoch.toNat) ∈ t.dev.evt.raised

/-- A courier frame is taken, passed on or discarded by class, hops, address and check. A frame on a port whose link
is down, and a broadcast of this device's own, change nothing. A class or length out of range counts as a bad
frame, and no hops left as an expired one. A frame for this device with a good check is taken. A frame for
another device with hops left goes on by the other port with one hop less, when that port is up; with a bad
check it is aborted there and counts as bad. A broadcast seen within the last millisecond counts as a duplicate;
a new one is remembered and goes on. A frame of a proxy stream is written into its pool. (21_chain.md) -/
def Obligations.CourierFrames : Prop :=
  (∀ (s : State) (f : Courier) (cyc : Nat),
      (s.dev.chainUp f.port = false → exec (.courierFrame f cyc) s = .next s) ∧
      (s.dev.chainUp f.port = true → (12 ≤ f.cls ∨ courierMax f.cls < f.payload.length) →
        exec (.courierFrame f cyc) s = .next (s.withDev (
          s.dev.onCportI f.port fun x => { x with framesBad := bump x.framesBad }))) ∧
      (s.dev.chainUp f.port = true → f.cls < 12 → f.payload.length ≤ courierMax f.cls → f.hops = 0 →
        exec (.courierFrame f cyc) s = .next (s.withDev (
          s.dev.onCportI f.port fun x => { x with hopsExp := bump x.hopsExp })))) ∧
    (∀ (s : State) (f : Courier) (cyc : Nat), s.dev.chainUp f.port = true → f.cls < 12 →
      f.payload.length ≤ courierMax f.cls → 0 < f.hops → f.bcast = false →
      (s.dev.mayOriginate = true → s.dev.address = some f.dst → f.crcOk = true → f.resent = false →
        ∃ t : State, exec (.courierFrame f cyc) s = .next t ∧
          (f.src, f.cls, f.seq, s.dev.upNs cyc) ∈ t.dev.chain.taken ∧
          t = (s.withDev (s.dev.onChain fun c => { c with taken := t.dev.chain.taken }))) ∧
      (s.dev.address ≠ some f.dst → s.dev.chainUp (1 - f.port) = true →
        (f.crcOk = true → exec (.courierFrame f cyc) s = .next (s.withDev (
          s.dev.putFrame (1 - f.port) f.cls false f.resent f.src f.dst (f.hops - 1) f.seq f.payload))) ∧
        (f.crcOk = false → exec (.courierFrame f cyc) s = .next (s.withDev (
          (s.dev.emit (.courierAbort (1 - f.port))).onCportI f.port fun x =>
            { x with framesBad := bump x.framesBad })))) ∧
      (s.dev.address ≠ some f.dst → s.dev.chainUp (1 - f.port) = false → f.crcOk = true →
        exec (.courierFrame f cyc) s = .next s)) ∧
    (∀ (s : State) (f : Courier) (cyc : Nat), s.dev.chainUp f.port = true → f.cls < 12 →
      f.payload.length ≤ courierMax f.cls → 0 < f.hops → f.bcast = true → s.dev.chain.conflict = false →
      (s.dev.address = some f.src → exec (.courierFrame f cyc) s = .next s) ∧
      (s.dev.address ≠ some f.src → recently s.dev.chain.seen f (s.dev.upNs cyc) = true →
        exec (.courierFrame f cyc) s = .next (s.withDev (
          s.dev.onChain fun c => { c with duplicates := bump c.duplicates }))) ∧
      (s.dev.address ≠ some f.src → recently s.dev.chain.seen f (s.dev.upNs cyc) = false → f.crcOk = true →
        s.dev.chainUp (1 - f.port) = true → ∃ seen, (f.src, f.cls, f.seq, s.dev.upNs cyc) ∈ seen ∧
          exec (.courierFrame f cyc) s = .next (s.withDev (
            (s.dev.onChain fun c => { c with seen := seen }).putFrame (1 - f.port) f.cls true f.resent f.src f.dst
              (f.hops - 1) f.seq f.payload)))) ∧
    ∀ (s : State) (x : Proxy) (off : Nat) (bytes : List Byte) (last : Bool), s.dev.chain.proxies = [x] →
      x.stopped = false → x.dst / 256 = 0x0F →
      exec (.proxyFrame x.num off bytes last) s = .next (s.withDev (s.dev.memWrite (x.dst % 256) off bytes))

/-- Forwarded dockets, their receipts and timeouts, broadcasts, remote reports and echoes. A docket of group 0x0_
acts on the local host attachment: with FORWARD set it is refused with 0x8005, without it it is not forwarded. A
docket forwarded to this device joins the chain queue, once for each source and sequence. A receipt for a
forwarded docket answers it with flag [3]; one for no outstanding docket counts as late; a timeout answers with
0x0603, reason 4 and cause 4. EVENT_BROADCAST records the broadcast and raises event 302, REMOTE_FAULT_REPORT is
held for the collector, CHAIN_ECHO waits for its reply, which ends it with the round trip within 1 ms and with
0x8802 later, and CHAIN_MAP writes the map to host memory. (R352) -/
def Obligations.ForwardedDockets : Prop :=
  (∀ (c : Instr) (k : Docket) (used : List (Nat × Nat)) (s : State), docketRow c = some (k, used) → dkOp k < 0x10 →
      s.dev.canBegin k = true → s.dev.store.holes.length < 384 →
      (dkForward k = true → exec c s = .next (s.after k fun d => d.finish k 0x8005)) ∧
      (dkForward k = false → s.dev.forwards k = false)) ∧
    (∀ (s : State) (src seq : Nat) (b : List Byte), s.dev.mayOriginate = true → b.length = 64 →
      knownOpcode (u8 b 0) = true → (src, seq) ∉ s.dev.chain.ran → s.dev.chain.queue = [] →
      ∃ ran, (src, seq) ∈ ran ∧ exec (.forwardedDocket src seq b) s = .next (s.withDev (
        s.dev.onChain fun c => { c with ran := ran, queue := [⟨src, seq, b, false⟩] }))) ∧
    (∀ (s : State) (src seq : Nat) (b : List Byte), (src, seq) ∈ s.dev.chain.ran →
      exec (.forwardedDocket src seq b) s = .next s) ∧
    (∀ (s : State) (k : Docket) (seq : Nat) (r : List Byte), s.dev.chain.fwd = [⟨seq, k⟩] → dkOp k ≠ 0x24 →
      r.length = 32 →
      exec (.forwardedReceipt (u8 k.bytes 4) seq r) s = .next (s.withDev (
        (s.dev.onChain fun c => { c with fwd := [] }).answer
          ⟨k, u16 r 0, r.drop 8, true, bit (u8 r 7) 4, 1, true, true⟩)) ∧
      exec (.forwardTimeout seq) s = .next (s.withDev (
        (s.dev.onChain fun c => { c with fwd := [] }).answer ⟨k, 0x0603, [4], true, false, 4, true, false⟩))) ∧
    (∀ (s : State) (src seq : Nat) (r : List Byte), (∀ x ∈ s.dev.chain.fwd, x.seq ≠ seq) →
      exec (.forwardedReceipt src seq r) s = .next (s.withDev (
        s.dev.onChain fun c => { c with lateRcpt := bump c.lateRcpt })) ∧
      exec (.forwardTimeout seq) s = .next s) ∧
    (∀ (s : State) (src code cyc : Nat) (b : List Byte), exec (.eventBroadcast src code b cyc) s = .next (s.withDev (
      (s.dev.onChain fun c => { c with bcasts := lastN 16 (c.bcasts ++
        [(src, s.dev.time.epoch.toNat, code, s.dev.nsAt cyc, padTo 16 b)]) }).raise 302 (s.dev.nsAt cyc)))) ∧
    (∀ (s : State) (src cls ns ep endp cyc : Nat) (b : List Byte), s.dev.mayOriginate = true →
      exec (.remoteFaultReport src cls ns ep endp b cyc) s = .next (s.withDev (
        s.dev.onChain fun c => { c with remote := c.remote ++ [⟨src, cls, ns, ep, endp, b, s.dev.nsAt cyc⟩] }))) ∧
    (∀ (s : State) (k : Docket), s.dev.runsHere k [(8, 8)] → exec (.chainEcho k) s = .next (s.after k fun d =>
      (d.sendTo 7 (u8 k.bytes 8) (leBytes 2 (d.chain.seqs.getD 7 0) ++ [0])).onChain fun c =>
        { c with echoes := c.echoes ++ [(d.chain.seqs.getD 7 0, k, d.upNs 0)] })) ∧
    (∀ (s : State) (k : Docket) (seq sent elapsed : Nat), s.dev.chain.echoes = [(seq, k, sent)] →
      exec (.echo (u8 k.bytes 8) seq true elapsed) s = .next (s.withDev (
        let d := s.dev.onChain fun c => { c with echoes := [] }
        if elapsed ≤ 1000000 then d.finish k 0 (leBytes 4 elapsed) else d.finish k 0x8802))) ∧
    (∀ (s : State) (src seq elapsed : Nat), exec (.echo src seq false elapsed) s = .next (s.withDev (
      s.dev.sendTo 7 src (leBytes 2 seq ++ [1])))) ∧
    ∀ (s : State) (k : Docket), s.dev.runsHere k [(8, 19)] → u64 k.bytes 8 % 4 = 0 → 4096 ≤ u32 k.bytes 16 →
      exec (.chainMap k) s = .next (s.after k fun d =>
        (d.hostWrite (u64 k.bytes 8) d.chainMapBytes).finish k 0 (leBytes 4 4096))

/-- Ledger, health record, firmware, chain address lock and calibration-data reset dockets. READ_FAULT_LEDGER writes
as many of the oldest entries as the buffer holds and answers their number and whether more are left;
CLEAR_FAULT_LEDGER removes the oldest entries. READ_HEALTH_RECORD writes the 4,096-byte view. STAGE_FIRMWARE
waits for the image; an accepted image goes to the slot that does not run, with event 7, and any other ends with
0x8901 (whether the key is fused and the signature verifies are free values, log 46). Inside the presence
window, FIRMWARE_ACTIVATION of a staged image names its slot in the directory and stops the clerks,
ACTIVATION_FALLBACK brings the directory back and answers 2, CHAIN_ADDRESS_LOCK of a free address waits for rank
9, and CALIBRATION_DATA_RESET erases the results of its scopes. SECURITY_MINIMUM_RAISE after an hour raises the
minimum to the image's number and never lowers it. (14_dockets.md, 23_health.md, 24_startup.md) -/
def Obligations.LedgerHealthAndFirmwareDockets : Prop :=
  (∀ (s : State) (k : Docket), s.dev.runsHere k [(8, 19)] → u64 k.bytes 8 % 4 = 0 → 64 ≤ u32 k.bytes 16 →
      exec (.readFaultLedger k) s = .next (s.after k fun d =>
        let n := min (u32 k.bytes 16 / 64) s.ledger.entries.length
        (d.hostWrite (u64 k.bytes 8) ((s.ledger.entries.take n).flatMap (·.bytes))).finish k 0
          (leBytes 4 n ++ leBytes 1 (decide (n < s.ledger.entries.length)).toNat))) ∧
    (∀ (s : State) (k : Docket), s.dev.runsHere k [(8, 11)] →
      exec (.clearFaultLedger k) s = .next { s.after k fun d => d.finish k 0 with
        ledger := { s.ledger with entries := s.ledger.entries.drop (u32 k.bytes 8) } }) ∧
    (∀ (s : State) (k : Docket), s.dev.runsHere k [(8, 19)] → u64 k.bytes 8 % 4 = 0 → 4096 ≤ u32 k.bytes 16 →
      exec (.readHealthRecord k) s = .next (s.after k fun d =>
        (d.hostWrite (u64 k.bytes 8) d.healthRecord).finish k 0 (leBytes 4 4096))) ∧
    (∀ (s : State) (k : Docket), s.dev.runsHere k [(8, 19)] → u64 k.bytes 8 % 4 = 0 → 0 < u32 k.bytes 16 →
      u32 k.bytes 16 ≤ 2 ^ 24 → s.dev.boot.activating = false →
      exec (.stageFirmware k) s = .next (s.after k fun d => d.readHost k (u64 k.bytes 8) (u32 k.bytes 16))) ∧
    (∀ (s : State) (k : Docket) (addr : Nat) (b : List Byte) (rest : List Waiting), k.sq < 64 → dkOp k = 0x93 →
      s.dev.host.waitData = ⟨k, addr, b.length⟩ :: rest → s.dev.boot.activating = false →
      exec (.hostReadComplete k.sq k.idx b) s = .next (s.withDev (
        let d := s.dev.onHost fun h => { h with waitData := rest }
        if accepted s.dev.boot.minSecurity.toNat (imageOfBytes b) = true then
          ((d.onBoot fun x => { x with staged := some (imageOfBytes b),
                                       images := x.images.set (1 - x.slot) (some (imageOfBytes b)) }).raiseNow 7).finish k 0
            (leBytes 4 (imageOfBytes b).version)
        else d.finish k 0x8901))) ∧
    (∀ (s : State) (k : Docket), s.dev.runsHere k [] → s.dev.host.presOpen = true → s.dev.boot.staged.isSome = true →
      exec (.firmwareActivation k) s = .next (s.after k fun d =>
        ((d.onBoot fun b => { b with prevDirs := b.dirs, dirs := rewriteDirectory b.dirs (1 - b.slot), activating := true,
                                     actDocket := some k, actAt := d.tick.tclk }).onHost fun h =>
            { h with ready := false }).raiseNow 7)) ∧
    (∀ (s : State) (k : Docket), s.dev.boot.activating = true → s.dev.boot.actDocket = some k →
      ∃ w, exec .activationFallback s = .next (s.withDev (
        ((((s.dev.onTick fun t => { t with w1c := w }).onBoot fun b =>
          { b with dirs := b.prevDirs, fallback := true, activating := false, actDocket := none, prevDirs := [] }).onHost
            fun h => { h with ready := true }).raiseNow 7).finish k 0 (leBytes 1 2)))) ∧
    (∀ (s : State) (k : Docket), s.dev.runsHere k [(8, 8)] → s.dev.host.presOpen = true →
      (s.dev.mapEntry (u8 k.bytes 8)).present = false →
      exec (.chainAddressLock k) s = .next (s.after k fun d => d.onTick fun t =>
        { t with act9 := t.act9 ++ [.lockAddress k (u8 k.bytes 8)] })) ∧
    (∀ (s : State) (k : Docket), s.dev.runsHere k [(8, 8)] → s.dev.host.presOpen = true → 0 < u8 k.bytes 8 →
      u8 k.bytes 8 < 16 →
      exec (.calibrationDataReset k) s = .next (s.after k fun d => (d.eraseCalibration (u8 k.bytes 8)).finish k 0)) ∧
    (∀ (s : State) (k : Docket) (c : Instr), s.dev.host.presOpen = false →
      ((c = .firmwareActivation k ∧ s.dev.runsHere k []) ∨
        ((c = .chainAddressLock k ∨ c = .calibrationDataReset k ∨ c = .storeSanitize k) ∧ s.dev.runsHere k [(8, 8)]) ∨
        (c = .storeKeyInstallation k ∧ s.dev.runsHere k [(8, 19)])) →
      exec c s = .next (s.after k fun d => d.finish k 0x0401)) ∧
    ∀ s : State, (3600 ≤ s.dev.health.imageSec → exec .securityMinimumRaise s = .next (s.withDev (
        s.dev.onBoot fun b => { b with minSecurity := if b.minSecurity < b.security then b.security else b.minSecurity }))) ∧
      (s.dev.health.imageSec < 3600 → exec .securityMinimumRaise s = .next s)

/-- Memory errors, trips, clerk failover and the hourly records. A corrected memory error is counted by kind and, in
frame memory, against its page; an uncorrectable one counts and files a report of class 0x00A1. ECC_HOUR marks
the pages with 16 corrections and starts the counts anew, with a report of class 0x00A0 above 1,000.
SUPPLY_OUT_OF_RANGE, and a sensor at or above 115 °C, are trips of the running tick. A failing clerk that is
active counts a failover, files a report of class 0x00A8 and raises event 8; a clerk that is not active changes
nothing. HEALTH_RECORD_WRITE keeps the counts as they stand and advances the hours when an hour has gone; SCRUB
counts a pass. (23_health.md, 24_startup.md) -/
def Obligations.ErrorsTripsAndClerks : Prop :=
  (∀ (s : State) (c pg cyc : Nat), s.dev.dram.hourPage = [] →
      exec (.memoryEccError (.frame c pg) true cyc) s = .next (s.withDev (
        (s.dev.onHealth fun h => { h with corrDram := bump h.corrDram, hourDram := h.hourDram + 1 }).onDram fun x =>
          { x with hourPage := [(c, pg, 1)] }))) ∧
    (∀ (s : State) (n cyc : Nat), exec (.memoryEccError (.clerk n) true cyc) s = .next (s.withDev (
        s.dev.onHealth fun h => { h with corrSram := bump h.corrSram, hourSram := h.hourSram + 1 }))) ∧
    (∀ (s : State) (p c b cyc : Nat), exec (.memoryEccError (.granary p c b) false cyc) s = .next (s.withDev (
        ((((s.dev.onHealth fun h => { h with uncorr := bump h.uncorr }).report 0x00A1 healthEp (s.dev.nsAt cyc)
          [1, p, c, b]).onMillI p fun x => { x with poison := x.poison ++ [c] }).onTick fun t =>
            { t with bad := t.bad ++ [(3, 64 * p + 16 * c + b)] })))) ∧
    (∀ s : State, s.dev.health.hourDram ≤ 1000 → s.dev.health.hourSram ≤ 1000 →
      ∃ marked, exec .eccHour s = .next (s.withDev (
        (s.dev.onHealth fun h => { h with hourDram := 0, hourSram := 0 }).onDram fun x =>
          { x with hourPage := [], marked := marked })) ∧
        (∀ p ∈ s.dev.dram.marked, p ∈ marked) ∧
        ∀ c pg n, (c, pg, n) ∈ s.dev.dram.hourPage → 16 ≤ n → (c, pg) ∈ marked) ∧
    (∀ s : State, 1000 < s.dev.health.hourDram → s.dev.health.hourSram ≤ 1000 → ∃ t : State, exec .eccHour s = .next t ∧
      t.dev.faults.reports = s.dev.faults.reports ++
        [⟨0x00A0, s.dev.nowNs, s.dev.time.epoch.toNat, 0x1500, [0, s.dev.health.hourDram]⟩]) ∧
    (∀ (s : State) (cyc : Nat), exec (.supplyOutOfRange cyc) s = .next (s.withDev (
        s.dev.onTick fun t => { t with trips := t.trips ++ [(.supply, s.dev.timeAt cyc)] }))) ∧
    (∀ (s : State) (n : Fin 13) (tj : Int) (cyc : Nat), s.dev.gov.tj.length = 13 →
      ∃ t : State, exec (.thermalTrip n tj cyc) s = .next t ∧ t.dev.gov.tj = s.dev.gov.tj.set n tj ∧
        t.dev.gov.hot = decide (100 < t.dev.hottest) ∧
        t.dev.tick.trips = s.dev.tick.trips ++ (if 115 ≤ tj then [(.thermal, s.dev.timeAt cyc)] else [])) ∧
    (∀ (s : State) (n : Fin 4) (ok : Bool) (cyc : Nat), s.dev.health.active.getD n false = true →
      ∃ (t : State) (more : List Report), exec (.clerkWatchdog n ok cyc) s = .next t ∧
        t.dev.health.failovers = bump s.dev.health.failovers ∧
        t.dev.faults.reports = s.dev.faults.reports ++
          ⟨0x00A8, s.dev.nsAt cyc, s.dev.time.epoch.toNat, 0x1500, [n]⟩ :: more ∧
        (ok = false → more = [⟨0x00A9, s.dev.nsAt cyc, s.dev.time.epoch.toNat, 0x1500, [n]⟩]) ∧
        (8, s.dev.nsAt cyc, s.dev.time.epoch.toNat) ∈ t.dev.evt.raised) ∧
    (∀ (s : State) (n : Fin 4) (ok : Bool) (cyc : Nat), s.dev.health.active.getD n false = false →
      exec (.clerkWatchdog n ok cyc) s = .next s) ∧
    (∀ (s : State) (hourly : Bool), ∃ t : State, exec (.healthRecordWrite hourly) s = .next t ∧
      t.dev.health.kept = t.dev.health.life ∧
      t.dev.health.life.hours = s.dev.health.life.hours + (if hourly then 1 else 0) ∧
      t.dev.health.imageSec = s.dev.health.imageSec + (if hourly then 3600 else 0) ∧
      t = (s.withDev (s.dev.onHealth fun _ => t.dev.health))) ∧
    ∀ s : State, exec .scrub s = .next (s.withDev (s.dev.onHealth fun h => { h with scrubs := h.scrubs + 1 }))

/-- A read of a register with read-clear fields returns its word and clears exactly those fields. For every register
that has fields of access code RC, a read returns the word the register held and sets exactly those fields to 0:
dead letters lost, BAR2 errors, tick overruns, envelopes late and returned, and the counters of lanes, captures,
taps, statistics, mills, encode and decode cores, bolter lanes, store, frame memory, outputs, audio ports, time,
chain and chain ports, events, the fault ledger, and health. Everything else stays. FAULT_STATUS shows the lost
reports, both halts and the entries held. A read that is not aligned to 4 bytes completes with Completer Abort
and logs a correctable error. (00_scope.md, 01_architecture.md, 13_host_queues.md, 23_health.md) -/
def Obligations.ReadClearRegisters : Prop :=
  (∀ s : State, exec (.readClearCounter 0x28) s = .next (s.withDev (
        (s.dev.onHost fun h => { h with dlogLost := 0 }).emit (.readData (s.reg 0x28))))) ∧
  (∀ s : State, exec (.readClearCounter 0x30) s = .next (s.withDev (
        (s.dev.onHost fun h => { h with bar2Err := 0 }).emit (.readData (s.reg 0x30))))) ∧
  (∀ s : State, exec (.readClearCounter 0x1010) s = .next (s.withDev (
        (s.dev.onTick fun x => { x with overruns := 0 }).emit (.readData (s.reg 0x1010))))) ∧
  (∀ s : State, exec (.readClearCounter 0x3000) s = .next (s.withDev (
        (s.dev.onEnv fun x => { x with late := 0, returned := 0 }).emit (.readData (s.reg 0x3000))))) ∧
  (∀ (s : State) (n : Nat), n < 64 → exec (.readClearCounter (BitVec.ofNat 24 (0x4004 + 0x40 * n))) s = .next (s.withDev (
        (s.dev.onLaneI n fun x => { x with codeViol := 0, dispErr := 0 }).emit
          (.readData (s.reg (0x4004 + 0x40 * n)))))) ∧
  (∀ (s : State) (n : Nat), n < 8 → exec (.readClearCounter (BitVec.ofNat 24 (0x6004 + 0x40 * n))) s = .next (s.withDev (
        (s.dev.onCapI n fun x => { x with dropped := 0, repaired := 0, retries := 0 }).emit
          (.readData (s.reg (0x6004 + 0x40 * n)))))) ∧
  (∀ (s : State) (n : Nat), n < 8 → exec (.readClearCounter (BitVec.ofNat 24 (0xA00C + 0x20 * n))) s = .next (s.withDev (
        (s.dev.onPipeI n fun x => { x with slips := 0 }).emit
          (.readData (s.reg (0xA00C + 0x20 * n)))))) ∧
  (∀ (s : State) (n : Nat), n < 8 → exec (.readClearCounter (BitVec.ofNat 24 (0xA010 + 0x20 * n))) s = .next (s.withDev (
        (s.dev.onPipeI n fun x => { x with missed := 0 }).emit
          (.readData (s.reg (0xA010 + 0x20 * n)))))) ∧
  (∀ (s : State) (n : Nat), n < 8 → exec (.readClearCounter (BitVec.ofNat 24 (0xB014 + 0x40 * n))) s = .next (s.withDev (
        (s.dev.onMillI n fun x => { x with faults := 0, saturated := 0 }).emit
          (.readData (s.reg (0xB014 + 0x40 * n)))))) ∧
  (∀ (s : State) (n : Nat), n < 8 → exec (.readClearCounter (BitVec.ofNat 24 (0xB018 + 0x40 * n))) s = .next (s.withDev (
        (s.dev.onMillI n fun x => { x with collisions := 0, reissued := 0 }).emit
          (.readData (s.reg (0xB018 + 0x40 * n)))))) ∧
  (∀ (s : State) (n : Nat), n < 32 → exec (.readClearCounter (BitVec.ofNat 24 (0xC00C + 0x40 * n))) s = .next (s.withDev (
        (s.dev.onEncI n fun x => { x with exhausted := 0, capExceeded := 0, keyReq := 0, filler := 0 }).emit
          (.readData (s.reg (0xC00C + 0x40 * n)))))) ∧
  (∀ (s : State) (n : Nat), n < 2 → exec (.readClearCounter (BitVec.ofNat 24 (0xC804 + 0x40 * n))) s = .next (s.withDev (
        (s.dev.onDecI n fun x => { x with discarded := 0, errors := 0, hashBad := 0 }).emit
          (.readData (s.reg (0xC804 + 0x40 * n)))))) ∧
  (∀ (s : State) (n : Nat), n < 8 → exec (.readClearCounter (BitVec.ofNat 24 (0xD004 + 0x40 * n))) s = .next (s.withDev (
        (s.dev.onBoltI n fun x => { x with stored := 0, mismatches := 0, dropped := 0 }).emit
          (.readData (s.reg (0xD004 + 0x40 * n)))))) ∧
  (∀ s : State, exec (.readClearCounter 0xE010) s = .next (s.withDev (
        (s.dev.onStore fun x => { x with readFailed := 0, relocated := 0, lostCnt := 0, recovClips := 0 }).emit (.readData (s.reg 0xE010))))) ∧
  (∀ s : State, exec (.readClearCounter 0xF014) s = .next (s.withDev (
        (s.dev.onDram fun x => { x with panicsCnt := 0, forcedRef := 0, retrForced := 0 }).emit (.readData (s.reg 0xF014))))) ∧
  (∀ (s : State) (n : Nat), n < 4 → exec (.readClearCounter (BitVec.ofNat 24 (0x10008 + 0x40 * n))) s = .next (s.withDev (
        (s.dev.onRasterI n fun x => { x with missed := 0, substituted := 0, torn := 0, underflow := 0 }).emit
          (.readData (s.reg (0x10008 + 0x40 * n)))))) ∧
  (∀ (s : State) (n : Nat), n < 28 → exec (.readClearCounter (BitVec.ofNat 24 (0x1100C + 0x20 * n))) s = .next (s.withDev (
        (s.dev.onPortI n fun x =>
          { x with underruns := 0, discarded := 0, glitches := 0, zcTimeouts := 0, csErrors := 0 }).emit
          (.readData (s.reg (0x1100C + 0x20 * n)))))) ∧
  (∀ (s : State) (n : Nat), n < 28 → exec (.readClearCounter (BitVec.ofNat 24 (0x11010 + 0x20 * n))) s = .next (s.withDev (
        (s.dev.onPortI n fun x => { x with parity := 0 }).emit
          (.readData (s.reg (0x11010 + 0x20 * n)))))) ∧
  (∀ s : State, exec (.readClearCounter 0x12010) s = .next (s.withDev (
        (s.dev.onTime fun x => { x with outliers := 0 }).emit (.readData (s.reg 0x12010))))) ∧
  (∀ s : State, exec (.readClearCounter 0x13004) s = .next (s.withDev (
        (s.dev.onChain fun x => { x with duplicates := 0, failovers := 0, lateRcpt := 0 }).emit (.readData (s.reg 0x13004))))) ∧
  (∀ (s : State) (n : Nat), n < 2 → exec (.readClearCounter (BitVec.ofNat 24 (0x13014 + 0x10 * n))) s = .next (s.withDev (
        (s.dev.onCportI n fun x => { x with framesBad := 0, hopsExp := 0, resent := 0 }).emit
          (.readData (s.reg (0x13014 + 0x10 * n)))))) ∧
  (∀ s : State, exec (.readClearCounter 0x14040) s = .next (s.withDev (
        (s.dev.onEvt fun x => { x with spurious := 0, wakes := 0 }).emit (.readData (s.reg 0x14040))))) ∧
  (∀ s : State, exec (.readClearCounter 0x16000) s = .next (s.withDev (
        (s.dev.onHealth fun x => { x with failovers := 0 }).emit (.readData (s.reg 0x16000))))) ∧
  (∀ s : State, exec (.readClearCounter 0x16004) s = .next (s.withDev (
        (s.dev.onHealth fun x => { x with corrDram := 0, corrSram := 0, uncorr := 0 }).emit (.readData (s.reg 0x16004))))) ∧
  (∀ (s : State) (p k : Nat), p < 8 → k < 6 →
      exec (.readClearCounter (BitVec.ofNat 24 (0x9014 + 0x200 * p + 0x20 * k))) s = .next (s.withDev (
        (s.dev.onRingI (8 * p + k) fun r => { r with skipped := 0, reclaimed := 0, dropped := 0 }).emit
          (.readData (s.reg (0x9014 + 0x200 * p + 0x20 * k)))))) ∧
  (∀ s : State, exec (.readClearCounter 0x15000) s = .next { s with
      ledger := { s.ledger with lost := 0 }, dev := s.dev.emit (.readData (s.reg 0x15000)) }) ∧
  (∀ s : State, s.ledger.entries.length ≤ 1024 → s.reg 0x15000 = s.ledger.lost.toNat * 2 ^ 16 +
      s.dev.faults.supplyHalt.toNat * 2 ^ 12 + s.dev.faults.thermalHalt.toNat * 2 ^ 11 + s.ledger.entries.length) ∧
  ∀ (s : State) (off : BitVec 24), off.toNat % 4 ≠ 0 → exec (.readClearCounter off) s =
      .next (s.withDev ((s.dev.emit .completerAbort).emit .aerCorrectable))

/-- The tick count, the boundary that ends a tick, and what every close leaves. A tick ends at the first TCLK cycle
at which device time reaches or passes a multiple of the period, reckoned from a step by R36, and the count
rises by one there; an overrun sets OVERRUN and is counted. A close leaves the queue of commands and the scan
port, and ends with no close under way, no struck W1C bits and no addend waiting; the period stays, or becomes
the legal one that its parameter holds. Nothing closes while the device is in reset. Reading TICK_COUNT_LO
returns the lower half of the count and copies the upper half into TICK_COUNT_HI, which a read then returns; the
sample index of an audio port is read so too. Writes to the count registers change nothing; both halves are 0
after reset. (01_architecture.md, 19_audio.md) -/
def Obligations.TickCountAndClose : Prop :=
  (∀ (s : State) (o : Bool), 0 < s.dev.time.addend.toNat → 0 < s.periodNs.toNat →
      (s.endTick o).dev.tick.count = s.dev.tick.count + 1 ∧
      (s.endTick o).dev.time.dev = (s.dev.time.dev + s.tickCycles * s.dev.time.addend.toNat) % timeWrap ∧
      s.endOfTick ≤ s.dev.time.dev + s.tickCycles * s.dev.time.addend.toNat ∧
      (∀ n, n < s.tickCycles → s.dev.time.dev + n * s.dev.time.addend.toNat < s.endOfTick) ∧
      s.endOfTick % (s.periodNs.toNat * 2 ^ 32) = 0 ∧
      (s.dev.tick.halfNext = false → s.dev.time.dev < s.endOfTick ∧
        s.endOfTick ≤ s.dev.time.dev + s.periodNs.toNat * 2 ^ 32) ∧
      (s.dev.tick.halfNext = true → s.dev.time.dev + s.periodNs.toNat * 2 ^ 32 / 2 ≤ s.endOfTick ∧
        s.endOfTick < s.dev.time.dev + s.periodNs.toNat * 2 ^ 32 / 2 + s.periodNs.toNat * 2 ^ 32)) ∧
    (∀ s : State, (s.endTick true).dev.tick.overrun = true ∧
      (s.endTick true).dev.tick.overruns = bump s.dev.tick.overruns ∧
      (s.endTick false).dev.tick.overruns = s.dev.tick.overruns) ∧
    (∀ (s : State) (o : Bool), s.dev.boot.inReset = false → ∃ t : State, exec (.tickClose o) s = .next t ∧
      t.dev.tick.inClose = false ∧ t.dev.tick.w1c = [] ∧ t.dev.time.newAddend = none ∧
      t.pending = s.pending ∧ t.jtag = s.jtag ∧
      (t.periodNs = s.periodNs ∨ legalPeriod t.periodNs.toNat = true)) ∧
    (∀ (s : State) (o : Bool), s.dev.boot.inReset = true → exec (.tickClose o) s = .next s) ∧
    (∀ s : State, ∃ t : State, exec .tickCountLoRead s = .next t ∧
      t.dev.out = .readData (s.dev.tick.count.toNat % 2 ^ 32) :: s.dev.out ∧
      t.reg 0x1008 = s.dev.tick.count.toNat % 2 ^ 32 ∧ t.reg 0x100C = s.dev.tick.count.toNat / 2 ^ 32 ∧
      t = (s.withDev ({ s.dev with out := t.dev.out, tick := { s.dev.tick with hiLatch := t.dev.tick.hiLatch } }))) ∧
    State.reset.reg 0x1008 = 0 ∧ State.reset.reg 0x100C = 0 ∧
    (∀ (s : State) (v : BitVec 64), exec (.registerWrite 0x1008 4 v) s = .next s ∧
      exec (.registerWrite 0x100C 4 v) s = .next s) ∧
    ∀ (s : State) (p : Fin 28), s.dev.audio.ports.length = 28 → ∃ t : State, exec (.audioIndexLoRead p) s = .next t ∧
      t.dev.out = .readData ((s.dev.portI p).index.toNat % 2 ^ 32) :: s.dev.out ∧
      t.reg (0x11008 + 0x20 * p) = (s.dev.portI p).index.toNat / 2 ^ 32

/-- Register writes by size and access code, claims, and pending MSI-X messages. A write that is not of 4 bytes
aligned to 4 or 8 bytes aligned to 8 is discarded with a correctable error; one of 8 bytes acts as two of 4
bytes, the lower address first. The blocks ENV, LANE, CAP, COLOUR, TAP, CODEC, DRAM, RASTER, EVT, FAULT, HEALTH
and DLOG, and the PBA, take no write. A one written to a W1C bit clears it unless an event of this tick has set
it, and a zero leaves it (DB_BAD, the three bits of TICK_STATUS). The SQ0 base takes a write, bits [11:0] as 0,
only while the admin queues are off. DEV_ARB waits for rank 9. A claim returns the eligible source of the
highest priority, and among equals the highest number, and clears its pending bit; with none it returns 0x3FF
and opens the target again, counting a spurious message when the message had brought nothing. A pending MSI-X
message leaves once its vector and the function are not masked, MSI-X is enabled and the device is in D0. (00_scope.md, 13_host_queues.md, 22_events.md) -/
def Obligations.RegisterWrites : Prop :=
  (∀ (s : State) (off : BitVec 24) (n : Nat) (v : BitVec 64), ¬(n = 4 ∧ off.toNat % 4 = 0) →
      ¬(n = 8 ∧ off.toNat % 8 = 0) → exec (.registerWrite off n v) s = .next (s.withDev (s.dev.emit .aerCorrectable))) ∧
    (∀ (s : State) (off : BitVec 24) (v : BitVec 64), off.toNat % 8 = 0 →
      ∃ t : State, exec (.registerWrite off 4 (v &&& 0xFFFFFFFF)) s = .next t ∧
        exec (.registerWrite off 8 v) s = exec (.registerWrite (off + 4) 4 (v >>> 32)) t) ∧
    (∀ (s : State) (off : BitVec 24) (v : BitVec 64), off.toNat % 4 = 0 →
      off.toNat / 0x1000 ∈ [0x03, 0x04, 0x05, 0x06, 0x08, 0x09, 0x0C, 0x0F, 0x10, 0x14, 0x15, 0x16, 0x21, 0x22, 0x23, 0x24,
        0x201] → exec (.registerWrite off 4 v) s = .next s) ∧
    (∀ (s : State) (v : BitVec 64), exec (.registerWrite 0x8 4 v) s = .next (s.withDev (
        if v.getLsbD 4 && s.dev.clears 0x8 4 then s.dev.onHost fun h => { h with dbBad := false } else s.dev))) ∧
    (∀ (s : State) (v : BitVec 64), exec (.registerWrite 0x1010 4 v) s = .next (s.withDev (
        s.dev.onTick fun t => { t with
          overrun := t.overrun && !(v.getLsbD 2 && s.dev.clears 0x1010 2),
          storm := t.storm && !(v.getLsbD 1 && s.dev.clears 0x1010 1),
          stepped := t.stepped && !(v.getLsbD 0 && s.dev.clears 0x1010 0) }))) ∧
    (∀ (s : State) (v : BitVec 64), exec (.registerWrite 0x10 4 v) s = .next (s.withDev (
        if s.dev.host.admEn then s.dev
        else s.dev.onHost fun h => { h with admSqLo := v.setWidth 32 &&& 0xFFFFF000 }))) ∧
    (∀ (s : State) (v : BitVec 64), exec (.registerWrite 0xC 4 v) s = .next (s.withDev (
        s.dev.onTick fun t => { t with act9 := t.act9 ++
          [.arb ((v >>> 16).setWidth 8) ((v >>> 8).setWidth 8) (v.setWidth 8)] }))) ∧
    (∀ (s : State) (t : Fin 16) (n : Nat), n < 320 → s.dev.eligible t n = true →
      (∀ m, m < 320 → s.dev.eligible t m = true → m ≠ n →
        s.dev.srcPrio m < s.dev.srcPrio n ∨ (s.dev.srcPrio m = s.dev.srcPrio n ∧ m < n)) →
      exec (.evtClaimRead t) s = .next (s.withDev (
        ((s.dev.onSrcI n fun x => { x with pending := false }).onTgtI t fun x => { x with brought := true }).emit
          (.readData n)))) ∧
    (∀ (s : State) (t : Fin 16), (∀ n, n < 320 → s.dev.eligible t n = false) →
      exec (.evtClaimRead t) s = .next (s.withDev (
        ((s.dev.onEvt fun e => { e with spurious :=
            if (s.dev.tgtI t).sent && !(s.dev.tgtI t).brought then bump e.spurious else e.spurious }).onTgtI t fun x =>
          { x with sent := false }).emit (.readData 0x3FF)))) ∧
    ∀ (s : State) (v : Fin 64),
      (s.dev.host.pba.getD v false = true ∧ s.dev.host.power = .d0 ∧ s.dev.host.msixOn = true ∧
        s.dev.host.funcMask = false ∧ (s.dev.msixVec v).masked = false →
        exec (.msixPendingSend v) s = .next (s.withDev (
          (s.dev.onHost fun h => { h with pba := h.pba.set v false }).emit (.msix v)))) ∧
      (s.dev.host.pba.getD v false = false ∨ s.dev.host.power ≠ .d0 ∨ s.dev.host.msixOn = false ∨
        s.dev.host.funcMask = true ∨ (s.dev.msixVec v).masked = true → exec (.msixPendingSend v) s = .next s)

/-- D3 and the return to D0, and the kinds of reset. In D3 a DMA write waits and a receipt waits, while no message
leaves; the return to D0 writes the waiting data in the order it was made, then the waiting receipts, and lets
targets wake again. A PCIe fundamental reset clears the MSI-X table and asks for a host driver reset. PORESET_N
low and a device reset bring every parameter, the host attachment, envelopes, pipelines, the tick and time, and
the ledger to their values after reset; images, directories, the security minimum, memory pages and retired
engines stay. DEVICE_RESET runs the store's power-down sequence first; while a halt holds and a sensor reads 95
°C or more it is ignored. Start-up follows the release once DEVRST_N is high and Tj is below 95 °C. With no
accepted image start-up stops at step 3 and takes no docket; with no memory pair at step 5; else it ends at
phase 10, ready when the clerks run. (13_host_queues.md, 22_events.md, 23_health.md, 24_startup.md) -/
def Obligations.PowerStatesAndResets : Prop :=
  (∀ (s : State) (cold : Bool), s.dev.host.power = .d0 → exec (.d3Entry cold) s = .next (s.withDev (
      s.dev.onHost fun h => { h with power := if cold then .d3cold else .d3hot, heldRaised := false, d3Wake := false }))) ∧
    (∀ (s : State) (cold : Bool), s.dev.host.power ≠ .d0 → exec (.d3Entry cold) s = .next (s.withDev (
      s.dev.onHost fun h => { h with power := if cold then .d3cold else .d3hot }))) ∧
    (∀ (d : Dev) (a v cq : Nat) (bs : List Byte) (now froze : Bool), d.host.power ≠ .d0 →
      d.hostWrite a bs = d.onHost (fun h => { h with heldWr := h.heldWr ++ [(a, bs)] }) ∧
      d.message v = d.onHost (fun h => { h with pba := h.pba.set v true }) ∧
      (d.putReceipt cq bs now froze).hostMem = d.hostMem ∧
      (d.putReceipt cq bs now froze).host.heldRcpt = d.host.heldRcpt ++ [(cq, bs)]) ∧
    (∀ s : State, s.dev.host.power ≠ .d0 → ∃ t : State, exec .d0Return s = .next t ∧ t.dev.host.power = .d0 ∧
      t.dev.host.heldRcpt = [] ∧ t.dev.host.heldWr = [] ∧ (∀ x ∈ t.dev.evt.targets, x.wakeSent = false) ∧
      (s.dev.host.heldRcpt = [] →
        t.dev.hostMem = s.dev.host.heldWr.foldl (fun m w => hostCellWrite m w.1 w.2) s.dev.hostMem) ∧
      (∀ cq b, s.dev.host.heldRcpt = [(cq, b)] → (s.dev.cqI cq).enabled = true →
        t.dev.hostMem = hostCellWrite (s.dev.host.heldWr.foldl (fun m w => hostCellWrite m w.1 w.2) s.dev.hostMem)
          ((s.dev.cqI cq).base.toNat + 32 * (s.dev.cqI cq).tail)
          (putBytes b 7 [b.getD 7 0 ||| (if (s.dev.cqI cq).phase then 1 else 0)]))) ∧
    (∀ (s : State) (c : PcieCause), exec (.pcieFundamentalReset c) s = .next (s.withDev (
      ((s.dev.onBoot fun b => { b with pcie := true }).onTick fun t =>
        { t with w1c := (32 * 0x1700C + 2) :: t.w1c, act9 := t.act9 ++ [.driverReset] }).onHost fun h =>
          { h with msix := List.replicate 64 MsixVec.reset, pba := List.replicate 64 false, funcMask := false,
                   hdrBusy := true }))) ∧
    (∀ (c : Instr) (s : State), (c = .poresetNLow ∨ (c = .deviceReset ∧ s.dev.boot.inReset = false ∧
        (s.dev.halted = false ∨ s.dev.hottest < 95))) → ∃ t : State, exec c s = .next t ∧
      t.periodNs = 250 ∧ t.ledger = LedgerSt.reset ∧ t.dev.boot.inReset = true ∧ t.dev.params = Dev.reset.params ∧
      t.dev.host = Dev.reset.host ∧ t.dev.env = Dev.reset.env ∧ t.dev.pipe = Dev.reset.pipe ∧
      t.dev.tick = Dev.reset.tick ∧ t.dev.time = Dev.reset.time ∧ t.dev.faults = Dev.reset.faults ∧
      t.dev.mem = s.dev.mem ∧ t.dev.boot.images = s.dev.boot.images ∧ t.dev.boot.dirs = s.dev.boot.dirs ∧
      t.dev.boot.minSecurity = s.dev.boot.minSecurity ∧ t.dev.mills.map (·.retired) = s.dev.mills.map (·.retired) ∧
      (c = .poresetNLow → t.dev.boot.devReset = false ∧ t.dev.store = s.dev.lossOfPower.store) ∧
      (c = .deviceReset → t.dev.boot.devReset = true ∧ t.dev.boot.storeSeq = true ∧ t.dev.boot.halt = s.dev.halted ∧
        (s.dev.halted = false → t.dev.store = s.dev.powerDownStore.lossOfPower.store))) ∧
    (∀ s : State, s.dev.boot.inReset = false → s.dev.halted = true → 95 ≤ s.dev.hottest →
      exec .deviceReset s = .next s) ∧
    (∀ s : State, s.dev.boot.inReset = true →
      exec .deviceReset s = .next (s.withDev (s.dev.onBoot fun b => { b with devReset := true }))) ∧
    (∀ (s : State) (tj : Int) (b : BoardState),
      (s.dev.boot.devReset = true → exec (.deviceResetRelease false tj b) s = .next s) ∧
      (95 ≤ tj → exec (.deviceResetRelease true tj b) s =
        .next { s with jtag := s.jtag.settle, dev := s.dev.onBoot fun x => { x with devReset := false } })) ∧
    (∀ (s : State) (tj : Int) (b : BoardState), s.dev.boot.inReset = true → s.dev.boot.storeSeq = true → tj < 95 →
      b.flash = none → bootChoice s.dev.boot.minSecurity.toNat s.dev.boot.dirs s.dev.boot.images = none →
      ∃ t : State, exec (.deviceResetRelease true tj b) s = .next t ∧ t.dev.boot.inReset = false ∧
        t.dev.boot.device = true ∧ t.dev.boot.powerOn = false ∧ t.dev.boot.noImage = true ∧
        t.dev.boot.failedStep = 3 ∧ t.dev.host.ready = s.dev.host.ready) ∧
    (∀ (s : State) (b : BoardState), b.railsInOrder = true → b.flash = none →
      (bootChoice s.dev.boot.minSecurity.toNat s.dev.boot.dirs s.dev.boot.images = none →
        ∃ t : State, exec (.powerOnReset b) s = .next t ∧ t.dev.boot.powerOn = true ∧ t.dev.boot.noImage = true ∧
          t.dev.boot.failedStep = 3 ∧ t.dev.boot.phase = 3 ∧ t.dev.host.ready = false) ∧
      (bootChoice s.dev.boot.minSecurity.toNat s.dev.boot.dirs s.dev.boot.images ≠ none →
        (referencePair b.channels = none → ∃ t : State, exec (.powerOnReset b) s = .next t ∧
          t.dev.dram.ready = false ∧ t.dev.host.ready = false ∧ t.dev.boot.failedStep ≠ 0) ∧
        ∀ p rate, referencePair b.channels = some (p, rate) → ∃ t : State, exec (.powerOnReset b) s = .next t ∧
          t.dev.boot.phase = 10 ∧ t.dev.dram.ready = true ∧ t.dev.dram.rate = BitVec.ofNat 16 rate ∧
          t.dev.host.ready = (t.dev.health.active.count true != 1)))

/-- Policies, the requested voltage and its ramp, monitor windows, margin probes and shedding. A write of GOV_CTRL
is judged whole: policy 3, a voltage outside 700 to 900 mV or not a multiple of 5, and a fixed voltage at which
a region falls short of 1.02 times its demand are refused, with REFUSED set and event 5; else policy and voltage
are taken. The voltage requested is the lowest of the 5 mV grid that reaches the target in every region, 900 mV
when none does. A reading within 15 mV of the request ends the raise or goes on with a write at most 10 mV
higher; one off the request is retried up to 3 times and then sets the fault flag with a report of class 0x0030
(while no seal waits for the voltage). A lowering step writes at most 10 mV less, and waits for a raise or a
retry. An alert or a poll that shows a STATUS_WORD with a bit set files a report. A monitor window keeps its 48
readings and refreshes the point of the curve that VCORE sits at. A margin probe sets the 0.90 V point and the
life margin of the worst region. SHED_RESTORE restores the stream shed last, at or below 100 °C and with the
capacity for it. (02_self_timed.md, 23_health.md) -/
def Obligations.Governor : Prop :=
  (∀ (s : State) (v : Word),
      let mv := v.toNat % 1024
      let policy := v.toNat / 2 ^ 16 % 4
      (policy = 3 ∨ mv < 700 ∨ 900 < mv ∨ mv % 5 ≠ 0 ∨ (policy = 2 ∧ s.dev.reaches s.dev.needs 102 mv = false) →
        exec (.govCtrlWrite v) s = .next (s.withDev (
          (((s.dev.onGov fun g => { g with refused := true }).mark 0x2004 2).raiseNow 5)))) ∧
      (policy ≠ 3 → 700 ≤ mv → mv ≤ 900 → mv % 5 = 0 → (policy = 2 → s.dev.reaches s.dev.needs 102 mv = true) →
        ∃ t : State, exec (.govCtrlWrite v) s = .next t ∧ t.dev.gov.policy.toNat = policy ∧
          t.dev.gov.fixedMv.toNat = mv ∧ exec (.registerWrite 0x2000 4 (v.setWidth 64)) s = .next t)) ∧
    (∀ (d : Dev) (needs : List Q) (mv : Nat) (short : Bool), d.request needs = (mv, short) →
      (d.gov.policy = 2 → mv = d.gov.fixedMv.toNat ∧ short = false) ∧
      (d.gov.policy ≠ 2 → 700 ≤ mv ∧ mv ≤ 900 ∧ mv % 5 = 0 ∧
        (short = false → ∀ r, r < 12 → qLe (d.target needs) (d.capacity r mv) = true) ∧
        (∀ w, 700 ≤ w → w < mv → w % 5 = 0 → ∃ r, r < 12 ∧ qLe (d.target needs) (d.capacity r w) = false) ∧
        (short = true → mv = 900 ∧ ∃ r, r < 12 ∧ qLe (d.target needs) (d.capacity r 900) = false))) ∧
    (∀ (s : State) (mv : Nat), (∀ x ∈ s.dev.heldEnvs, x.1.phase ≠ .sealing) → mv ≤ s.dev.gov.requestMv + 15 →
      s.dev.gov.requestMv ≤ mv + 15 → mv < 1024 →
      (s.dev.gov.raising = false ∨ s.dev.gov.finalMv ≤ s.dev.gov.requestMv → exec (.readVout mv true) s =
        .next (s.withDev (s.dev.onGov fun g =>
          { g with voutMv := BitVec.ofNat 10 mv, retries := 0, raising := false }))) ∧
      (s.dev.gov.raising = true → s.dev.gov.requestMv < s.dev.gov.finalMv → exec (.readVout mv true) s =
        .next (s.withDev ((s.dev.onGov fun g => { g with
          voutMv := BitVec.ofNat 10 mv, retries := 0, requestMv := min (s.dev.gov.requestMv + 10) s.dev.gov.finalMv }).emit
            (.pmbus 0x21 (min (s.dev.gov.requestMv + 10) s.dev.gov.finalMv)))))) ∧
    (∀ (s : State) (mv : Nat), (∀ x ∈ s.dev.heldEnvs, x.1.phase ≠ .sealing) →
      s.dev.gov.requestMv + 15 < mv ∨ mv + 15 < s.dev.gov.requestMv → mv < 1024 →
      (s.dev.gov.retries < 3 → exec (.readVout mv true) s = .next (s.withDev ((s.dev.onGov fun g =>
        { g with voutMv := BitVec.ofNat 10 mv, retries := g.retries + 1 }).emit (.pmbus 0x8B 0)))) ∧
      (3 ≤ s.dev.gov.retries → ∃ t : State, exec (.readVout mv true) s = .next t ∧ t.dev.gov.regFault = true ∧
        t.dev.gov.raising = false ∧ t.dev.gov.retries = 0 ∧
        (s.dev.gov.regFault = false → t.dev.faults.reports = s.dev.faults.reports ++
          [⟨0x0030, s.dev.nowNs, s.dev.time.epoch.toNat, 0x0200, [s.dev.gov.requestMv, mv]⟩]))) ∧
    (∀ (s : State) (mv : Nat), s.dev.gov.retries < 3 → exec (.readVout mv false) s = .next (s.withDev (
      (s.dev.onGov fun g => { g with retries := g.retries + 1 }).emit (.pmbus 0x21 s.dev.gov.requestMv)))) ∧
    (∀ s : State,
      (s.dev.gov.raising = false → s.dev.gov.retries = 0 → s.dev.gov.finalMv < s.dev.gov.requestMv →
        exec .vcoreLowerStep s = .next (s.withDev ((s.dev.onGov fun g =>
          { g with requestMv := max (g.requestMv - 10) g.finalMv }).emit
            (.pmbus 0x21 (max (s.dev.gov.requestMv - 10) s.dev.gov.finalMv))))) ∧
      (s.dev.gov.raising = true ∨ 0 < s.dev.gov.retries ∨ s.dev.gov.requestMv ≤ s.dev.gov.finalMv →
        exec .vcoreLowerStep s = .next s)) ∧
    (∀ (s : State) (w : BitVec 16),
      (w ≠ 0 → exec (.smbalert w true) s = .next (s.withDev (s.dev.reportNow 0x0030 0x0200 [w.toNat]))) ∧
      exec (.smbalert 0 true) s = .next s ∧
      exec (.smbalert w false) s = .next (s.withDev (s.dev.emit (.pmbus 0x79 0))) ∧
      ∀ (mv : Nat) (t : State), (∀ x ∈ s.dev.heldEnvs, x.1.phase ≠ .sealing) → exec (.readVout mv true) s = .next t →
        exec (.pmbusPoll mv w true) s = exec (.smbalert w true) t) ∧
    (∀ (s : State) (l : List Nat), l.length = 48 → (∀ x ∈ l, x < 2 ^ 16) →
      (∃ t : State, exec (.monitorWindow l) s = .next t ∧ t.dev.gov.readings = l) ∧
      (s.dev.pointNow = 5 → exec (.monitorWindow l) s =
        .next (s.withDev (s.dev.onGov fun g => { g with readings := l }))) ∧
      (s.dev.pointNow < 5 → s.dev.gov.curves.length = 12 → (∀ c ∈ s.dev.gov.curves, c.length = 5) →
        ∃ t : State, exec (.monitorWindow l) s = .next t ∧ ∀ r i, r < 12 → i < 5 →
          (t.dev.gov.curves.getD r []).getD i 0 =
            if i = s.dev.pointNow then slowest l r else (s.dev.gov.curves.getD r []).getD i 0)) ∧
    (∀ (s : State) (cap : List Nat) (v1 : List Int) (tj : Int), cap.length = 12 → (∀ x ∈ cap, x < 2 ^ 16) →
      v1.length = 12 → s.dev.gov.curves.length = 12 → (∀ c ∈ s.dev.gov.curves, c.length = 5) →
      ∃ t : State, exec (.marginProbe cap v1 tj) s = .next t ∧ t.dev.gov.v1 = v1 ∧ t.dev.gov.probeTj = tj ∧
        t.dev.gov.probed = true ∧ (∀ r, r < 12 → t.dev.gov.lifeMv ≤ 900 - v1.getD r 0) ∧
        t.dev.gov.lifeMv = 900 - v1.getD t.dev.gov.lifeRegion.toNat 0 ∧
        (∀ r i, r < 12 → i < 5 → (t.dev.gov.curves.getD r []).getD i 0 =
          if i = 4 then cap.getD r 0 else (s.dev.gov.curves.getD r []).getD i 0) ∧
        (t.dev.gov.lifeMv < 10 → s.dev.gov.lifeBelow = false → t.dev.gov.lifeLow = true)) ∧
    ∀ (s : State) (race : Nat) (rest : List Nat), s.dev.gov.shed = race :: rest →
      (100 < s.dev.hottest → exec .shedRestore s = .next s) ∧
      (s.dev.hottest ≤ 100 → (s.dev.onGov fun g => { g with shed := rest }).reaches
          (s.dev.onGov fun g => { g with shed := rest }).unshed.demands 105
          (s.dev.onGov fun g => { g with shed := rest }).ceiling = true →
        ∃ t : State, exec .shedRestore s = .next t ∧ t.dev.gov.shed = rest)

/-- Locks, sync, alignment, presets, errors, loss of sync, eye measurements, recalibration and slips of the serial
lanes. A powered quad takes its PLL lock, or its clock in forwarded-clock mode. A lane of a receiving link whose
quad is ready takes CDR lock, and on a chain port the search for the preset begins with TP0. In automatic mode a
locked lane takes sync and its boundary modulo 10, and a link that has not trained takes the adapted settings or
the fixed CTLE. An alignment set with a wrong index, or a skew of 65 symbols, files a report of class 0x0003;
one that completes the set brings the link up, and a disagreement in service takes it down. A preset below 8 is
taken only in step 4 of a chain port. A code error is counted, with a report for the first in each run of 64
symbols. Loss of sync takes a link that is up down, and loss of a forwarded clock strikes four lanes. A link
that is not up starts alignment again or is reported by its first failing lane. The FOM is min(255, 4 x the
smaller side), with an event on entry to a worse band. A triggered recalibration readies the spare slicer within
3 CTLE steps unless the FOM falls by more than 4. A slip moves the boundary modulo 10 and clears the error
counts. (04_lanes.md, 22_events.md) -/
def Obligations.LaneCommands : Prop :=
  (∀ (s : State) (q : Fin 16), ((s.dev.quadI q).powered = false → exec (.pllLock q) s = .next s) ∧
      ((s.dev.quadI q).powered = true → s.dev.lanes.quads.length = 16 → ∃ t : State, exec (.pllLock q) s = .next t ∧
        t.dev.quadI q = (if s.dev.quadMode q = 3 then { s.dev.quadI q with fwdOk := true }
          else { s.dev.quadI q with pllLock := true }) ∧ ∀ p, p ≠ q.val → t.dev.quadI p = s.dev.quadI p)) ∧
    (∀ (s : State) (n : Fin 64) (l : LinkId) (lanes : List Nat) (pos : Nat), s.dev.linkOfLane n = some (l, lanes, pos) →
      receives l = true →
      (s.dev.quadReady (n / 4) = true → s.dev.carriesData n = true →
        ((∀ p, l ≠ .chain p) → exec (.cdrLock n) s = .next (s.withDev (
          s.dev.onLaneI n fun x => { x with cdrLock := true, tries := [] }))) ∧
        ((∃ p, l = .chain p) → exec (.cdrLock n) s = .next (s.withDev (
          (s.dev.onLaneI n fun x => { x with cdrLock := true, tries := [] }).emit (.preset n 0))))) ∧
      (s.dev.quadReady (n / 4) = false ∨ s.dev.carriesData n = false → exec (.cdrLock n) s = .next s) ∧
      ∀ (b ctle cyc : Nat) (dfe : List Int),
        ((s.dev.laneI n).cdrLock = false → exec (.sync n b ctle dfe cyc) s = .next s) ∧
        ((s.dev.laneI n).cdrLock = true → s.dev.parN 0x03 n 2 = 0 →
          ((s.dev.linkI l).trained = true → exec (.sync n b ctle dfe cyc) s = .next (s.withDev (
            s.dev.onLaneI n fun x => { x with sync := true, boundary := BitVec.ofNat 4 (b % 10) }))) ∧
          ((s.dev.linkI l).trained = false → exec (.sync n b ctle dfe cyc) s = .next (s.withDev (
            s.dev.onLaneI n fun x => { x with
              sync := true, boundary := BitVec.ofNat 4 (b % 10),
              ctle := BitVec.ofNat 4 (if s.dev.parN 0x03 n 3 < 16 then s.dev.parN 0x03 n 3 else ctle),
              dfe := (List.range 5).map fun i => BitVec.ofInt 4 (dfe.getD i 0) }))))) ∧
    (∀ (s : State) (n : Fin 64) (l : LinkId) (lanes : List Nat) (pos index count skew cyc : Nat),
      s.dev.linkOfLane n = some (l, lanes, pos) → receives l = true → (s.dev.laneI n).sync = true →
      s.dev.lanes.lanes.length = 64 →
      (index ≠ pos → (s.dev.linkI l).up = false → ∃ t : State, exec (.alignmentOrderedSet n index count skew cyc) s = .next t ∧
        (t.dev.laneI n).aligned = false ∧ (t.dev.laneI n).deskewed = false ∧ t.dev.tick.links = s.dev.tick.links ∧
        t.dev.faults.reports = s.dev.faults.reports ++
          [⟨0x0003, s.dev.nsAt cyc, s.dev.time.epoch.toNat, laneEp (lanes.headD n), [index]⟩]) ∧
      (index = pos → (s.dev.linkI l).up = false → lanes.length ≠ 1 → 65 ≤ skew →
        ∃ t : State, exec (.alignmentOrderedSet n index count skew cyc) s = .next t ∧
          t.dev.tick.links = s.dev.tick.links ∧ t.dev.faults.reports = s.dev.faults.reports ++
            [⟨0x0003, s.dev.nsAt cyc, s.dev.time.epoch.toNat, laneEp (lanes.headD n), [skew]⟩]) ∧
      (index = pos → (s.dev.linkI l).up = false → skew < 65 → (∀ m ∈ lanes, m < 64) →
        (∀ m ∈ lanes, m ≠ n.val → s.dev.carriesData m = true → (s.dev.laneI m).sync = true ∧
          (s.dev.laneI m).aligned = true ∧ (s.dev.laneI m).aosCount = some (count % 256)) →
        ∃ t : State, exec (.alignmentOrderedSet n index count skew cyc) s = .next t ∧
          t.dev.tick.links = s.dev.tick.links ++ [(l, true, s.dev.timeAt cyc)] ∧
          ∀ m ∈ lanes, (t.dev.laneI m).deskewed = true) ∧
      (index = pos → (s.dev.linkI l).up = true → lanes.length ≠ 1 →
        (∃ m ∈ lanes, m ≠ n.val ∧ ∃ c, (s.dev.laneI m).aosCount = some c ∧ countsClose c (count % 256) = false) →
        ∃ t : State, exec (.alignmentOrderedSet n index count skew cyc) s = .next t ∧
          t.dev.tick.links = s.dev.tick.links ++ [(l, false, s.dev.timeAt cyc)])) ∧
    (∀ (s : State) (n : Fin 64) (p : Nat) (lanes : List Nat) (pos preset : Nat),
      s.dev.linkOfLane n = some (.chain p, lanes, pos) →
      (preset < 8 → (s.dev.linkI (.chain p)).up = false → (s.dev.laneI n).cdrLock = true → (s.dev.laneI n).sync = false →
        exec (.presetRequest n preset) s = .next (s.withDev (
          s.dev.onLaneI n fun x => { x with preset := BitVec.ofNat 3 preset }))) ∧
      (8 ≤ preset ∨ (s.dev.linkI (.chain p)).up = true → exec (.presetRequest n preset) s = .next s) ∧
      ∀ high : Bool, exec (.skipPair n high) s = .next (s.withDev (
        s.dev.onLaneI n fun x => { x with skips := if high then x.skips - 1 else x.skips + 1 }))) ∧
    (∀ (s : State) (n : Fin 64) (l : LinkId) (lanes : List Nat) (pos symbol cyc : Nat) (kind : CodeError),
      s.dev.linkOfLane n = some (l, lanes, pos) → receives l = true →
      (symbol < (s.dev.laneI n).repDue → exec (.laneCodeError n kind symbol cyc) s = .next (s.withDev (
        s.dev.onLaneI n fun x => { x with
          codeViol := if kind = .violation then bump x.codeViol else x.codeViol,
          dispErr := if kind = .disparity then bump x.dispErr else x.dispErr }))) ∧
      ((s.dev.laneI n).repDue ≤ symbol → exec (.laneCodeError n kind symbol cyc) s = .next (s.withDev (
        (s.dev.onLaneI n fun x => { x with
          codeViol := if kind = .violation then bump x.codeViol else x.codeViol,
          dispErr := if kind = .disparity then bump x.dispErr else x.dispErr,
          repDue := (symbol / 64 + 1) * 64 }).report 0x0001 (laneEp n) (s.dev.nsAt cyc) [])))) ∧
    (∀ (s : State) (n : Fin 64) (l : LinkId) (lanes : List Nat) (pos cyc : Nat),
      s.dev.linkOfLane n = some (l, lanes, pos) → receives l = true →
      ((s.dev.linkI l).up = true →
        exec (.syncLost n false cyc) s = .next (s.withDev ((s.dev.onLaneI n fun x =>
          { x with sync := false, aligned := false, deskewed := false, aosCount := none }).onTick fun t =>
            { t with links := t.links ++ [(l, false, s.dev.timeAt cyc)] })) ∧
        exec (.deskewRetry n) s = .next s ∧ exec (.linkNotUp n cyc) s = .next s) ∧
      ((s.dev.linkI l).up = false → s.dev.lanes.lanes.length = 64 → (∀ m ∈ lanes, m < 64) →
        (∃ t : State, exec (.deskewRetry n) s = .next t ∧ ∀ m ∈ lanes, (t.dev.laneI m).aligned = false ∧
          (t.dev.laneI m).deskewed = false ∧ (t.dev.laneI m).aosCount = none) ∧
        ∀ m, lanes.find? (fun m => s.dev.carriesData m && decide (s.dev.failingStep m < 5)) = some m →
          exec (.linkNotUp n cyc) s = .next (s.withDev (
            s.dev.report 0x0003 (laneEp m) (s.dev.nsAt cyc) [s.dev.failingStep m])))) ∧
    (∀ (s : State) (n : Fin 64) (cyc : Nat), s.dev.quadMode (n / 4) = 3 → s.dev.lanes.lanes.length = 64 →
      s.dev.lanes.quads.length = 16 → ∃ t : State, exec (.syncLost n true cyc) s = .next t ∧
        (t.dev.quadI (n / 4)).fwdOk = false ∧ ∀ i, i < 4 → (t.dev.laneI (4 * (n / 4) + i)).sync = false) ∧
    (∀ (s : State) (n : Fin 64) (l : LinkId) (lanes : List Nat) (pos w h cyc : Nat),
      s.dev.linkOfLane n = some (l, lanes, pos) → receives l = true → (s.dev.linkI l).up = true →
      s.dev.lanes.lanes.length = 64 →
      let fom := min 255 (4 * min w h)
      ∃ t : State, exec (.fomMeasure n w h cyc) s = .next t ∧ (t.dev.laneI n).fom = BitVec.ofNat 8 fom ∧
        (t.dev.laneI n).band = (if 96 ≤ fom then 0 else if 48 ≤ fom then 1 else 2) ∧
        (48 ≤ fom → fom < 96 → (s.dev.laneI n).band ≠ 1 → t.dev.evt.raised = s.dev.evt.raised ++
          [(282 + n.val / 4, s.dev.nsAt cyc, s.dev.time.epoch.toNat)] ∧ t.dev.faults = s.dev.faults) ∧
        (fom < 48 → (s.dev.laneI n).band ≠ 2 → t.dev.faults.reports = s.dev.faults.reports ++
          [⟨0x0002, s.dev.nsAt cyc, s.dev.time.epoch.toNat, laneEp n, [fom]⟩]) ∧
        (96 ≤ fom → t.dev.evt = s.dev.evt ∧ t.dev.faults = s.dev.faults)) ∧
    (∀ (s : State) (n : Fin 64) (l : LinkId) (lanes : List Nat) (pos ctle w h : Nat) (tj : Int),
      s.dev.linkOfLane n = some (l, lanes, pos) → receives l = true → (s.dev.linkI l).up = true →
      (s.dev.calTriggered n tj = false → exec (.recalibration n tj ctle w h) s = .next s) ∧
      (s.dev.calTriggered n tj = true → (∀ m, m ≠ n.val → (s.dev.laneI m).spare = none) →
        s.dev.lanes.lanes.length = 64 → ∃ t : State, exec (.recalibration n tj ctle w h) s = .next t ∧
          (t.dev.laneI n).calDue = false ∧ (t.dev.laneI n).calTemp = BitVec.ofInt 8 tj ∧
          (t.dev.laneI n).fomBefore = (s.dev.laneI n).fom ∧ (t.dev.laneI n).ctle = (s.dev.laneI n).ctle ∧
          ((s.dev.laneI n).fom.toNat ≤ min 255 (4 * min w h) + 4 → ∃ c, (t.dev.laneI n).spare =
              some (c, min 255 (4 * min w h)) ∧ (16 ≤ s.dev.parN 0x03 n 3 →
                c ≤ (s.dev.laneI n).ctle.toNat + 3 ∧ (s.dev.laneI n).ctle.toNat ≤ c + 3) ∧
              (s.dev.parN 0x03 n 3 < 16 → c = s.dev.parN 0x03 n 3)) ∧
          (min 255 (4 * min w h) + 4 < (s.dev.laneI n).fom.toNat → (t.dev.laneI n).calResult = 4 ∧
            (t.dev.laneI n).spare = none ∧ (9, s.dev.nowNs, s.dev.time.epoch.toNat) ∈ t.dev.evt.raised))) ∧
    (∀ (s : State) (n : Fin 64) (w h cyc : Nat), s.dev.lanes.lanes.length = 64 →
      ((s.dev.laneI n).spare = none → exec (.slicerSwap n w h) s = .next s ∧ exec (.swapPostponed n) s = .next s ∧
        exec (.calibrationStarved n cyc) s = .next s) ∧
      ∀ c f, (s.dev.laneI n).spare = some (c, f) →
        (∃ t : State, exec (.slicerSwap n w h) s = .next t ∧ (t.dev.laneI n).ctle = BitVec.ofNat 4 c ∧
          (t.dev.laneI n).spare = none ∧ (t.dev.laneI n).calResult = 1 ∧
          (t.dev.laneI n).fomAfter = BitVec.ofNat 8 (min 255 (4 * min w h)) ∧
          (9, s.dev.nowNs, s.dev.time.epoch.toNat) ∈ t.dev.evt.raised) ∧
        exec (.swapPostponed n) s = .next (s.withDev (s.dev.onLaneI n fun x => { x with calResult := 2 })) ∧
        exec (.calibrationStarved n cyc) s = .next (s.withDev (
          (((s.dev.onLaneI n fun x => { x with calResult := 3, spare := none, fomAfter := x.fom }).report 0x0004 (laneEp n)
            (s.dev.nsAt cyc) []).raise (282 + n / 4) (s.dev.nsAt cyc)).raise 9 (s.dev.nsAt cyc)))) ∧
    ∀ (s : State) (n : Fin 64),
      ((s.dev.laneI n).slip = 0 → exec (.laneSlipApplied n) s = .next s) ∧
      (0 < (s.dev.laneI n).slip → exec (.laneSlipApplied n) s = .next (s.withDev (s.dev.onLaneI n fun x =>
        { x with boundary := BitVec.ofNat 4 ((x.boundary.toNat + x.slip) % 10), slip := 0, codeViol := 0, dispErr := 0,
                 sync := x.sync || x.cdrLock })))

/-- Markers, packets, letters and descriptors of a capture link. An accepted frame marker opens a frame stamped at
its cycle and queues its gate; a line marker opens the next merged line, and one past the configured lines
starts a long frame. A bad packet acts as ABORT: the open frame ends in abort, before its gate kept to take its
number, and outside a frame it is counted; a good packet outside a frame is discarded. Headers, active and
optical-black segments, embedded data up to 4,096 bytes and trailers enter the open frame of their die. A frame
that ends is open no more, unless it waits aborted for its gate, and a whole one goes on unchanged. A letter
acknowledged well leaves the list; refused, at its cutoff or after three resends it fails, and its sealed
envelope notes the first failed member. The first valid descriptor discovers the head with event 96 + 4p + 1; an
invalid one does not. A head event is kept among the last 16. Unknown packets are counted and reported once a
second. A descriptor request goes out while none has come, and after four the head is silent, with a report of
class 0x0015. (05_sensor_links.md, 22_events.md) -/
def Obligations.CaptureLinks : Prop :=
  (∀ (s : State) (p : Fin 8) (cyc : Nat), (s.dev.pipeI p).cur = none →
      (s.dev.accepts p = false → exec (.frameMarker p cyc) s = .next s) ∧
      (s.dev.accepts p = true → s.dev.pipe.length = 8 → s.dev.cap.length = 8 →
        ∃ t : State, exec (.frameMarker p cyc) s = .next t ∧
          (t.dev.pipeI p).cur =
            some (Frame.opened (s.dev.timeAt cyc) s.dev.time.epoch.toNat (capCfg s.dev.params p).dies) ∧
          t.dev.tick.markers = s.dev.tick.markers ++ [(p.val, s.dev.timeAt cyc)] ∧
          (t.dev.capI p).capturing = true ∧ (t.dev.capI p).lastMarker = some (s.dev.timeAt cyc))) ∧
    (∀ (s : State) (p : Fin 8) (cyc : Nat),
      ((s.dev.pipeI p).cur = none → exec (.lineMarker p cyc) s = .next s) ∧
      ∀ f, (s.dev.pipeI p).cur = some f → f.aborted = false →
        (f.lines < mergedH (s.dev.frameCfg p f) → f.lines < 3 → exec (.lineMarker p cyc) s =
          .next (s.withDev (s.dev.setCur p (some { f with lines := f.lines + 1 })))) ∧
        (mergedH (s.dev.frameCfg p f) ≤ f.lines → exec (.lineMarker p cyc) s =
          .next (s.withDev (s.dev.setCur p (some (setStatus f stLongFrame)))))) ∧
    (∀ (s : State) (p : Fin 8) (die : Fin 4) (a b : Nat) (bs : List Byte) (chk : PacketCheck) (cyc : Nat), chk ≠ .good →
      exec (.frameHeader p die a bs chk cyc) s = exec (.abort p cyc) s ∧
      exec (.activeLineSegment p die a b bs chk cyc) s = exec (.abort p cyc) s ∧
      exec (.opticalBlackLineSegment p die a b bs chk cyc) s = exec (.abort p cyc) s ∧
      exec (.embeddedData p die a bs chk cyc) s = exec (.abort p cyc) s ∧
      exec (.frameTrailer p die a b chk cyc) s = exec (.abort p cyc) s) ∧
    (∀ (s : State) (p : Fin 8) (cyc : Nat),
      ((s.dev.pipeI p).cur = none → exec (.abort p cyc) s =
        .next (s.withDev (s.dev.onCapI p fun c => { c with dropped := bump c.dropped }))) ∧
      ∀ f, (s.dev.pipeI p).cur = some f →
        (f.aborted = true → exec (.abort p cyc) s = .next s) ∧
        (f.aborted = false → f.gated = false → exec (.abort p cyc) s =
          .next (s.withDev (s.dev.setCur p (some { f with aborted := true })))) ∧
        (f.aborted = false → f.gated = true → s.dev.pipe.length = 8 → s.dev.cap.length = 8 →
          ∃ t : State, exec (.abort p cyc) s = .next t ∧
          (t.dev.pipeI p).cur = none ∧ (t.dev.capI p).dropped = bump (s.dev.capI p).dropped ∧
          ∃ r ∈ t.dev.faults.reports, r.cls = 0x0020 ∧ r.endpoint = capEp p ∧
            r.detail = [s.dev.capRace p, f.number])) ∧
    (∀ (s : State) (p : Fin 8) (die : Fin 4) (cnt line off : Nat) (bs : List Byte) (cyc : Nat),
      (s.dev.pipeI p).cur = none →
      (bs.length ≤ 16 → exec (.frameHeader p die cnt bs .good cyc) s = .next s) ∧
      (segGood (s.dev.openDepth p) off bs .good = true →
        exec (.activeLineSegment p die line off bs .good cyc) s = .next s ∧
        (line < 64 → exec (.opticalBlackLineSegment p die line off bs .good cyc) s = .next s)) ∧
      (bs.length ≤ 4096 → exec (.embeddedData p die cnt bs .good cyc) s = .next s) ∧
      exec (.frameTrailer p die cnt line .good cyc) s = .next s ∧ exec (.frameTimeout p cyc) s = .next s) ∧
    (∀ (s : State) (p : Fin 8) (die : Fin 4) (f : Frame) (cyc : Nat), (s.dev.pipeI p).cur = some f → f.aborted = false →
      s.dev.pipe.length = 8 → die < (s.dev.frameCfg p f).dies →
      (∀ (cnt : Nat) (bs : List Byte), bs.length ≤ 16 → f.gated = false → die = 0 →
        u16 bs 0 = dieW (s.dev.frameCfg p f) 0 → u16 bs 2 = dieH (s.dev.frameCfg p f) 0 →
        10 + 2 * u8 bs 4 = (s.dev.frameCfg p f).depth →
        exec (.frameHeader p die cnt bs .good cyc) s = .next (s.withDev (
          (s.dev.setCur p (some (onDie f 0 fun x => { x with
            header := true, count := cnt % 65536, applied := u16 bs 6, exposure := u32 bs 8, gain := u16 bs 12 }))).onCapI p
              fun c => { c with lastCount := BitVec.ofNat 16 cnt }))) ∧
      (∀ (line off : Nat) (bs : List Byte), segGood (s.dev.frameCfg p f).depth off bs .good = true →
        (hasStatus f stLongFrame = false → line < dieH (s.dev.frameCfg p f) die →
          (∀ l, (f.dies.getD die DieFrame.empty).lastLine = some l → l ≤ line) →
          off + (unpackSamples (s.dev.frameCfg p f).depth bs).length ≤ dieW (s.dev.frameCfg p f) die →
          exec (.activeLineSegment p die line off bs .good cyc) s = .next (s.withDev (
            s.dev.setCur p (some (onDie f die fun x => { x with
              lastLine := some line, segs := x.segs ++ [⟨line, off, unpackSamples (s.dev.frameCfg p f).depth bs⟩] }))))) ∧
        (line < 64 → exec (.opticalBlackLineSegment p die line off bs .good cyc) s = .next (s.withDev (
          s.dev.setCur p (some (onDie f die fun x => { x with
            ob := x.ob ++ [⟨line, off, (unpackSamples (s.dev.frameCfg p f).depth bs).take
              (dieW (s.dev.frameCfg p f) die - off)⟩] })))))) ∧
      (∀ (chunk : Nat) (bs : List Byte), bs.length ≤ 4096 →
        ((f.dies.getD die DieFrame.empty).embed.length + bs.length ≤ 4096 →
          exec (.embeddedData p die chunk bs .good cyc) s = .next (s.withDev (s.dev.setCur p (some (onDie f die fun x =>
            { x with embed := (f.dies.getD die DieFrame.empty).embed ++ bs }))))) ∧
        (4096 < (f.dies.getD die DieFrame.empty).embed.length + bs.length →
          exec (.embeddedData p die chunk bs .good cyc) s = .next (s.withDev (
            s.dev.setCur p (some (setStatus (onDie f die fun x =>
              { x with embed := ((f.dies.getD die DieFrame.empty).embed ++ bs).take 4096 }) stEmbedTrunc)))))) ∧
      (∀ cnt : Nat, (∃ i, i < (s.dev.frameCfg p f).dies ∧ i ≠ die.val ∧ (f.dies.getD i DieFrame.empty).trailer = false) →
        exec (.frameTrailer p die cnt 0 .good cyc) s = .next (s.withDev (
          s.dev.setCur p (some (onDie f die fun x => { x with trailer := true, hstatus := 0 }))))) ∧
      exec (.frameTimeout p cyc) s =
        .next (s.withDev ((s.dev.report 0x0013 (capEp p) (s.dev.nsAt cyc) [f.number]).endFrame p cyc))) ∧
    (∀ (d : Dev) (p cyc : Nat) (f : Frame), p < 8 → d.pipe.length = 8 → d.cap.length = 8 → (d.pipeI p).cur = some f →
      f.aborted = false →
      (((d.endFrame p cyc).pipeI p).cur = none ∨ ∃ g, ((d.endFrame p cyc).pipeI p).cur = some g ∧ g.aborted = true) ∧
      (f.status = 0 → 0 < (d.frameCfg p f).dies → mergedH (d.frameCfg p f) ≤ f.lines → f.dies.length = (d.frameCfg p f).dies →
        (∀ i, i < (d.frameCfg p f).dies → (f.dies.getD i DieFrame.empty).header = true ∧
          (f.dies.getD i DieFrame.empty).trailer = true ∧ (f.dies.getD i DieFrame.empty).oos = false ∧
          (∀ n, n < mergedH (d.frameCfg p f) → i ∈ diesOfLine (d.frameCfg p f) n →
            ∃ g ∈ (f.dies.getD i DieFrame.empty).segs, g.line = n - dieTop (d.frameCfg p f) i) ∧
          ∀ g ∈ (f.dies.getD i DieFrame.empty).segs,
            lineShort (f.dies.getD i DieFrame.empty) g.line (dieW (d.frameCfg p f) i) = false) →
        ((d.endFrame p cyc).pipeI p).cur = none ∧ ((d.endFrame p cyc).pipeI p).ended = (d.pipeI p).ended ++ [f] ∧
          (d.endFrame p cyc).faults = d.faults ∧ ((d.endFrame p cyc).capI p).dropped = (d.capI p).dropped)) ∧
    (∀ (s : State) (p : Fin 8) (n : Nat), ((s.dev.capI p).letters.find? fun l => l.seq == n) = none →
      (∀ res cyc, exec (.letterAcknowledge p n res cyc) s = .next s) ∧ exec (.letterResend p n) s = .next s ∧
      exec (.letterCutoff p n) s = .next s) ∧
    (∀ (s : State) (p : Fin 8) (n cyc : Nat) (l : Letter), ((s.dev.capI p).letters.find? fun l => l.seq == n) = some l →
      l.env = none →
      (s.dev.latency p l.cls = 0 → l.addr ≠ 0xF002 → ∃ rest, takeFirst (fun l : Letter => l.seq == n)
          (s.dev.capI p).letters = some (l, rest) ∧ exec (.letterAcknowledge p n 0 cyc) s =
            .next (s.withDev (s.dev.onCapI p fun c => { c with letters := rest }))) ∧
      (∀ res, res ≠ 0 → exec (.letterAcknowledge p n res cyc) s = exec (.letterCutoff p n) s) ∧
      exec (.letterCutoff p n) s = .next (s.withDev (
        s.dev.onCapI p fun c => { c with letters := c.letters.filter fun x => x.seq != n })) ∧
      (l.held = false → l.request = false →
        (l.resends < 3 → exec (.letterResend p n) s = .next (s.withDev ((s.dev.onCapI p fun c =>
          { c with retries := bump c.retries,
                   letters := c.letters.map fun x => if x.seq == n then { x with resends := x.resends + 1 } else x }).emit
            (.letter p n l.cls l.addr l.data)))) ∧
        (3 ≤ l.resends → exec (.letterResend p n) s = exec (.letterCutoff p n) s))) ∧
    (∀ (s : State) (p : Fin 8) (n e m : Nat) (l : Letter), ((s.dev.capI p).letters.find? fun l => l.seq == n) = some l →
      l.env = some (e, m) → e < s.dev.env.envs.length → (s.dev.envI e).phase = .sealed → (s.dev.envI e).failed = none →
      ∃ t : State, exec (.letterCutoff p n) s = .next t ∧
        (t.dev.envI e).failed = some (m, (s.dev.cutoffAt p).getD 0) ∧ (t.dev.envI e).phase = .sealed) ∧
    (∀ (s : State) (p : Fin 8) (bs : List Byte) (cyc : Nat), s.dev.cap.length = 8 →
      (64 < bs.length → exec (.headDescriptor p bs cyc) s = exec (.abort p cyc) s) ∧
      (bs.length = 64 → descValid bs = true → (s.dev.capI p).freshDesc = false → s.dev.hasCapture p = false →
        ∃ t : State, exec (.headDescriptor p bs cyc) s = .next t ∧ (t.dev.capI p).desc = bs ∧
          (t.dev.capI p).discovered = true ∧ (t.dev.capI p).silent = false ∧ (t.dev.capI p).freshDesc = true ∧
          (96 + 4 * p.val + 1, s.dev.nsAt cyc, s.dev.time.epoch.toNat) ∈ t.dev.evt.raised ∧
          t.dev.faults = s.dev.faults) ∧
      (bs.length = 64 → descValid bs = false → (s.dev.capI p).badDesc ≠ bs →
        ∃ t : State, exec (.headDescriptor p bs cyc) s = .next t ∧ (t.dev.capI p).desc = (s.dev.capI p).desc ∧
          (t.dev.capI p).discovered = (s.dev.capI p).discovered ∧ (t.dev.capI p).silent = (s.dev.capI p).silent ∧
          (t.dev.capI p).freshDesc = (s.dev.capI p).freshDesc ∧ t.dev.faults.reports = s.dev.faults.reports ++
            [⟨0x0016, s.dev.nsAt cyc, s.dev.time.epoch.toNat, capEp p, []⟩])) ∧
    (∀ (s : State) (p : Fin 8) (code : Nat) (bs : List Byte) (cyc : Nat),
      (32 < bs.length → exec (.headEvent p code bs cyc) s = exec (.abort p cyc) s) ∧
      (bs.length ≤ 32 → exec (.headEvent p code bs cyc) s = .next (s.withDev (
        (s.dev.onCapI p fun c => { c with events := lastN 16 (c.events ++ [(code % 65536, padTo 32 bs)]) }).raise
          (96 + 4 * p + 2) (s.dev.nsAt cyc))))) ∧
    (∀ (s : State) (p : Fin 8) (type cyc : Nat),
      ((s.dev.capI p).unknownSec = none → exec (.unknownPacket p type cyc) s = .next (s.withDev (
        ((s.dev.onCapI p fun c => { c with dropped := bump c.dropped }).report 0x0010 (capEp p) (s.dev.nsAt cyc)
          [type]).onCapI p fun c => { c with unknownSec := some (s.dev.nsAt cyc) }))) ∧
      ∀ x, (s.dev.capI p).unknownSec = some x → s.dev.nsAt cyc < x + 1000000000 →
        exec (.unknownPacket p type cyc) s = .next (s.withDev (
          s.dev.onCapI p fun c => { c with dropped := bump c.dropped }))) ∧
    ∀ (s : State) (p : Fin 8) (cyc : Nat), s.dev.cap.length = 8 →
      ((s.dev.linkI (.capture p)).up = false ∨ (s.dev.capI p).freshDesc = true →
        exec (.descriptorRequest p cyc) s = .next s) ∧
      ((s.dev.linkI (.capture p)).up = true → (s.dev.capI p).freshDesc = false →
        ∃ t : State, exec (.descriptorRequest p cyc) s = .next t ∧
          t.dev.out = .letter p (s.dev.capI p).seq 5 0xF000 [0] :: s.dev.out ∧
          (t.dev.capI p).requests = (s.dev.capI p).requests + 1 ∧
          (t.dev.capI p).seq = ((s.dev.capI p).seq + 1) % 65536 ∧
          ((s.dev.capI p).requests < 4 → (t.dev.capI p).silent = (s.dev.capI p).silent ∧ t.dev.faults = s.dev.faults) ∧
          (4 ≤ (s.dev.capI p).requests → (s.dev.capI p).gotAny = false → (s.dev.capI p).silent = false →
            (t.dev.capI p).silent = true ∧ t.dev.faults.reports = s.dev.faults.reports ++
              [⟨0x0015, s.dev.nsAt cyc, s.dev.time.epoch.toNat, capEp p, []⟩]))

/-- Frames complete and fill their buffers, weirs and panics, tile runs, and engine resets and tests.
PIPELINE_FRAME_COMPLETE takes the oldest gated frame out of the pipeline as the last to complete, with its
embedded data; a placement in hold loses it with a report of class 0x0020. A tap's buffer, and a statistics
block with event 184 + p, become full with the frame's postmark. A top weir drops as an overflow does: a capture
frame before its gate is marked aborted, a raster layer counts an underflow with a report. PANIC of a stream of
the panic policy counts and is raised on every channel of its pool, and CALM ends it everywhere. A frame whose
tiles are not all back does not complete. A tile run on an idle engine, or a frame-end run on the first healthy
one once its tiles have run, marks the frame; with no frame waiting, a tile past the last or no entry nothing
runs. An engine reset counts a re-issue and takes the engine out of its run, and a second within 24 hours
retires the engine. A self-test that demand cannot spare the engine for is deferred; else event 9 is raised and
a failing engine is retired with a report of class 0x0041. (01_architecture.md, 08_taps.md, 09_stats_timing.md, 10_grist.md, 17_dram.md) -/
def Obligations.PipelinesAndMills : Prop :=
  (∀ (s : State) (p : Fin 8),
      ((s.dev.pipeI p).ended = [] → exec (.pipelineFrameComplete p) s = .next s ∧
        (∀ pt tile cyc, exec (.tileRun p pt tile cyc) s = .next s) ∧
        ∀ pt c cyc, exec (.frameEndRun p pt c cyc) s = .next s) ∧
      ∀ f rest, (s.dev.pipeI p).ended = f :: rest →
        (f.gated = false ∨ s.dev.tilesBack p f = false → exec (.pipelineFrameComplete p) s = .next s) ∧
        (f.gated = true → s.dev.tilesBack p f = true → f.holding = [] → s.dev.pipe.length = 8 → s.dev.cap.length = 8 →
          ∃ t : State, exec (.pipelineFrameComplete p) s = .next t ∧ (t.dev.pipeI p).ended = rest ∧
            (t.dev.pipeI p).done = some { f with clamp := (s.dev.pipeI p).clamp } ∧
            (t.dev.capI p).embedFrame = f.number ∧ (t.dev.capI p).embed.length = 4 ∧
            ∀ i, i < f.dies.length → i < 4 →
              (t.dev.capI p).embed.getD i [] = (f.dies.getD i DieFrame.empty).embed) ∧
        (f.gated = true → s.dev.tilesBack p f = true → ∀ pt, pt < 3 → f.holding = [pt] → s.dev.pipe.length = 8 → s.dev.cap.length = 8 →
          ∃ t : State, exec (.pipelineFrameComplete p) s = .next t ∧ (t.dev.pipeI p).ended = rest ∧
            (t.dev.capI p).dropped = bump (s.dev.capI p).dropped ∧
            ∃ r ∈ t.dev.faults.reports, r.cls = 0x0020 ∧ r.detail = [320 + 8 * p + 2 * pt, f.number])) ∧
    (∀ (s : State) (p : Fin 8), (s.dev.pipeI p).done = none →
      (∀ k, exec (.tapBufferFull p k) s = .next s) ∧ exec (.statisticsBlockFull p) s = .next s) ∧
    (∀ (s : State) (p : Fin 8) (f : Frame), (s.dev.pipeI p).done = some f → s.dev.taps.length = 64 →
      s.dev.pipe.length = 8 →
      (∀ k : Fin 6, f.buf k = none → exec (.tapBufferFull p k) s = .next s) ∧
      (∀ (k : Fin 6) (o : Nat) (b : Buf), f.buf k = some o → (s.dev.ringI (8 * p + k)).byOrder o = some b →
        ∃ t : State, exec (.tapBufferFull p k) s = .next t ∧ t.dev.ringI (8 * p + k) =
          (s.dev.ringI (8 * p + k)).fill o (postmarkNat (f.stamp / 2 ^ 32) f.epoch f.number (8 * p + k)) f.pset
            (tapBytes (tapCfg f.params p k)) ∧ ∀ r, r ≠ 8 * p.val + k.val → t.dev.ringI r = s.dev.ringI r) ∧
      (f.buf 6 = none → exec (.statisticsBlockFull p) s = .next s) ∧
      ∀ (o : Nat) (b : Buf), f.buf 6 = some o → (s.dev.ringI (8 * p + 6)).byOrder o = some b →
        ∃ t : State, ∃ mark : Nat, exec (.statisticsBlockFull p) s = .next t ∧
          t.dev.ringI (8 * p + 6) = (s.dev.ringI (8 * p + 6)).fill o mark f.pset 16448 ∧
          (t.dev.pipeI p).lastBlock = some f.number ∧
          t.dev.evt.raised = s.dev.evt.raised ++ [(184 + p.val, s.dev.nowNs, s.dev.time.epoch.toNat)]) ∧
    (∀ (s : State) (race cyc : Nat), exec (.sourceBufferOverflow race cyc) s = exec (.topWeir race cyc) s) ∧
    (∀ (s : State) (p : Fin 8) (f : Frame) (cyc : Nat), s.dev.capRace p < 64 → s.dev.hasCapture p = true →
      (∀ q, q < p.val → s.dev.hasCapture q = true → s.dev.capRace q ≠ s.dev.capRace p) → (s.dev.pipeI p).cur = some f →
      f.aborted = false → f.gated = false → exec (.topWeir (s.dev.capRace p) cyc) s =
        .next (s.withDev (s.dev.setCur p (some { f with aborted := true })))) ∧
    (∀ (s : State) (race cyc : Nat), 448 ≤ race → race < 480 → s.dev.raster.length = 4 →
      ∃ t : State, exec (.topWeir race cyc) s = .next t ∧
        (t.dev.rasterI ((race - 448) / 8)).underflow = bump (s.dev.rasterI ((race - 448) / 8)).underflow ∧
        race % 8 ∈ (t.dev.rasterI ((race - 448) / 8)).dropped ∧
        t.dev.faults.reports = s.dev.faults.reports ++ [⟨0x0020, s.dev.nsAt cyc, s.dev.time.epoch.toNat,
          0x1000 + (race - 448) / 8, [race, (s.dev.rasterI ((race - 448) / 8)).frame.toNat]⟩]) ∧
    (∀ (s : State) (race : Nat), s.dev.dram.chans.length = 24 →
      ((∀ x ∈ s.dev.res.streams, x.race = race → x.policy ≠ 2) → exec (.panic race) s = .next s) ∧
      ((∃ x ∈ s.dev.res.streams, x.race = race ∧ x.policy = 2) → ∃ t : State, exec (.panic race) s = .next t ∧
        t.dev.dram.panicsCnt = bump s.dev.dram.panicsCnt ∧
        (∀ c, c ∈ s.dev.panicChannels race → c < 24 → race ∈ (t.dev.chanI c).panics) ∧
        ∀ c, c ∉ s.dev.panicChannels race → t.dev.chanI c = s.dev.chanI c) ∧
      ∃ t : State, exec (.calm race) s = .next t ∧ (∀ c, race ∉ (t.dev.chanI c).panics) ∧
        (∀ c r, r ≠ race → (r ∈ (t.dev.chanI c).panics ↔ r ∈ (s.dev.chanI c).panics)) ∧
        t = (s.withDev ({ s.dev with dram := { s.dev.dram with chans := t.dev.dram.chans } }))) ∧
    (∀ (s : State) (p : Fin 8) (pt : Fin 4) (f : Frame) (cyc e : Nat),
      let v := placedImage f.params p pt
      let im := imageOf v
      let pd := pointData f p im (develop f p (s.dev.pipeI p).clamp)
      (s.dev.pipeI p).ended = [f] → v ≠ [] → pt.val ∉ f.passing → pt.val ∉ f.holding → s.dev.pipe.length = 8 →
      (∀ tile, (pt.val, tile) ∉ f.tiles → tileCount pd.w pd.h ≤ tile → exec (.tileRun p pt tile cyc) s = .next s) ∧
      (∀ tile, (pt.val, tile) ∉ f.tiles → tile < tileCount pd.w pd.h → tile < 2 ^ 32 →
        s.dev.awaitsEnd p pt ((imageClusters im).getD (tile % (imageClusters im).length) 0) (s.dev.beatAt cyc) f = false →
        (s.dev.millI p).idleEngine ((imageClusters im).getD (tile % (imageClusters im).length) 0) (s.dev.beatAt cyc) = some e →
        ∃ t : State, exec (.tileRun p pt tile cyc) s = .next t ∧ ∃ g, (t.dev.pipeI p).ended = [g] ∧
          g.tiles = f.tiles ++ [(pt.val, tile)] ∧ g.number = f.number) ∧
      (∀ c : Fin 4, im.fe = 0xFFFF → exec (.frameEndRun p pt c cyc) s = .next s) ∧
      ∀ c : Fin 4, (pt.val, 2 ^ 32 + c.val) ∉ f.tiles → im.fe ≠ 0xFFFF → bit im.mask c = true →
        tilesDone im f pt (tileCount pd.w pd.h) c = true →
        (s.dev.millI p).busyWith pt f.number c (s.dev.beatAt cyc) = false →
        (s.dev.millI p).endEngine c (s.dev.beatAt cyc) = some e →
        ∃ t : State, exec (.frameEndRun p pt c cyc) s = .next t ∧ ∃ g, (t.dev.pipeI p).ended = [g] ∧
          g.tiles = f.tiles ++ [(pt.val, 2 ^ 32 + c.val)] ∧ g.number = f.number) ∧
    (∀ (s : State) (m : Fin 8) (c : Fin 4) (e : Fin 16) (cyc : Nat) (pass : Bool),
      (retiredIn (s.dev.millI m).retired c).getD e true = true →
      exec (.engineReset m c e cyc) s = .next s ∧ exec (.engineSelfTest m c e pass cyc) s = .next s) ∧
    ∀ (s : State) (m : Fin 8) (c : Fin 4) (e : Fin 16) (cyc : Nat),
      (retiredIn (s.dev.millI m).retired c).getD e true = false → s.dev.mills.length = 8 →
      (s.dev.millI m).retired.length = 4 →
      ((∀ r ∈ (s.dev.millI m).resets, r.1 = c.val → r.2.1 = e.val → r.2.2 + 24 ≤ s.dev.health.life.hours) →
        ((∀ b ∈ (s.dev.millI m).busy, b.cluster = c.val → b.engine ≠ e.val) →
          exec (.engineReset m c e cyc) s = .next (s.withDev (s.dev.onMillI m fun x =>
            { x with reissued := bump x.reissued, resets := (x.resets.filter fun r => !(r.1 == c.val && r.2.1 == e.val)) ++
                       [(c.val, e.val, s.dev.health.life.hours)] }))) ∧
        ∃ t : State, exec (.engineReset m c e cyc) s = .next t ∧
          (t.dev.millI m).reissued = bump (s.dev.millI m).reissued ∧
          ((t.dev.millI m).busy.find? fun b => b.cluster == c.val && b.engine == e.val) = none) ∧
      ((∃ r ∈ (s.dev.millI m).resets, r.1 = c.val ∧ r.2.1 = e.val ∧ s.dev.health.life.hours < r.2.2 + 24) →
        ∃ t : State, exec (.engineReset m c e cyc) s = .next t ∧
          (retiredIn (t.dev.millI m).retired c).getD e true = true ∧
          (t.dev.millI m).reissued = bump (s.dev.millI m).reissued) ∧
      (demandFits (clusterDemand s.dev.params m c ((s.dev.millI m).healthy c - 1)) = true →
        exec (.engineSelfTest m c e true cyc) s = .next (s.withDev (
          (s.dev.onMillI m fun x => { x with deferred := x.deferred.filter fun y => y.1 != 16 * c.val + e.val }).raise 9
            (s.dev.nsAt cyc))) ∧
        ∃ t : State, exec (.engineSelfTest m c e false cyc) s = .next t ∧
          (retiredIn (t.dev.millI m).retired c).getD e true = true ∧
          ∃ r ∈ t.dev.faults.reports, r.cls = 0x0041 ∧ r.detail = [64 * m.val + 16 * c.val + e.val]) ∧
      (demandFits (clusterDemand s.dev.params m c ((s.dev.millI m).healthy c - 1)) = false →
        ((s.dev.millI m).deferred.find? fun x => x.1 == 16 * c.val + e.val) = none → ∀ pass,
        exec (.engineSelfTest m c e pass cyc) s = .next (s.withDev (s.dev.onMillI m fun x =>
          { x with deferred := x.deferred ++ [(16 * c.val + e.val, s.dev.health.life.hours, false)] })))

/-- Refresh, temperature, training and frequency change of frame memory; frames, commits and holds of the outputs. A
due refresh owes 16 commands less those paid in advance, and is forced to half the limit when the limit is
reached: 128 commands, or 64 while the rate is doubled; idle time then pays some of what is left and at most 128
in advance. A channel that reads 2x is refreshed at it with event 15, and comes back to 1x after two reads at 1x
or less. An oscillator off by more than 3 % or ten minutes trigger retraining, which waits for calm unless it is
forced. A channel changes its set point in its turn with its debt paid and is trained for the new rate, and with
the last channel the rate changes. An output that is enabled, not retiming and no clone starts its next frame
with its descriptor, and its commit point closes the window; its fetch end sends the frame, the last good frame
when it is substituted, and starts a due retime; a retime ends with the new timing in force. A time-locked
output is locked within 100 ns and asks for a retime past 1 ms. (17_dram.md, 18_display.md) -/
def Obligations.FrameMemoryAndOutputs : Prop :=
  (∀ (s : State) (c : Fin 24), (s.dev.chanI c).populated = false → exec (.refreshDue c) s = .next s ∧
      (∀ l cyc, exec (.mr4Poll c l cyc) s = .next s) ∧ (∀ l, exec (.oscillatorPoll c l) s = .next s) ∧
      exec (.retraining c) s = .next s ∧ exec (.retrainsForced c) s = .next s) ∧
    (∀ (s : State) (c : Fin 24) (limit owed left ahead : Nat), (s.dev.chanI c).populated = true →
      s.dev.dram.chans.length = 24 → limit = (if 8 ≤ (s.dev.chanI c).mult then 64 else 128) →
      owed = (s.dev.chanI c).debt + (16 - (s.dev.chanI c).ahead) →
      left = (if owed < limit then owed else limit / 2) → ahead = (s.dev.chanI c).ahead - 16 →
      ∃ (t : State) (k : Nat), exec (.refreshDue c) s = .next t ∧ k ≤ left + (128 - ahead) ∧
        t.dev.chanI c = { s.dev.chanI c with debt := left - k, ahead := ahead + (k - left) } ∧
        (∀ b, b ≠ c.val → t.dev.chanI b = s.dev.chanI b) ∧
        t.dev.out = (if k = 0 then [] else [.refresh c k]) ++
          (if owed < limit then [] else [.refresh c (owed - limit / 2)]) ++ s.dev.out ∧
        t.dev.dram.forcedRef = (if owed < limit ∨ (s.dev.chanI c).panics = [] then s.dev.dram.forcedRef
          else bump s.dev.dram.forcedRef) ∧
        t = s.withDev { s.dev with dram := t.dev.dram, out := t.dev.out, fresh := s.dev.fresh + 1 }) ∧
    (∀ (s : State) (c : Fin 24) (l : List Nat) (cyc : Nat), (s.dev.chanI c).populated = true →
      s.dev.dram.chans.length = 24 →
      (maxOf l = 8 → (s.dev.chanI c).mult = 4 → ∃ t : State, exec (.mr4Poll c l cyc) s = .next t ∧
        (t.dev.chanI c).mult = 8 ∧ (t.dev.chanI c).cool = 0 ∧ (t.dev.chanI c).debt = min 64 (s.dev.chanI c).debt ∧
        t.dev.evt.raised = s.dev.evt.raised ++ [(15, s.dev.nsAt cyc, s.dev.time.epoch.toNat)] ∧
        t.dev.faults = s.dev.faults) ∧
      (8 < maxOf l → (s.dev.chanI c).mult = 8 → ∃ t : State, exec (.mr4Poll c l cyc) s = .next t ∧
        (t.dev.chanI c).mult = maxOf l ∧ t.dev.faults.reports = s.dev.faults.reports ++
          [⟨0x0071, s.dev.nsAt cyc, s.dev.time.epoch.toNat, 0x0F00, [c.val, maxOf l]⟩]) ∧
      (maxOf l ≤ 4 → (s.dev.chanI c).cool = 0 → exec (.mr4Poll c l cyc) s =
        .next (s.withDev (s.dev.onChanI c fun x => { x with cool := 1 }))) ∧
      (maxOf l ≤ 4 → (s.dev.chanI c).cool = 1 → (s.dev.chanI c).mult = 8 → exec (.mr4Poll c l cyc) s =
        .next (s.withDev ((s.dev.onChanI c fun x => { x with cool := 2, mult := 4 }).raise 15 (s.dev.nsAt cyc))))) ∧
    (∀ (s : State) (c : Fin 24) (a b : Nat), (s.dev.chanI c).populated = true → (s.dev.chanI c).oscBase = [a] →
      s.dev.dram.chans.length = 24 → s.dev.tick.tclk < (s.dev.chanI c).trainedAt + 600 * 125000000 →
      exec (.oscillatorPoll c [b]) s = .next (s.withDev (s.dev.onChanI c fun x => { x with
        oscLast := [b], retrain := x.retrain || decide (3 * a < 100 * (if a ≤ b then b - a else a - b)) }))) ∧
    (∀ (s : State) (c : Fin 24), (s.dev.chanI c).populated = true →
      ((s.dev.chanI c).retrain = false → exec (.retraining c) s = .next s ∧ exec (.retrainsForced c) s = .next s) ∧
      ((s.dev.chanI c).retrain = true → (s.dev.chanI c).retrainForced = false →
        ((s.dev.chanI c).panics ≠ [] ∨ 64 ≤ (s.dev.chanI c).debt → exec (.retraining c) s = .next s) ∧
        exec (.retrainsForced c) s = .next (s.withDev (
          (s.dev.onChanI c fun x => { x with retrainForced := true }).onDram fun x =>
            { x with retrForced := bump x.retrForced }))) ∧
      ((s.dev.chanI c).retrain = true → (s.dev.chanI c).retrainForced = true ∨
          ((s.dev.chanI c).panics = [] ∧ (s.dev.chanI c).debt < 64) → s.dev.dram.chans.length = 24 →
        ∃ t : State, exec (.retraining c) s = .next t ∧ (t.dev.chanI c).retrain = false ∧
          (t.dev.chanI c).retrainForced = false ∧ (t.dev.chanI c).oscBase = (s.dev.chanI c).oscLast ∧
          (t.dev.chanI c).trainedAt = s.dev.tick.tclk ∧ s.dev.dram.rate.toNat ∈ (t.dev.chanI c).trained ∧
          t.dev.evt.raised = s.dev.evt.raised ++ [(9, s.dev.nowNs, s.dev.time.epoch.toNat)])) ∧
    (∀ (s : State) (c : Fin 24), s.dev.dram.chans.length = 24 →
      (nextSwitch s.dev.dram ≠ some c.val → exec (.frequencyChange c) s = .next s) ∧
      ∀ rate, nextSwitch s.dev.dram = some c.val → s.dev.dram.target = some rate → rate < 2 ^ 16 →
        ∃ t : State, exec (.frequencyChange c) s = .next t ∧ (t.dev.chanI c).debt = 0 ∧
          (t.dev.chanI c).setB = !(s.dev.chanI c).setB ∧ rate ∈ (t.dev.chanI c).trained ∧
          ((∃ b, b ≠ c.val ∧ b ∈ populated s.dev.dram ∧ (s.dev.chanI b).setB = s.dev.dram.setB) →
            t.dev.dram.rate = s.dev.dram.rate ∧ t.dev.dram.switching = true ∧ t.dev.dram.setB = s.dev.dram.setB) ∧
          ((∀ b, b ≠ c.val → b ∈ populated s.dev.dram → (s.dev.chanI b).setB ≠ s.dev.dram.setB) →
            t.dev.dram.rate.toNat = rate ∧ t.dev.dram.setB = !s.dev.dram.setB ∧
            (s.dev.dram.nextRate = none → t.dev.dram.switching = false ∧ t.dev.dram.target = none))) ∧
    (∀ (s : State) (o : Fin 4) (cyc : Nat),
      ((s.dev.rasterI o).enabled = false ∨ (s.dev.masterOf o).isSome = true →
        exec (.rasterFrameStart o cyc) s = .next s ∧ exec (.commitPoint o cyc) s = .next s ∧
        ∀ e, exec (.timeLockSteer o e) s = .next s) ∧
      ((s.dev.rasterI o).enabled = true → (s.dev.masterOf o).isSome = false → s.dev.withClones o = [o.val] →
        ((s.dev.rasterI o).retiming = true → exec (.rasterFrameStart o cyc) s = .next s) ∧
        ((s.dev.rasterI o).retiming = false → (s.dev.linkI (.raster o)).up = true →
          exec (.rasterFrameStart o cyc) s = .next (s.withDev (
            (s.dev.onRasterI o fun r => { r with
              frame := (s.dev.rasterI o).frame + 1, line := 0, window := true,
              timingNew := false }).emit
              (.raster o ((s.dev.rasterI o).frame + 1).toNat (timingDescriptor (s.dev.rasB o 1) (s.dev.rasDepth o)
                ((s.dev.rasterI o).frame + 1).toNat (s.dev.rasterI o).timingNew))))) ∧
        ((s.dev.rasterI o).window = false → exec (.commitPoint o cyc) s = .next s) ∧
        ((s.dev.rasterI o).window = true → exec (.commitPoint o cyc) s = .next (s.withDev (
          (s.dev.onRasterI o fun r =>
            { r with window := false, line := BitVec.ofNat 13 ((s.dev.rasTiming o).vBlank - 8) }).onTick fun t =>
              { t with commits := t.commits ++ [(o.val, s.dev.timeAt cyc)] }))) ∧
        ∀ e : Int,
          (u8 (s.dev.rasB o 3) 0 ≠ 1 → exec (.timeLockSteer o e) s = .next s) ∧
          (u8 (s.dev.rasB o 3) 0 = 1 → exec (.timeLockSteer o e) s = .next (s.withDev (
            s.dev.onRasterI o fun r => { r with lockErr := e, locked := decide (e.natAbs ≤ 100),
                                                retimeDue := r.retimeDue || decide (1000000 < e.natAbs) }))))) ∧
    (∀ (s : State) (o : Fin 4) (cyc : Nat),
      ((s.dev.rasterI o).fetching = false → exec (.fetchEnd o cyc) s = .next s) ∧
      ((s.dev.rasterI o).retiming = false → exec (.retimeEnd o cyc) s = .next s) ∧
      (s.dev.withClones o = [o.val] → s.dev.raster.length = 4 →
        ((s.dev.rasterI o).retiming = true → ∃ t : State, exec (.retimeEnd o cyc) s = .next t ∧
          (t.dev.rasterI o).retiming = false ∧ (t.dev.rasterI o).timingNew = true ∧ (t.dev.rasterI o).next = [] ∧
          (t.dev.rasterI o).force = (s.dev.rasterI o).next.foldl (fun f kv => setPar f kv.1 kv.2) (s.dev.rasterI o).force) ∧
        ((s.dev.rasterI o).fetching = true → (s.dev.linkI (.raster o)).up = true → (s.dev.rasterI o).subst = true →
          (s.dev.rasterI o).holdValid = true → ∃ t : State, exec (.fetchEnd o cyc) s = .next t ∧
            t.dev.out = .pixels o (s.dev.rasterI o).frame.toNat
              ((s.dev.rasterI o).lastGood.map (linkCode (s.dev.rasDepth o))) :: s.dev.out ∧
            (t.dev.rasterI o).fetching = false ∧ (t.dev.rasterI o).retiming =
              ((s.dev.rasterI o).retiming || (s.dev.rasterI o).retimeDue)) ∧
        ((s.dev.rasterI o).fetching = true → (s.dev.linkI (.raster o)).up = true → (s.dev.rasterI o).subst = false →
          (s.dev.rasterI o).dropped = [] → (∀ l, l < 4 → s.dev.hostLayer o l = false) →
          ∃ t : State, exec (.fetchEnd o cyc) s = .next t ∧
            t.dev.out = .pixels o (s.dev.rasterI o).frame.toNat
              ((s.dev.composed o).map (linkCode (s.dev.rasDepth o))) :: s.dev.out ∧
            (t.dev.rasterI o).fetching = false ∧ (t.dev.rasterI o).torn = (s.dev.rasterI o).torn ∧
            ∀ x ∈ t.dev.health.interrupted, x.1 = 0x1000 + o.val → (s.dev.rasterI o).retimeDue = true)))

/-- Starts, periods and playout of the audio ports, their clocks, AES3 receivers and steering. An enabled port that
is asked to start starts at its frame sync with index 0 and event 252 + port. A running input's index advances
by its period at each boundary, and the next period begins there. A running output whose host ring has nothing
for its due index sends a period of zeros, sets UNDERRUN and counts it. A channel that has not crossed zero
takes its pending gain at the timeout, which is counted. A clock off for ten windows in a row stops its ports
with RATE_WRONG and a report of class 0x0080; one window off followed by a nominal one is a glitch of its
running inputs. A stopped clock unlocks its ports, its return locks them, and a stop above 1 s stops them until
they are enabled again. An AES3 block out of place is counted; good blocks of both channels are stored, and read
by READ_AES3_CHANNEL_STATUS from a locked receiver. In mode hold, steering outputs the hold value; else
mid-range + Kp e + Ki times the sum of e, clamped to 16 bits. (14_dockets.md, 19_audio.md) -/
def Obligations.AudioPortsAndClocks : Prop :=
  (∀ (s : State) (p : Fin 28) (cyc : Nat), s.dev.audio.ports.length = 28 →
      ((s.dev.portI p).enabled = false ∨ (s.dev.portI p).startReq = false ∨ (s.dev.portI p).running = true ∨
          (s.dev.portI p).needEnable = true ∨ s.dev.halted = true → exec (.audioPortStart p cyc) s = .next s) ∧
      ((s.dev.portI p).enabled = true → (s.dev.portI p).startReq = true → (s.dev.portI p).running = false →
        (s.dev.portI p).needEnable = false → s.dev.halted = false → ∃ t : State, exec (.audioPortStart p cyc) s = .next t ∧
          (t.dev.portI p).running = true ∧ (t.dev.portI p).startReq = false ∧ (t.dev.portI p).index = 0 ∧
          (t.dev.portI p).started = s.dev.timeAt cyc ∧ (t.dev.portI p).since = s.dev.timeAt cyc ∧
          t.dev.evt.raised = s.dev.evt.raised ++ [(252 + p.val, s.dev.nsAt cyc, s.dev.time.epoch.toNat)])) ∧
    (∀ (s : State) (p : Fin 28) (l : List Word) (cyc : Nat), s.dev.audio.ports.length = 28 →
      (isOut p = true ∨ (s.dev.portI p).running = false → exec (.audioPeriodBoundary p l cyc) s = .next s) ∧
      (isOut p = false ∨ (s.dev.portI p).running = false → exec (.audioFetchLead p cyc) s = .next s) ∧
      (isOut p = false → (s.dev.portI p).running = true → ∃ t : State, exec (.audioPeriodBoundary p l cyc) s = .next t ∧
        (t.dev.portI p).index = (s.dev.portI p).index + BitVec.ofNat 64 (s.dev.portPeriod p) ∧
        (t.dev.portI p).since = s.dev.timeAt cyc ∧ (t.dev.portI p).running = true ∧
        (t.dev.portI p).pendGain = [] ∧ (t.dev.portI p).fillPos = 0)) ∧
    (∀ (s : State) (p : Fin 28) (cyc : Nat), (p = 25 ∨ p = 27) → s.dev.audio.ports.length = 28 →
      (s.dev.portI p).running = true → (s.dev.portI p).source = 0xFFFF → (s.dev.portI p).newSource = none →
      (s.dev.ringI (ringAudio + p)).bufs = [] → ∃ t : State, exec (.audioFetchLead p cyc) s = .next t ∧
        t.dev.out = .audio p (List.replicate (s.dev.portPeriod p * s.dev.portChannels p) 0) :: s.dev.out ∧
        (t.dev.portI p).underrun = true ∧ (t.dev.portI p).underruns = bump (s.dev.portI p).underruns ∧
        (t.dev.portI p).index = BitVec.ofNat 64 (s.dev.portI p).due ∧
        (t.dev.portI p).due = (s.dev.portI p).due + s.dev.portPeriod p ∧
        (252 + p.val, s.dev.nsAt cyc, s.dev.time.epoch.toNat) ∈ t.dev.evt.raised) ∧
    (∀ (s : State) (p : Fin 28) (ch : Fin 16), s.dev.audio.ports.length = 28 → (s.dev.portI p).newSource = none →
      ((∀ y ∈ (s.dev.portI p).pendGain, y.1 ≠ ch.val) ∨ isOut p = false →
        exec (.zeroCrossingTimeout p ch) s = .next s) ∧
      ∀ g m, isOut p = true → (s.dev.portI p).pendGain = [(ch.val, g, m)] → (s.dev.portI p).gainNow.length = 16 →
        ∃ t : State, exec (.zeroCrossingTimeout p ch) s = .next t ∧ (t.dev.portI p).gain ch = (g, m) ∧
          (t.dev.portI p).pendGain = [] ∧ (t.dev.portI p).zcTimeouts = bump (s.dev.portI p).zcTimeouts) ∧
    (∀ (s : State) (c : AudioClock) (cyc : Nat), s.dev.audio.ports.length = 28 → s.dev.audio.domains.length = 2 →
      (s.dev.offRun c + 1 ≠ 10 → exec (.audioClockWindow c .off cyc) s =
        .next (s.withDev (s.dev.setOffRun c (s.dev.offRun c + 1)))) ∧
      (s.dev.offRun c + 1 = 10 → ∃ t : State, exec (.audioClockWindow c .off cyc) s = .next t ∧
        (∀ p, p ∈ clockPorts c → (t.dev.portI p).running = false) ∧
        (∀ p, p ∈ clockPorts c → (s.dev.portI p).running = true →
          (t.dev.portI p).rateWrong = true ∧ (t.dev.portI p).needEnable = true) ∧
        ∃ r ∈ t.dev.faults.reports, r.cls = 0x0080 ∧ r.detail = [clockCode c]) ∧
      (s.dev.offRun c ≠ 1 → (∀ n, c = .aes3 n → exec (.audioClockWindow c .nominal cyc) s =
          .next (s.withDev (s.dev.setOffRun c 0))) ∧
        ((∀ n, c ≠ .aes3 n) → ∃ t : State, exec (.audioClockWindow c .nominal cyc) s = .next t ∧ t.dev.offRun c = 0 ∧
          (t.dev.domI (clockCode c)).clockOk = true ∧ ∀ p, p ∈ clockPorts c → (t.dev.portI p).locked = true)) ∧
      (s.dev.offRun c = 1 → ∃ t : State, exec (.audioClockWindow c .nominal cyc) s = .next t ∧ t.dev.offRun c = 0 ∧
        ∀ p, p ∈ clockPorts c → (t.dev.portI p).glitches =
          if (s.dev.portI p).running = true ∧ isOut p = false then bump (s.dev.portI p).glitches
          else (s.dev.portI p).glitches)) ∧
    (∀ (s : State) (c : AudioClock) (cyc : Nat), s.dev.audio.ports.length = 28 → s.dev.audio.domains.length = 2 →
      (∃ t : State, exec (.clockStop c cyc) s = .next t ∧ (∀ p, p ∈ clockPorts c → (t.dev.portI p).locked = false ∧
          (t.dev.portI p).running = (s.dev.portI p).running ∧
          ((s.dev.portI p).running = true → (t.dev.portI p).stopAt = some (s.dev.timeAt cyc))) ∧
        ((∀ n, c ≠ .aes3 n) → (t.dev.domI (clockCode c)).clockOk = false ∧
          (280 + clockCode c, s.dev.nsAt cyc, s.dev.time.epoch.toNat) ∈ t.dev.evt.raised)) ∧
      (∀ missed, ∃ t : State, exec (.clockReturn c missed cyc) s = .next t ∧
        (∀ p, p ∈ clockPorts c → (t.dev.portI p).locked = true ∧ (t.dev.portI p).stopAt = none ∧
          ((s.dev.portI p).running = true → (s.dev.portI p).stopAt.isSome = true → isOut p = false →
            (t.dev.portI p).fillLeft = (s.dev.portI p).fillLeft + missed)) ∧
        ((∀ n, c ≠ .aes3 n) → (t.dev.domI (clockCode c)).clockOk = true)) ∧
      ∃ t : State, exec (.longStop c cyc) s = .next t ∧
        (∀ p, p ∈ clockPorts c → (t.dev.portI p).running = false ∧
          ((s.dev.portI p).running = true → (t.dev.portI p).needEnable = true)) ∧
        ∃ r ∈ t.dev.faults.reports, r.cls = 0x0080 ∧ r.detail = [clockCode c]) ∧
    (∀ (s : State) (n : Fin 4) (rate : Nat) (a b : List Byte), s.dev.audio.ports.length = 28 →
      exec (.aes3Lock n rate) s = .next (s.withDev (s.dev.onPortI (16 + n) fun x =>
        { x with locked := true, rateHz := BitVec.ofNat 18 rate })) ∧
      exec (.aes3Block n false a b) s = .next (s.withDev (
        (s.dev.onPortI (16 + n) fun x => { x with csErrors := bump x.csErrors }).raise (252 + (16 + n)) s.dev.nowNs)) ∧
      (a.length = 24 → b.length = 24 → statusGood a = true → statusGood b = true → ∃ t : State,
        exec (.aes3Block n true a b) s = .next t ∧ (t.dev.portI (16 + n)).goodCs = a ++ b ∧
        (t.dev.portI (16 + n)).csErrors = (s.dev.portI (16 + n)).csErrors ∧ t.dev.evt = s.dev.evt)) ∧
    (∀ (s : State) (k : Docket), s.dev.runsHere k [(8, 8)] →
      (3 < u8 k.bytes 8 → exec (.readAes3ChannelStatus k) s = .next (s.after k fun d => d.finish k 0x0203)) ∧
      (u8 k.bytes 8 ≤ 3 →
        ((s.dev.portI (16 + u8 k.bytes 8)).locked = false →
          exec (.readAes3ChannelStatus k) s = .next (s.after k fun d => d.finish k 0x8701)) ∧
        ((s.dev.portI (16 + u8 k.bytes 8)).locked = true →
          exec (.readAes3ChannelStatus k) s = .next (s.after k fun d =>
            d.finish k 0 (padTo 24 (s.dev.portI (16 + u8 k.bytes 8)).goodCs))))) ∧
    ∀ (s : State) (tx cyc : Nat), s.dev.audio.domains.length = 2 →
      (s.dev.parN 0x11 28 1 = 0 → exec (.steeringUpdate tx cyc) s = .next (s.withDev (s.dev.onDomI 0 fun m =>
        { m with control := BitVec.ofNat 16 (s.dev.parN 0x11 28 4), steerLocked := false, lockRun := 0, atLimit := false }))) ∧
      ∀ t0, s.dev.parN 0x11 28 1 = 1 → (s.dev.domI 0).startT = some t0 →
        let e : Int := (tx : Int) * (2 ^ 32 * 1000000000) - (s.dev.domFs 0 : Int) * ((s.dev.timeAt cyc : Int) - t0)
        let gains := s.dev.par (pkey 0x11 28 3)
        let c : Int := 0x8000 + roundAway ((u16 gains 0 : Int) * e + u16 gains 2 * ((s.dev.domI 0).integral + e))
          (256 * (2 ^ 32 * 1000000000))
        ∃ t : State, exec (.steeringUpdate tx cyc) s = .next t ∧ (t.dev.domI 0).error = e ∧
          (t.dev.domI 0).integral = (s.dev.domI 0).integral + e ∧
          ((t.dev.domI 0).control.toNat : Int) = max 0 (min 0xFFFF c) ∧
          (c < 0 ∨ 0xFFFF < c → (t.dev.domI 0).clamped = true ∧ ((s.dev.domI 0).atLimit = false →
            t.dev.faults.reports = s.dev.faults.reports ++
              [⟨0x0081, s.dev.nsAt cyc, s.dev.time.epoch.toNat, 0x111C, []⟩]))
end

