-- ==== Sys2Proof/Laws/State.lean ====
section
/-!
SUPPORT. One lemma per field per update of the state, true by unfolding the record, so that no proof unfolds one.
-/
namespace Sys2Proof.Machine

@[simp] theorem Dev.onTick_tick (d : Dev) (f : TickSt → TickSt) : (d.onTick f).tick = f d.tick := rfl
@[simp] theorem Dev.onTick_time (d : Dev) (f : TickSt → TickSt) : (d.onTick f).time = d.time := rfl
@[simp] theorem Dev.onTick_gov (d : Dev) (f : TickSt → TickSt) : (d.onTick f).gov = d.gov := rfl
@[simp] theorem Dev.onTick_res (d : Dev) (f : TickSt → TickSt) : (d.onTick f).res = d.res := rfl
@[simp] theorem Dev.onTick_env (d : Dev) (f : TickSt → TickSt) : (d.onTick f).env = d.env := rfl
@[simp] theorem Dev.onTick_lanes (d : Dev) (f : TickSt → TickSt) : (d.onTick f).lanes = d.lanes := rfl
@[simp] theorem Dev.onTick_cap (d : Dev) (f : TickSt → TickSt) : (d.onTick f).cap = d.cap := rfl
@[simp] theorem Dev.onTick_pipe (d : Dev) (f : TickSt → TickSt) : (d.onTick f).pipe = d.pipe := rfl
@[simp] theorem Dev.onTick_taps (d : Dev) (f : TickSt → TickSt) : (d.onTick f).taps = d.taps := rfl
@[simp] theorem Dev.onTick_mills (d : Dev) (f : TickSt → TickSt) : (d.onTick f).mills = d.mills := rfl
@[simp] theorem Dev.onTick_enc (d : Dev) (f : TickSt → TickSt) : (d.onTick f).enc = d.enc := rfl
@[simp] theorem Dev.onTick_encRings (d : Dev) (f : TickSt → TickSt) : (d.onTick f).encRings = d.encRings := rfl
@[simp] theorem Dev.onTick_dec (d : Dev) (f : TickSt → TickSt) : (d.onTick f).dec = d.dec := rfl
@[simp] theorem Dev.onTick_decRings (d : Dev) (f : TickSt → TickSt) : (d.onTick f).decRings = d.decRings := rfl
@[simp] theorem Dev.onTick_bolt (d : Dev) (f : TickSt → TickSt) : (d.onTick f).bolt = d.bolt := rfl
@[simp] theorem Dev.onTick_boltRings (d : Dev) (f : TickSt → TickSt) : (d.onTick f).boltRings = d.boltRings := rfl
@[simp] theorem Dev.onTick_host (d : Dev) (f : TickSt → TickSt) : (d.onTick f).host = d.host := rfl
@[simp] theorem Dev.onTick_params (d : Dev) (f : TickSt → TickSt) : (d.onTick f).params = d.params := rfl
@[simp] theorem Dev.onTick_mem (d : Dev) (f : TickSt → TickSt) : (d.onTick f).mem = d.mem := rfl
@[simp] theorem Dev.onTick_hostMem (d : Dev) (f : TickSt → TickSt) : (d.onTick f).hostMem = d.hostMem := rfl
@[simp] theorem Dev.onTick_out (d : Dev) (f : TickSt → TickSt) : (d.onTick f).out = d.out := rfl
@[simp] theorem Dev.onTick_store (d : Dev) (f : TickSt → TickSt) : (d.onTick f).store = d.store := rfl
@[simp] theorem Dev.onTick_dram (d : Dev) (f : TickSt → TickSt) : (d.onTick f).dram = d.dram := rfl
@[simp] theorem Dev.onTick_raster (d : Dev) (f : TickSt → TickSt) : (d.onTick f).raster = d.raster := rfl
@[simp] theorem Dev.onTick_audio (d : Dev) (f : TickSt → TickSt) : (d.onTick f).audio = d.audio := rfl
@[simp] theorem Dev.onTick_audioRings (d : Dev) (f : TickSt → TickSt) : (d.onTick f).audioRings = d.audioRings := rfl
@[simp] theorem Dev.onTick_chain (d : Dev) (f : TickSt → TickSt) : (d.onTick f).chain = d.chain := rfl
@[simp] theorem Dev.onTick_evt (d : Dev) (f : TickSt → TickSt) : (d.onTick f).evt = d.evt := rfl
@[simp] theorem Dev.onTick_faults (d : Dev) (f : TickSt → TickSt) : (d.onTick f).faults = d.faults := rfl
@[simp] theorem Dev.onTick_health (d : Dev) (f : TickSt → TickSt) : (d.onTick f).health = d.health := rfl
@[simp] theorem Dev.onTick_boot (d : Dev) (f : TickSt → TickSt) : (d.onTick f).boot = d.boot := rfl
@[simp] theorem Dev.onTick_fresh (d : Dev) (f : TickSt → TickSt) : (d.onTick f).fresh = d.fresh := rfl

@[simp] theorem Dev.onTime_tick (d : Dev) (f : TimeSt → TimeSt) : (d.onTime f).tick = d.tick := rfl
@[simp] theorem Dev.onTime_time (d : Dev) (f : TimeSt → TimeSt) : (d.onTime f).time = f d.time := rfl
@[simp] theorem Dev.onTime_gov (d : Dev) (f : TimeSt → TimeSt) : (d.onTime f).gov = d.gov := rfl
@[simp] theorem Dev.onTime_res (d : Dev) (f : TimeSt → TimeSt) : (d.onTime f).res = d.res := rfl
@[simp] theorem Dev.onTime_env (d : Dev) (f : TimeSt → TimeSt) : (d.onTime f).env = d.env := rfl
@[simp] theorem Dev.onTime_lanes (d : Dev) (f : TimeSt → TimeSt) : (d.onTime f).lanes = d.lanes := rfl
@[simp] theorem Dev.onTime_cap (d : Dev) (f : TimeSt → TimeSt) : (d.onTime f).cap = d.cap := rfl
@[simp] theorem Dev.onTime_pipe (d : Dev) (f : TimeSt → TimeSt) : (d.onTime f).pipe = d.pipe := rfl
@[simp] theorem Dev.onTime_taps (d : Dev) (f : TimeSt → TimeSt) : (d.onTime f).taps = d.taps := rfl
@[simp] theorem Dev.onTime_mills (d : Dev) (f : TimeSt → TimeSt) : (d.onTime f).mills = d.mills := rfl
@[simp] theorem Dev.onTime_enc (d : Dev) (f : TimeSt → TimeSt) : (d.onTime f).enc = d.enc := rfl
@[simp] theorem Dev.onTime_encRings (d : Dev) (f : TimeSt → TimeSt) : (d.onTime f).encRings = d.encRings := rfl
@[simp] theorem Dev.onTime_dec (d : Dev) (f : TimeSt → TimeSt) : (d.onTime f).dec = d.dec := rfl
@[simp] theorem Dev.onTime_decRings (d : Dev) (f : TimeSt → TimeSt) : (d.onTime f).decRings = d.decRings := rfl
@[simp] theorem Dev.onTime_bolt (d : Dev) (f : TimeSt → TimeSt) : (d.onTime f).bolt = d.bolt := rfl
@[simp] theorem Dev.onTime_boltRings (d : Dev) (f : TimeSt → TimeSt) : (d.onTime f).boltRings = d.boltRings := rfl
@[simp] theorem Dev.onTime_host (d : Dev) (f : TimeSt → TimeSt) : (d.onTime f).host = d.host := rfl
@[simp] theorem Dev.onTime_params (d : Dev) (f : TimeSt → TimeSt) : (d.onTime f).params = d.params := rfl
@[simp] theorem Dev.onTime_mem (d : Dev) (f : TimeSt → TimeSt) : (d.onTime f).mem = d.mem := rfl
@[simp] theorem Dev.onTime_hostMem (d : Dev) (f : TimeSt → TimeSt) : (d.onTime f).hostMem = d.hostMem := rfl
@[simp] theorem Dev.onTime_out (d : Dev) (f : TimeSt → TimeSt) : (d.onTime f).out = d.out := rfl
@[simp] theorem Dev.onTime_store (d : Dev) (f : TimeSt → TimeSt) : (d.onTime f).store = d.store := rfl
@[simp] theorem Dev.onTime_dram (d : Dev) (f : TimeSt → TimeSt) : (d.onTime f).dram = d.dram := rfl
@[simp] theorem Dev.onTime_raster (d : Dev) (f : TimeSt → TimeSt) : (d.onTime f).raster = d.raster := rfl
@[simp] theorem Dev.onTime_audio (d : Dev) (f : TimeSt → TimeSt) : (d.onTime f).audio = d.audio := rfl
@[simp] theorem Dev.onTime_audioRings (d : Dev) (f : TimeSt → TimeSt) : (d.onTime f).audioRings = d.audioRings := rfl
@[simp] theorem Dev.onTime_chain (d : Dev) (f : TimeSt → TimeSt) : (d.onTime f).chain = d.chain := rfl
@[simp] theorem Dev.onTime_evt (d : Dev) (f : TimeSt → TimeSt) : (d.onTime f).evt = d.evt := rfl
@[simp] theorem Dev.onTime_faults (d : Dev) (f : TimeSt → TimeSt) : (d.onTime f).faults = d.faults := rfl
@[simp] theorem Dev.onTime_health (d : Dev) (f : TimeSt → TimeSt) : (d.onTime f).health = d.health := rfl
@[simp] theorem Dev.onTime_boot (d : Dev) (f : TimeSt → TimeSt) : (d.onTime f).boot = d.boot := rfl
@[simp] theorem Dev.onTime_fresh (d : Dev) (f : TimeSt → TimeSt) : (d.onTime f).fresh = d.fresh := rfl

@[simp] theorem Dev.onGov_tick (d : Dev) (f : GovSt → GovSt) : (d.onGov f).tick = d.tick := rfl
@[simp] theorem Dev.onGov_time (d : Dev) (f : GovSt → GovSt) : (d.onGov f).time = d.time := rfl
@[simp] theorem Dev.onGov_gov (d : Dev) (f : GovSt → GovSt) : (d.onGov f).gov = f d.gov := rfl
@[simp] theorem Dev.onGov_res (d : Dev) (f : GovSt → GovSt) : (d.onGov f).res = d.res := rfl
@[simp] theorem Dev.onGov_env (d : Dev) (f : GovSt → GovSt) : (d.onGov f).env = d.env := rfl
@[simp] theorem Dev.onGov_lanes (d : Dev) (f : GovSt → GovSt) : (d.onGov f).lanes = d.lanes := rfl
@[simp] theorem Dev.onGov_cap (d : Dev) (f : GovSt → GovSt) : (d.onGov f).cap = d.cap := rfl
@[simp] theorem Dev.onGov_pipe (d : Dev) (f : GovSt → GovSt) : (d.onGov f).pipe = d.pipe := rfl
@[simp] theorem Dev.onGov_taps (d : Dev) (f : GovSt → GovSt) : (d.onGov f).taps = d.taps := rfl
@[simp] theorem Dev.onGov_mills (d : Dev) (f : GovSt → GovSt) : (d.onGov f).mills = d.mills := rfl
@[simp] theorem Dev.onGov_enc (d : Dev) (f : GovSt → GovSt) : (d.onGov f).enc = d.enc := rfl
@[simp] theorem Dev.onGov_encRings (d : Dev) (f : GovSt → GovSt) : (d.onGov f).encRings = d.encRings := rfl
@[simp] theorem Dev.onGov_dec (d : Dev) (f : GovSt → GovSt) : (d.onGov f).dec = d.dec := rfl
@[simp] theorem Dev.onGov_decRings (d : Dev) (f : GovSt → GovSt) : (d.onGov f).decRings = d.decRings := rfl
@[simp] theorem Dev.onGov_bolt (d : Dev) (f : GovSt → GovSt) : (d.onGov f).bolt = d.bolt := rfl
@[simp] theorem Dev.onGov_boltRings (d : Dev) (f : GovSt → GovSt) : (d.onGov f).boltRings = d.boltRings := rfl
@[simp] theorem Dev.onGov_host (d : Dev) (f : GovSt → GovSt) : (d.onGov f).host = d.host := rfl
@[simp] theorem Dev.onGov_params (d : Dev) (f : GovSt → GovSt) : (d.onGov f).params = d.params := rfl
@[simp] theorem Dev.onGov_mem (d : Dev) (f : GovSt → GovSt) : (d.onGov f).mem = d.mem := rfl
@[simp] theorem Dev.onGov_hostMem (d : Dev) (f : GovSt → GovSt) : (d.onGov f).hostMem = d.hostMem := rfl
@[simp] theorem Dev.onGov_out (d : Dev) (f : GovSt → GovSt) : (d.onGov f).out = d.out := rfl
@[simp] theorem Dev.onGov_store (d : Dev) (f : GovSt → GovSt) : (d.onGov f).store = d.store := rfl
@[simp] theorem Dev.onGov_dram (d : Dev) (f : GovSt → GovSt) : (d.onGov f).dram = d.dram := rfl
@[simp] theorem Dev.onGov_raster (d : Dev) (f : GovSt → GovSt) : (d.onGov f).raster = d.raster := rfl
@[simp] theorem Dev.onGov_audio (d : Dev) (f : GovSt → GovSt) : (d.onGov f).audio = d.audio := rfl
@[simp] theorem Dev.onGov_audioRings (d : Dev) (f : GovSt → GovSt) : (d.onGov f).audioRings = d.audioRings := rfl
@[simp] theorem Dev.onGov_chain (d : Dev) (f : GovSt → GovSt) : (d.onGov f).chain = d.chain := rfl
@[simp] theorem Dev.onGov_evt (d : Dev) (f : GovSt → GovSt) : (d.onGov f).evt = d.evt := rfl
@[simp] theorem Dev.onGov_faults (d : Dev) (f : GovSt → GovSt) : (d.onGov f).faults = d.faults := rfl
@[simp] theorem Dev.onGov_health (d : Dev) (f : GovSt → GovSt) : (d.onGov f).health = d.health := rfl
@[simp] theorem Dev.onGov_boot (d : Dev) (f : GovSt → GovSt) : (d.onGov f).boot = d.boot := rfl
@[simp] theorem Dev.onGov_fresh (d : Dev) (f : GovSt → GovSt) : (d.onGov f).fresh = d.fresh := rfl

@[simp] theorem Dev.onRes_tick (d : Dev) (f : ResSt → ResSt) : (d.onRes f).tick = d.tick := rfl
@[simp] theorem Dev.onRes_time (d : Dev) (f : ResSt → ResSt) : (d.onRes f).time = d.time := rfl
@[simp] theorem Dev.onRes_gov (d : Dev) (f : ResSt → ResSt) : (d.onRes f).gov = d.gov := rfl
@[simp] theorem Dev.onRes_res (d : Dev) (f : ResSt → ResSt) : (d.onRes f).res = f d.res := rfl
@[simp] theorem Dev.onRes_env (d : Dev) (f : ResSt → ResSt) : (d.onRes f).env = d.env := rfl
@[simp] theorem Dev.onRes_lanes (d : Dev) (f : ResSt → ResSt) : (d.onRes f).lanes = d.lanes := rfl
@[simp] theorem Dev.onRes_cap (d : Dev) (f : ResSt → ResSt) : (d.onRes f).cap = d.cap := rfl
@[simp] theorem Dev.onRes_pipe (d : Dev) (f : ResSt → ResSt) : (d.onRes f).pipe = d.pipe := rfl
@[simp] theorem Dev.onRes_taps (d : Dev) (f : ResSt → ResSt) : (d.onRes f).taps = d.taps := rfl
@[simp] theorem Dev.onRes_mills (d : Dev) (f : ResSt → ResSt) : (d.onRes f).mills = d.mills := rfl
@[simp] theorem Dev.onRes_enc (d : Dev) (f : ResSt → ResSt) : (d.onRes f).enc = d.enc := rfl
@[simp] theorem Dev.onRes_encRings (d : Dev) (f : ResSt → ResSt) : (d.onRes f).encRings = d.encRings := rfl
@[simp] theorem Dev.onRes_dec (d : Dev) (f : ResSt → ResSt) : (d.onRes f).dec = d.dec := rfl
@[simp] theorem Dev.onRes_decRings (d : Dev) (f : ResSt → ResSt) : (d.onRes f).decRings = d.decRings := rfl
@[simp] theorem Dev.onRes_bolt (d : Dev) (f : ResSt → ResSt) : (d.onRes f).bolt = d.bolt := rfl
@[simp] theorem Dev.onRes_boltRings (d : Dev) (f : ResSt → ResSt) : (d.onRes f).boltRings = d.boltRings := rfl
@[simp] theorem Dev.onRes_host (d : Dev) (f : ResSt → ResSt) : (d.onRes f).host = d.host := rfl
@[simp] theorem Dev.onRes_params (d : Dev) (f : ResSt → ResSt) : (d.onRes f).params = d.params := rfl
@[simp] theorem Dev.onRes_mem (d : Dev) (f : ResSt → ResSt) : (d.onRes f).mem = d.mem := rfl
@[simp] theorem Dev.onRes_hostMem (d : Dev) (f : ResSt → ResSt) : (d.onRes f).hostMem = d.hostMem := rfl
@[simp] theorem Dev.onRes_out (d : Dev) (f : ResSt → ResSt) : (d.onRes f).out = d.out := rfl
@[simp] theorem Dev.onRes_store (d : Dev) (f : ResSt → ResSt) : (d.onRes f).store = d.store := rfl
@[simp] theorem Dev.onRes_dram (d : Dev) (f : ResSt → ResSt) : (d.onRes f).dram = d.dram := rfl
@[simp] theorem Dev.onRes_raster (d : Dev) (f : ResSt → ResSt) : (d.onRes f).raster = d.raster := rfl
@[simp] theorem Dev.onRes_audio (d : Dev) (f : ResSt → ResSt) : (d.onRes f).audio = d.audio := rfl
@[simp] theorem Dev.onRes_audioRings (d : Dev) (f : ResSt → ResSt) : (d.onRes f).audioRings = d.audioRings := rfl
@[simp] theorem Dev.onRes_chain (d : Dev) (f : ResSt → ResSt) : (d.onRes f).chain = d.chain := rfl
@[simp] theorem Dev.onRes_evt (d : Dev) (f : ResSt → ResSt) : (d.onRes f).evt = d.evt := rfl
@[simp] theorem Dev.onRes_faults (d : Dev) (f : ResSt → ResSt) : (d.onRes f).faults = d.faults := rfl
@[simp] theorem Dev.onRes_health (d : Dev) (f : ResSt → ResSt) : (d.onRes f).health = d.health := rfl
@[simp] theorem Dev.onRes_boot (d : Dev) (f : ResSt → ResSt) : (d.onRes f).boot = d.boot := rfl
@[simp] theorem Dev.onRes_fresh (d : Dev) (f : ResSt → ResSt) : (d.onRes f).fresh = d.fresh := rfl

@[simp] theorem Dev.onEnv_tick (d : Dev) (f : EnvSt → EnvSt) : (d.onEnv f).tick = d.tick := rfl
@[simp] theorem Dev.onEnv_time (d : Dev) (f : EnvSt → EnvSt) : (d.onEnv f).time = d.time := rfl
@[simp] theorem Dev.onEnv_gov (d : Dev) (f : EnvSt → EnvSt) : (d.onEnv f).gov = d.gov := rfl
@[simp] theorem Dev.onEnv_res (d : Dev) (f : EnvSt → EnvSt) : (d.onEnv f).res = d.res := rfl
@[simp] theorem Dev.onEnv_env (d : Dev) (f : EnvSt → EnvSt) : (d.onEnv f).env = f d.env := rfl
@[simp] theorem Dev.onEnv_lanes (d : Dev) (f : EnvSt → EnvSt) : (d.onEnv f).lanes = d.lanes := rfl
@[simp] theorem Dev.onEnv_cap (d : Dev) (f : EnvSt → EnvSt) : (d.onEnv f).cap = d.cap := rfl
@[simp] theorem Dev.onEnv_pipe (d : Dev) (f : EnvSt → EnvSt) : (d.onEnv f).pipe = d.pipe := rfl
@[simp] theorem Dev.onEnv_taps (d : Dev) (f : EnvSt → EnvSt) : (d.onEnv f).taps = d.taps := rfl
@[simp] theorem Dev.onEnv_mills (d : Dev) (f : EnvSt → EnvSt) : (d.onEnv f).mills = d.mills := rfl
@[simp] theorem Dev.onEnv_enc (d : Dev) (f : EnvSt → EnvSt) : (d.onEnv f).enc = d.enc := rfl
@[simp] theorem Dev.onEnv_encRings (d : Dev) (f : EnvSt → EnvSt) : (d.onEnv f).encRings = d.encRings := rfl
@[simp] theorem Dev.onEnv_dec (d : Dev) (f : EnvSt → EnvSt) : (d.onEnv f).dec = d.dec := rfl
@[simp] theorem Dev.onEnv_decRings (d : Dev) (f : EnvSt → EnvSt) : (d.onEnv f).decRings = d.decRings := rfl
@[simp] theorem Dev.onEnv_bolt (d : Dev) (f : EnvSt → EnvSt) : (d.onEnv f).bolt = d.bolt := rfl
@[simp] theorem Dev.onEnv_boltRings (d : Dev) (f : EnvSt → EnvSt) : (d.onEnv f).boltRings = d.boltRings := rfl
@[simp] theorem Dev.onEnv_host (d : Dev) (f : EnvSt → EnvSt) : (d.onEnv f).host = d.host := rfl
@[simp] theorem Dev.onEnv_params (d : Dev) (f : EnvSt → EnvSt) : (d.onEnv f).params = d.params := rfl
@[simp] theorem Dev.onEnv_mem (d : Dev) (f : EnvSt → EnvSt) : (d.onEnv f).mem = d.mem := rfl
@[simp] theorem Dev.onEnv_hostMem (d : Dev) (f : EnvSt → EnvSt) : (d.onEnv f).hostMem = d.hostMem := rfl
@[simp] theorem Dev.onEnv_out (d : Dev) (f : EnvSt → EnvSt) : (d.onEnv f).out = d.out := rfl
@[simp] theorem Dev.onEnv_store (d : Dev) (f : EnvSt → EnvSt) : (d.onEnv f).store = d.store := rfl
@[simp] theorem Dev.onEnv_dram (d : Dev) (f : EnvSt → EnvSt) : (d.onEnv f).dram = d.dram := rfl
@[simp] theorem Dev.onEnv_raster (d : Dev) (f : EnvSt → EnvSt) : (d.onEnv f).raster = d.raster := rfl
@[simp] theorem Dev.onEnv_audio (d : Dev) (f : EnvSt → EnvSt) : (d.onEnv f).audio = d.audio := rfl
@[simp] theorem Dev.onEnv_audioRings (d : Dev) (f : EnvSt → EnvSt) : (d.onEnv f).audioRings = d.audioRings := rfl
@[simp] theorem Dev.onEnv_chain (d : Dev) (f : EnvSt → EnvSt) : (d.onEnv f).chain = d.chain := rfl
@[simp] theorem Dev.onEnv_evt (d : Dev) (f : EnvSt → EnvSt) : (d.onEnv f).evt = d.evt := rfl
@[simp] theorem Dev.onEnv_faults (d : Dev) (f : EnvSt → EnvSt) : (d.onEnv f).faults = d.faults := rfl
@[simp] theorem Dev.onEnv_health (d : Dev) (f : EnvSt → EnvSt) : (d.onEnv f).health = d.health := rfl
@[simp] theorem Dev.onEnv_boot (d : Dev) (f : EnvSt → EnvSt) : (d.onEnv f).boot = d.boot := rfl
@[simp] theorem Dev.onEnv_fresh (d : Dev) (f : EnvSt → EnvSt) : (d.onEnv f).fresh = d.fresh := rfl

@[simp] theorem Dev.onLanes_tick (d : Dev) (f : LaneSt → LaneSt) : (d.onLanes f).tick = d.tick := rfl
@[simp] theorem Dev.onLanes_time (d : Dev) (f : LaneSt → LaneSt) : (d.onLanes f).time = d.time := rfl
@[simp] theorem Dev.onLanes_gov (d : Dev) (f : LaneSt → LaneSt) : (d.onLanes f).gov = d.gov := rfl
@[simp] theorem Dev.onLanes_res (d : Dev) (f : LaneSt → LaneSt) : (d.onLanes f).res = d.res := rfl
@[simp] theorem Dev.onLanes_env (d : Dev) (f : LaneSt → LaneSt) : (d.onLanes f).env = d.env := rfl
@[simp] theorem Dev.onLanes_lanes (d : Dev) (f : LaneSt → LaneSt) : (d.onLanes f).lanes = f d.lanes := rfl
@[simp] theorem Dev.onLanes_cap (d : Dev) (f : LaneSt → LaneSt) : (d.onLanes f).cap = d.cap := rfl
@[simp] theorem Dev.onLanes_pipe (d : Dev) (f : LaneSt → LaneSt) : (d.onLanes f).pipe = d.pipe := rfl
@[simp] theorem Dev.onLanes_taps (d : Dev) (f : LaneSt → LaneSt) : (d.onLanes f).taps = d.taps := rfl
@[simp] theorem Dev.onLanes_mills (d : Dev) (f : LaneSt → LaneSt) : (d.onLanes f).mills = d.mills := rfl
@[simp] theorem Dev.onLanes_enc (d : Dev) (f : LaneSt → LaneSt) : (d.onLanes f).enc = d.enc := rfl
@[simp] theorem Dev.onLanes_encRings (d : Dev) (f : LaneSt → LaneSt) : (d.onLanes f).encRings = d.encRings := rfl
@[simp] theorem Dev.onLanes_dec (d : Dev) (f : LaneSt → LaneSt) : (d.onLanes f).dec = d.dec := rfl
@[simp] theorem Dev.onLanes_decRings (d : Dev) (f : LaneSt → LaneSt) : (d.onLanes f).decRings = d.decRings := rfl
@[simp] theorem Dev.onLanes_bolt (d : Dev) (f : LaneSt → LaneSt) : (d.onLanes f).bolt = d.bolt := rfl
@[simp] theorem Dev.onLanes_boltRings (d : Dev) (f : LaneSt → LaneSt) : (d.onLanes f).boltRings = d.boltRings := rfl
@[simp] theorem Dev.onLanes_host (d : Dev) (f : LaneSt → LaneSt) : (d.onLanes f).host = d.host := rfl
@[simp] theorem Dev.onLanes_params (d : Dev) (f : LaneSt → LaneSt) : (d.onLanes f).params = d.params := rfl
@[simp] theorem Dev.onLanes_mem (d : Dev) (f : LaneSt → LaneSt) : (d.onLanes f).mem = d.mem := rfl
@[simp] theorem Dev.onLanes_hostMem (d : Dev) (f : LaneSt → LaneSt) : (d.onLanes f).hostMem = d.hostMem := rfl
@[simp] theorem Dev.onLanes_out (d : Dev) (f : LaneSt → LaneSt) : (d.onLanes f).out = d.out := rfl
@[simp] theorem Dev.onLanes_store (d : Dev) (f : LaneSt → LaneSt) : (d.onLanes f).store = d.store := rfl
@[simp] theorem Dev.onLanes_dram (d : Dev) (f : LaneSt → LaneSt) : (d.onLanes f).dram = d.dram := rfl
@[simp] theorem Dev.onLanes_raster (d : Dev) (f : LaneSt → LaneSt) : (d.onLanes f).raster = d.raster := rfl
@[simp] theorem Dev.onLanes_audio (d : Dev) (f : LaneSt → LaneSt) : (d.onLanes f).audio = d.audio := rfl
@[simp] theorem Dev.onLanes_audioRings (d : Dev) (f : LaneSt → LaneSt) : (d.onLanes f).audioRings = d.audioRings := rfl
@[simp] theorem Dev.onLanes_chain (d : Dev) (f : LaneSt → LaneSt) : (d.onLanes f).chain = d.chain := rfl
@[simp] theorem Dev.onLanes_evt (d : Dev) (f : LaneSt → LaneSt) : (d.onLanes f).evt = d.evt := rfl
@[simp] theorem Dev.onLanes_faults (d : Dev) (f : LaneSt → LaneSt) : (d.onLanes f).faults = d.faults := rfl
@[simp] theorem Dev.onLanes_health (d : Dev) (f : LaneSt → LaneSt) : (d.onLanes f).health = d.health := rfl
@[simp] theorem Dev.onLanes_boot (d : Dev) (f : LaneSt → LaneSt) : (d.onLanes f).boot = d.boot := rfl
@[simp] theorem Dev.onLanes_fresh (d : Dev) (f : LaneSt → LaneSt) : (d.onLanes f).fresh = d.fresh := rfl

@[simp] theorem Dev.onCap_tick (d : Dev) (f : List CapSt → List CapSt) : (d.onCap f).tick = d.tick := rfl
@[simp] theorem Dev.onCap_time (d : Dev) (f : List CapSt → List CapSt) : (d.onCap f).time = d.time := rfl
@[simp] theorem Dev.onCap_gov (d : Dev) (f : List CapSt → List CapSt) : (d.onCap f).gov = d.gov := rfl
@[simp] theorem Dev.onCap_res (d : Dev) (f : List CapSt → List CapSt) : (d.onCap f).res = d.res := rfl
@[simp] theorem Dev.onCap_env (d : Dev) (f : List CapSt → List CapSt) : (d.onCap f).env = d.env := rfl
@[simp] theorem Dev.onCap_lanes (d : Dev) (f : List CapSt → List CapSt) : (d.onCap f).lanes = d.lanes := rfl
@[simp] theorem Dev.onCap_cap (d : Dev) (f : List CapSt → List CapSt) : (d.onCap f).cap = f d.cap := rfl
@[simp] theorem Dev.onCap_pipe (d : Dev) (f : List CapSt → List CapSt) : (d.onCap f).pipe = d.pipe := rfl
@[simp] theorem Dev.onCap_taps (d : Dev) (f : List CapSt → List CapSt) : (d.onCap f).taps = d.taps := rfl
@[simp] theorem Dev.onCap_mills (d : Dev) (f : List CapSt → List CapSt) : (d.onCap f).mills = d.mills := rfl
@[simp] theorem Dev.onCap_enc (d : Dev) (f : List CapSt → List CapSt) : (d.onCap f).enc = d.enc := rfl
@[simp] theorem Dev.onCap_encRings (d : Dev) (f : List CapSt → List CapSt) : (d.onCap f).encRings = d.encRings := rfl
@[simp] theorem Dev.onCap_dec (d : Dev) (f : List CapSt → List CapSt) : (d.onCap f).dec = d.dec := rfl
@[simp] theorem Dev.onCap_decRings (d : Dev) (f : List CapSt → List CapSt) : (d.onCap f).decRings = d.decRings := rfl
@[simp] theorem Dev.onCap_bolt (d : Dev) (f : List CapSt → List CapSt) : (d.onCap f).bolt = d.bolt := rfl
@[simp] theorem Dev.onCap_boltRings (d : Dev) (f : List CapSt → List CapSt) : (d.onCap f).boltRings = d.boltRings := rfl
@[simp] theorem Dev.onCap_host (d : Dev) (f : List CapSt → List CapSt) : (d.onCap f).host = d.host := rfl
@[simp] theorem Dev.onCap_params (d : Dev) (f : List CapSt → List CapSt) : (d.onCap f).params = d.params := rfl
@[simp] theorem Dev.onCap_mem (d : Dev) (f : List CapSt → List CapSt) : (d.onCap f).mem = d.mem := rfl
@[simp] theorem Dev.onCap_hostMem (d : Dev) (f : List CapSt → List CapSt) : (d.onCap f).hostMem = d.hostMem := rfl
@[simp] theorem Dev.onCap_out (d : Dev) (f : List CapSt → List CapSt) : (d.onCap f).out = d.out := rfl
@[simp] theorem Dev.onCap_store (d : Dev) (f : List CapSt → List CapSt) : (d.onCap f).store = d.store := rfl
@[simp] theorem Dev.onCap_dram (d : Dev) (f : List CapSt → List CapSt) : (d.onCap f).dram = d.dram := rfl
@[simp] theorem Dev.onCap_raster (d : Dev) (f : List CapSt → List CapSt) : (d.onCap f).raster = d.raster := rfl
@[simp] theorem Dev.onCap_audio (d : Dev) (f : List CapSt → List CapSt) : (d.onCap f).audio = d.audio := rfl
@[simp] theorem Dev.onCap_audioRings (d : Dev) (f : List CapSt → List CapSt) : (d.onCap f).audioRings = d.audioRings := rfl
@[simp] theorem Dev.onCap_chain (d : Dev) (f : List CapSt → List CapSt) : (d.onCap f).chain = d.chain := rfl
@[simp] theorem Dev.onCap_evt (d : Dev) (f : List CapSt → List CapSt) : (d.onCap f).evt = d.evt := rfl
@[simp] theorem Dev.onCap_faults (d : Dev) (f : List CapSt → List CapSt) : (d.onCap f).faults = d.faults := rfl
@[simp] theorem Dev.onCap_health (d : Dev) (f : List CapSt → List CapSt) : (d.onCap f).health = d.health := rfl
@[simp] theorem Dev.onCap_boot (d : Dev) (f : List CapSt → List CapSt) : (d.onCap f).boot = d.boot := rfl
@[simp] theorem Dev.onCap_fresh (d : Dev) (f : List CapSt → List CapSt) : (d.onCap f).fresh = d.fresh := rfl

@[simp] theorem Dev.onPipe_tick (d : Dev) (f : List PipeSt → List PipeSt) : (d.onPipe f).tick = d.tick := rfl
@[simp] theorem Dev.onPipe_time (d : Dev) (f : List PipeSt → List PipeSt) : (d.onPipe f).time = d.time := rfl
@[simp] theorem Dev.onPipe_gov (d : Dev) (f : List PipeSt → List PipeSt) : (d.onPipe f).gov = d.gov := rfl
@[simp] theorem Dev.onPipe_res (d : Dev) (f : List PipeSt → List PipeSt) : (d.onPipe f).res = d.res := rfl
@[simp] theorem Dev.onPipe_env (d : Dev) (f : List PipeSt → List PipeSt) : (d.onPipe f).env = d.env := rfl
@[simp] theorem Dev.onPipe_lanes (d : Dev) (f : List PipeSt → List PipeSt) : (d.onPipe f).lanes = d.lanes := rfl
@[simp] theorem Dev.onPipe_cap (d : Dev) (f : List PipeSt → List PipeSt) : (d.onPipe f).cap = d.cap := rfl
@[simp] theorem Dev.onPipe_pipe (d : Dev) (f : List PipeSt → List PipeSt) : (d.onPipe f).pipe = f d.pipe := rfl
@[simp] theorem Dev.onPipe_taps (d : Dev) (f : List PipeSt → List PipeSt) : (d.onPipe f).taps = d.taps := rfl
@[simp] theorem Dev.onPipe_mills (d : Dev) (f : List PipeSt → List PipeSt) : (d.onPipe f).mills = d.mills := rfl
@[simp] theorem Dev.onPipe_enc (d : Dev) (f : List PipeSt → List PipeSt) : (d.onPipe f).enc = d.enc := rfl
@[simp] theorem Dev.onPipe_encRings (d : Dev) (f : List PipeSt → List PipeSt) : (d.onPipe f).encRings = d.encRings := rfl
@[simp] theorem Dev.onPipe_dec (d : Dev) (f : List PipeSt → List PipeSt) : (d.onPipe f).dec = d.dec := rfl
@[simp] theorem Dev.onPipe_decRings (d : Dev) (f : List PipeSt → List PipeSt) : (d.onPipe f).decRings = d.decRings := rfl
@[simp] theorem Dev.onPipe_bolt (d : Dev) (f : List PipeSt → List PipeSt) : (d.onPipe f).bolt = d.bolt := rfl
@[simp] theorem Dev.onPipe_boltRings (d : Dev) (f : List PipeSt → List PipeSt) : (d.onPipe f).boltRings = d.boltRings := rfl
@[simp] theorem Dev.onPipe_host (d : Dev) (f : List PipeSt → List PipeSt) : (d.onPipe f).host = d.host := rfl
@[simp] theorem Dev.onPipe_params (d : Dev) (f : List PipeSt → List PipeSt) : (d.onPipe f).params = d.params := rfl
@[simp] theorem Dev.onPipe_mem (d : Dev) (f : List PipeSt → List PipeSt) : (d.onPipe f).mem = d.mem := rfl
@[simp] theorem Dev.onPipe_hostMem (d : Dev) (f : List PipeSt → List PipeSt) : (d.onPipe f).hostMem = d.hostMem := rfl
@[simp] theorem Dev.onPipe_out (d : Dev) (f : List PipeSt → List PipeSt) : (d.onPipe f).out = d.out := rfl
@[simp] theorem Dev.onPipe_store (d : Dev) (f : List PipeSt → List PipeSt) : (d.onPipe f).store = d.store := rfl
@[simp] theorem Dev.onPipe_dram (d : Dev) (f : List PipeSt → List PipeSt) : (d.onPipe f).dram = d.dram := rfl
@[simp] theorem Dev.onPipe_raster (d : Dev) (f : List PipeSt → List PipeSt) : (d.onPipe f).raster = d.raster := rfl
@[simp] theorem Dev.onPipe_audio (d : Dev) (f : List PipeSt → List PipeSt) : (d.onPipe f).audio = d.audio := rfl
@[simp] theorem Dev.onPipe_audioRings (d : Dev) (f : List PipeSt → List PipeSt) : (d.onPipe f).audioRings = d.audioRings := rfl
@[simp] theorem Dev.onPipe_chain (d : Dev) (f : List PipeSt → List PipeSt) : (d.onPipe f).chain = d.chain := rfl
@[simp] theorem Dev.onPipe_evt (d : Dev) (f : List PipeSt → List PipeSt) : (d.onPipe f).evt = d.evt := rfl
@[simp] theorem Dev.onPipe_faults (d : Dev) (f : List PipeSt → List PipeSt) : (d.onPipe f).faults = d.faults := rfl
@[simp] theorem Dev.onPipe_health (d : Dev) (f : List PipeSt → List PipeSt) : (d.onPipe f).health = d.health := rfl
@[simp] theorem Dev.onPipe_boot (d : Dev) (f : List PipeSt → List PipeSt) : (d.onPipe f).boot = d.boot := rfl
@[simp] theorem Dev.onPipe_fresh (d : Dev) (f : List PipeSt → List PipeSt) : (d.onPipe f).fresh = d.fresh := rfl

@[simp] theorem Dev.onTaps_tick (d : Dev) (f : List Ring → List Ring) : (d.onTaps f).tick = d.tick := rfl
@[simp] theorem Dev.onTaps_time (d : Dev) (f : List Ring → List Ring) : (d.onTaps f).time = d.time := rfl
@[simp] theorem Dev.onTaps_gov (d : Dev) (f : List Ring → List Ring) : (d.onTaps f).gov = d.gov := rfl
@[simp] theorem Dev.onTaps_res (d : Dev) (f : List Ring → List Ring) : (d.onTaps f).res = d.res := rfl
@[simp] theorem Dev.onTaps_env (d : Dev) (f : List Ring → List Ring) : (d.onTaps f).env = d.env := rfl
@[simp] theorem Dev.onTaps_lanes (d : Dev) (f : List Ring → List Ring) : (d.onTaps f).lanes = d.lanes := rfl
@[simp] theorem Dev.onTaps_cap (d : Dev) (f : List Ring → List Ring) : (d.onTaps f).cap = d.cap := rfl
@[simp] theorem Dev.onTaps_pipe (d : Dev) (f : List Ring → List Ring) : (d.onTaps f).pipe = d.pipe := rfl
@[simp] theorem Dev.onTaps_taps (d : Dev) (f : List Ring → List Ring) : (d.onTaps f).taps = f d.taps := rfl
@[simp] theorem Dev.onTaps_mills (d : Dev) (f : List Ring → List Ring) : (d.onTaps f).mills = d.mills := rfl
@[simp] theorem Dev.onTaps_enc (d : Dev) (f : List Ring → List Ring) : (d.onTaps f).enc = d.enc := rfl
@[simp] theorem Dev.onTaps_encRings (d : Dev) (f : List Ring → List Ring) : (d.onTaps f).encRings = d.encRings := rfl
@[simp] theorem Dev.onTaps_dec (d : Dev) (f : List Ring → List Ring) : (d.onTaps f).dec = d.dec := rfl
@[simp] theorem Dev.onTaps_decRings (d : Dev) (f : List Ring → List Ring) : (d.onTaps f).decRings = d.decRings := rfl
@[simp] theorem Dev.onTaps_bolt (d : Dev) (f : List Ring → List Ring) : (d.onTaps f).bolt = d.bolt := rfl
@[simp] theorem Dev.onTaps_boltRings (d : Dev) (f : List Ring → List Ring) : (d.onTaps f).boltRings = d.boltRings := rfl
@[simp] theorem Dev.onTaps_host (d : Dev) (f : List Ring → List Ring) : (d.onTaps f).host = d.host := rfl
@[simp] theorem Dev.onTaps_params (d : Dev) (f : List Ring → List Ring) : (d.onTaps f).params = d.params := rfl
@[simp] theorem Dev.onTaps_mem (d : Dev) (f : List Ring → List Ring) : (d.onTaps f).mem = d.mem := rfl
@[simp] theorem Dev.onTaps_hostMem (d : Dev) (f : List Ring → List Ring) : (d.onTaps f).hostMem = d.hostMem := rfl
@[simp] theorem Dev.onTaps_out (d : Dev) (f : List Ring → List Ring) : (d.onTaps f).out = d.out := rfl
@[simp] theorem Dev.onTaps_store (d : Dev) (f : List Ring → List Ring) : (d.onTaps f).store = d.store := rfl
@[simp] theorem Dev.onTaps_dram (d : Dev) (f : List Ring → List Ring) : (d.onTaps f).dram = d.dram := rfl
@[simp] theorem Dev.onTaps_raster (d : Dev) (f : List Ring → List Ring) : (d.onTaps f).raster = d.raster := rfl
@[simp] theorem Dev.onTaps_audio (d : Dev) (f : List Ring → List Ring) : (d.onTaps f).audio = d.audio := rfl
@[simp] theorem Dev.onTaps_audioRings (d : Dev) (f : List Ring → List Ring) : (d.onTaps f).audioRings = d.audioRings := rfl
@[simp] theorem Dev.onTaps_chain (d : Dev) (f : List Ring → List Ring) : (d.onTaps f).chain = d.chain := rfl
@[simp] theorem Dev.onTaps_evt (d : Dev) (f : List Ring → List Ring) : (d.onTaps f).evt = d.evt := rfl
@[simp] theorem Dev.onTaps_faults (d : Dev) (f : List Ring → List Ring) : (d.onTaps f).faults = d.faults := rfl
@[simp] theorem Dev.onTaps_health (d : Dev) (f : List Ring → List Ring) : (d.onTaps f).health = d.health := rfl
@[simp] theorem Dev.onTaps_boot (d : Dev) (f : List Ring → List Ring) : (d.onTaps f).boot = d.boot := rfl
@[simp] theorem Dev.onTaps_fresh (d : Dev) (f : List Ring → List Ring) : (d.onTaps f).fresh = d.fresh := rfl

@[simp] theorem Dev.onMills_tick (d : Dev) (f : List MillSt → List MillSt) : (d.onMills f).tick = d.tick := rfl
@[simp] theorem Dev.onMills_time (d : Dev) (f : List MillSt → List MillSt) : (d.onMills f).time = d.time := rfl
@[simp] theorem Dev.onMills_gov (d : Dev) (f : List MillSt → List MillSt) : (d.onMills f).gov = d.gov := rfl
@[simp] theorem Dev.onMills_res (d : Dev) (f : List MillSt → List MillSt) : (d.onMills f).res = d.res := rfl
@[simp] theorem Dev.onMills_env (d : Dev) (f : List MillSt → List MillSt) : (d.onMills f).env = d.env := rfl
@[simp] theorem Dev.onMills_lanes (d : Dev) (f : List MillSt → List MillSt) : (d.onMills f).lanes = d.lanes := rfl
@[simp] theorem Dev.onMills_cap (d : Dev) (f : List MillSt → List MillSt) : (d.onMills f).cap = d.cap := rfl
@[simp] theorem Dev.onMills_pipe (d : Dev) (f : List MillSt → List MillSt) : (d.onMills f).pipe = d.pipe := rfl
@[simp] theorem Dev.onMills_taps (d : Dev) (f : List MillSt → List MillSt) : (d.onMills f).taps = d.taps := rfl
@[simp] theorem Dev.onMills_mills (d : Dev) (f : List MillSt → List MillSt) : (d.onMills f).mills = f d.mills := rfl
@[simp] theorem Dev.onMills_enc (d : Dev) (f : List MillSt → List MillSt) : (d.onMills f).enc = d.enc := rfl
@[simp] theorem Dev.onMills_encRings (d : Dev) (f : List MillSt → List MillSt) : (d.onMills f).encRings = d.encRings := rfl
@[simp] theorem Dev.onMills_dec (d : Dev) (f : List MillSt → List MillSt) : (d.onMills f).dec = d.dec := rfl
@[simp] theorem Dev.onMills_decRings (d : Dev) (f : List MillSt → List MillSt) : (d.onMills f).decRings = d.decRings := rfl
@[simp] theorem Dev.onMills_bolt (d : Dev) (f : List MillSt → List MillSt) : (d.onMills f).bolt = d.bolt := rfl
@[simp] theorem Dev.onMills_boltRings (d : Dev) (f : List MillSt → List MillSt) : (d.onMills f).boltRings = d.boltRings := rfl
@[simp] theorem Dev.onMills_host (d : Dev) (f : List MillSt → List MillSt) : (d.onMills f).host = d.host := rfl
@[simp] theorem Dev.onMills_params (d : Dev) (f : List MillSt → List MillSt) : (d.onMills f).params = d.params := rfl
@[simp] theorem Dev.onMills_mem (d : Dev) (f : List MillSt → List MillSt) : (d.onMills f).mem = d.mem := rfl
@[simp] theorem Dev.onMills_hostMem (d : Dev) (f : List MillSt → List MillSt) : (d.onMills f).hostMem = d.hostMem := rfl
@[simp] theorem Dev.onMills_out (d : Dev) (f : List MillSt → List MillSt) : (d.onMills f).out = d.out := rfl
@[simp] theorem Dev.onMills_store (d : Dev) (f : List MillSt → List MillSt) : (d.onMills f).store = d.store := rfl
@[simp] theorem Dev.onMills_dram (d : Dev) (f : List MillSt → List MillSt) : (d.onMills f).dram = d.dram := rfl
@[simp] theorem Dev.onMills_raster (d : Dev) (f : List MillSt → List MillSt) : (d.onMills f).raster = d.raster := rfl
@[simp] theorem Dev.onMills_audio (d : Dev) (f : List MillSt → List MillSt) : (d.onMills f).audio = d.audio := rfl
@[simp] theorem Dev.onMills_audioRings (d : Dev) (f : List MillSt → List MillSt) : (d.onMills f).audioRings = d.audioRings := rfl
@[simp] theorem Dev.onMills_chain (d : Dev) (f : List MillSt → List MillSt) : (d.onMills f).chain = d.chain := rfl
@[simp] theorem Dev.onMills_evt (d : Dev) (f : List MillSt → List MillSt) : (d.onMills f).evt = d.evt := rfl
@[simp] theorem Dev.onMills_faults (d : Dev) (f : List MillSt → List MillSt) : (d.onMills f).faults = d.faults := rfl
@[simp] theorem Dev.onMills_health (d : Dev) (f : List MillSt → List MillSt) : (d.onMills f).health = d.health := rfl
@[simp] theorem Dev.onMills_boot (d : Dev) (f : List MillSt → List MillSt) : (d.onMills f).boot = d.boot := rfl
@[simp] theorem Dev.onMills_fresh (d : Dev) (f : List MillSt → List MillSt) : (d.onMills f).fresh = d.fresh := rfl

@[simp] theorem Dev.onEnc_tick (d : Dev) (f : List EncSt → List EncSt) : (d.onEnc f).tick = d.tick := rfl
@[simp] theorem Dev.onEnc_time (d : Dev) (f : List EncSt → List EncSt) : (d.onEnc f).time = d.time := rfl
@[simp] theorem Dev.onEnc_gov (d : Dev) (f : List EncSt → List EncSt) : (d.onEnc f).gov = d.gov := rfl
@[simp] theorem Dev.onEnc_res (d : Dev) (f : List EncSt → List EncSt) : (d.onEnc f).res = d.res := rfl
@[simp] theorem Dev.onEnc_env (d : Dev) (f : List EncSt → List EncSt) : (d.onEnc f).env = d.env := rfl
@[simp] theorem Dev.onEnc_lanes (d : Dev) (f : List EncSt → List EncSt) : (d.onEnc f).lanes = d.lanes := rfl
@[simp] theorem Dev.onEnc_cap (d : Dev) (f : List EncSt → List EncSt) : (d.onEnc f).cap = d.cap := rfl
@[simp] theorem Dev.onEnc_pipe (d : Dev) (f : List EncSt → List EncSt) : (d.onEnc f).pipe = d.pipe := rfl
@[simp] theorem Dev.onEnc_taps (d : Dev) (f : List EncSt → List EncSt) : (d.onEnc f).taps = d.taps := rfl
@[simp] theorem Dev.onEnc_mills (d : Dev) (f : List EncSt → List EncSt) : (d.onEnc f).mills = d.mills := rfl
@[simp] theorem Dev.onEnc_enc (d : Dev) (f : List EncSt → List EncSt) : (d.onEnc f).enc = f d.enc := rfl
@[simp] theorem Dev.onEnc_encRings (d : Dev) (f : List EncSt → List EncSt) : (d.onEnc f).encRings = d.encRings := rfl
@[simp] theorem Dev.onEnc_dec (d : Dev) (f : List EncSt → List EncSt) : (d.onEnc f).dec = d.dec := rfl
@[simp] theorem Dev.onEnc_decRings (d : Dev) (f : List EncSt → List EncSt) : (d.onEnc f).decRings = d.decRings := rfl
@[simp] theorem Dev.onEnc_bolt (d : Dev) (f : List EncSt → List EncSt) : (d.onEnc f).bolt = d.bolt := rfl
@[simp] theorem Dev.onEnc_boltRings (d : Dev) (f : List EncSt → List EncSt) : (d.onEnc f).boltRings = d.boltRings := rfl
@[simp] theorem Dev.onEnc_host (d : Dev) (f : List EncSt → List EncSt) : (d.onEnc f).host = d.host := rfl
@[simp] theorem Dev.onEnc_params (d : Dev) (f : List EncSt → List EncSt) : (d.onEnc f).params = d.params := rfl
@[simp] theorem Dev.onEnc_mem (d : Dev) (f : List EncSt → List EncSt) : (d.onEnc f).mem = d.mem := rfl
@[simp] theorem Dev.onEnc_hostMem (d : Dev) (f : List EncSt → List EncSt) : (d.onEnc f).hostMem = d.hostMem := rfl
@[simp] theorem Dev.onEnc_out (d : Dev) (f : List EncSt → List EncSt) : (d.onEnc f).out = d.out := rfl
@[simp] theorem Dev.onEnc_store (d : Dev) (f : List EncSt → List EncSt) : (d.onEnc f).store = d.store := rfl
@[simp] theorem Dev.onEnc_dram (d : Dev) (f : List EncSt → List EncSt) : (d.onEnc f).dram = d.dram := rfl
@[simp] theorem Dev.onEnc_raster (d : Dev) (f : List EncSt → List EncSt) : (d.onEnc f).raster = d.raster := rfl
@[simp] theorem Dev.onEnc_audio (d : Dev) (f : List EncSt → List EncSt) : (d.onEnc f).audio = d.audio := rfl
@[simp] theorem Dev.onEnc_audioRings (d : Dev) (f : List EncSt → List EncSt) : (d.onEnc f).audioRings = d.audioRings := rfl
@[simp] theorem Dev.onEnc_chain (d : Dev) (f : List EncSt → List EncSt) : (d.onEnc f).chain = d.chain := rfl
@[simp] theorem Dev.onEnc_evt (d : Dev) (f : List EncSt → List EncSt) : (d.onEnc f).evt = d.evt := rfl
@[simp] theorem Dev.onEnc_faults (d : Dev) (f : List EncSt → List EncSt) : (d.onEnc f).faults = d.faults := rfl
@[simp] theorem Dev.onEnc_health (d : Dev) (f : List EncSt → List EncSt) : (d.onEnc f).health = d.health := rfl
@[simp] theorem Dev.onEnc_boot (d : Dev) (f : List EncSt → List EncSt) : (d.onEnc f).boot = d.boot := rfl
@[simp] theorem Dev.onEnc_fresh (d : Dev) (f : List EncSt → List EncSt) : (d.onEnc f).fresh = d.fresh := rfl

@[simp] theorem Dev.onEncRings_tick (d : Dev) (f : List Ring → List Ring) : (d.onEncRings f).tick = d.tick := rfl
@[simp] theorem Dev.onEncRings_time (d : Dev) (f : List Ring → List Ring) : (d.onEncRings f).time = d.time := rfl
@[simp] theorem Dev.onEncRings_gov (d : Dev) (f : List Ring → List Ring) : (d.onEncRings f).gov = d.gov := rfl
@[simp] theorem Dev.onEncRings_res (d : Dev) (f : List Ring → List Ring) : (d.onEncRings f).res = d.res := rfl
@[simp] theorem Dev.onEncRings_env (d : Dev) (f : List Ring → List Ring) : (d.onEncRings f).env = d.env := rfl
@[simp] theorem Dev.onEncRings_lanes (d : Dev) (f : List Ring → List Ring) : (d.onEncRings f).lanes = d.lanes := rfl
@[simp] theorem Dev.onEncRings_cap (d : Dev) (f : List Ring → List Ring) : (d.onEncRings f).cap = d.cap := rfl
@[simp] theorem Dev.onEncRings_pipe (d : Dev) (f : List Ring → List Ring) : (d.onEncRings f).pipe = d.pipe := rfl
@[simp] theorem Dev.onEncRings_taps (d : Dev) (f : List Ring → List Ring) : (d.onEncRings f).taps = d.taps := rfl
@[simp] theorem Dev.onEncRings_mills (d : Dev) (f : List Ring → List Ring) : (d.onEncRings f).mills = d.mills := rfl
@[simp] theorem Dev.onEncRings_enc (d : Dev) (f : List Ring → List Ring) : (d.onEncRings f).enc = d.enc := rfl
@[simp] theorem Dev.onEncRings_encRings (d : Dev) (f : List Ring → List Ring) : (d.onEncRings f).encRings = f d.encRings := rfl
@[simp] theorem Dev.onEncRings_dec (d : Dev) (f : List Ring → List Ring) : (d.onEncRings f).dec = d.dec := rfl
@[simp] theorem Dev.onEncRings_decRings (d : Dev) (f : List Ring → List Ring) : (d.onEncRings f).decRings = d.decRings := rfl
@[simp] theorem Dev.onEncRings_bolt (d : Dev) (f : List Ring → List Ring) : (d.onEncRings f).bolt = d.bolt := rfl
@[simp] theorem Dev.onEncRings_boltRings (d : Dev) (f : List Ring → List Ring) : (d.onEncRings f).boltRings = d.boltRings := rfl
@[simp] theorem Dev.onEncRings_host (d : Dev) (f : List Ring → List Ring) : (d.onEncRings f).host = d.host := rfl
@[simp] theorem Dev.onEncRings_params (d : Dev) (f : List Ring → List Ring) : (d.onEncRings f).params = d.params := rfl
@[simp] theorem Dev.onEncRings_mem (d : Dev) (f : List Ring → List Ring) : (d.onEncRings f).mem = d.mem := rfl
@[simp] theorem Dev.onEncRings_hostMem (d : Dev) (f : List Ring → List Ring) : (d.onEncRings f).hostMem = d.hostMem := rfl
@[simp] theorem Dev.onEncRings_out (d : Dev) (f : List Ring → List Ring) : (d.onEncRings f).out = d.out := rfl
@[simp] theorem Dev.onEncRings_store (d : Dev) (f : List Ring → List Ring) : (d.onEncRings f).store = d.store := rfl
@[simp] theorem Dev.onEncRings_dram (d : Dev) (f : List Ring → List Ring) : (d.onEncRings f).dram = d.dram := rfl
@[simp] theorem Dev.onEncRings_raster (d : Dev) (f : List Ring → List Ring) : (d.onEncRings f).raster = d.raster := rfl
@[simp] theorem Dev.onEncRings_audio (d : Dev) (f : List Ring → List Ring) : (d.onEncRings f).audio = d.audio := rfl
@[simp] theorem Dev.onEncRings_audioRings (d : Dev) (f : List Ring → List Ring) : (d.onEncRings f).audioRings = d.audioRings := rfl
@[simp] theorem Dev.onEncRings_chain (d : Dev) (f : List Ring → List Ring) : (d.onEncRings f).chain = d.chain := rfl
@[simp] theorem Dev.onEncRings_evt (d : Dev) (f : List Ring → List Ring) : (d.onEncRings f).evt = d.evt := rfl
@[simp] theorem Dev.onEncRings_faults (d : Dev) (f : List Ring → List Ring) : (d.onEncRings f).faults = d.faults := rfl
@[simp] theorem Dev.onEncRings_health (d : Dev) (f : List Ring → List Ring) : (d.onEncRings f).health = d.health := rfl
@[simp] theorem Dev.onEncRings_boot (d : Dev) (f : List Ring → List Ring) : (d.onEncRings f).boot = d.boot := rfl
@[simp] theorem Dev.onEncRings_fresh (d : Dev) (f : List Ring → List Ring) : (d.onEncRings f).fresh = d.fresh := rfl

@[simp] theorem Dev.onDec_tick (d : Dev) (f : List DecSt → List DecSt) : (d.onDec f).tick = d.tick := rfl
@[simp] theorem Dev.onDec_time (d : Dev) (f : List DecSt → List DecSt) : (d.onDec f).time = d.time := rfl
@[simp] theorem Dev.onDec_gov (d : Dev) (f : List DecSt → List DecSt) : (d.onDec f).gov = d.gov := rfl
@[simp] theorem Dev.onDec_res (d : Dev) (f : List DecSt → List DecSt) : (d.onDec f).res = d.res := rfl
@[simp] theorem Dev.onDec_env (d : Dev) (f : List DecSt → List DecSt) : (d.onDec f).env = d.env := rfl
@[simp] theorem Dev.onDec_lanes (d : Dev) (f : List DecSt → List DecSt) : (d.onDec f).lanes = d.lanes := rfl
@[simp] theorem Dev.onDec_cap (d : Dev) (f : List DecSt → List DecSt) : (d.onDec f).cap = d.cap := rfl
@[simp] theorem Dev.onDec_pipe (d : Dev) (f : List DecSt → List DecSt) : (d.onDec f).pipe = d.pipe := rfl
@[simp] theorem Dev.onDec_taps (d : Dev) (f : List DecSt → List DecSt) : (d.onDec f).taps = d.taps := rfl
@[simp] theorem Dev.onDec_mills (d : Dev) (f : List DecSt → List DecSt) : (d.onDec f).mills = d.mills := rfl
@[simp] theorem Dev.onDec_enc (d : Dev) (f : List DecSt → List DecSt) : (d.onDec f).enc = d.enc := rfl
@[simp] theorem Dev.onDec_encRings (d : Dev) (f : List DecSt → List DecSt) : (d.onDec f).encRings = d.encRings := rfl
@[simp] theorem Dev.onDec_dec (d : Dev) (f : List DecSt → List DecSt) : (d.onDec f).dec = f d.dec := rfl
@[simp] theorem Dev.onDec_decRings (d : Dev) (f : List DecSt → List DecSt) : (d.onDec f).decRings = d.decRings := rfl
@[simp] theorem Dev.onDec_bolt (d : Dev) (f : List DecSt → List DecSt) : (d.onDec f).bolt = d.bolt := rfl
@[simp] theorem Dev.onDec_boltRings (d : Dev) (f : List DecSt → List DecSt) : (d.onDec f).boltRings = d.boltRings := rfl
@[simp] theorem Dev.onDec_host (d : Dev) (f : List DecSt → List DecSt) : (d.onDec f).host = d.host := rfl
@[simp] theorem Dev.onDec_params (d : Dev) (f : List DecSt → List DecSt) : (d.onDec f).params = d.params := rfl
@[simp] theorem Dev.onDec_mem (d : Dev) (f : List DecSt → List DecSt) : (d.onDec f).mem = d.mem := rfl
@[simp] theorem Dev.onDec_hostMem (d : Dev) (f : List DecSt → List DecSt) : (d.onDec f).hostMem = d.hostMem := rfl
@[simp] theorem Dev.onDec_out (d : Dev) (f : List DecSt → List DecSt) : (d.onDec f).out = d.out := rfl
@[simp] theorem Dev.onDec_store (d : Dev) (f : List DecSt → List DecSt) : (d.onDec f).store = d.store := rfl
@[simp] theorem Dev.onDec_dram (d : Dev) (f : List DecSt → List DecSt) : (d.onDec f).dram = d.dram := rfl
@[simp] theorem Dev.onDec_raster (d : Dev) (f : List DecSt → List DecSt) : (d.onDec f).raster = d.raster := rfl
@[simp] theorem Dev.onDec_audio (d : Dev) (f : List DecSt → List DecSt) : (d.onDec f).audio = d.audio := rfl
@[simp] theorem Dev.onDec_audioRings (d : Dev) (f : List DecSt → List DecSt) : (d.onDec f).audioRings = d.audioRings := rfl
@[simp] theorem Dev.onDec_chain (d : Dev) (f : List DecSt → List DecSt) : (d.onDec f).chain = d.chain := rfl
@[simp] theorem Dev.onDec_evt (d : Dev) (f : List DecSt → List DecSt) : (d.onDec f).evt = d.evt := rfl
@[simp] theorem Dev.onDec_faults (d : Dev) (f : List DecSt → List DecSt) : (d.onDec f).faults = d.faults := rfl
@[simp] theorem Dev.onDec_health (d : Dev) (f : List DecSt → List DecSt) : (d.onDec f).health = d.health := rfl
@[simp] theorem Dev.onDec_boot (d : Dev) (f : List DecSt → List DecSt) : (d.onDec f).boot = d.boot := rfl
@[simp] theorem Dev.onDec_fresh (d : Dev) (f : List DecSt → List DecSt) : (d.onDec f).fresh = d.fresh := rfl

@[simp] theorem Dev.onDecRings_tick (d : Dev) (f : List Ring → List Ring) : (d.onDecRings f).tick = d.tick := rfl
@[simp] theorem Dev.onDecRings_time (d : Dev) (f : List Ring → List Ring) : (d.onDecRings f).time = d.time := rfl
@[simp] theorem Dev.onDecRings_gov (d : Dev) (f : List Ring → List Ring) : (d.onDecRings f).gov = d.gov := rfl
@[simp] theorem Dev.onDecRings_res (d : Dev) (f : List Ring → List Ring) : (d.onDecRings f).res = d.res := rfl
@[simp] theorem Dev.onDecRings_env (d : Dev) (f : List Ring → List Ring) : (d.onDecRings f).env = d.env := rfl
@[simp] theorem Dev.onDecRings_lanes (d : Dev) (f : List Ring → List Ring) : (d.onDecRings f).lanes = d.lanes := rfl
@[simp] theorem Dev.onDecRings_cap (d : Dev) (f : List Ring → List Ring) : (d.onDecRings f).cap = d.cap := rfl
@[simp] theorem Dev.onDecRings_pipe (d : Dev) (f : List Ring → List Ring) : (d.onDecRings f).pipe = d.pipe := rfl
@[simp] theorem Dev.onDecRings_taps (d : Dev) (f : List Ring → List Ring) : (d.onDecRings f).taps = d.taps := rfl
@[simp] theorem Dev.onDecRings_mills (d : Dev) (f : List Ring → List Ring) : (d.onDecRings f).mills = d.mills := rfl
@[simp] theorem Dev.onDecRings_enc (d : Dev) (f : List Ring → List Ring) : (d.onDecRings f).enc = d.enc := rfl
@[simp] theorem Dev.onDecRings_encRings (d : Dev) (f : List Ring → List Ring) : (d.onDecRings f).encRings = d.encRings := rfl
@[simp] theorem Dev.onDecRings_dec (d : Dev) (f : List Ring → List Ring) : (d.onDecRings f).dec = d.dec := rfl
@[simp] theorem Dev.onDecRings_decRings (d : Dev) (f : List Ring → List Ring) : (d.onDecRings f).decRings = f d.decRings := rfl
@[simp] theorem Dev.onDecRings_bolt (d : Dev) (f : List Ring → List Ring) : (d.onDecRings f).bolt = d.bolt := rfl
@[simp] theorem Dev.onDecRings_boltRings (d : Dev) (f : List Ring → List Ring) : (d.onDecRings f).boltRings = d.boltRings := rfl
@[simp] theorem Dev.onDecRings_host (d : Dev) (f : List Ring → List Ring) : (d.onDecRings f).host = d.host := rfl
@[simp] theorem Dev.onDecRings_params (d : Dev) (f : List Ring → List Ring) : (d.onDecRings f).params = d.params := rfl
@[simp] theorem Dev.onDecRings_mem (d : Dev) (f : List Ring → List Ring) : (d.onDecRings f).mem = d.mem := rfl
@[simp] theorem Dev.onDecRings_hostMem (d : Dev) (f : List Ring → List Ring) : (d.onDecRings f).hostMem = d.hostMem := rfl
@[simp] theorem Dev.onDecRings_out (d : Dev) (f : List Ring → List Ring) : (d.onDecRings f).out = d.out := rfl
@[simp] theorem Dev.onDecRings_store (d : Dev) (f : List Ring → List Ring) : (d.onDecRings f).store = d.store := rfl
@[simp] theorem Dev.onDecRings_dram (d : Dev) (f : List Ring → List Ring) : (d.onDecRings f).dram = d.dram := rfl
@[simp] theorem Dev.onDecRings_raster (d : Dev) (f : List Ring → List Ring) : (d.onDecRings f).raster = d.raster := rfl
@[simp] theorem Dev.onDecRings_audio (d : Dev) (f : List Ring → List Ring) : (d.onDecRings f).audio = d.audio := rfl
@[simp] theorem Dev.onDecRings_audioRings (d : Dev) (f : List Ring → List Ring) : (d.onDecRings f).audioRings = d.audioRings := rfl
@[simp] theorem Dev.onDecRings_chain (d : Dev) (f : List Ring → List Ring) : (d.onDecRings f).chain = d.chain := rfl
@[simp] theorem Dev.onDecRings_evt (d : Dev) (f : List Ring → List Ring) : (d.onDecRings f).evt = d.evt := rfl
@[simp] theorem Dev.onDecRings_faults (d : Dev) (f : List Ring → List Ring) : (d.onDecRings f).faults = d.faults := rfl
@[simp] theorem Dev.onDecRings_health (d : Dev) (f : List Ring → List Ring) : (d.onDecRings f).health = d.health := rfl
@[simp] theorem Dev.onDecRings_boot (d : Dev) (f : List Ring → List Ring) : (d.onDecRings f).boot = d.boot := rfl
@[simp] theorem Dev.onDecRings_fresh (d : Dev) (f : List Ring → List Ring) : (d.onDecRings f).fresh = d.fresh := rfl

@[simp] theorem Dev.onBolt_tick (d : Dev) (f : List BoltSt → List BoltSt) : (d.onBolt f).tick = d.tick := rfl
@[simp] theorem Dev.onBolt_time (d : Dev) (f : List BoltSt → List BoltSt) : (d.onBolt f).time = d.time := rfl
@[simp] theorem Dev.onBolt_gov (d : Dev) (f : List BoltSt → List BoltSt) : (d.onBolt f).gov = d.gov := rfl
@[simp] theorem Dev.onBolt_res (d : Dev) (f : List BoltSt → List BoltSt) : (d.onBolt f).res = d.res := rfl
@[simp] theorem Dev.onBolt_env (d : Dev) (f : List BoltSt → List BoltSt) : (d.onBolt f).env = d.env := rfl
@[simp] theorem Dev.onBolt_lanes (d : Dev) (f : List BoltSt → List BoltSt) : (d.onBolt f).lanes = d.lanes := rfl
@[simp] theorem Dev.onBolt_cap (d : Dev) (f : List BoltSt → List BoltSt) : (d.onBolt f).cap = d.cap := rfl
@[simp] theorem Dev.onBolt_pipe (d : Dev) (f : List BoltSt → List BoltSt) : (d.onBolt f).pipe = d.pipe := rfl
@[simp] theorem Dev.onBolt_taps (d : Dev) (f : List BoltSt → List BoltSt) : (d.onBolt f).taps = d.taps := rfl
@[simp] theorem Dev.onBolt_mills (d : Dev) (f : List BoltSt → List BoltSt) : (d.onBolt f).mills = d.mills := rfl
@[simp] theorem Dev.onBolt_enc (d : Dev) (f : List BoltSt → List BoltSt) : (d.onBolt f).enc = d.enc := rfl
@[simp] theorem Dev.onBolt_encRings (d : Dev) (f : List BoltSt → List BoltSt) : (d.onBolt f).encRings = d.encRings := rfl
@[simp] theorem Dev.onBolt_dec (d : Dev) (f : List BoltSt → List BoltSt) : (d.onBolt f).dec = d.dec := rfl
@[simp] theorem Dev.onBolt_decRings (d : Dev) (f : List BoltSt → List BoltSt) : (d.onBolt f).decRings = d.decRings := rfl
@[simp] theorem Dev.onBolt_bolt (d : Dev) (f : List BoltSt → List BoltSt) : (d.onBolt f).bolt = f d.bolt := rfl
@[simp] theorem Dev.onBolt_boltRings (d : Dev) (f : List BoltSt → List BoltSt) : (d.onBolt f).boltRings = d.boltRings := rfl
@[simp] theorem Dev.onBolt_host (d : Dev) (f : List BoltSt → List BoltSt) : (d.onBolt f).host = d.host := rfl
@[simp] theorem Dev.onBolt_params (d : Dev) (f : List BoltSt → List BoltSt) : (d.onBolt f).params = d.params := rfl
@[simp] theorem Dev.onBolt_mem (d : Dev) (f : List BoltSt → List BoltSt) : (d.onBolt f).mem = d.mem := rfl
@[simp] theorem Dev.onBolt_hostMem (d : Dev) (f : List BoltSt → List BoltSt) : (d.onBolt f).hostMem = d.hostMem := rfl
@[simp] theorem Dev.onBolt_out (d : Dev) (f : List BoltSt → List BoltSt) : (d.onBolt f).out = d.out := rfl
@[simp] theorem Dev.onBolt_store (d : Dev) (f : List BoltSt → List BoltSt) : (d.onBolt f).store = d.store := rfl
@[simp] theorem Dev.onBolt_dram (d : Dev) (f : List BoltSt → List BoltSt) : (d.onBolt f).dram = d.dram := rfl
@[simp] theorem Dev.onBolt_raster (d : Dev) (f : List BoltSt → List BoltSt) : (d.onBolt f).raster = d.raster := rfl
@[simp] theorem Dev.onBolt_audio (d : Dev) (f : List BoltSt → List BoltSt) : (d.onBolt f).audio = d.audio := rfl
@[simp] theorem Dev.onBolt_audioRings (d : Dev) (f : List BoltSt → List BoltSt) : (d.onBolt f).audioRings = d.audioRings := rfl
@[simp] theorem Dev.onBolt_chain (d : Dev) (f : List BoltSt → List BoltSt) : (d.onBolt f).chain = d.chain := rfl
@[simp] theorem Dev.onBolt_evt (d : Dev) (f : List BoltSt → List BoltSt) : (d.onBolt f).evt = d.evt := rfl
@[simp] theorem Dev.onBolt_faults (d : Dev) (f : List BoltSt → List BoltSt) : (d.onBolt f).faults = d.faults := rfl
@[simp] theorem Dev.onBolt_health (d : Dev) (f : List BoltSt → List BoltSt) : (d.onBolt f).health = d.health := rfl
@[simp] theorem Dev.onBolt_boot (d : Dev) (f : List BoltSt → List BoltSt) : (d.onBolt f).boot = d.boot := rfl
@[simp] theorem Dev.onBolt_fresh (d : Dev) (f : List BoltSt → List BoltSt) : (d.onBolt f).fresh = d.fresh := rfl

@[simp] theorem Dev.onBoltRings_tick (d : Dev) (f : List Ring → List Ring) : (d.onBoltRings f).tick = d.tick := rfl
@[simp] theorem Dev.onBoltRings_time (d : Dev) (f : List Ring → List Ring) : (d.onBoltRings f).time = d.time := rfl
@[simp] theorem Dev.onBoltRings_gov (d : Dev) (f : List Ring → List Ring) : (d.onBoltRings f).gov = d.gov := rfl
@[simp] theorem Dev.onBoltRings_res (d : Dev) (f : List Ring → List Ring) : (d.onBoltRings f).res = d.res := rfl
@[simp] theorem Dev.onBoltRings_env (d : Dev) (f : List Ring → List Ring) : (d.onBoltRings f).env = d.env := rfl
@[simp] theorem Dev.onBoltRings_lanes (d : Dev) (f : List Ring → List Ring) : (d.onBoltRings f).lanes = d.lanes := rfl
@[simp] theorem Dev.onBoltRings_cap (d : Dev) (f : List Ring → List Ring) : (d.onBoltRings f).cap = d.cap := rfl
@[simp] theorem Dev.onBoltRings_pipe (d : Dev) (f : List Ring → List Ring) : (d.onBoltRings f).pipe = d.pipe := rfl
@[simp] theorem Dev.onBoltRings_taps (d : Dev) (f : List Ring → List Ring) : (d.onBoltRings f).taps = d.taps := rfl
@[simp] theorem Dev.onBoltRings_mills (d : Dev) (f : List Ring → List Ring) : (d.onBoltRings f).mills = d.mills := rfl
@[simp] theorem Dev.onBoltRings_enc (d : Dev) (f : List Ring → List Ring) : (d.onBoltRings f).enc = d.enc := rfl
@[simp] theorem Dev.onBoltRings_encRings (d : Dev) (f : List Ring → List Ring) : (d.onBoltRings f).encRings = d.encRings := rfl
@[simp] theorem Dev.onBoltRings_dec (d : Dev) (f : List Ring → List Ring) : (d.onBoltRings f).dec = d.dec := rfl
@[simp] theorem Dev.onBoltRings_decRings (d : Dev) (f : List Ring → List Ring) : (d.onBoltRings f).decRings = d.decRings := rfl
@[simp] theorem Dev.onBoltRings_bolt (d : Dev) (f : List Ring → List Ring) : (d.onBoltRings f).bolt = d.bolt := rfl
@[simp] theorem Dev.onBoltRings_boltRings (d : Dev) (f : List Ring → List Ring) : (d.onBoltRings f).boltRings = f d.boltRings := rfl
@[simp] theorem Dev.onBoltRings_host (d : Dev) (f : List Ring → List Ring) : (d.onBoltRings f).host = d.host := rfl
@[simp] theorem Dev.onBoltRings_params (d : Dev) (f : List Ring → List Ring) : (d.onBoltRings f).params = d.params := rfl
@[simp] theorem Dev.onBoltRings_mem (d : Dev) (f : List Ring → List Ring) : (d.onBoltRings f).mem = d.mem := rfl
@[simp] theorem Dev.onBoltRings_hostMem (d : Dev) (f : List Ring → List Ring) : (d.onBoltRings f).hostMem = d.hostMem := rfl
@[simp] theorem Dev.onBoltRings_out (d : Dev) (f : List Ring → List Ring) : (d.onBoltRings f).out = d.out := rfl
@[simp] theorem Dev.onBoltRings_store (d : Dev) (f : List Ring → List Ring) : (d.onBoltRings f).store = d.store := rfl
@[simp] theorem Dev.onBoltRings_dram (d : Dev) (f : List Ring → List Ring) : (d.onBoltRings f).dram = d.dram := rfl
@[simp] theorem Dev.onBoltRings_raster (d : Dev) (f : List Ring → List Ring) : (d.onBoltRings f).raster = d.raster := rfl
@[simp] theorem Dev.onBoltRings_audio (d : Dev) (f : List Ring → List Ring) : (d.onBoltRings f).audio = d.audio := rfl
@[simp] theorem Dev.onBoltRings_audioRings (d : Dev) (f : List Ring → List Ring) : (d.onBoltRings f).audioRings = d.audioRings := rfl
@[simp] theorem Dev.onBoltRings_chain (d : Dev) (f : List Ring → List Ring) : (d.onBoltRings f).chain = d.chain := rfl
@[simp] theorem Dev.onBoltRings_evt (d : Dev) (f : List Ring → List Ring) : (d.onBoltRings f).evt = d.evt := rfl
@[simp] theorem Dev.onBoltRings_faults (d : Dev) (f : List Ring → List Ring) : (d.onBoltRings f).faults = d.faults := rfl
@[simp] theorem Dev.onBoltRings_health (d : Dev) (f : List Ring → List Ring) : (d.onBoltRings f).health = d.health := rfl
@[simp] theorem Dev.onBoltRings_boot (d : Dev) (f : List Ring → List Ring) : (d.onBoltRings f).boot = d.boot := rfl
@[simp] theorem Dev.onBoltRings_fresh (d : Dev) (f : List Ring → List Ring) : (d.onBoltRings f).fresh = d.fresh := rfl

@[simp] theorem Dev.onHost_tick (d : Dev) (f : HostSt → HostSt) : (d.onHost f).tick = d.tick := rfl
@[simp] theorem Dev.onHost_time (d : Dev) (f : HostSt → HostSt) : (d.onHost f).time = d.time := rfl
@[simp] theorem Dev.onHost_gov (d : Dev) (f : HostSt → HostSt) : (d.onHost f).gov = d.gov := rfl
@[simp] theorem Dev.onHost_res (d : Dev) (f : HostSt → HostSt) : (d.onHost f).res = d.res := rfl
@[simp] theorem Dev.onHost_env (d : Dev) (f : HostSt → HostSt) : (d.onHost f).env = d.env := rfl
@[simp] theorem Dev.onHost_lanes (d : Dev) (f : HostSt → HostSt) : (d.onHost f).lanes = d.lanes := rfl
@[simp] theorem Dev.onHost_cap (d : Dev) (f : HostSt → HostSt) : (d.onHost f).cap = d.cap := rfl
@[simp] theorem Dev.onHost_pipe (d : Dev) (f : HostSt → HostSt) : (d.onHost f).pipe = d.pipe := rfl
@[simp] theorem Dev.onHost_taps (d : Dev) (f : HostSt → HostSt) : (d.onHost f).taps = d.taps := rfl
@[simp] theorem Dev.onHost_mills (d : Dev) (f : HostSt → HostSt) : (d.onHost f).mills = d.mills := rfl
@[simp] theorem Dev.onHost_enc (d : Dev) (f : HostSt → HostSt) : (d.onHost f).enc = d.enc := rfl
@[simp] theorem Dev.onHost_encRings (d : Dev) (f : HostSt → HostSt) : (d.onHost f).encRings = d.encRings := rfl
@[simp] theorem Dev.onHost_dec (d : Dev) (f : HostSt → HostSt) : (d.onHost f).dec = d.dec := rfl
@[simp] theorem Dev.onHost_decRings (d : Dev) (f : HostSt → HostSt) : (d.onHost f).decRings = d.decRings := rfl
@[simp] theorem Dev.onHost_bolt (d : Dev) (f : HostSt → HostSt) : (d.onHost f).bolt = d.bolt := rfl
@[simp] theorem Dev.onHost_boltRings (d : Dev) (f : HostSt → HostSt) : (d.onHost f).boltRings = d.boltRings := rfl
@[simp] theorem Dev.onHost_host (d : Dev) (f : HostSt → HostSt) : (d.onHost f).host = f d.host := rfl
@[simp] theorem Dev.onHost_params (d : Dev) (f : HostSt → HostSt) : (d.onHost f).params = d.params := rfl
@[simp] theorem Dev.onHost_mem (d : Dev) (f : HostSt → HostSt) : (d.onHost f).mem = d.mem := rfl
@[simp] theorem Dev.onHost_hostMem (d : Dev) (f : HostSt → HostSt) : (d.onHost f).hostMem = d.hostMem := rfl
@[simp] theorem Dev.onHost_out (d : Dev) (f : HostSt → HostSt) : (d.onHost f).out = d.out := rfl
@[simp] theorem Dev.onHost_store (d : Dev) (f : HostSt → HostSt) : (d.onHost f).store = d.store := rfl
@[simp] theorem Dev.onHost_dram (d : Dev) (f : HostSt → HostSt) : (d.onHost f).dram = d.dram := rfl
@[simp] theorem Dev.onHost_raster (d : Dev) (f : HostSt → HostSt) : (d.onHost f).raster = d.raster := rfl
@[simp] theorem Dev.onHost_audio (d : Dev) (f : HostSt → HostSt) : (d.onHost f).audio = d.audio := rfl
@[simp] theorem Dev.onHost_audioRings (d : Dev) (f : HostSt → HostSt) : (d.onHost f).audioRings = d.audioRings := rfl
@[simp] theorem Dev.onHost_chain (d : Dev) (f : HostSt → HostSt) : (d.onHost f).chain = d.chain := rfl
@[simp] theorem Dev.onHost_evt (d : Dev) (f : HostSt → HostSt) : (d.onHost f).evt = d.evt := rfl
@[simp] theorem Dev.onHost_faults (d : Dev) (f : HostSt → HostSt) : (d.onHost f).faults = d.faults := rfl
@[simp] theorem Dev.onHost_health (d : Dev) (f : HostSt → HostSt) : (d.onHost f).health = d.health := rfl
@[simp] theorem Dev.onHost_boot (d : Dev) (f : HostSt → HostSt) : (d.onHost f).boot = d.boot := rfl
@[simp] theorem Dev.onHost_fresh (d : Dev) (f : HostSt → HostSt) : (d.onHost f).fresh = d.fresh := rfl

@[simp] theorem Dev.onParams_tick (d : Dev) (f : List (Nat × List Byte) → List (Nat × List Byte)) : (d.onParams f).tick = d.tick := rfl
@[simp] theorem Dev.onParams_time (d : Dev) (f : List (Nat × List Byte) → List (Nat × List Byte)) : (d.onParams f).time = d.time := rfl
@[simp] theorem Dev.onParams_gov (d : Dev) (f : List (Nat × List Byte) → List (Nat × List Byte)) : (d.onParams f).gov = d.gov := rfl
@[simp] theorem Dev.onParams_res (d : Dev) (f : List (Nat × List Byte) → List (Nat × List Byte)) : (d.onParams f).res = d.res := rfl
@[simp] theorem Dev.onParams_env (d : Dev) (f : List (Nat × List Byte) → List (Nat × List Byte)) : (d.onParams f).env = d.env := rfl
@[simp] theorem Dev.onParams_lanes (d : Dev) (f : List (Nat × List Byte) → List (Nat × List Byte)) : (d.onParams f).lanes = d.lanes := rfl
@[simp] theorem Dev.onParams_cap (d : Dev) (f : List (Nat × List Byte) → List (Nat × List Byte)) : (d.onParams f).cap = d.cap := rfl
@[simp] theorem Dev.onParams_pipe (d : Dev) (f : List (Nat × List Byte) → List (Nat × List Byte)) : (d.onParams f).pipe = d.pipe := rfl
@[simp] theorem Dev.onParams_taps (d : Dev) (f : List (Nat × List Byte) → List (Nat × List Byte)) : (d.onParams f).taps = d.taps := rfl
@[simp] theorem Dev.onParams_mills (d : Dev) (f : List (Nat × List Byte) → List (Nat × List Byte)) : (d.onParams f).mills = d.mills := rfl
@[simp] theorem Dev.onParams_enc (d : Dev) (f : List (Nat × List Byte) → List (Nat × List Byte)) : (d.onParams f).enc = d.enc := rfl
@[simp] theorem Dev.onParams_encRings (d : Dev) (f : List (Nat × List Byte) → List (Nat × List Byte)) : (d.onParams f).encRings = d.encRings := rfl
@[simp] theorem Dev.onParams_dec (d : Dev) (f : List (Nat × List Byte) → List (Nat × List Byte)) : (d.onParams f).dec = d.dec := rfl
@[simp] theorem Dev.onParams_decRings (d : Dev) (f : List (Nat × List Byte) → List (Nat × List Byte)) : (d.onParams f).decRings = d.decRings := rfl
@[simp] theorem Dev.onParams_bolt (d : Dev) (f : List (Nat × List Byte) → List (Nat × List Byte)) : (d.onParams f).bolt = d.bolt := rfl
@[simp] theorem Dev.onParams_boltRings (d : Dev) (f : List (Nat × List Byte) → List (Nat × List Byte)) : (d.onParams f).boltRings = d.boltRings := rfl
@[simp] theorem Dev.onParams_host (d : Dev) (f : List (Nat × List Byte) → List (Nat × List Byte)) : (d.onParams f).host = d.host := rfl
@[simp] theorem Dev.onParams_params (d : Dev) (f : List (Nat × List Byte) → List (Nat × List Byte)) : (d.onParams f).params = f d.params := rfl
@[simp] theorem Dev.onParams_mem (d : Dev) (f : List (Nat × List Byte) → List (Nat × List Byte)) : (d.onParams f).mem = d.mem := rfl
@[simp] theorem Dev.onParams_hostMem (d : Dev) (f : List (Nat × List Byte) → List (Nat × List Byte)) : (d.onParams f).hostMem = d.hostMem := rfl
@[simp] theorem Dev.onParams_out (d : Dev) (f : List (Nat × List Byte) → List (Nat × List Byte)) : (d.onParams f).out = d.out := rfl
@[simp] theorem Dev.onParams_store (d : Dev) (f : List (Nat × List Byte) → List (Nat × List Byte)) : (d.onParams f).store = d.store := rfl
@[simp] theorem Dev.onParams_dram (d : Dev) (f : List (Nat × List Byte) → List (Nat × List Byte)) : (d.onParams f).dram = d.dram := rfl
@[simp] theorem Dev.onParams_raster (d : Dev) (f : List (Nat × List Byte) → List (Nat × List Byte)) : (d.onParams f).raster = d.raster := rfl
@[simp] theorem Dev.onParams_audio (d : Dev) (f : List (Nat × List Byte) → List (Nat × List Byte)) : (d.onParams f).audio = d.audio := rfl
@[simp] theorem Dev.onParams_audioRings (d : Dev) (f : List (Nat × List Byte) → List (Nat × List Byte)) : (d.onParams f).audioRings = d.audioRings := rfl
@[simp] theorem Dev.onParams_chain (d : Dev) (f : List (Nat × List Byte) → List (Nat × List Byte)) : (d.onParams f).chain = d.chain := rfl
@[simp] theorem Dev.onParams_evt (d : Dev) (f : List (Nat × List Byte) → List (Nat × List Byte)) : (d.onParams f).evt = d.evt := rfl
@[simp] theorem Dev.onParams_faults (d : Dev) (f : List (Nat × List Byte) → List (Nat × List Byte)) : (d.onParams f).faults = d.faults := rfl
@[simp] theorem Dev.onParams_health (d : Dev) (f : List (Nat × List Byte) → List (Nat × List Byte)) : (d.onParams f).health = d.health := rfl
@[simp] theorem Dev.onParams_boot (d : Dev) (f : List (Nat × List Byte) → List (Nat × List Byte)) : (d.onParams f).boot = d.boot := rfl
@[simp] theorem Dev.onParams_fresh (d : Dev) (f : List (Nat × List Byte) → List (Nat × List Byte)) : (d.onParams f).fresh = d.fresh := rfl

@[simp] theorem Dev.onMem_tick (d : Dev) (f : List Host.Cell → List Host.Cell) : (d.onMem f).tick = d.tick := rfl
@[simp] theorem Dev.onMem_time (d : Dev) (f : List Host.Cell → List Host.Cell) : (d.onMem f).time = d.time := rfl
@[simp] theorem Dev.onMem_gov (d : Dev) (f : List Host.Cell → List Host.Cell) : (d.onMem f).gov = d.gov := rfl
@[simp] theorem Dev.onMem_res (d : Dev) (f : List Host.Cell → List Host.Cell) : (d.onMem f).res = d.res := rfl
@[simp] theorem Dev.onMem_env (d : Dev) (f : List Host.Cell → List Host.Cell) : (d.onMem f).env = d.env := rfl
@[simp] theorem Dev.onMem_lanes (d : Dev) (f : List Host.Cell → List Host.Cell) : (d.onMem f).lanes = d.lanes := rfl
@[simp] theorem Dev.onMem_cap (d : Dev) (f : List Host.Cell → List Host.Cell) : (d.onMem f).cap = d.cap := rfl
@[simp] theorem Dev.onMem_pipe (d : Dev) (f : List Host.Cell → List Host.Cell) : (d.onMem f).pipe = d.pipe := rfl
@[simp] theorem Dev.onMem_taps (d : Dev) (f : List Host.Cell → List Host.Cell) : (d.onMem f).taps = d.taps := rfl
@[simp] theorem Dev.onMem_mills (d : Dev) (f : List Host.Cell → List Host.Cell) : (d.onMem f).mills = d.mills := rfl
@[simp] theorem Dev.onMem_enc (d : Dev) (f : List Host.Cell → List Host.Cell) : (d.onMem f).enc = d.enc := rfl
@[simp] theorem Dev.onMem_encRings (d : Dev) (f : List Host.Cell → List Host.Cell) : (d.onMem f).encRings = d.encRings := rfl
@[simp] theorem Dev.onMem_dec (d : Dev) (f : List Host.Cell → List Host.Cell) : (d.onMem f).dec = d.dec := rfl
@[simp] theorem Dev.onMem_decRings (d : Dev) (f : List Host.Cell → List Host.Cell) : (d.onMem f).decRings = d.decRings := rfl
@[simp] theorem Dev.onMem_bolt (d : Dev) (f : List Host.Cell → List Host.Cell) : (d.onMem f).bolt = d.bolt := rfl
@[simp] theorem Dev.onMem_boltRings (d : Dev) (f : List Host.Cell → List Host.Cell) : (d.onMem f).boltRings = d.boltRings := rfl
@[simp] theorem Dev.onMem_host (d : Dev) (f : List Host.Cell → List Host.Cell) : (d.onMem f).host = d.host := rfl
@[simp] theorem Dev.onMem_params (d : Dev) (f : List Host.Cell → List Host.Cell) : (d.onMem f).params = d.params := rfl
@[simp] theorem Dev.onMem_mem (d : Dev) (f : List Host.Cell → List Host.Cell) : (d.onMem f).mem = f d.mem := rfl
@[simp] theorem Dev.onMem_hostMem (d : Dev) (f : List Host.Cell → List Host.Cell) : (d.onMem f).hostMem = d.hostMem := rfl
@[simp] theorem Dev.onMem_out (d : Dev) (f : List Host.Cell → List Host.Cell) : (d.onMem f).out = d.out := rfl
@[simp] theorem Dev.onMem_store (d : Dev) (f : List Host.Cell → List Host.Cell) : (d.onMem f).store = d.store := rfl
@[simp] theorem Dev.onMem_dram (d : Dev) (f : List Host.Cell → List Host.Cell) : (d.onMem f).dram = d.dram := rfl
@[simp] theorem Dev.onMem_raster (d : Dev) (f : List Host.Cell → List Host.Cell) : (d.onMem f).raster = d.raster := rfl
@[simp] theorem Dev.onMem_audio (d : Dev) (f : List Host.Cell → List Host.Cell) : (d.onMem f).audio = d.audio := rfl
@[simp] theorem Dev.onMem_audioRings (d : Dev) (f : List Host.Cell → List Host.Cell) : (d.onMem f).audioRings = d.audioRings := rfl
@[simp] theorem Dev.onMem_chain (d : Dev) (f : List Host.Cell → List Host.Cell) : (d.onMem f).chain = d.chain := rfl
@[simp] theorem Dev.onMem_evt (d : Dev) (f : List Host.Cell → List Host.Cell) : (d.onMem f).evt = d.evt := rfl
@[simp] theorem Dev.onMem_faults (d : Dev) (f : List Host.Cell → List Host.Cell) : (d.onMem f).faults = d.faults := rfl
@[simp] theorem Dev.onMem_health (d : Dev) (f : List Host.Cell → List Host.Cell) : (d.onMem f).health = d.health := rfl
@[simp] theorem Dev.onMem_boot (d : Dev) (f : List Host.Cell → List Host.Cell) : (d.onMem f).boot = d.boot := rfl
@[simp] theorem Dev.onMem_fresh (d : Dev) (f : List Host.Cell → List Host.Cell) : (d.onMem f).fresh = d.fresh := rfl

@[simp] theorem Dev.onHostMem_tick (d : Dev) (f : List Host.Cell → List Host.Cell) : (d.onHostMem f).tick = d.tick := rfl
@[simp] theorem Dev.onHostMem_time (d : Dev) (f : List Host.Cell → List Host.Cell) : (d.onHostMem f).time = d.time := rfl
@[simp] theorem Dev.onHostMem_gov (d : Dev) (f : List Host.Cell → List Host.Cell) : (d.onHostMem f).gov = d.gov := rfl
@[simp] theorem Dev.onHostMem_res (d : Dev) (f : List Host.Cell → List Host.Cell) : (d.onHostMem f).res = d.res := rfl
@[simp] theorem Dev.onHostMem_env (d : Dev) (f : List Host.Cell → List Host.Cell) : (d.onHostMem f).env = d.env := rfl
@[simp] theorem Dev.onHostMem_lanes (d : Dev) (f : List Host.Cell → List Host.Cell) : (d.onHostMem f).lanes = d.lanes := rfl
@[simp] theorem Dev.onHostMem_cap (d : Dev) (f : List Host.Cell → List Host.Cell) : (d.onHostMem f).cap = d.cap := rfl
@[simp] theorem Dev.onHostMem_pipe (d : Dev) (f : List Host.Cell → List Host.Cell) : (d.onHostMem f).pipe = d.pipe := rfl
@[simp] theorem Dev.onHostMem_taps (d : Dev) (f : List Host.Cell → List Host.Cell) : (d.onHostMem f).taps = d.taps := rfl
@[simp] theorem Dev.onHostMem_mills (d : Dev) (f : List Host.Cell → List Host.Cell) : (d.onHostMem f).mills = d.mills := rfl
@[simp] theorem Dev.onHostMem_enc (d : Dev) (f : List Host.Cell → List Host.Cell) : (d.onHostMem f).enc = d.enc := rfl
@[simp] theorem Dev.onHostMem_encRings (d : Dev) (f : List Host.Cell → List Host.Cell) : (d.onHostMem f).encRings = d.encRings := rfl
@[simp] theorem Dev.onHostMem_dec (d : Dev) (f : List Host.Cell → List Host.Cell) : (d.onHostMem f).dec = d.dec := rfl
@[simp] theorem Dev.onHostMem_decRings (d : Dev) (f : List Host.Cell → List Host.Cell) : (d.onHostMem f).decRings = d.decRings := rfl
@[simp] theorem Dev.onHostMem_bolt (d : Dev) (f : List Host.Cell → List Host.Cell) : (d.onHostMem f).bolt = d.bolt := rfl
@[simp] theorem Dev.onHostMem_boltRings (d : Dev) (f : List Host.Cell → List Host.Cell) : (d.onHostMem f).boltRings = d.boltRings := rfl
@[simp] theorem Dev.onHostMem_host (d : Dev) (f : List Host.Cell → List Host.Cell) : (d.onHostMem f).host = d.host := rfl
@[simp] theorem Dev.onHostMem_params (d : Dev) (f : List Host.Cell → List Host.Cell) : (d.onHostMem f).params = d.params := rfl
@[simp] theorem Dev.onHostMem_mem (d : Dev) (f : List Host.Cell → List Host.Cell) : (d.onHostMem f).mem = d.mem := rfl
@[simp] theorem Dev.onHostMem_hostMem (d : Dev) (f : List Host.Cell → List Host.Cell) : (d.onHostMem f).hostMem = f d.hostMem := rfl
@[simp] theorem Dev.onHostMem_out (d : Dev) (f : List Host.Cell → List Host.Cell) : (d.onHostMem f).out = d.out := rfl
@[simp] theorem Dev.onHostMem_store (d : Dev) (f : List Host.Cell → List Host.Cell) : (d.onHostMem f).store = d.store := rfl
@[simp] theorem Dev.onHostMem_dram (d : Dev) (f : List Host.Cell → List Host.Cell) : (d.onHostMem f).dram = d.dram := rfl
@[simp] theorem Dev.onHostMem_raster (d : Dev) (f : List Host.Cell → List Host.Cell) : (d.onHostMem f).raster = d.raster := rfl
@[simp] theorem Dev.onHostMem_audio (d : Dev) (f : List Host.Cell → List Host.Cell) : (d.onHostMem f).audio = d.audio := rfl
@[simp] theorem Dev.onHostMem_audioRings (d : Dev) (f : List Host.Cell → List Host.Cell) : (d.onHostMem f).audioRings = d.audioRings := rfl
@[simp] theorem Dev.onHostMem_chain (d : Dev) (f : List Host.Cell → List Host.Cell) : (d.onHostMem f).chain = d.chain := rfl
@[simp] theorem Dev.onHostMem_evt (d : Dev) (f : List Host.Cell → List Host.Cell) : (d.onHostMem f).evt = d.evt := rfl
@[simp] theorem Dev.onHostMem_faults (d : Dev) (f : List Host.Cell → List Host.Cell) : (d.onHostMem f).faults = d.faults := rfl
@[simp] theorem Dev.onHostMem_health (d : Dev) (f : List Host.Cell → List Host.Cell) : (d.onHostMem f).health = d.health := rfl
@[simp] theorem Dev.onHostMem_boot (d : Dev) (f : List Host.Cell → List Host.Cell) : (d.onHostMem f).boot = d.boot := rfl
@[simp] theorem Dev.onHostMem_fresh (d : Dev) (f : List Host.Cell → List Host.Cell) : (d.onHostMem f).fresh = d.fresh := rfl

@[simp] theorem Dev.onOut_tick (d : Dev) (f : List Output → List Output) : (d.onOut f).tick = d.tick := rfl
@[simp] theorem Dev.onOut_time (d : Dev) (f : List Output → List Output) : (d.onOut f).time = d.time := rfl
@[simp] theorem Dev.onOut_gov (d : Dev) (f : List Output → List Output) : (d.onOut f).gov = d.gov := rfl
@[simp] theorem Dev.onOut_res (d : Dev) (f : List Output → List Output) : (d.onOut f).res = d.res := rfl
@[simp] theorem Dev.onOut_env (d : Dev) (f : List Output → List Output) : (d.onOut f).env = d.env := rfl
@[simp] theorem Dev.onOut_lanes (d : Dev) (f : List Output → List Output) : (d.onOut f).lanes = d.lanes := rfl
@[simp] theorem Dev.onOut_cap (d : Dev) (f : List Output → List Output) : (d.onOut f).cap = d.cap := rfl
@[simp] theorem Dev.onOut_pipe (d : Dev) (f : List Output → List Output) : (d.onOut f).pipe = d.pipe := rfl
@[simp] theorem Dev.onOut_taps (d : Dev) (f : List Output → List Output) : (d.onOut f).taps = d.taps := rfl
@[simp] theorem Dev.onOut_mills (d : Dev) (f : List Output → List Output) : (d.onOut f).mills = d.mills := rfl
@[simp] theorem Dev.onOut_enc (d : Dev) (f : List Output → List Output) : (d.onOut f).enc = d.enc := rfl
@[simp] theorem Dev.onOut_encRings (d : Dev) (f : List Output → List Output) : (d.onOut f).encRings = d.encRings := rfl
@[simp] theorem Dev.onOut_dec (d : Dev) (f : List Output → List Output) : (d.onOut f).dec = d.dec := rfl
@[simp] theorem Dev.onOut_decRings (d : Dev) (f : List Output → List Output) : (d.onOut f).decRings = d.decRings := rfl
@[simp] theorem Dev.onOut_bolt (d : Dev) (f : List Output → List Output) : (d.onOut f).bolt = d.bolt := rfl
@[simp] theorem Dev.onOut_boltRings (d : Dev) (f : List Output → List Output) : (d.onOut f).boltRings = d.boltRings := rfl
@[simp] theorem Dev.onOut_host (d : Dev) (f : List Output → List Output) : (d.onOut f).host = d.host := rfl
@[simp] theorem Dev.onOut_params (d : Dev) (f : List Output → List Output) : (d.onOut f).params = d.params := rfl
@[simp] theorem Dev.onOut_mem (d : Dev) (f : List Output → List Output) : (d.onOut f).mem = d.mem := rfl
@[simp] theorem Dev.onOut_hostMem (d : Dev) (f : List Output → List Output) : (d.onOut f).hostMem = d.hostMem := rfl
@[simp] theorem Dev.onOut_out (d : Dev) (f : List Output → List Output) : (d.onOut f).out = f d.out := rfl
@[simp] theorem Dev.onOut_store (d : Dev) (f : List Output → List Output) : (d.onOut f).store = d.store := rfl
@[simp] theorem Dev.onOut_dram (d : Dev) (f : List Output → List Output) : (d.onOut f).dram = d.dram := rfl
@[simp] theorem Dev.onOut_raster (d : Dev) (f : List Output → List Output) : (d.onOut f).raster = d.raster := rfl
@[simp] theorem Dev.onOut_audio (d : Dev) (f : List Output → List Output) : (d.onOut f).audio = d.audio := rfl
@[simp] theorem Dev.onOut_audioRings (d : Dev) (f : List Output → List Output) : (d.onOut f).audioRings = d.audioRings := rfl
@[simp] theorem Dev.onOut_chain (d : Dev) (f : List Output → List Output) : (d.onOut f).chain = d.chain := rfl
@[simp] theorem Dev.onOut_evt (d : Dev) (f : List Output → List Output) : (d.onOut f).evt = d.evt := rfl
@[simp] theorem Dev.onOut_faults (d : Dev) (f : List Output → List Output) : (d.onOut f).faults = d.faults := rfl
@[simp] theorem Dev.onOut_health (d : Dev) (f : List Output → List Output) : (d.onOut f).health = d.health := rfl
@[simp] theorem Dev.onOut_boot (d : Dev) (f : List Output → List Output) : (d.onOut f).boot = d.boot := rfl
@[simp] theorem Dev.onOut_fresh (d : Dev) (f : List Output → List Output) : (d.onOut f).fresh = d.fresh := rfl

@[simp] theorem Dev.onStore_tick (d : Dev) (f : StoreSt → StoreSt) : (d.onStore f).tick = d.tick := rfl
@[simp] theorem Dev.onStore_time (d : Dev) (f : StoreSt → StoreSt) : (d.onStore f).time = d.time := rfl
@[simp] theorem Dev.onStore_gov (d : Dev) (f : StoreSt → StoreSt) : (d.onStore f).gov = d.gov := rfl
@[simp] theorem Dev.onStore_res (d : Dev) (f : StoreSt → StoreSt) : (d.onStore f).res = d.res := rfl
@[simp] theorem Dev.onStore_env (d : Dev) (f : StoreSt → StoreSt) : (d.onStore f).env = d.env := rfl
@[simp] theorem Dev.onStore_lanes (d : Dev) (f : StoreSt → StoreSt) : (d.onStore f).lanes = d.lanes := rfl
@[simp] theorem Dev.onStore_cap (d : Dev) (f : StoreSt → StoreSt) : (d.onStore f).cap = d.cap := rfl
@[simp] theorem Dev.onStore_pipe (d : Dev) (f : StoreSt → StoreSt) : (d.onStore f).pipe = d.pipe := rfl
@[simp] theorem Dev.onStore_taps (d : Dev) (f : StoreSt → StoreSt) : (d.onStore f).taps = d.taps := rfl
@[simp] theorem Dev.onStore_mills (d : Dev) (f : StoreSt → StoreSt) : (d.onStore f).mills = d.mills := rfl
@[simp] theorem Dev.onStore_enc (d : Dev) (f : StoreSt → StoreSt) : (d.onStore f).enc = d.enc := rfl
@[simp] theorem Dev.onStore_encRings (d : Dev) (f : StoreSt → StoreSt) : (d.onStore f).encRings = d.encRings := rfl
@[simp] theorem Dev.onStore_dec (d : Dev) (f : StoreSt → StoreSt) : (d.onStore f).dec = d.dec := rfl
@[simp] theorem Dev.onStore_decRings (d : Dev) (f : StoreSt → StoreSt) : (d.onStore f).decRings = d.decRings := rfl
@[simp] theorem Dev.onStore_bolt (d : Dev) (f : StoreSt → StoreSt) : (d.onStore f).bolt = d.bolt := rfl
@[simp] theorem Dev.onStore_boltRings (d : Dev) (f : StoreSt → StoreSt) : (d.onStore f).boltRings = d.boltRings := rfl
@[simp] theorem Dev.onStore_host (d : Dev) (f : StoreSt → StoreSt) : (d.onStore f).host = d.host := rfl
@[simp] theorem Dev.onStore_params (d : Dev) (f : StoreSt → StoreSt) : (d.onStore f).params = d.params := rfl
@[simp] theorem Dev.onStore_mem (d : Dev) (f : StoreSt → StoreSt) : (d.onStore f).mem = d.mem := rfl
@[simp] theorem Dev.onStore_hostMem (d : Dev) (f : StoreSt → StoreSt) : (d.onStore f).hostMem = d.hostMem := rfl
@[simp] theorem Dev.onStore_out (d : Dev) (f : StoreSt → StoreSt) : (d.onStore f).out = d.out := rfl
@[simp] theorem Dev.onStore_store (d : Dev) (f : StoreSt → StoreSt) : (d.onStore f).store = f d.store := rfl
@[simp] theorem Dev.onStore_dram (d : Dev) (f : StoreSt → StoreSt) : (d.onStore f).dram = d.dram := rfl
@[simp] theorem Dev.onStore_raster (d : Dev) (f : StoreSt → StoreSt) : (d.onStore f).raster = d.raster := rfl
@[simp] theorem Dev.onStore_audio (d : Dev) (f : StoreSt → StoreSt) : (d.onStore f).audio = d.audio := rfl
@[simp] theorem Dev.onStore_audioRings (d : Dev) (f : StoreSt → StoreSt) : (d.onStore f).audioRings = d.audioRings := rfl
@[simp] theorem Dev.onStore_chain (d : Dev) (f : StoreSt → StoreSt) : (d.onStore f).chain = d.chain := rfl
@[simp] theorem Dev.onStore_evt (d : Dev) (f : StoreSt → StoreSt) : (d.onStore f).evt = d.evt := rfl
@[simp] theorem Dev.onStore_faults (d : Dev) (f : StoreSt → StoreSt) : (d.onStore f).faults = d.faults := rfl
@[simp] theorem Dev.onStore_health (d : Dev) (f : StoreSt → StoreSt) : (d.onStore f).health = d.health := rfl
@[simp] theorem Dev.onStore_boot (d : Dev) (f : StoreSt → StoreSt) : (d.onStore f).boot = d.boot := rfl
@[simp] theorem Dev.onStore_fresh (d : Dev) (f : StoreSt → StoreSt) : (d.onStore f).fresh = d.fresh := rfl

@[simp] theorem Dev.onDram_tick (d : Dev) (f : DramSt → DramSt) : (d.onDram f).tick = d.tick := rfl
@[simp] theorem Dev.onDram_time (d : Dev) (f : DramSt → DramSt) : (d.onDram f).time = d.time := rfl
@[simp] theorem Dev.onDram_gov (d : Dev) (f : DramSt → DramSt) : (d.onDram f).gov = d.gov := rfl
@[simp] theorem Dev.onDram_res (d : Dev) (f : DramSt → DramSt) : (d.onDram f).res = d.res := rfl
@[simp] theorem Dev.onDram_env (d : Dev) (f : DramSt → DramSt) : (d.onDram f).env = d.env := rfl
@[simp] theorem Dev.onDram_lanes (d : Dev) (f : DramSt → DramSt) : (d.onDram f).lanes = d.lanes := rfl
@[simp] theorem Dev.onDram_cap (d : Dev) (f : DramSt → DramSt) : (d.onDram f).cap = d.cap := rfl
@[simp] theorem Dev.onDram_pipe (d : Dev) (f : DramSt → DramSt) : (d.onDram f).pipe = d.pipe := rfl
@[simp] theorem Dev.onDram_taps (d : Dev) (f : DramSt → DramSt) : (d.onDram f).taps = d.taps := rfl
@[simp] theorem Dev.onDram_mills (d : Dev) (f : DramSt → DramSt) : (d.onDram f).mills = d.mills := rfl
@[simp] theorem Dev.onDram_enc (d : Dev) (f : DramSt → DramSt) : (d.onDram f).enc = d.enc := rfl
@[simp] theorem Dev.onDram_encRings (d : Dev) (f : DramSt → DramSt) : (d.onDram f).encRings = d.encRings := rfl
@[simp] theorem Dev.onDram_dec (d : Dev) (f : DramSt → DramSt) : (d.onDram f).dec = d.dec := rfl
@[simp] theorem Dev.onDram_decRings (d : Dev) (f : DramSt → DramSt) : (d.onDram f).decRings = d.decRings := rfl
@[simp] theorem Dev.onDram_bolt (d : Dev) (f : DramSt → DramSt) : (d.onDram f).bolt = d.bolt := rfl
@[simp] theorem Dev.onDram_boltRings (d : Dev) (f : DramSt → DramSt) : (d.onDram f).boltRings = d.boltRings := rfl
@[simp] theorem Dev.onDram_host (d : Dev) (f : DramSt → DramSt) : (d.onDram f).host = d.host := rfl
@[simp] theorem Dev.onDram_params (d : Dev) (f : DramSt → DramSt) : (d.onDram f).params = d.params := rfl
@[simp] theorem Dev.onDram_mem (d : Dev) (f : DramSt → DramSt) : (d.onDram f).mem = d.mem := rfl
@[simp] theorem Dev.onDram_hostMem (d : Dev) (f : DramSt → DramSt) : (d.onDram f).hostMem = d.hostMem := rfl
@[simp] theorem Dev.onDram_out (d : Dev) (f : DramSt → DramSt) : (d.onDram f).out = d.out := rfl
@[simp] theorem Dev.onDram_store (d : Dev) (f : DramSt → DramSt) : (d.onDram f).store = d.store := rfl
@[simp] theorem Dev.onDram_dram (d : Dev) (f : DramSt → DramSt) : (d.onDram f).dram = f d.dram := rfl
@[simp] theorem Dev.onDram_raster (d : Dev) (f : DramSt → DramSt) : (d.onDram f).raster = d.raster := rfl
@[simp] theorem Dev.onDram_audio (d : Dev) (f : DramSt → DramSt) : (d.onDram f).audio = d.audio := rfl
@[simp] theorem Dev.onDram_audioRings (d : Dev) (f : DramSt → DramSt) : (d.onDram f).audioRings = d.audioRings := rfl
@[simp] theorem Dev.onDram_chain (d : Dev) (f : DramSt → DramSt) : (d.onDram f).chain = d.chain := rfl
@[simp] theorem Dev.onDram_evt (d : Dev) (f : DramSt → DramSt) : (d.onDram f).evt = d.evt := rfl
@[simp] theorem Dev.onDram_faults (d : Dev) (f : DramSt → DramSt) : (d.onDram f).faults = d.faults := rfl
@[simp] theorem Dev.onDram_health (d : Dev) (f : DramSt → DramSt) : (d.onDram f).health = d.health := rfl
@[simp] theorem Dev.onDram_boot (d : Dev) (f : DramSt → DramSt) : (d.onDram f).boot = d.boot := rfl
@[simp] theorem Dev.onDram_fresh (d : Dev) (f : DramSt → DramSt) : (d.onDram f).fresh = d.fresh := rfl

@[simp] theorem Dev.onRaster_tick (d : Dev) (f : List RasterSt → List RasterSt) : (d.onRaster f).tick = d.tick := rfl
@[simp] theorem Dev.onRaster_time (d : Dev) (f : List RasterSt → List RasterSt) : (d.onRaster f).time = d.time := rfl
@[simp] theorem Dev.onRaster_gov (d : Dev) (f : List RasterSt → List RasterSt) : (d.onRaster f).gov = d.gov := rfl
@[simp] theorem Dev.onRaster_res (d : Dev) (f : List RasterSt → List RasterSt) : (d.onRaster f).res = d.res := rfl
@[simp] theorem Dev.onRaster_env (d : Dev) (f : List RasterSt → List RasterSt) : (d.onRaster f).env = d.env := rfl
@[simp] theorem Dev.onRaster_lanes (d : Dev) (f : List RasterSt → List RasterSt) : (d.onRaster f).lanes = d.lanes := rfl
@[simp] theorem Dev.onRaster_cap (d : Dev) (f : List RasterSt → List RasterSt) : (d.onRaster f).cap = d.cap := rfl
@[simp] theorem Dev.onRaster_pipe (d : Dev) (f : List RasterSt → List RasterSt) : (d.onRaster f).pipe = d.pipe := rfl
@[simp] theorem Dev.onRaster_taps (d : Dev) (f : List RasterSt → List RasterSt) : (d.onRaster f).taps = d.taps := rfl
@[simp] theorem Dev.onRaster_mills (d : Dev) (f : List RasterSt → List RasterSt) : (d.onRaster f).mills = d.mills := rfl
@[simp] theorem Dev.onRaster_enc (d : Dev) (f : List RasterSt → List RasterSt) : (d.onRaster f).enc = d.enc := rfl
@[simp] theorem Dev.onRaster_encRings (d : Dev) (f : List RasterSt → List RasterSt) : (d.onRaster f).encRings = d.encRings := rfl
@[simp] theorem Dev.onRaster_dec (d : Dev) (f : List RasterSt → List RasterSt) : (d.onRaster f).dec = d.dec := rfl
@[simp] theorem Dev.onRaster_decRings (d : Dev) (f : List RasterSt → List RasterSt) : (d.onRaster f).decRings = d.decRings := rfl
@[simp] theorem Dev.onRaster_bolt (d : Dev) (f : List RasterSt → List RasterSt) : (d.onRaster f).bolt = d.bolt := rfl
@[simp] theorem Dev.onRaster_boltRings (d : Dev) (f : List RasterSt → List RasterSt) : (d.onRaster f).boltRings = d.boltRings := rfl
@[simp] theorem Dev.onRaster_host (d : Dev) (f : List RasterSt → List RasterSt) : (d.onRaster f).host = d.host := rfl
@[simp] theorem Dev.onRaster_params (d : Dev) (f : List RasterSt → List RasterSt) : (d.onRaster f).params = d.params := rfl
@[simp] theorem Dev.onRaster_mem (d : Dev) (f : List RasterSt → List RasterSt) : (d.onRaster f).mem = d.mem := rfl
@[simp] theorem Dev.onRaster_hostMem (d : Dev) (f : List RasterSt → List RasterSt) : (d.onRaster f).hostMem = d.hostMem := rfl
@[simp] theorem Dev.onRaster_out (d : Dev) (f : List RasterSt → List RasterSt) : (d.onRaster f).out = d.out := rfl
@[simp] theorem Dev.onRaster_store (d : Dev) (f : List RasterSt → List RasterSt) : (d.onRaster f).store = d.store := rfl
@[simp] theorem Dev.onRaster_dram (d : Dev) (f : List RasterSt → List RasterSt) : (d.onRaster f).dram = d.dram := rfl
@[simp] theorem Dev.onRaster_raster (d : Dev) (f : List RasterSt → List RasterSt) : (d.onRaster f).raster = f d.raster := rfl
@[simp] theorem Dev.onRaster_audio (d : Dev) (f : List RasterSt → List RasterSt) : (d.onRaster f).audio = d.audio := rfl
@[simp] theorem Dev.onRaster_audioRings (d : Dev) (f : List RasterSt → List RasterSt) : (d.onRaster f).audioRings = d.audioRings := rfl
@[simp] theorem Dev.onRaster_chain (d : Dev) (f : List RasterSt → List RasterSt) : (d.onRaster f).chain = d.chain := rfl
@[simp] theorem Dev.onRaster_evt (d : Dev) (f : List RasterSt → List RasterSt) : (d.onRaster f).evt = d.evt := rfl
@[simp] theorem Dev.onRaster_faults (d : Dev) (f : List RasterSt → List RasterSt) : (d.onRaster f).faults = d.faults := rfl
@[simp] theorem Dev.onRaster_health (d : Dev) (f : List RasterSt → List RasterSt) : (d.onRaster f).health = d.health := rfl
@[simp] theorem Dev.onRaster_boot (d : Dev) (f : List RasterSt → List RasterSt) : (d.onRaster f).boot = d.boot := rfl
@[simp] theorem Dev.onRaster_fresh (d : Dev) (f : List RasterSt → List RasterSt) : (d.onRaster f).fresh = d.fresh := rfl

@[simp] theorem Dev.onAudio_tick (d : Dev) (f : AudioSt → AudioSt) : (d.onAudio f).tick = d.tick := rfl
@[simp] theorem Dev.onAudio_time (d : Dev) (f : AudioSt → AudioSt) : (d.onAudio f).time = d.time := rfl
@[simp] theorem Dev.onAudio_gov (d : Dev) (f : AudioSt → AudioSt) : (d.onAudio f).gov = d.gov := rfl
@[simp] theorem Dev.onAudio_res (d : Dev) (f : AudioSt → AudioSt) : (d.onAudio f).res = d.res := rfl
@[simp] theorem Dev.onAudio_env (d : Dev) (f : AudioSt → AudioSt) : (d.onAudio f).env = d.env := rfl
@[simp] theorem Dev.onAudio_lanes (d : Dev) (f : AudioSt → AudioSt) : (d.onAudio f).lanes = d.lanes := rfl
@[simp] theorem Dev.onAudio_cap (d : Dev) (f : AudioSt → AudioSt) : (d.onAudio f).cap = d.cap := rfl
@[simp] theorem Dev.onAudio_pipe (d : Dev) (f : AudioSt → AudioSt) : (d.onAudio f).pipe = d.pipe := rfl
@[simp] theorem Dev.onAudio_taps (d : Dev) (f : AudioSt → AudioSt) : (d.onAudio f).taps = d.taps := rfl
@[simp] theorem Dev.onAudio_mills (d : Dev) (f : AudioSt → AudioSt) : (d.onAudio f).mills = d.mills := rfl
@[simp] theorem Dev.onAudio_enc (d : Dev) (f : AudioSt → AudioSt) : (d.onAudio f).enc = d.enc := rfl
@[simp] theorem Dev.onAudio_encRings (d : Dev) (f : AudioSt → AudioSt) : (d.onAudio f).encRings = d.encRings := rfl
@[simp] theorem Dev.onAudio_dec (d : Dev) (f : AudioSt → AudioSt) : (d.onAudio f).dec = d.dec := rfl
@[simp] theorem Dev.onAudio_decRings (d : Dev) (f : AudioSt → AudioSt) : (d.onAudio f).decRings = d.decRings := rfl
@[simp] theorem Dev.onAudio_bolt (d : Dev) (f : AudioSt → AudioSt) : (d.onAudio f).bolt = d.bolt := rfl
@[simp] theorem Dev.onAudio_boltRings (d : Dev) (f : AudioSt → AudioSt) : (d.onAudio f).boltRings = d.boltRings := rfl
@[simp] theorem Dev.onAudio_host (d : Dev) (f : AudioSt → AudioSt) : (d.onAudio f).host = d.host := rfl
@[simp] theorem Dev.onAudio_params (d : Dev) (f : AudioSt → AudioSt) : (d.onAudio f).params = d.params := rfl
@[simp] theorem Dev.onAudio_mem (d : Dev) (f : AudioSt → AudioSt) : (d.onAudio f).mem = d.mem := rfl
@[simp] theorem Dev.onAudio_hostMem (d : Dev) (f : AudioSt → AudioSt) : (d.onAudio f).hostMem = d.hostMem := rfl
@[simp] theorem Dev.onAudio_out (d : Dev) (f : AudioSt → AudioSt) : (d.onAudio f).out = d.out := rfl
@[simp] theorem Dev.onAudio_store (d : Dev) (f : AudioSt → AudioSt) : (d.onAudio f).store = d.store := rfl
@[simp] theorem Dev.onAudio_dram (d : Dev) (f : AudioSt → AudioSt) : (d.onAudio f).dram = d.dram := rfl
@[simp] theorem Dev.onAudio_raster (d : Dev) (f : AudioSt → AudioSt) : (d.onAudio f).raster = d.raster := rfl
@[simp] theorem Dev.onAudio_audio (d : Dev) (f : AudioSt → AudioSt) : (d.onAudio f).audio = f d.audio := rfl
@[simp] theorem Dev.onAudio_audioRings (d : Dev) (f : AudioSt → AudioSt) : (d.onAudio f).audioRings = d.audioRings := rfl
@[simp] theorem Dev.onAudio_chain (d : Dev) (f : AudioSt → AudioSt) : (d.onAudio f).chain = d.chain := rfl
@[simp] theorem Dev.onAudio_evt (d : Dev) (f : AudioSt → AudioSt) : (d.onAudio f).evt = d.evt := rfl
@[simp] theorem Dev.onAudio_faults (d : Dev) (f : AudioSt → AudioSt) : (d.onAudio f).faults = d.faults := rfl
@[simp] theorem Dev.onAudio_health (d : Dev) (f : AudioSt → AudioSt) : (d.onAudio f).health = d.health := rfl
@[simp] theorem Dev.onAudio_boot (d : Dev) (f : AudioSt → AudioSt) : (d.onAudio f).boot = d.boot := rfl
@[simp] theorem Dev.onAudio_fresh (d : Dev) (f : AudioSt → AudioSt) : (d.onAudio f).fresh = d.fresh := rfl

@[simp] theorem Dev.onAudioRings_tick (d : Dev) (f : List Ring → List Ring) : (d.onAudioRings f).tick = d.tick := rfl
@[simp] theorem Dev.onAudioRings_time (d : Dev) (f : List Ring → List Ring) : (d.onAudioRings f).time = d.time := rfl
@[simp] theorem Dev.onAudioRings_gov (d : Dev) (f : List Ring → List Ring) : (d.onAudioRings f).gov = d.gov := rfl
@[simp] theorem Dev.onAudioRings_res (d : Dev) (f : List Ring → List Ring) : (d.onAudioRings f).res = d.res := rfl
@[simp] theorem Dev.onAudioRings_env (d : Dev) (f : List Ring → List Ring) : (d.onAudioRings f).env = d.env := rfl
@[simp] theorem Dev.onAudioRings_lanes (d : Dev) (f : List Ring → List Ring) : (d.onAudioRings f).lanes = d.lanes := rfl
@[simp] theorem Dev.onAudioRings_cap (d : Dev) (f : List Ring → List Ring) : (d.onAudioRings f).cap = d.cap := rfl
@[simp] theorem Dev.onAudioRings_pipe (d : Dev) (f : List Ring → List Ring) : (d.onAudioRings f).pipe = d.pipe := rfl
@[simp] theorem Dev.onAudioRings_taps (d : Dev) (f : List Ring → List Ring) : (d.onAudioRings f).taps = d.taps := rfl
@[simp] theorem Dev.onAudioRings_mills (d : Dev) (f : List Ring → List Ring) : (d.onAudioRings f).mills = d.mills := rfl
@[simp] theorem Dev.onAudioRings_enc (d : Dev) (f : List Ring → List Ring) : (d.onAudioRings f).enc = d.enc := rfl
@[simp] theorem Dev.onAudioRings_encRings (d : Dev) (f : List Ring → List Ring) : (d.onAudioRings f).encRings = d.encRings := rfl
@[simp] theorem Dev.onAudioRings_dec (d : Dev) (f : List Ring → List Ring) : (d.onAudioRings f).dec = d.dec := rfl
@[simp] theorem Dev.onAudioRings_decRings (d : Dev) (f : List Ring → List Ring) : (d.onAudioRings f).decRings = d.decRings := rfl
@[simp] theorem Dev.onAudioRings_bolt (d : Dev) (f : List Ring → List Ring) : (d.onAudioRings f).bolt = d.bolt := rfl
@[simp] theorem Dev.onAudioRings_boltRings (d : Dev) (f : List Ring → List Ring) : (d.onAudioRings f).boltRings = d.boltRings := rfl
@[simp] theorem Dev.onAudioRings_host (d : Dev) (f : List Ring → List Ring) : (d.onAudioRings f).host = d.host := rfl
@[simp] theorem Dev.onAudioRings_params (d : Dev) (f : List Ring → List Ring) : (d.onAudioRings f).params = d.params := rfl
@[simp] theorem Dev.onAudioRings_mem (d : Dev) (f : List Ring → List Ring) : (d.onAudioRings f).mem = d.mem := rfl
@[simp] theorem Dev.onAudioRings_hostMem (d : Dev) (f : List Ring → List Ring) : (d.onAudioRings f).hostMem = d.hostMem := rfl
@[simp] theorem Dev.onAudioRings_out (d : Dev) (f : List Ring → List Ring) : (d.onAudioRings f).out = d.out := rfl
@[simp] theorem Dev.onAudioRings_store (d : Dev) (f : List Ring → List Ring) : (d.onAudioRings f).store = d.store := rfl
@[simp] theorem Dev.onAudioRings_dram (d : Dev) (f : List Ring → List Ring) : (d.onAudioRings f).dram = d.dram := rfl
@[simp] theorem Dev.onAudioRings_raster (d : Dev) (f : List Ring → List Ring) : (d.onAudioRings f).raster = d.raster := rfl
@[simp] theorem Dev.onAudioRings_audio (d : Dev) (f : List Ring → List Ring) : (d.onAudioRings f).audio = d.audio := rfl
@[simp] theorem Dev.onAudioRings_audioRings (d : Dev) (f : List Ring → List Ring) : (d.onAudioRings f).audioRings = f d.audioRings := rfl
@[simp] theorem Dev.onAudioRings_chain (d : Dev) (f : List Ring → List Ring) : (d.onAudioRings f).chain = d.chain := rfl
@[simp] theorem Dev.onAudioRings_evt (d : Dev) (f : List Ring → List Ring) : (d.onAudioRings f).evt = d.evt := rfl
@[simp] theorem Dev.onAudioRings_faults (d : Dev) (f : List Ring → List Ring) : (d.onAudioRings f).faults = d.faults := rfl
@[simp] theorem Dev.onAudioRings_health (d : Dev) (f : List Ring → List Ring) : (d.onAudioRings f).health = d.health := rfl
@[simp] theorem Dev.onAudioRings_boot (d : Dev) (f : List Ring → List Ring) : (d.onAudioRings f).boot = d.boot := rfl
@[simp] theorem Dev.onAudioRings_fresh (d : Dev) (f : List Ring → List Ring) : (d.onAudioRings f).fresh = d.fresh := rfl

@[simp] theorem Dev.onChain_tick (d : Dev) (f : ChainSt → ChainSt) : (d.onChain f).tick = d.tick := rfl
@[simp] theorem Dev.onChain_time (d : Dev) (f : ChainSt → ChainSt) : (d.onChain f).time = d.time := rfl
@[simp] theorem Dev.onChain_gov (d : Dev) (f : ChainSt → ChainSt) : (d.onChain f).gov = d.gov := rfl
@[simp] theorem Dev.onChain_res (d : Dev) (f : ChainSt → ChainSt) : (d.onChain f).res = d.res := rfl
@[simp] theorem Dev.onChain_env (d : Dev) (f : ChainSt → ChainSt) : (d.onChain f).env = d.env := rfl
@[simp] theorem Dev.onChain_lanes (d : Dev) (f : ChainSt → ChainSt) : (d.onChain f).lanes = d.lanes := rfl
@[simp] theorem Dev.onChain_cap (d : Dev) (f : ChainSt → ChainSt) : (d.onChain f).cap = d.cap := rfl
@[simp] theorem Dev.onChain_pipe (d : Dev) (f : ChainSt → ChainSt) : (d.onChain f).pipe = d.pipe := rfl
@[simp] theorem Dev.onChain_taps (d : Dev) (f : ChainSt → ChainSt) : (d.onChain f).taps = d.taps := rfl
@[simp] theorem Dev.onChain_mills (d : Dev) (f : ChainSt → ChainSt) : (d.onChain f).mills = d.mills := rfl
@[simp] theorem Dev.onChain_enc (d : Dev) (f : ChainSt → ChainSt) : (d.onChain f).enc = d.enc := rfl
@[simp] theorem Dev.onChain_encRings (d : Dev) (f : ChainSt → ChainSt) : (d.onChain f).encRings = d.encRings := rfl
@[simp] theorem Dev.onChain_dec (d : Dev) (f : ChainSt → ChainSt) : (d.onChain f).dec = d.dec := rfl
@[simp] theorem Dev.onChain_decRings (d : Dev) (f : ChainSt → ChainSt) : (d.onChain f).decRings = d.decRings := rfl
@[simp] theorem Dev.onChain_bolt (d : Dev) (f : ChainSt → ChainSt) : (d.onChain f).bolt = d.bolt := rfl
@[simp] theorem Dev.onChain_boltRings (d : Dev) (f : ChainSt → ChainSt) : (d.onChain f).boltRings = d.boltRings := rfl
@[simp] theorem Dev.onChain_host (d : Dev) (f : ChainSt → ChainSt) : (d.onChain f).host = d.host := rfl
@[simp] theorem Dev.onChain_params (d : Dev) (f : ChainSt → ChainSt) : (d.onChain f).params = d.params := rfl
@[simp] theorem Dev.onChain_mem (d : Dev) (f : ChainSt → ChainSt) : (d.onChain f).mem = d.mem := rfl
@[simp] theorem Dev.onChain_hostMem (d : Dev) (f : ChainSt → ChainSt) : (d.onChain f).hostMem = d.hostMem := rfl
@[simp] theorem Dev.onChain_out (d : Dev) (f : ChainSt → ChainSt) : (d.onChain f).out = d.out := rfl
@[simp] theorem Dev.onChain_store (d : Dev) (f : ChainSt → ChainSt) : (d.onChain f).store = d.store := rfl
@[simp] theorem Dev.onChain_dram (d : Dev) (f : ChainSt → ChainSt) : (d.onChain f).dram = d.dram := rfl
@[simp] theorem Dev.onChain_raster (d : Dev) (f : ChainSt → ChainSt) : (d.onChain f).raster = d.raster := rfl
@[simp] theorem Dev.onChain_audio (d : Dev) (f : ChainSt → ChainSt) : (d.onChain f).audio = d.audio := rfl
@[simp] theorem Dev.onChain_audioRings (d : Dev) (f : ChainSt → ChainSt) : (d.onChain f).audioRings = d.audioRings := rfl
@[simp] theorem Dev.onChain_chain (d : Dev) (f : ChainSt → ChainSt) : (d.onChain f).chain = f d.chain := rfl
@[simp] theorem Dev.onChain_evt (d : Dev) (f : ChainSt → ChainSt) : (d.onChain f).evt = d.evt := rfl
@[simp] theorem Dev.onChain_faults (d : Dev) (f : ChainSt → ChainSt) : (d.onChain f).faults = d.faults := rfl
@[simp] theorem Dev.onChain_health (d : Dev) (f : ChainSt → ChainSt) : (d.onChain f).health = d.health := rfl
@[simp] theorem Dev.onChain_boot (d : Dev) (f : ChainSt → ChainSt) : (d.onChain f).boot = d.boot := rfl
@[simp] theorem Dev.onChain_fresh (d : Dev) (f : ChainSt → ChainSt) : (d.onChain f).fresh = d.fresh := rfl

@[simp] theorem Dev.onEvt_tick (d : Dev) (f : EvtSt → EvtSt) : (d.onEvt f).tick = d.tick := rfl
@[simp] theorem Dev.onEvt_time (d : Dev) (f : EvtSt → EvtSt) : (d.onEvt f).time = d.time := rfl
@[simp] theorem Dev.onEvt_gov (d : Dev) (f : EvtSt → EvtSt) : (d.onEvt f).gov = d.gov := rfl
@[simp] theorem Dev.onEvt_res (d : Dev) (f : EvtSt → EvtSt) : (d.onEvt f).res = d.res := rfl
@[simp] theorem Dev.onEvt_env (d : Dev) (f : EvtSt → EvtSt) : (d.onEvt f).env = d.env := rfl
@[simp] theorem Dev.onEvt_lanes (d : Dev) (f : EvtSt → EvtSt) : (d.onEvt f).lanes = d.lanes := rfl
@[simp] theorem Dev.onEvt_cap (d : Dev) (f : EvtSt → EvtSt) : (d.onEvt f).cap = d.cap := rfl
@[simp] theorem Dev.onEvt_pipe (d : Dev) (f : EvtSt → EvtSt) : (d.onEvt f).pipe = d.pipe := rfl
@[simp] theorem Dev.onEvt_taps (d : Dev) (f : EvtSt → EvtSt) : (d.onEvt f).taps = d.taps := rfl
@[simp] theorem Dev.onEvt_mills (d : Dev) (f : EvtSt → EvtSt) : (d.onEvt f).mills = d.mills := rfl
@[simp] theorem Dev.onEvt_enc (d : Dev) (f : EvtSt → EvtSt) : (d.onEvt f).enc = d.enc := rfl
@[simp] theorem Dev.onEvt_encRings (d : Dev) (f : EvtSt → EvtSt) : (d.onEvt f).encRings = d.encRings := rfl
@[simp] theorem Dev.onEvt_dec (d : Dev) (f : EvtSt → EvtSt) : (d.onEvt f).dec = d.dec := rfl
@[simp] theorem Dev.onEvt_decRings (d : Dev) (f : EvtSt → EvtSt) : (d.onEvt f).decRings = d.decRings := rfl
@[simp] theorem Dev.onEvt_bolt (d : Dev) (f : EvtSt → EvtSt) : (d.onEvt f).bolt = d.bolt := rfl
@[simp] theorem Dev.onEvt_boltRings (d : Dev) (f : EvtSt → EvtSt) : (d.onEvt f).boltRings = d.boltRings := rfl
@[simp] theorem Dev.onEvt_host (d : Dev) (f : EvtSt → EvtSt) : (d.onEvt f).host = d.host := rfl
@[simp] theorem Dev.onEvt_params (d : Dev) (f : EvtSt → EvtSt) : (d.onEvt f).params = d.params := rfl
@[simp] theorem Dev.onEvt_mem (d : Dev) (f : EvtSt → EvtSt) : (d.onEvt f).mem = d.mem := rfl
@[simp] theorem Dev.onEvt_hostMem (d : Dev) (f : EvtSt → EvtSt) : (d.onEvt f).hostMem = d.hostMem := rfl
@[simp] theorem Dev.onEvt_out (d : Dev) (f : EvtSt → EvtSt) : (d.onEvt f).out = d.out := rfl
@[simp] theorem Dev.onEvt_store (d : Dev) (f : EvtSt → EvtSt) : (d.onEvt f).store = d.store := rfl
@[simp] theorem Dev.onEvt_dram (d : Dev) (f : EvtSt → EvtSt) : (d.onEvt f).dram = d.dram := rfl
@[simp] theorem Dev.onEvt_raster (d : Dev) (f : EvtSt → EvtSt) : (d.onEvt f).raster = d.raster := rfl
@[simp] theorem Dev.onEvt_audio (d : Dev) (f : EvtSt → EvtSt) : (d.onEvt f).audio = d.audio := rfl
@[simp] theorem Dev.onEvt_audioRings (d : Dev) (f : EvtSt → EvtSt) : (d.onEvt f).audioRings = d.audioRings := rfl
@[simp] theorem Dev.onEvt_chain (d : Dev) (f : EvtSt → EvtSt) : (d.onEvt f).chain = d.chain := rfl
@[simp] theorem Dev.onEvt_evt (d : Dev) (f : EvtSt → EvtSt) : (d.onEvt f).evt = f d.evt := rfl
@[simp] theorem Dev.onEvt_faults (d : Dev) (f : EvtSt → EvtSt) : (d.onEvt f).faults = d.faults := rfl
@[simp] theorem Dev.onEvt_health (d : Dev) (f : EvtSt → EvtSt) : (d.onEvt f).health = d.health := rfl
@[simp] theorem Dev.onEvt_boot (d : Dev) (f : EvtSt → EvtSt) : (d.onEvt f).boot = d.boot := rfl
@[simp] theorem Dev.onEvt_fresh (d : Dev) (f : EvtSt → EvtSt) : (d.onEvt f).fresh = d.fresh := rfl

@[simp] theorem Dev.onFaults_tick (d : Dev) (f : FaultSt → FaultSt) : (d.onFaults f).tick = d.tick := rfl
@[simp] theorem Dev.onFaults_time (d : Dev) (f : FaultSt → FaultSt) : (d.onFaults f).time = d.time := rfl
@[simp] theorem Dev.onFaults_gov (d : Dev) (f : FaultSt → FaultSt) : (d.onFaults f).gov = d.gov := rfl
@[simp] theorem Dev.onFaults_res (d : Dev) (f : FaultSt → FaultSt) : (d.onFaults f).res = d.res := rfl
@[simp] theorem Dev.onFaults_env (d : Dev) (f : FaultSt → FaultSt) : (d.onFaults f).env = d.env := rfl
@[simp] theorem Dev.onFaults_lanes (d : Dev) (f : FaultSt → FaultSt) : (d.onFaults f).lanes = d.lanes := rfl
@[simp] theorem Dev.onFaults_cap (d : Dev) (f : FaultSt → FaultSt) : (d.onFaults f).cap = d.cap := rfl
@[simp] theorem Dev.onFaults_pipe (d : Dev) (f : FaultSt → FaultSt) : (d.onFaults f).pipe = d.pipe := rfl
@[simp] theorem Dev.onFaults_taps (d : Dev) (f : FaultSt → FaultSt) : (d.onFaults f).taps = d.taps := rfl
@[simp] theorem Dev.onFaults_mills (d : Dev) (f : FaultSt → FaultSt) : (d.onFaults f).mills = d.mills := rfl
@[simp] theorem Dev.onFaults_enc (d : Dev) (f : FaultSt → FaultSt) : (d.onFaults f).enc = d.enc := rfl
@[simp] theorem Dev.onFaults_encRings (d : Dev) (f : FaultSt → FaultSt) : (d.onFaults f).encRings = d.encRings := rfl
@[simp] theorem Dev.onFaults_dec (d : Dev) (f : FaultSt → FaultSt) : (d.onFaults f).dec = d.dec := rfl
@[simp] theorem Dev.onFaults_decRings (d : Dev) (f : FaultSt → FaultSt) : (d.onFaults f).decRings = d.decRings := rfl
@[simp] theorem Dev.onFaults_bolt (d : Dev) (f : FaultSt → FaultSt) : (d.onFaults f).bolt = d.bolt := rfl
@[simp] theorem Dev.onFaults_boltRings (d : Dev) (f : FaultSt → FaultSt) : (d.onFaults f).boltRings = d.boltRings := rfl
@[simp] theorem Dev.onFaults_host (d : Dev) (f : FaultSt → FaultSt) : (d.onFaults f).host = d.host := rfl
@[simp] theorem Dev.onFaults_params (d : Dev) (f : FaultSt → FaultSt) : (d.onFaults f).params = d.params := rfl
@[simp] theorem Dev.onFaults_mem (d : Dev) (f : FaultSt → FaultSt) : (d.onFaults f).mem = d.mem := rfl
@[simp] theorem Dev.onFaults_hostMem (d : Dev) (f : FaultSt → FaultSt) : (d.onFaults f).hostMem = d.hostMem := rfl
@[simp] theorem Dev.onFaults_out (d : Dev) (f : FaultSt → FaultSt) : (d.onFaults f).out = d.out := rfl
@[simp] theorem Dev.onFaults_store (d : Dev) (f : FaultSt → FaultSt) : (d.onFaults f).store = d.store := rfl
@[simp] theorem Dev.onFaults_dram (d : Dev) (f : FaultSt → FaultSt) : (d.onFaults f).dram = d.dram := rfl
@[simp] theorem Dev.onFaults_raster (d : Dev) (f : FaultSt → FaultSt) : (d.onFaults f).raster = d.raster := rfl
@[simp] theorem Dev.onFaults_audio (d : Dev) (f : FaultSt → FaultSt) : (d.onFaults f).audio = d.audio := rfl
@[simp] theorem Dev.onFaults_audioRings (d : Dev) (f : FaultSt → FaultSt) : (d.onFaults f).audioRings = d.audioRings := rfl
@[simp] theorem Dev.onFaults_chain (d : Dev) (f : FaultSt → FaultSt) : (d.onFaults f).chain = d.chain := rfl
@[simp] theorem Dev.onFaults_evt (d : Dev) (f : FaultSt → FaultSt) : (d.onFaults f).evt = d.evt := rfl
@[simp] theorem Dev.onFaults_faults (d : Dev) (f : FaultSt → FaultSt) : (d.onFaults f).faults = f d.faults := rfl
@[simp] theorem Dev.onFaults_health (d : Dev) (f : FaultSt → FaultSt) : (d.onFaults f).health = d.health := rfl
@[simp] theorem Dev.onFaults_boot (d : Dev) (f : FaultSt → FaultSt) : (d.onFaults f).boot = d.boot := rfl
@[simp] theorem Dev.onFaults_fresh (d : Dev) (f : FaultSt → FaultSt) : (d.onFaults f).fresh = d.fresh := rfl

@[simp] theorem Dev.onHealth_tick (d : Dev) (f : HealthSt → HealthSt) : (d.onHealth f).tick = d.tick := rfl
@[simp] theorem Dev.onHealth_time (d : Dev) (f : HealthSt → HealthSt) : (d.onHealth f).time = d.time := rfl
@[simp] theorem Dev.onHealth_gov (d : Dev) (f : HealthSt → HealthSt) : (d.onHealth f).gov = d.gov := rfl
@[simp] theorem Dev.onHealth_res (d : Dev) (f : HealthSt → HealthSt) : (d.onHealth f).res = d.res := rfl
@[simp] theorem Dev.onHealth_env (d : Dev) (f : HealthSt → HealthSt) : (d.onHealth f).env = d.env := rfl
@[simp] theorem Dev.onHealth_lanes (d : Dev) (f : HealthSt → HealthSt) : (d.onHealth f).lanes = d.lanes := rfl
@[simp] theorem Dev.onHealth_cap (d : Dev) (f : HealthSt → HealthSt) : (d.onHealth f).cap = d.cap := rfl
@[simp] theorem Dev.onHealth_pipe (d : Dev) (f : HealthSt → HealthSt) : (d.onHealth f).pipe = d.pipe := rfl
@[simp] theorem Dev.onHealth_taps (d : Dev) (f : HealthSt → HealthSt) : (d.onHealth f).taps = d.taps := rfl
@[simp] theorem Dev.onHealth_mills (d : Dev) (f : HealthSt → HealthSt) : (d.onHealth f).mills = d.mills := rfl
@[simp] theorem Dev.onHealth_enc (d : Dev) (f : HealthSt → HealthSt) : (d.onHealth f).enc = d.enc := rfl
@[simp] theorem Dev.onHealth_encRings (d : Dev) (f : HealthSt → HealthSt) : (d.onHealth f).encRings = d.encRings := rfl
@[simp] theorem Dev.onHealth_dec (d : Dev) (f : HealthSt → HealthSt) : (d.onHealth f).dec = d.dec := rfl
@[simp] theorem Dev.onHealth_decRings (d : Dev) (f : HealthSt → HealthSt) : (d.onHealth f).decRings = d.decRings := rfl
@[simp] theorem Dev.onHealth_bolt (d : Dev) (f : HealthSt → HealthSt) : (d.onHealth f).bolt = d.bolt := rfl
@[simp] theorem Dev.onHealth_boltRings (d : Dev) (f : HealthSt → HealthSt) : (d.onHealth f).boltRings = d.boltRings := rfl
@[simp] theorem Dev.onHealth_host (d : Dev) (f : HealthSt → HealthSt) : (d.onHealth f).host = d.host := rfl
@[simp] theorem Dev.onHealth_params (d : Dev) (f : HealthSt → HealthSt) : (d.onHealth f).params = d.params := rfl
@[simp] theorem Dev.onHealth_mem (d : Dev) (f : HealthSt → HealthSt) : (d.onHealth f).mem = d.mem := rfl
@[simp] theorem Dev.onHealth_hostMem (d : Dev) (f : HealthSt → HealthSt) : (d.onHealth f).hostMem = d.hostMem := rfl
@[simp] theorem Dev.onHealth_out (d : Dev) (f : HealthSt → HealthSt) : (d.onHealth f).out = d.out := rfl
@[simp] theorem Dev.onHealth_store (d : Dev) (f : HealthSt → HealthSt) : (d.onHealth f).store = d.store := rfl
@[simp] theorem Dev.onHealth_dram (d : Dev) (f : HealthSt → HealthSt) : (d.onHealth f).dram = d.dram := rfl
@[simp] theorem Dev.onHealth_raster (d : Dev) (f : HealthSt → HealthSt) : (d.onHealth f).raster = d.raster := rfl
@[simp] theorem Dev.onHealth_audio (d : Dev) (f : HealthSt → HealthSt) : (d.onHealth f).audio = d.audio := rfl
@[simp] theorem Dev.onHealth_audioRings (d : Dev) (f : HealthSt → HealthSt) : (d.onHealth f).audioRings = d.audioRings := rfl
@[simp] theorem Dev.onHealth_chain (d : Dev) (f : HealthSt → HealthSt) : (d.onHealth f).chain = d.chain := rfl
@[simp] theorem Dev.onHealth_evt (d : Dev) (f : HealthSt → HealthSt) : (d.onHealth f).evt = d.evt := rfl
@[simp] theorem Dev.onHealth_faults (d : Dev) (f : HealthSt → HealthSt) : (d.onHealth f).faults = d.faults := rfl
@[simp] theorem Dev.onHealth_health (d : Dev) (f : HealthSt → HealthSt) : (d.onHealth f).health = f d.health := rfl
@[simp] theorem Dev.onHealth_boot (d : Dev) (f : HealthSt → HealthSt) : (d.onHealth f).boot = d.boot := rfl
@[simp] theorem Dev.onHealth_fresh (d : Dev) (f : HealthSt → HealthSt) : (d.onHealth f).fresh = d.fresh := rfl

@[simp] theorem Dev.onBoot_tick (d : Dev) (f : BootSt → BootSt) : (d.onBoot f).tick = d.tick := rfl
@[simp] theorem Dev.onBoot_time (d : Dev) (f : BootSt → BootSt) : (d.onBoot f).time = d.time := rfl
@[simp] theorem Dev.onBoot_gov (d : Dev) (f : BootSt → BootSt) : (d.onBoot f).gov = d.gov := rfl
@[simp] theorem Dev.onBoot_res (d : Dev) (f : BootSt → BootSt) : (d.onBoot f).res = d.res := rfl
@[simp] theorem Dev.onBoot_env (d : Dev) (f : BootSt → BootSt) : (d.onBoot f).env = d.env := rfl
@[simp] theorem Dev.onBoot_lanes (d : Dev) (f : BootSt → BootSt) : (d.onBoot f).lanes = d.lanes := rfl
@[simp] theorem Dev.onBoot_cap (d : Dev) (f : BootSt → BootSt) : (d.onBoot f).cap = d.cap := rfl
@[simp] theorem Dev.onBoot_pipe (d : Dev) (f : BootSt → BootSt) : (d.onBoot f).pipe = d.pipe := rfl
@[simp] theorem Dev.onBoot_taps (d : Dev) (f : BootSt → BootSt) : (d.onBoot f).taps = d.taps := rfl
@[simp] theorem Dev.onBoot_mills (d : Dev) (f : BootSt → BootSt) : (d.onBoot f).mills = d.mills := rfl
@[simp] theorem Dev.onBoot_enc (d : Dev) (f : BootSt → BootSt) : (d.onBoot f).enc = d.enc := rfl
@[simp] theorem Dev.onBoot_encRings (d : Dev) (f : BootSt → BootSt) : (d.onBoot f).encRings = d.encRings := rfl
@[simp] theorem Dev.onBoot_dec (d : Dev) (f : BootSt → BootSt) : (d.onBoot f).dec = d.dec := rfl
@[simp] theorem Dev.onBoot_decRings (d : Dev) (f : BootSt → BootSt) : (d.onBoot f).decRings = d.decRings := rfl
@[simp] theorem Dev.onBoot_bolt (d : Dev) (f : BootSt → BootSt) : (d.onBoot f).bolt = d.bolt := rfl
@[simp] theorem Dev.onBoot_boltRings (d : Dev) (f : BootSt → BootSt) : (d.onBoot f).boltRings = d.boltRings := rfl
@[simp] theorem Dev.onBoot_host (d : Dev) (f : BootSt → BootSt) : (d.onBoot f).host = d.host := rfl
@[simp] theorem Dev.onBoot_params (d : Dev) (f : BootSt → BootSt) : (d.onBoot f).params = d.params := rfl
@[simp] theorem Dev.onBoot_mem (d : Dev) (f : BootSt → BootSt) : (d.onBoot f).mem = d.mem := rfl
@[simp] theorem Dev.onBoot_hostMem (d : Dev) (f : BootSt → BootSt) : (d.onBoot f).hostMem = d.hostMem := rfl
@[simp] theorem Dev.onBoot_out (d : Dev) (f : BootSt → BootSt) : (d.onBoot f).out = d.out := rfl
@[simp] theorem Dev.onBoot_store (d : Dev) (f : BootSt → BootSt) : (d.onBoot f).store = d.store := rfl
@[simp] theorem Dev.onBoot_dram (d : Dev) (f : BootSt → BootSt) : (d.onBoot f).dram = d.dram := rfl
@[simp] theorem Dev.onBoot_raster (d : Dev) (f : BootSt → BootSt) : (d.onBoot f).raster = d.raster := rfl
@[simp] theorem Dev.onBoot_audio (d : Dev) (f : BootSt → BootSt) : (d.onBoot f).audio = d.audio := rfl
@[simp] theorem Dev.onBoot_audioRings (d : Dev) (f : BootSt → BootSt) : (d.onBoot f).audioRings = d.audioRings := rfl
@[simp] theorem Dev.onBoot_chain (d : Dev) (f : BootSt → BootSt) : (d.onBoot f).chain = d.chain := rfl
@[simp] theorem Dev.onBoot_evt (d : Dev) (f : BootSt → BootSt) : (d.onBoot f).evt = d.evt := rfl
@[simp] theorem Dev.onBoot_faults (d : Dev) (f : BootSt → BootSt) : (d.onBoot f).faults = d.faults := rfl
@[simp] theorem Dev.onBoot_health (d : Dev) (f : BootSt → BootSt) : (d.onBoot f).health = d.health := rfl
@[simp] theorem Dev.onBoot_boot (d : Dev) (f : BootSt → BootSt) : (d.onBoot f).boot = f d.boot := rfl
@[simp] theorem Dev.onBoot_fresh (d : Dev) (f : BootSt → BootSt) : (d.onBoot f).fresh = d.fresh := rfl

@[simp] theorem Dev.onFresh_tick (d : Dev) (f : Nat → Nat) : (d.onFresh f).tick = d.tick := rfl
@[simp] theorem Dev.onFresh_time (d : Dev) (f : Nat → Nat) : (d.onFresh f).time = d.time := rfl
@[simp] theorem Dev.onFresh_gov (d : Dev) (f : Nat → Nat) : (d.onFresh f).gov = d.gov := rfl
@[simp] theorem Dev.onFresh_res (d : Dev) (f : Nat → Nat) : (d.onFresh f).res = d.res := rfl
@[simp] theorem Dev.onFresh_env (d : Dev) (f : Nat → Nat) : (d.onFresh f).env = d.env := rfl
@[simp] theorem Dev.onFresh_lanes (d : Dev) (f : Nat → Nat) : (d.onFresh f).lanes = d.lanes := rfl
@[simp] theorem Dev.onFresh_cap (d : Dev) (f : Nat → Nat) : (d.onFresh f).cap = d.cap := rfl
@[simp] theorem Dev.onFresh_pipe (d : Dev) (f : Nat → Nat) : (d.onFresh f).pipe = d.pipe := rfl
@[simp] theorem Dev.onFresh_taps (d : Dev) (f : Nat → Nat) : (d.onFresh f).taps = d.taps := rfl
@[simp] theorem Dev.onFresh_mills (d : Dev) (f : Nat → Nat) : (d.onFresh f).mills = d.mills := rfl
@[simp] theorem Dev.onFresh_enc (d : Dev) (f : Nat → Nat) : (d.onFresh f).enc = d.enc := rfl
@[simp] theorem Dev.onFresh_encRings (d : Dev) (f : Nat → Nat) : (d.onFresh f).encRings = d.encRings := rfl
@[simp] theorem Dev.onFresh_dec (d : Dev) (f : Nat → Nat) : (d.onFresh f).dec = d.dec := rfl
@[simp] theorem Dev.onFresh_decRings (d : Dev) (f : Nat → Nat) : (d.onFresh f).decRings = d.decRings := rfl
@[simp] theorem Dev.onFresh_bolt (d : Dev) (f : Nat → Nat) : (d.onFresh f).bolt = d.bolt := rfl
@[simp] theorem Dev.onFresh_boltRings (d : Dev) (f : Nat → Nat) : (d.onFresh f).boltRings = d.boltRings := rfl
@[simp] theorem Dev.onFresh_host (d : Dev) (f : Nat → Nat) : (d.onFresh f).host = d.host := rfl
@[simp] theorem Dev.onFresh_params (d : Dev) (f : Nat → Nat) : (d.onFresh f).params = d.params := rfl
@[simp] theorem Dev.onFresh_mem (d : Dev) (f : Nat → Nat) : (d.onFresh f).mem = d.mem := rfl
@[simp] theorem Dev.onFresh_hostMem (d : Dev) (f : Nat → Nat) : (d.onFresh f).hostMem = d.hostMem := rfl
@[simp] theorem Dev.onFresh_out (d : Dev) (f : Nat → Nat) : (d.onFresh f).out = d.out := rfl
@[simp] theorem Dev.onFresh_store (d : Dev) (f : Nat → Nat) : (d.onFresh f).store = d.store := rfl
@[simp] theorem Dev.onFresh_dram (d : Dev) (f : Nat → Nat) : (d.onFresh f).dram = d.dram := rfl
@[simp] theorem Dev.onFresh_raster (d : Dev) (f : Nat → Nat) : (d.onFresh f).raster = d.raster := rfl
@[simp] theorem Dev.onFresh_audio (d : Dev) (f : Nat → Nat) : (d.onFresh f).audio = d.audio := rfl
@[simp] theorem Dev.onFresh_audioRings (d : Dev) (f : Nat → Nat) : (d.onFresh f).audioRings = d.audioRings := rfl
@[simp] theorem Dev.onFresh_chain (d : Dev) (f : Nat → Nat) : (d.onFresh f).chain = d.chain := rfl
@[simp] theorem Dev.onFresh_evt (d : Dev) (f : Nat → Nat) : (d.onFresh f).evt = d.evt := rfl
@[simp] theorem Dev.onFresh_faults (d : Dev) (f : Nat → Nat) : (d.onFresh f).faults = d.faults := rfl
@[simp] theorem Dev.onFresh_health (d : Dev) (f : Nat → Nat) : (d.onFresh f).health = d.health := rfl
@[simp] theorem Dev.onFresh_boot (d : Dev) (f : Nat → Nat) : (d.onFresh f).boot = d.boot := rfl
@[simp] theorem Dev.onFresh_fresh (d : Dev) (f : Nat → Nat) : (d.onFresh f).fresh = f d.fresh := rfl

end Sys2Proof.Machine
end

