-- ==== Sys2Proof/Laws/Cells.lean ====
section
/-!
SUPPORT. Memory cells: a write keeps the canonical form, gives back what it wrote, and leaves every other byte alone.
-/
namespace Sys2Proof.Machine

/-- Addresses strictly rise and every address of `cs` lies from `lo` on. -/
theorem cellsSorted_cons (c : Host.Cell) (cs : List Host.Cell) :
    cellsSorted (c :: cs) = true ↔ (∀ x ∈ cs, c.1 < x.1) ∧ cellsSorted cs = true := by
  induction cs generalizing c with
  | nil => simp [cellsSorted]
  | cons b bs ih =>
    simp only [cellsSorted, Bool.and_eq_true, decide_eq_true_eq]
    constructor
    · rintro ⟨hb, hs⟩
      refine ⟨fun x hx => ?_, hs⟩
      rcases List.mem_cons.mp hx with rfl | hx
      · exact hb
      · exact Nat.lt_trans hb (((ih b).mp hs).1 x hx)
    · rintro ⟨h, hs⟩
      exact ⟨h b (by simp), hs⟩

theorem cellsSorted_filter (p : Host.Cell → Bool) (cs : List Host.Cell) (h : cellsSorted cs = true) :
    cellsSorted (cs.filter p) = true := by
  induction cs with
  | nil => rfl
  | cons c cs ih =>
    obtain ⟨hc, hs⟩ := (cellsSorted_cons c cs).mp h
    by_cases hp : p c = true
    · rw [List.filter_cons_of_pos hp]
      exact (cellsSorted_cons _ _).mpr ⟨fun x hx => hc x (List.mem_filter.mp hx).1, ih hs⟩
    · rw [List.filter_cons_of_neg hp]; exact ih hs

theorem cellsSorted_append (a b : List Host.Cell) (ha : cellsSorted a = true) (hb : cellsSorted b = true)
    (h : ∀ x ∈ a, ∀ y ∈ b, x.1 < y.1) : cellsSorted (a ++ b) = true := by
  induction a with
  | nil => simpa using hb
  | cons c cs ih =>
    obtain ⟨hc, hs⟩ := (cellsSorted_cons c cs).mp ha
    refine (cellsSorted_cons _ _).mpr ⟨fun x hx => ?_, ih hs fun x hx => h x (by simp [hx])⟩
    rcases List.mem_append.mp hx with hx | hx
    · exact hc x hx
    · exact h c (by simp) x hx

theorem place_bounds (a : Nat) (bs : List Byte) : ∀ x ∈ place a bs, a ≤ x.1 ∧ x.1 < a + bs.length := by
  induction bs generalizing a with
  | nil => simp [place]
  | cons b bs ih =>
    intro x hx
    rcases List.mem_cons.mp hx with rfl | hx
    · simp
    · have := ih (a + 1) x hx
      simp only [List.length_cons]; omega

theorem place_sorted (a : Nat) (bs : List Byte) : cellsSorted (place a bs) = true := by
  induction bs generalizing a with
  | nil => rfl
  | cons b bs ih =>
    refine (cellsSorted_cons _ _).mpr ⟨fun x hx => ?_, ih _⟩
    have := place_bounds (a + 1) bs x hx
    show a < x.1
    omega

/-- A write keeps the canonical form. -/
theorem cellWrite_wf (cs : List Host.Cell) (a : Nat) (bs : List Byte) (h : cellsWf cs = true) :
    cellsWf (cellWrite cs a bs) = true := by
  simp only [cellsWf, Bool.and_eq_true] at h ⊢
  constructor
  · refine cellsSorted_append _ _ (cellsSorted_append _ _ (cellsSorted_filter _ _ h.1)
      (cellsSorted_filter _ _ (place_sorted a bs)) ?_) (cellsSorted_filter _ _ h.1) ?_
    · intro x hx y hy
      have h1 : x.1 < a := by simpa using (List.mem_filter.mp hx).2
      have h2 := place_bounds a bs y (List.mem_filter.mp hy).1
      omega
    · intro x hx y hy
      have h2 : a + bs.length ≤ y.1 := by simpa using (List.mem_filter.mp hy).2
      rcases List.mem_append.mp hx with hx | hx
      · have h1 : x.1 < a := by simpa using (List.mem_filter.mp hx).2
        omega
      · have h1 := place_bounds a bs x (List.mem_filter.mp hx).1
        omega
  · have h2 := List.all_eq_true.mp h.2
    refine List.all_eq_true.mpr fun x hx => ?_
    rcases List.mem_append.mp hx with hx | hx
    · rcases List.mem_append.mp hx with hx | hx
      · exact h2 x (List.mem_filter.mp hx).1
      · exact (List.mem_filter.mp hx).2
    · exact h2 x (List.mem_filter.mp hx).1

theorem find_filter_of_imp (p q : Host.Cell → Bool) (cs : List Host.Cell) (h : ∀ c, q c = true → p c = true) :
    (cs.filter p).find? q = cs.find? q := by
  induction cs with
  | nil => rfl
  | cons c cs ih =>
    by_cases hp : p c = true
    · rw [List.filter_cons_of_pos hp]
      by_cases hq : q c = true
      · rw [List.find?_cons_of_pos hq, List.find?_cons_of_pos hq]
      · rw [List.find?_cons_of_neg hq, List.find?_cons_of_neg hq, ih]
    · have hq : ¬ q c = true := fun hq => hp (h c hq)
      rw [List.filter_cons_of_neg hp, List.find?_cons_of_neg hq, ih]

theorem find_none_of_bound (cs : List Host.Cell) (x : Nat) (h : ∀ c ∈ cs, c.1 ≠ x) :
    cs.find? (fun c => c.1 == x) = none := by
  refine List.find?_eq_none.mpr fun c hc => ?_
  simpa using h c hc

/-- A write leaves every byte outside the bytes written as it was. -/
theorem cellRead_cellWrite_out (cs : List Host.Cell) (a x : Nat) (bs : List Byte) (h : x < a ∨ a + bs.length ≤ x) :
    cellRead (cellWrite cs a bs) x = cellRead cs x := by
  have hp : ((place a bs).filter fun c => c.2 != 0).find? (fun c => c.1 == x) = none := by
    refine find_none_of_bound _ _ fun c hc => ?_
    have := place_bounds a bs c (List.mem_filter.mp hc).1
    omega
  unfold cellRead cellWrite
  rw [List.append_assoc, List.find?_append, List.find?_append, hp, Option.none_or]
  rcases h with h | h
  · have h2 : (cs.filter fun c => decide (a + bs.length ≤ c.1)).find? (fun c => c.1 == x) = none := by
      refine find_none_of_bound _ _ fun c hc => ?_
      have : a + bs.length ≤ c.1 := by simpa using (List.mem_filter.mp hc).2
      omega
    rw [h2, Option.or_none, find_filter_of_imp]
    intro c hc
    simp only [beq_iff_eq] at hc
    simp; omega
  · have h2 : (cs.filter fun c => decide (c.1 < a)).find? (fun c => c.1 == x) = none := by
      refine find_none_of_bound _ _ fun c hc => ?_
      have : c.1 < a := by simpa using (List.mem_filter.mp hc).2
      omega
    rw [h2, Option.none_or, find_filter_of_imp]
    intro c hc
    simp only [beq_iff_eq] at hc
    simp; omega

theorem cellRead_place (a : Nat) (bs : List Byte) (i : Nat) (h : i < bs.length) :
    ((place a bs).filter fun c => c.2 != 0).find? (fun c => c.1 == a + i) =
      if bs.getD i 0 = 0 then none else some (a + i, bs.getD i 0) := by
  induction bs generalizing a i with
  | nil => simp at h
  | cons b bs ih =>
    cases i with
    | zero =>
      by_cases hb : b = 0
      · simp only [hb, List.getD_cons_zero, if_true, place]
        rw [List.filter_cons_of_neg (by simp)]
        refine find_none_of_bound _ _ fun c hc => ?_
        have := place_bounds (a + 1) bs c (List.mem_filter.mp hc).1
        omega
      · simp only [place, List.getD_cons_zero, if_neg hb]
        rw [List.filter_cons_of_pos (by simpa using hb), List.find?_cons_of_pos (by simp)]; rfl
    | succ n =>
      have hn : n < bs.length := by simpa using h
      have e : a + (n + 1) = a + 1 + n := by omega
      simp only [List.getD_cons_succ, place, e]
      by_cases hb : b = 0
      · rw [List.filter_cons_of_neg (by simp [hb])]; exact ih (a + 1) n hn
      · rw [List.filter_cons_of_pos (by simpa using hb), List.find?_cons_of_neg (by simp; omega)]; exact ih (a + 1) n hn

/-- A read of a byte just written gives what was written. -/
theorem cellRead_cellWrite_in (cs : List Host.Cell) (a i : Nat) (bs : List Byte) (h : i < bs.length) :
    cellRead (cellWrite cs a bs) (a + i) = bs.getD i 0 := by
  have h1 : (cs.filter fun c => decide (c.1 < a)).find? (fun c => c.1 == a + i) = none := by
    refine find_none_of_bound _ _ fun c hc => ?_
    have : c.1 < a := by simpa using (List.mem_filter.mp hc).2
    omega
  have h2 : (cs.filter fun c => decide (a + bs.length ≤ c.1)).find? (fun c => c.1 == a + i) = none := by
    refine find_none_of_bound _ _ fun c hc => ?_
    have : a + bs.length ≤ c.1 := by simpa using (List.mem_filter.mp hc).2
    omega
  unfold cellRead cellWrite
  rw [List.append_assoc, List.find?_append, List.find?_append, h1, h2, Option.none_or, Option.or_none, cellRead_place a bs i h]
  by_cases hb : bs.getD i 0 = 0
  · rw [if_pos hb]; exact hb.symm
  · rw [if_neg hb]

end Sys2Proof.Machine
end

