-- ==== Sys2Proof/Laws/Parts.lean ====
section
/-!
SUPPORT. Lists of numbered parts: what an update of one part leaves in each place.
-/
namespace Sys2Proof.Machine

theorem getD_upd_same {α : Type} (l : List α) (i : Nat) (f : α → α) (x : α) (h : i < l.length) :
    (upd l i f).getD i x = f (l.getD i x) := by
  simp [upd, List.getD_eq_getElem?_getD, List.getElem?_eq_getElem h]

theorem getD_upd_other {α : Type} (l : List α) (i n : Nat) (f : α → α) (x : α) (h : n ≠ i) :
    (upd l i f).getD n x = l.getD n x := by
  simp [upd, List.getD_eq_getElem?_getD, Ne.symm h]

theorem upd_past {α : Type} (l : List α) (i : Nat) (f : α → α) (h : l.length ≤ i) : upd l i f = l := by
  simp [upd, List.modify_eq_self h]

theorem length_upd {α : Type} (l : List α) (i : Nat) (f : α → α) : (upd l i f).length = l.length := by
  simp [upd]

end Sys2Proof.Machine
end

