-- ==== Sys2Proof/Laws/Dockets.lean ====
section
/-!
SUPPORT. Dockets: what beginning one leaves alone, and the course of one that runs here, is refused or waits.
-/
namespace Sys2Proof.Machine

/-- Beginning a docket touches only the queue that holds it. -/
theorem Dev.begin_eq (d : Dev) (k : Docket) : ∃ q c,
    d.begin k = { d with host := { d.host with sqs := q }, chain := { d.chain with queue := c } } := by
  unfold Dev.begin
  split
  · exact ⟨_, d.chain.queue, rfl⟩
  · split
    · exact ⟨d.host.sqs, _, rfl⟩
    · exact ⟨d.host.sqs, d.chain.queue, rfl⟩

theorem Dev.begin_forwards (d : Dev) (k : Docket) : (d.begin k).forwards k = d.forwards k := by
  obtain ⟨q, c, h⟩ := d.begin_eq k
  rw [h]; rfl

/-- A docket that may not begin changes nothing. -/
theorem Dev.runDocket_waits (d : Dev) (k : Docket) (used : List (Nat × Nat)) (work : Dev → Dev)
    (h : d.canBegin k = false) : d.runDocket k used work = d := by
  simp [Dev.runDocket, h]

/-- A docket that runs here begins and does its work. -/
theorem Dev.runDocket_runs (d : Dev) (k : Docket) (used : List (Nat × Nat)) (work : Dev → Dev)
    (h : d.runsHere k used) : d.runDocket k used work = refuseUnknown 64 (work (d.begin k)) k.sq := by
  simp [Dev.runDocket, h.1, Dev.begin_forwards, h.2.1, h.2.2]

/-- A docket with a reserved byte that is not 0 ends with 0x0202. -/
theorem Dev.runDocket_reserved (d : Dev) (k : Docket) (used : List (Nat × Nat)) (work : Dev → Dev)
    (h : d.canBegin k = true) (hf : d.forwards k = false) (hr : reservedZero k used = false) :
    d.runDocket k used work = refuseUnknown 64 ((d.begin k).finish k 0x0202) k.sq := by
  simp [Dev.runDocket, h, Dev.begin_forwards, hf, hr]

/-- What a queue has besides its fetched dockets is untouched by a docket that begins. -/
theorem Dev.begin_sqI (d : Dev) (k : Docket) (n : Nat) : ∃ l, (d.begin k).sqI n = { d.sqI n with fetched := l } := by
  unfold Dev.begin
  split
  · by_cases hn : n = k.sq
    · subst hn
      by_cases hl : k.sq < d.host.sqs.length
      · exact ⟨_, getD_upd_same _ _ _ _ hl⟩
      · exact ⟨(d.sqI k.sq).fetched, by
          show (upd d.host.sqs k.sq _).getD k.sq _ = _
          rw [upd_past _ _ _ (Nat.le_of_not_lt hl)]; rfl⟩
    · exact ⟨(d.sqI n).fetched, getD_upd_other _ _ _ _ _ hn⟩
  · split
    · exact ⟨(d.sqI n).fetched, rfl⟩
    · exact ⟨(d.sqI n).fetched, rfl⟩

end Sys2Proof.Machine
end

