-- ==== Sys2Proof/Tests/Slice0.lean ====
section
/-!
SUPPORT. Tests: ill-formed commands, the worked cases of the spec, and for every statement with hypotheses a
concrete state and operands that meet those of each of its clauses together.
-/
namespace Sys2Proof.Tests
open Sys2Proof Sys2Proof.Machine

/-- A docket of opcode `op` from queue `sq`: fields are offset, bytes and value. -/
def dk (sq op : Nat) (fields : List (Nat × Nat × Nat)) : Docket :=
  ⟨sq, 0, fields.foldl (fun b f => b.take f.1 ++ leBytes f.2.1 f.2.2 ++ b.drop (f.1 + f.2.1))
    (BitVec.ofNat 8 op :: List.replicate 63 0)⟩

/-- The device after reset with its sorting office running. -/
def dev0 : Dev := Dev.reset.onHost fun h => { h with ready := true }

/-- The state after reset with the sorting office running and `f` done to the device. -/
def on (f : Dev → Dev) : State := State.reset.withDev (f dev0)

/-- Completion queue `n` with 16 entries, and submission queue `n` bound to it. -/
def cq (n : Nat) (d : Dev) : Dev := d.onCqI n fun q => { q with enabled := true, entries := 16, armed := true, phase := true }
def sq (n : Nat) (d : Dev) : Dev :=
  (cq n d).onSqI n fun q => { q with enabled := true, entries := 16, cq := n, limit := 4 }

/-- Curves of 0.80, 0.89, 0.98, 1.07 and 1.15 in every region, and a sweep that has ended: what admission needs. -/
def fit (d : Dev) : Dev :=
  d.onGov fun g => { g with swept := true, curves := List.replicate 12 [3277, 3645, 4014, 4383, 4710] }

/-- A NAND geometry of four channels of one die. -/
def geom : NandGeometry := ⟨[12, 13, 14, 15], 1, 1, 4, 64, 64, 16384, 2048, 3, 1000000, 3000, 1600, true, true, 0, []⟩

/-- A host pigeonhole of docket `k`, not granted. -/
def hole (lock : Nat) (k : Docket) (first blocks : Nat) (shared : Bool) : Hole :=
  { lock := lock, first := first, blocks := blocks, shared := shared, granted := false, d := k, cls := 0,
    pages := none, need := [], failed := [], moved := false, ended := false }

/-- Pool 255 of 32 MiB, two pages of channel 0. -/
def pool : Pool := ⟨255, 2 ^ 25, 1, [(0, 0), (0, 1)]⟩

/-- The device with pool 255. -/
def pooled (d : Dev) : Dev := d.onDram fun x => { x with pools := [pool] }

/-- The device with docket `k` waiting for `len` bytes of host data at address 4. -/
def waits (k : Docket) (len : Nat) (d : Dev) : Dev := d.onHost fun h => { h with waitData := [⟨k, 4, len⟩] }

/-- The device with its store changed by `f`. -/
def stored (f : StoreSt → StoreSt) (d : Dev) : Dev := d.onStore f

/-- The device with both chain ports up and chain address 5. -/
def linked (d : Dev) : Dev :=
  (d.onLanes fun x => { x with chains := [⟨true, true⟩, ⟨true, true⟩] }).onHealth fun h => { h with chainAddr := some 5 }

/-- The device with parameter `key` set to `v`. -/
def parSet (key : Nat) (v : List Byte) (d : Dev) : Dev := { d with params := setPar d.params key v }

/-- A courier frame of class 1 from address 9 to address 5 that arrives on CP0. -/
def courier : Courier :=
  { port := 0, cls := 1, bcast := false, resent := false, src := 9, dst := 5, hops := 1, seq := 65535, payload := [],
    crcOk := true }

/-- A buffer in pool 255 at offset 0 with its payload at 64, in the state `st`, numbered `order`. -/
def buf (st : BufState) (order : Nat) : Buf :=
  ⟨⟨255, 0, 64, 0, 0, 65536, 0⟩, 0, st, [3], [], [], false, false, order, 0, 0, 0, 0, [], []⟩

/-- An access unit of an IRAP picture in order. -/
def au : AccessUnit :=
  { irap := true, cra := false, rasl := false, parseOk := true, refsPresent := true, newSps := false, spsOk := true,
    level := 0, hashOk := true, sei := none, width := 64, height := 64, depth := 8 }

/-- A gated frame whose record fills buffer 5 of its raw lane. -/
def rawFrame : Frame :=
  { Frame.opened 0 0 1 with gated := true, bufs := [none, none, none, none, none, none, none, none, some 5] }

/-- The device with a record of `rawFrame` in progress on raw lane `n`. -/
def recording (n : Nat) (d : Dev) : Dev :=
  (d.onPipeI n fun x => { x with cur := some rawFrame }).onRingI (98 + n) fun r => { r with bufs := [buf .filling 5] }

/-- The device with link `l` on lanes 60 to 63. -/
def laned (l : LinkId) (d : Dev) : Dev := d.onRes fun r => { r with links := [(l, [60, 61, 62, 63])] }

/-- The device with link `l` on lanes 60 to 63 and up, when it is a capture link or chain port. -/
def up (l : LinkId) (d : Dev) : Dev :=
  (laned l d).onLanes fun x =>
    { x with caps := List.replicate 8 ⟨true, true⟩, chains := List.replicate 2 ⟨true, true⟩,
             outs := List.replicate 4 ⟨true, true⟩ }

/-- A stream from endpoint `src`, race number 63. -/
def streamOf (src : Nat) : Stream := ⟨63, src, 0, ⟨1, 1⟩, 0, 0, false, [], [], false⟩

/-- A gated frame of one die of 8 by 1 samples of 10 bits, complete. -/
def whole : Frame :=
  { Frame.opened 0 0 1 with
    gated := true, lines := 1, params := [(0x05070010, [8]), (0x05070014, [1])],
    dies := [{ DieFrame.empty with header := true, trailer := true, segs := [⟨0, 0, List.replicate 8 0⟩] }] }

/-- The device with frame `f` open on pipeline 7. -/
def opened (f : Frame) (d : Dev) : Dev := d.onPipeI 7 fun x => { x with cur := some f }

/-- The device with frame `f` ended and in pipeline 7. -/
def ended (f : Frame) (d : Dev) : Dev := d.onPipeI 7 fun x => { x with ended := [f] }

/-- The device with frame `f` complete on pipeline 7. -/
def done (f : Frame) (d : Dev) : Dev := d.onPipeI 7 fun x => { x with done := some f }

/-- An outstanding letter, sequence 255. -/
def letter : Letter := ⟨255, 0, 0, [], none, 0, false, false, false, true, none⟩

/-- The device with `l` outstanding on pipeline 7. -/
def lettered (l : Letter) (d : Dev) : Dev := d.onCapI 7 fun c => { c with letters := [l] }

/-- A head descriptor that is valid: version 1 and latency codes 1, 1, 1, 1, 0, 0, 0, 0. -/
def goodDesc : List Byte := [0, 1] ++ List.replicate 38 0 ++ [0x11, 0x11] ++ List.replicate 22 0

/-- Channel 23, populated, changed by `f`. -/
def chan (f : Chan → Chan) (d : Dev) : Dev := d.onChanI 23 fun c => f { c with populated := true }

/-- Output 3, enabled, changed by `f`. -/
def shows (f : RasterSt → RasterSt) (d : Dev) : Dev := d.onRasterI 3 fun r => f { r with enabled := true }

/-- Audio port `p` changed by `f`. -/
def port (p : Nat) (f : PortSt → PortSt) (d : Dev) : Dev := d.onPortI p f

/-- What start-up finds on a board with no flash change and no memory. -/
def board : BoardState :=
  { railsInOrder := true, flash := none, voutModeOk := true, regulatorMv := 900, channels := [], curves := [], v1 := [],
    tj := 25, badEngines := [], startMs := 0 }

/-- Channels 22 and 23 of 8 GiB, one rank, limit and training at 6,400 MT/s. -/
def chans : List (Nat × Nat × Nat × Nat × Nat) := [(22, 8, 1, 6400, 6400), (23, 8, 1, 6400, 6400)]

/-- The device with an image that every minimum accepts in slot 1. -/
def imaged (d : Dev) : Dev :=
  d.onBoot fun b => { b with dirs := [⟨1, 1, true⟩], images := [none, some ⟨1, 63, true, true, true⟩] }

/-! ### Well-formed commands: an ill-formed term for each check is refused -/

theorem test_wf_accepts : (Instr.flush (dk 63 0x43 [])).wf = true ∧ (Instr.flush (dk 64 0x43 [])).wf = true := by decide
theorem test_wf_length : (Instr.flush ⟨0, 0, [0x43]⟩).wf = false := by decide
theorem test_wf_opcode : (Instr.flush (dk 0 0x44 [])).wf = false := by decide
theorem test_wf_queue : (Instr.flush (dk 65 0x43 [])).wf = false := by decide
theorem test_wf_operands :
    (Instr.docketFetch []).wf = false ∧ (Instr.bar2Access 0 4 (some [1])).wf = false ∧
    (Instr.monitorWindow [1]).wf = false ∧ (Instr.monitorWindow (List.replicate 48 65536)).wf = false ∧
    (Instr.marginProbe [] (List.replicate 12 0) 25).wf = false ∧ (Instr.marginProbe (List.replicate 12 0) [] 25).wf = false ∧
    (Instr.chainPrepare ⟨0, 0, 0⟩ 0 [[]]).wf = false ∧ (Instr.presetRequest 0 8).wf = false ∧
    (Instr.forwardedDocket 0 0 []).wf = false ∧ (Instr.forwardedReceipt 0 0 []).wf = false ∧
    (Instr.aes3Block 0 true [] (List.replicate 24 0)).wf = false ∧
    (Instr.aes3Block 0 true (List.replicate 24 0) []).wf = false ∧ (Instr.sync 0 10 0 [0, 0, 0, 0, 0] 0).wf = false ∧
    (Instr.sync 0 0 16 [0, 0, 0, 0, 0] 0).wf = false ∧ (Instr.sync 0 0 0 [] 0).wf = false := by decide

/-! ### The worked cases of the spec -/

/-- 02, "setting VCORE for one configuration": 0.835 V in balanced mode, 0.785 V in frugal mode, and 0.90 V short when
the part reaches 1.03 there. -/
theorem test_vcore_case :
    (fit dev0).request (⟨4325376, 4800000⟩ :: List.replicate 11 qZero) = (835, false) ∧
    ((fit dev0).onGov fun g => { g with policy := 0 }).request (⟨4325376, 4800000⟩ :: List.replicate 11 qZero) =
      (785, false) ∧
    (dev0.onGov fun g => { g with curves := List.replicate 12 [3000, 3300, 3600, 3900, 4219] }).request
      (⟨4325376, 4800000⟩ :: List.replicate 11 qZero) = (900, true) := by decide +kernel

/-- 06 R157: the pair with the smallest difference replaces the pixel. -/
theorem test_defect_case :
    replaceValue [(some 9980, some 10060), (some 9000, none), (some 9900, some 10300), (some 10040, some 9990)] =
      some 10015 := by decide

/-- 06, "one red pixel through the front end": row noise, the shading gain and the raw tap at points 2 and 1. -/
theorem test_front_case :
    rowNoise (List.replicate 8 64) 16 1000 = (16, 0) ∧
    shadeGain (fun i j => if i = 0 then (if j = 0 then 0x6000 else 0x5C00) else if j = 0 then 0x5800 else 0x5400)
      8192 4320 100 50 = 22596 ∧
    rawTapValue 13792 4096 14 = (4472, 0) ∧ rawTapValue 10000 4096 14 = (3524, 0) := by decide +kernel

/-- 07 R177: green at a red site by the axis with the smaller gradient. -/
theorem test_green_case :
    (greenEdge (Plane.make 5 5 fun x y =>
      if (x, y) = (2, 2) then 10000 else if (x, y) = (1, 2) then 12000 else if (x, y) = (3, 2) then 12400
      else if (x, y) = (2, 1) then 11000 else if (x, y) = (2, 3) then 13000 else if (x, y) = (0, 2) then 9800
      else if (x, y) = (4, 2) then 10100 else if (x, y) = (2, 0) then 9000 else if (x, y) = (2, 4) then 11200 else 0)
      0).at 2 2 = 12225 := by decide +kernel

/-- 07 R173: mill-float words of the table. -/
theorem test_mill_float_words :
    [mfOne, mfOne / 2, -mfOne, (mfRound (18 * 2 ^ 78) 100).1, mfMax, 1].map mfEncode =
      [0x003F0000, 0x003E0000, 0x00BF0000, 0x003C70A4, 0x007FFFFF, 0x00000001] := by decide +kernel

/-- 07, "18 % grey through every encoding", the codes that take no exponential. -/
theorem test_grey_case :
    (binary16 (mfDecode 0x003C70A4)).1 = 0x31C3 := by decide +kernel

/-- 07 and 08: the codes of the encoded pixel (0.706160, 0.449297, 0.283447), and its luma by the BT.2020 matrix. -/
theorem test_code_case :
    [706160, 449297, 283447].map (fun v => lumaCode 10 true v 1000000) = [(683, 0), (458, 0), (312, 0)] ∧
    lumaCode 10 true 506939 1000000 = (508, 0) ∧ chromaCode 10 true (-118790) 1000000 = (406, 0) ∧
    chromaCode 10 true 135102 1000000 = (633, 0) := by decide

/-- 08, "a 4K proxy cut from an 8K frame": increment, position and coefficients. -/
theorem test_kernel_case :
    axisInc 8192 4096 = 131072 ∧ axisPos 131072 0 = (0, 32) ∧
    kernelCoefs 0 8 131072 131072 32 = [-12, -36, 116, 444, 444, 116, -36, -12] ∧
    kernelCoefs 0 6 131072 98304 32 = [-26, 0, 538, 538, 0, -26] := by decide +kernel

/-- 15, "eight raw heads and proxies on 256 dies". -/
def bigStore : NandGeometry := ⟨List.range 16, 4, 4, 4, 2048, 1024, 16384, 2048, 3, 1400000, 3000, 1600, true, true, 40, []⟩
theorem test_store_case :
    dieRate bigStore = qOfNat 125000000 ∧ goodBlocks bigStore = 1038336 ∧
    capacityOf bigStore (goodBlocks bigStore) = 7476019200 ∧
    qLe (writeCapacity { StoreSt.reset with geom := some bigStore, online := true }) (qOfNat 32000000000) = true ∧
    qLe (qOfNat 32000000000) (writeCapacity { StoreSt.reset with geom := some bigStore, online := true }) = true := by
  decide +kernel

/-- 11, "an 8K programme stream runs out of budget in row 50": level 6.2, high tier. -/
theorem test_level_case :
    (lowestLevel 8192 4320 ⟨120, 1⟩ 800000000 0 4 true 1).map (·.idc) = some 186 := by decide +kernel

/-- 20 R477, 01 R38: at reset the addend is 8 ns and the period 250 ns. -/
theorem test_reset_time : Dev.reset.time.addend.toNat = 8 * 2 ^ 32 ∧ State.reset.periodNs = 250 := by decide

/-- 13 R329, R330: the receipt of docket 0x00 with tag 0xBEEF on SQ1 is due on CQ1 with that tag and phase 1. -/
theorem test_receipt_of_no_operation :
    (match exec (.noOperation (dk 1 0 [(2, 2, 0xBEEF)])) (on fun d => (sq 1 d).onSqI 1 fun q =>
        { q with base := 0x4000, fetch := 1, fetched := [⟨0, (dk 1 0 [(2, 2, 0xBEEF)]).bytes, false, 1, false⟩] }) with
      | .next t => t.dev.hostMem.take 9
      | _ => []) = [(0, 0), (1, 0), (2, 0xEF), (3, 0xBE), (4, 1), (5, 0), (6, 1), (7, 1), (8, 0)] := by decide +kernel

/-! ### Witnesses: the hypotheses of each statement are met -/

theorem witness_StepRunsFrontCommand :
    (∃ (c : Instr) (rest : List Instr) (s : State), s.pending = c :: rest) ∧
    (∃ (s : State), s.pending = []) :=
  ⟨⟨.bypass, [.idcode], { State.reset with pending := [.bypass, .idcode] }, by decide⟩,
   ⟨State.reset, by decide⟩⟩

theorem witness_StepKeepsInvariant :
    ∃ (s t : State), s.Inv ∧ step s = .next t :=
  ⟨{ State.reset with pending := [.bypass, .idcode] },
  { State.reset with pending := [.idcode], jtag := ⟨.bypass, [], false, false⟩, dev := Dev.reset.emit (.tdo [false]) },
  ⟨by unfold State.Inv; decide, rfl⟩⟩

theorem witness_PeriodChangesOnlyAtClose :
    ∃ (c : Instr) (s t : State), exec c s = .next t ∧ t.periodNs ≠ s.periodNs :=
  ⟨.poresetNLow, { State.reset with periodNs := 500 }, _, ⟨rfl, by decide⟩⟩

theorem witness_LedgerWriters :
    ∃ (c : Instr) (s t : State), exec c s = .next t ∧ t.ledger ≠ s.ledger :=
  ⟨.poresetNLow, { State.reset with ledger := ⟨[], 1⟩ }, _, ⟨rfl, by decide⟩⟩

theorem witness_ScanPortWriters :
    (∃ (c : Instr) (s t : State), exec c s = .next t ∧ t.jtag ≠ s.jtag) ∧
    (∃ (c : Instr) (s t : State), (c = .bypass ∨ c = .idcode ∨ (∃ p, c = .samplePreload p) ∨ c = .extest ∨ c =
      .clamp ∨ c = .highz) ∧ exec c s = .next t) :=
  ⟨⟨.extest, State.reset.withDev (Dev.reset.onBoot fun b => { b with devReset := true }), _, ⟨rfl, by decide⟩⟩,
   ⟨.highz, State.reset, _, ⟨by simp, rfl⟩⟩⟩

theorem witness_BoundaryScanInstructions :
    (∃ (s : State), s.dev.boot.devReset = true) ∧
    (∃ (s : State), s.dev.boot.devReset = false) :=
  ⟨⟨State.reset.withDev (Dev.reset.onBoot fun b => { b with devReset := true }), by decide⟩,
   ⟨State.reset.withDev (Dev.reset.onBoot fun b => { b with devReset := false }), by decide⟩⟩

theorem witness_QueueDocketsComplete :
    (∃ (s : State) (k : Docket), s.dev.runsHere k []) ∧
    (∃ (s : State) (k : Docket), s.dev.runsHere k [(8, 22)] ∧ k.sq = 0 ∧ ringStatus k = 0 ∧ u8 k.bytes 19 ≠ 0 ∧
      (s.dev.cqI (u8 k.bytes 22)).enabled = false) ∧
    (∃ (s : State) (k : Docket), s.dev.runsHere k [(22, 22)] ∧ k.sq = 0 ∧ 0 < u8 k.bytes 22 ∧ u8 k.bytes 22 < 64 ∧
      (s.dev.cqI (u8 k.bytes 22)).enabled = true ∧ (∀ q ∈ s.dev.host.sqs, q.enabled = true → q.cq ≠ u8 k.bytes 22)) ∧
    (∃ (s : State) (k : Docket), s.dev.runsHere k [(8, 20), (22, 22)] ∧ k.sq = 0 ∧ u8 k.bytes 20 < 2 ∧ ringStatus k
      = 0 ∧ u8 k.bytes 19 ≤ 3 ∧ (s.dev.sqI (u8 k.bytes 22)).enabled = false ∧ (s.dev.cqI (u8 k.bytes 18)).enabled =
      true) ∧
    (∃ (s : State) (k : Docket), s.dev.runsHere k [(22, 22)] ∧ k.sq = 0 ∧ 0 < u8 k.bytes 22 ∧ u8 k.bytes 22 < 64 ∧
      (s.dev.sqI (u8 k.bytes 22)).enabled = true ∧ (s.dev.sqI (u8 k.bytes 22)).deleting = none) :=
  ⟨⟨on id, dk 63 0 [], by unfold Dev.runsHere; decide⟩,
   ⟨on id, dk 0 1 [(8, 8, 4096), (16, 2, 4095), (18, 1, 63), (19, 1, 1), (22, 1, 63)],
    by unfold Dev.runsHere; decide⟩,
   ⟨on (cq 63), dk 0 2 [(22, 1, 63)], by unfold Dev.runsHere; decide⟩,
   ⟨on (cq 63), dk 0 3 [(8, 8, 4096), (16, 2, 2), (18, 1, 63), (19, 1, 3), (20, 1, 1), (22, 1, 1)],
    by unfold Dev.runsHere; decide⟩,
   ⟨on (sq 1), dk 0 4 [(22, 1, 1)], by unfold Dev.runsHere; decide⟩⟩

theorem witness_AdminOnlyOnSq0 :
    (∃ (s : State) (k : Docket), k.sq ≠ 0 ∧ s.dev.runsHere k [(8, 22)]) ∧
    (∃ (s : State) (k : Docket), k.sq ≠ 0 ∧ s.dev.runsHere k [(22, 22)]) ∧
    (∃ (s : State) (k : Docket), k.sq ≠ 0 ∧ s.dev.runsHere k [(8, 20), (22, 22)]) ∧
    (∃ (s : State) (k : Docket), k.sq ≠ 0 ∧ s.dev.runsHere k [(18, 22)]) ∧
    (∃ (s : State) (k : Docket), k.sq ≠ 0 ∧ s.dev.runsHere k [(8, 8), (10, 15)]) ∧
    (∃ (s : State) (k : Docket), k.sq ≠ 0 ∧ s.dev.runsHere k [(8, 8)]) :=
  ⟨⟨on id, dk 1 1 [], by unfold Dev.runsHere; decide⟩,
   ⟨on id, dk 63 2 [], by unfold Dev.runsHere; decide⟩,
   ⟨on id, dk 1 3 [], by unfold Dev.runsHere; decide⟩,
   ⟨on id, dk 63 5 [], by unfold Dev.runsHere; decide⟩,
   ⟨on id, dk 1 6 [], by unfold Dev.runsHere; decide⟩,
   ⟨on id, dk 63 7 [], by unfold Dev.runsHere; decide⟩⟩

theorem witness_ModerationAndApertureDockets :
    (∃ (s : State) (k : Docket), s.dev.runsHere k [(18, 22)] ∧ k.sq = 0 ∧ u8 k.bytes 18 < 64 ∧ u8 k.bytes 22 < 64 ∧
      u8 k.bytes 19 ≠ 0 ∧ (s.dev.cqI (u8 k.bytes 22)).enabled = true) ∧
    (∃ (s : State) (k : Docket) (p : Pool), s.dev.runsHere k [(8, 8), (10, 15)] ∧ k.sq = 0 ∧ u8 k.bytes 8 < 64 ∧
      u16 k.bytes 10 < 256 ∧ s.dev.pool (u16 k.bytes 10) = some p ∧ u32 k.bytes 12 * 2 ^ 24 < p.size) ∧
    (∃ (s : State) (k : Docket), s.dev.runsHere k [(8, 8)] ∧ k.sq = 0 ∧ u8 k.bytes 8 < 64) ∧
    (∃ (d : Dev) (k : Docket) (cq v c t : Nat), (d.cqI cq).enabled = true) ∧
    (∃ (d : Dev) (k : Docket) (i n off : Nat) (p : Pool), d.pool n = some p ∧ off * 2 ^ 24 < p.size) :=
  ⟨⟨on (cq 63), dk 0 5 [(18, 1, 63), (19, 1, 1), (22, 1, 63)], by unfold Dev.runsHere; decide⟩,
   ⟨on pooled, dk 0 6 [(8, 1, 63), (10, 2, 255), (12, 4, 1)], pool, by unfold Dev.runsHere; decide⟩,
   ⟨on id, dk 0 7 [(8, 1, 63)], by unfold Dev.runsHere; decide⟩,
   ⟨cq 0 dev0, dk 0 5 [], 0, 0, 1, 0, by decide⟩,
   ⟨(pooled dev0), dk 0 6 [], 63, 255, 1, pool, by decide⟩⟩

theorem witness_ReservedDocketFieldRefused :
    ∃ (c : Instr) (k : Docket) (used : List (Nat × Nat)) (s : State), docketRow c = some (k, used) ∧ s.dev.canBegin
    k = true ∧ s.dev.forwards k = false ∧ reservedZero k used = false ∧ s.dev.store.holes.length < 384 :=
  ⟨.deallocate (dk 0 0x44 [(63, 1, 1)]), dk 0 0x44 [(63, 1, 1)], [(16, 19), (24, 31)], on id, by decide⟩

theorem witness_DocketWaitsItsTurn :
    (∃ (c : Instr) (k : Docket) (used : List (Nat × Nat)) (s : State), docketRow c = some (k, used) ∧
      s.dev.canBegin k = false) ∧
    (∃ (d : Dev) (k : Docket), d.host.ready = false) ∧
    (∃ (d : Dev) (k : Docket) (before' after : List Fetched) (f : Fetched), k.sq < 64 ∧ (d.sqI k.sq).fetched =
      before' ++ f :: after ∧ f.idx = k.idx ∧ f.begun = false ∧ (∀ e ∈ before', e.idx = k.idx → e.begun = true) ∧ (∃
      e ∈ before', e.begun = false ∨ (dkFence k = true ∧ e.wrote = false))) :=
  ⟨⟨.flush (dk 0 0x43 []), dk 0 0x43 [], [], State.reset, by decide⟩,
   ⟨Dev.reset, dk 0 0 [], by decide⟩,
   ⟨(dev0.onSqI 63 fun q =>
    { q with fetched := [⟨0, List.replicate 64 0, true, 1, false⟩, ⟨1, 0 :: 1 :: List.replicate 62 0, false, 1, false⟩] }),
    ⟨63, 1, 0 :: 1 :: List.replicate 62 0⟩, [⟨0, List.replicate 64 0, true, 1, false⟩], [], ⟨1, 0 :: 1 ::
    List.replicate 62 0, false, 1, false⟩, by decide⟩⟩

theorem witness_IdentifyAndBufferDockets :
    (∃ (s : State) (k : Docket), s.dev.runsHere k [(8, 19)] ∧ u64 k.bytes 8 % 4 = 0 ∧ 4096 ≤ u32 k.bytes 16) ∧
    (∃ (s : State) (k : Docket) (ring : Nat), s.dev.runsHere k [(24, 28)] ∧ u8 k.bytes 28 ≤ 3 ∧ ringKeyStatus (u32
      k.bytes 24) = 0 ∧ ringOfKey (u32 k.bytes 24) = some ring ∧ ((s.dev.ringI ring).slots.getD (u8 k.bytes 28)
      Slot.none).endpoint = 0xFFFF ∧ s.dev.par (u32 k.bytes 24) ≠ []) ∧
    (∃ (s : State) (k : Docket) (ring : Nat) (b : Buf), s.dev.runsHere k [(24, 29)] ∧ u8 k.bytes 28 ≤ 3 ∧
      ringKeyStatus (u32 k.bytes 24) = 0 ∧ ringOfKey (u32 k.bytes 24) = some ring ∧ ((s.dev.ringI ring).slots.getD
      (u8 k.bytes 28) Slot.none).endpoint = 0xFFFF ∧ s.dev.par (u32 k.bytes 24) ≠ [] ∧ (s.dev.ringI ring).heldBy (u8
      k.bytes 28) (u8 k.bytes 29) = some b) :=
  ⟨⟨on id, dk 0 8 [(8, 4, 4), (16, 4, 4096)], by unfold Dev.runsHere; decide⟩,
   ⟨on (fun (d : Dev) =>
    { (d.onRingI 6 fun r => { r with bufs := [⟨⟨0, 0, 0, 0, 0, 0, 0⟩, 255, .full, [], [3], [], false, false, 7, 0, 0, 0, 0, [], []⟩], slots := [Slot.none, Slot.none, Slot.none, ⟨0xFFFF, false⟩] }) with params := [(0x09000000, [1])] }),
    dk 0 9 [(24, 4, 0x09000000), (28, 1, 3)], 6, by unfold Dev.runsHere; decide⟩,
   ⟨on (fun (d : Dev) =>
    { (d.onRingI 6 fun r => { r with bufs := [⟨⟨0, 0, 0, 0, 0, 0, 0⟩, 255, .full, [], [3], [], false, false, 7, 0, 0, 0, 0, [], []⟩], slots := [Slot.none, Slot.none, Slot.none, ⟨0xFFFF, false⟩] }) with params := [(0x09000000, [1])] }),
    dk 0 10 [(24, 4, 0x09000000), (28, 1, 3), (29, 1, 255)], 6, ⟨⟨0, 0, 0, 0, 0, 0, 0⟩, 255, .full, [], [3], [],
    false, false, 7, 0, 0, 0, 0, [], []⟩, by unfold Dev.runsHere; decide⟩⟩

theorem witness_CopyDocketAndHostData :
    (∃ (s : State) (k : Docket), s.dev.runsHere k [(8, 20), (22, 31)] ∧ u64 k.bytes 8 % 4 = 0 ∧ 4 ≤ u32 k.bytes 16
      ∧ u32 k.bytes 16 ≤ 2 ^ 24 ∧ u32 k.bytes 16 % 4 = 0 ∧ u16 k.bytes 22 < 256 ∧ s.dev.copyStatus k = 0 ∧ u8
      k.bytes 20 = 0) ∧
    (∃ (s : State) (k : Docket), s.dev.runsHere k [(8, 20), (22, 31)] ∧ u64 k.bytes 8 % 4 = 0 ∧ 4 ≤ u32 k.bytes 16
      ∧ u32 k.bytes 16 ≤ 2 ^ 24 ∧ u32 k.bytes 16 % 4 = 0 ∧ u16 k.bytes 22 < 256 ∧ s.dev.copyStatus k = 0 ∧ u8
      k.bytes 20 = 1) ∧
    (∃ (s : State) (k : Docket) (data : List Byte) (addr len : Nat) (rest : List Waiting), k.sq < 64 ∧ dkOp k =
      0x0B ∧ s.dev.host.waitData = ⟨k, addr, len⟩ :: rest ∧ data.length = len ∧ s.dev.copyStatus k = 0) ∧
    (∃ (s : State) (k : Docket) (addr len : Nat) (rest : List Waiting), k.sq < 64 ∧ dkOp k = 0x0B ∧
      s.dev.host.waitData = ⟨k, addr, len⟩ :: rest) :=
  ⟨⟨on pooled, dk 0 0x0B [(8, 4, 4), (16, 4, 2 ^ 24), (20, 1, 0), (22, 2, 255)], by unfold Dev.runsHere; decide⟩,
   ⟨on pooled, dk 0 0x0B [(8, 4, 4), (16, 4, 2 ^ 24), (20, 1, 1), (22, 2, 255)], by unfold Dev.runsHere; decide⟩,
   ⟨on (waits (dk 63 0x0B [(8, 4, 4), (16, 4, 4), (20, 1, 1), (22, 2, 255)]) 4 ∘ pooled), dk 63 0x0B [(8, 4, 4),
    (16, 4, 4), (20, 1, 1), (22, 2, 255)], [1, 2, 3, 4], 4, 4, [], by decide⟩,
   ⟨on (waits (dk 63 0x0B [(8, 4, 4), (16, 4, 4), (20, 1, 1), (22, 2, 255)]) 4 ∘ pooled), dk 63 0x0B [(8, 4, 4),
    (16, 4, 4), (20, 1, 1), (22, 2, 255)], 4, 4, [], by decide⟩⟩

theorem witness_ParameterReadDockets :
    (∃ (s : State) (k : Docket), s.dev.runsHere k [(8, 11)] ∧ keyStatus (u32 k.bytes 8) = 0) ∧
    (∃ (s : State) (k : Docket), s.dev.runsHere k [(8, 19), (24, 31)] ∧ u64 k.bytes 8 % 4 = 0 ∧ 0 < u32 k.bytes 16
      ∧ u32 k.bytes 16 ≤ 2 ^ 24 ∧ keyStatus (u32 k.bytes 24) = 0 ∧ u32 k.bytes 28 < (s.dev.readPar (u32 k.bytes
      24)).length) ∧
    (∃ (s : State) (k : Docket) (f : PInfo), s.dev.runsHere k [(8, 11)] ∧ paramInfo (u32 k.bytes 8) = some f) ∧
    (∃ (s : State) (k : Docket), s.dev.runsHere k [(8, 19), (24, 24)] ∧ u64 k.bytes 8 % 4 = 0 ∧ 64 ≤ u32 k.bytes 16
      ∧ u8 k.bytes 24 < 8 ∧ (s.dev.capI (u8 k.bytes 24)).desc ≠ []) ∧
    (∃ (s : State) (k : Docket) (data : List Byte), s.dev.runsHere k [(8, 19), (24, 25)] ∧ u64 k.bytes 8 % 4 = 0 ∧
      0 < u32 k.bytes 16 ∧ u32 k.bytes 16 ≤ 4096 ∧ u8 k.bytes 24 < 8 ∧ u8 k.bytes 25 < s.dev.parN 0x05 (u8 k.bytes
      24) 1 ∧ data = ((s.dev.capI (u8 k.bytes 24)).embed.getD (u8 k.bytes 25) []).take (u32 k.bytes 16) ∧ data ≠ []) :=
  ⟨⟨on id, dk 0 0x12 [(8, 4, 0x02000000)], by unfold Dev.runsHere; decide⟩,
   ⟨on id, dk 0 0x13 [(8, 4, 4), (16, 4, 2 ^ 24), (24, 4, 0x02000000)], by unfold Dev.runsHere; decide⟩,
   ⟨on id, dk 0 0x14 [(8, 4, 0x02000000)], (paramInfo 0x02000000).get (by decide), by unfold Dev.runsHere; decide⟩,
   ⟨on (fun (d : Dev) => d.onCapI 7 fun c => { c with desc := [1], embed := [[], [], [], [9]] }), dk 0 0x30 [(8, 4,
    4), (16, 4, 64), (24, 1, 7)], by unfold Dev.runsHere; decide⟩,
   ⟨on (fun (d : Dev) =>
    { ((fun (d : Dev) => d.onCapI 7 fun c => { c with desc := [1], embed := [[], [], [], [9]] }) d) with params := [(0x05070001, [4])] }),
    dk 0 0x31 [(8, 4, 4), (16, 4, 4096), (24, 1, 7), (25, 1, 3)], [9], by unfold Dev.runsHere; decide⟩⟩

theorem witness_ReceiptIsWritten :
    ∃ (d : Dev) (k : Docket) (status : Nat) (result : List Byte) (f : Fetched) (n : Nat), n = k.sq ∧ n < 64 ∧
    d.host.sqs.length = 64 ∧ d.host.cqs.length = 64 ∧ d.host.power = .d0 ∧ (d.sqI n).cq < 64 ∧ (d.cqI (d.sqI
    n).cq).enabled = true ∧ (d.sqI n).fetched = [f] ∧ f.idx = k.idx ∧ f.begun = true ∧ (d.sqI n).deleting = none ∧
    (d.sqI n).frozen = false ∧ dkQuiet k = false ∧ status / 256 ≤ 1 ∧ result.length ≤ 24 :=
  ⟨(sq 63 dev0).onSqI 63 fun q => { q with fetched := [⟨0, List.replicate 64 0, true, 1, false⟩] }, dk 63 0 [],
  0x01FF, List.replicate 24 1, ⟨0, List.replicate 64 0, true, 1, false⟩, 63, by decide⟩

theorem witness_DoorbellWrites :
    (∃ (q : Fin 64) (v : Word) (cyc : Nat) (s : State), (s.dev.sqI q).enabled = true ∧ (s.dev.sqI q).deleting =
      none ∧ v.toNat % 4096 < (s.dev.sqI q).entries) ∧
    (∃ (q : Fin 64) (v : Word) (cyc : Nat) (s : State), (s.dev.sqI q).enabled = true ∧ (s.dev.sqI q).deleting =
      none ∧ (s.dev.sqI q).entries ≤ v.toNat % 4096) ∧
    (∃ (q : Fin 64) (v : Word) (cyc : Nat) (s : State), (s.dev.cqI q).enabled = true ∧ v.toNat % 4096 < (s.dev.cqI
      q).entries ∧ (v.toNat % 4096 + (s.dev.cqI q).entries - (s.dev.cqI q).head) % (s.dev.cqI q).entries ≤ cqUsed
      (s.dev.cqI q)) ∧
    (∃ (q : Fin 64) (v : Word) (cyc : Nat) (s : State), (s.dev.cqI q).enabled = true ∧ ((s.dev.cqI q).entries ≤
      v.toNat % 4096 ∨ cqUsed (s.dev.cqI q) < (v.toNat % 4096 + (s.dev.cqI q).entries - (s.dev.cqI q).head) %
      (s.dev.cqI q).entries)) ∧
    (∃ (d : Dev) (n v : Nat), d.host.dlog.length < 128) ∧
    (∃ (d : Dev) (n v : Nat), (d.sqI n).enabled = true) :=
  ⟨⟨63, 15, 0, on (sq 63), by decide⟩,
   ⟨0, 16, 0, on (sq 0), by decide⟩,
   ⟨63, 0, 0, on (cq 63), by decide⟩,
   ⟨63, 1, 0, on (cq 63), by decide⟩,
   ⟨dev0, 63, 4095, by decide⟩,
   ⟨sq 0 dev0, 0, 3, by decide⟩⟩

theorem witness_DocketFetch :
    (∃ (s : State) (n : Nat) (shares : List Nat) (b : List Byte), let q := s.dev.sqI n; s.dev.host.ready = true ∧
      s.dev.host.power = .d0 ∧ s.dev.store.holes.length < 384 ∧ s.dev.arbitrate = some (n, shares) ∧ (s.dev.sqI
      n).flushEnd = none ∧ b.length = 64 ∧ reserveOf b (s.dev.cqI q.cq).entries ≤ cqRoom (s.dev.cqI q.cq)) ∧
    (∃ (s : State) (n : Nat) (shares : List Nat) (b : List Byte), let q := s.dev.sqI n; s.dev.host.ready = true ∧
      s.dev.host.power = .d0 ∧ s.dev.store.holes.length < 384 ∧ s.dev.arbitrate = some (n, shares) ∧ (s.dev.sqI
      n).flushEnd = none ∧ b.length = 64 ∧ 1 ≤ cqRoom (s.dev.cqI q.cq)) :=
  ⟨⟨on (sq 0), 0, [8, 4, 1], List.replicate 64 0, by decide⟩,
   ⟨on (sq 0), 0, [8, 4, 1], List.replicate 64 0, by decide⟩⟩

theorem witness_QueueActions :
    (∃ (d : Dev) (n : Nat), (d.sqI n).enabled = true ∧ (d.sqI n).frozen = true ∧ (d.sqI n).hostFreeze = false) ∧
    (∃ (d : Dev) (n : Nat), n < d.host.sqs.length ∧ (d.sqI n).enabled = true ∧ (d.sqI n).frozen = true ∧ (d.sqI
      n).flushEnd = none) ∧
    (∃ (d : Dev) (n : Nat) (code : Nat), n < d.host.sqs.length ∧ (d.sqI n).enabled = true ∧ (d.sqI n).frozen =
      false ∧ code ≠ 4) :=
  ⟨⟨(fun (d : Dev) => (sq 63 d).onSqI 63 fun q => { q with frozen := true }) dev0, 63, by decide⟩,
   ⟨(fun (d : Dev) => (sq 63 d).onSqI 63 fun q => { q with frozen := true }) dev0, 63, by decide⟩,
   ⟨sq 63 dev0, 63, 3, by decide⟩⟩

theorem witness_HostResetAndAdminQueue :
    (∃ (d : Dev) (n : Nat), d.host.sqs.length = 64) ∧
    (∃ (v : Word) (s : State), bit v.toNat 0 = true ∧ bit v.toNat 1 = false ∧ s.dev.host.admEn = false ∧
      s.dev.host.sqLast ≠ 0 ∧ s.dev.host.cqLast ≠ 0) ∧
    (∃ (v : Word) (s : State), bit v.toNat 0 = true ∧ bit v.toNat 1 = false ∧ s.dev.host.admEn = false ∧
      (s.dev.host.sqLast = 0 ∨ s.dev.host.cqLast = 0)) ∧
    (∃ (v : Word) (s : State), (∀ e ∈ s.dev.host.dlog, e.tick ≠ s.dev.closeCount)) :=
  ⟨⟨dev0, 0, by decide⟩,
   ⟨1, on (fun (d : Dev) => d.onHost fun h => { h with sqLast := 1, cqLast := 4095 }), by decide⟩,
   ⟨1, on id, by decide⟩,
   ⟨1, on (fun (d : Dev) => d.onHost fun h => { h with dlog := [⟨[], [], 3, 0, 3, 0, false⟩] }), by decide⟩⟩

theorem witness_Bar2Accesses :
    (∃ (off len pool base : Nat) (p : Pool) (s : State) (bs : List Byte), s.dev.host.apertures.getD (off / 2 ^ 24)
      none = some (pool, base) ∧ s.dev.pool pool = some p ∧ off % 2 ^ 24 + len ≤ 2 ^ 24 ∧ base * 2 ^ 24 + off % 2 ^
      24 + len ≤ p.size ∧ bs.length = len) ∧
    (∃ (off len : Nat) (s : State), s.dev.host.apertures.getD (off / 2 ^ 24) none = none) ∧
    (∃ (off len : Nat) (s : State) (bs : List Byte), s.dev.host.apertures.getD (off / 2 ^ 24) none = none) :=
  ⟨⟨64 * 2 ^ 24 - 4, 4, 255, 0, pool, on (fun (d : Dev) => (pooled d).onHost fun h =>
    { h with apertures := h.apertures.set 63 (some (255, 0)) }), [1, 2, 3, 4], by decide⟩,
   ⟨64 * 2 ^ 24 - 4, 4, on id, by decide⟩,
   ⟨0, 8, on id, [1], by decide⟩⟩

theorem witness_PresenceWindow :
    (∃ (d : Dev), d.host.presDue = true ∧ d.host.presOpen = false) ∧
    (∃ (cyc : Nat) (s : State), s.dev.host.presOpen = true) ∧
    (∃ (d : Dev), d.host.presDue = false ∧ d.host.presOpen = true ∧ d.host.presEnd ≤ d.tick.tclk) ∧
    (∃ (cyc : Nat) (s : State), s.dev.host.presLow = true ∧ s.dev.host.presStuck = false ∧ s.dev.host.presOpen =
      false) :=
  ⟨⟨(fun (d : Dev) => d.onHost fun h => { h with presDue := true }) dev0, by decide⟩,
   ⟨0, on (fun (d : Dev) => d.onHost fun h => { h with presOpen := true }), by decide⟩,
   ⟨(fun (d : Dev) => d.onHost fun h => { h with presOpen := true }) dev0, by decide⟩,
   ⟨0, on (fun (d : Dev) => d.onHost fun h => { h with presLow := true }), by decide⟩⟩

theorem witness_EnvelopeMemberDockets :
    (∃ (s : State) (k : Docket) (n : Nat), s.dev.runsHere k [] ∧ n < 64 ∧ (s.dev.envI n).phase = .free ∧ (∀ m, m <
      n → (s.dev.envI m).phase ≠ .free)) ∧
    (∃ (s : State) (k : Docket), s.dev.runsHere k [(8, 8), (16, 63)] ∧ recordStatus (k.bytes.drop 16) = 0 ∧ u8
      k.bytes 8 < 64 ∧ (s.dev.envI (u8 k.bytes 8)).phase = .opened ∧ (s.dev.envI (u8 k.bytes 8)).members.length <
      1024) ∧
    (∃ (s : State) (k : Docket), s.dev.runsHere k [(8, 22), (24, 27)] ∧ u8 k.bytes 22 ≤ 1 ∧ u64 k.bytes 8 % 4 = 0 ∧
      0 < u32 k.bytes 16 ∧ u32 k.bytes 16 ≤ 2 ^ 24 ∧ s.dev.addStatus (u8 k.bytes 20) 1 = 0 ∧ s.dev.bulkRoom
      (s.dev.envI (u8 k.bytes 20)).members (u32 k.bytes 16) = true) ∧
    (∃ (s : State) (k : Docket) (data : List Byte) (addr : Nat) (rest : List Waiting), k.sq < 64 ∧ dkOp k = 0x22 ∧
      s.dev.host.waitData = ⟨k, addr, data.length⟩ :: rest ∧ s.dev.addStatus (u8 k.bytes 20) 1 = 0 ∧ s.dev.bulkRoom
      (s.dev.envI (u8 k.bytes 20)).members data.length = true) ∧
    (∃ (s : State) (k : Docket), s.dev.runsHere k [(8, 20)] ∧ u64 k.bytes 8 % 4 = 0 ∧ 48 ≤ u32 k.bytes 16 ∧ u32
      k.bytes 16 ≤ 49152 ∧ u32 k.bytes 16 % 48 = 0 ∧ s.dev.addStatus (u8 k.bytes 20) (u32 k.bytes 16 / 48) = 0) ∧
    (∃ (s : State) (k : Docket) (data : List Byte) (addr : Nat) (rest : List Waiting), k.sq < 64 ∧ dkOp k = 0x23 ∧
      s.dev.host.waitData = ⟨k, addr, data.length⟩ :: rest ∧ s.dev.addStatus (u8 k.bytes 20) (chunks 48 (data.length
      / 48) data).length = 0 ∧ (∀ r ∈ chunks 48 (data.length / 48) data, recordStatus r = 0)) ∧
    (∃ (s : State) (k : Docket), s.dev.runsHere k [(8, 8)] ∧ u8 k.bytes 8 < 64 ∧ (s.dev.envI (u8 k.bytes 8)).phase
      = .opened) :=
  ⟨⟨on (fun (d : Dev) => d.onEnvI 0 fun _ => { Env.empty with phase := .opened }), dk 0 0x20 [], 1,
    by unfold Dev.runsHere; decide⟩,
   ⟨on (fun (d : Dev) => d.onEnvI 63 fun _ => { Env.empty with phase := .opened }), dk 0 0x21 [(8, 1, 63), (24, 1,
    32)], by unfold Dev.runsHere; decide⟩,
   ⟨on (fun (d : Dev) => d.onEnvI 63 fun _ => { Env.empty with phase := .opened }), dk 0 0x22 [(8, 4, 4), (16, 4, 2
    ^ 24), (20, 1, 63), (22, 1, 1)], by unfold Dev.runsHere; decide⟩,
   ⟨on (waits (dk 63 0x22 [(8, 4, 4), (16, 4, 3), (20, 1, 63)]) 3 ∘ (fun (d : Dev) => d.onEnvI 63 fun _ =>
    { Env.empty with phase := .opened })), dk 63 0x22 [(8, 4, 4), (16, 4, 3), (20, 1, 63)], [1, 2, 3], 4, [],
    by decide⟩,
   ⟨on (fun (d : Dev) => d.onEnvI 63 fun _ => { Env.empty with phase := .opened }), dk 0 0x23 [(8, 4, 4), (16, 4,
    49152), (20, 1, 63)], by unfold Dev.runsHere; decide⟩,
   ⟨on (waits (dk 63 0x23 [(8, 4, 4), (16, 4, 48), (20, 1, 63)]) 48 ∘ (fun (d : Dev) => d.onEnvI 63 fun _ =>
    { Env.empty with phase := .opened })), dk 63 0x23 [(8, 4, 4), (16, 4, 48), (20, 1, 63)], [0, 0, 0, 0, 0, 0, 0,
    0, 4] ++ List.replicate 39 0, 4, [], by decide⟩,
   ⟨on (fun (d : Dev) => d.onEnvI 63 fun _ => { Env.empty with phase := .opened }), dk 0 0x26 [(8, 1, 63)],
    by unfold Dev.runsHere; decide⟩⟩

theorem witness_SealDockets :
    (∃ (s : State) (k : Docket) (e : Env), s.dev.runsHere k [(8, 21), (24, 55)] ∧ u8 k.bytes 10 ≤ 1 ∧ u8 k.bytes 9
      ≤ 3 ∧ u8 k.bytes 8 < 64 ∧ (s.dev.envI (u8 k.bytes 8)).phase = .opened ∧ s.dev.pointOk k.bytes = true ∧ e =
      { s.dev.envI (u8 k.bytes 8) with dk := k, kind := u8 k.bytes 9, target := u8 k.bytes 11, land := sealPoint k.bytes, noLate := u8 k.bytes 10 == 1, chain := none }) ∧
    (∃ (s : State) (k : Docket) (n : Nat), s.dev.runsHere k [(8, 12), (16, 47)] ∧ s.dev.freeEnv = some n ∧ 0 < u8
      k.bytes 12 ∧ u8 k.bytes 12 ≤ 32 ∧ allZero ((k.bytes.drop (16 + u8 k.bytes 12)).take (32 - u8 k.bytes 12)) =
      true ∧ s.dev.bulkRoom [] 0 = true) ∧
    (∃ (s : State) (k : Docket), s.dev.runsHere k [(8, 19), (24, 27)] ∧ u64 k.bytes 8 % 4 = 0 ∧ 0 < u32 k.bytes 16
      ∧ u32 k.bytes 16 ≤ 2 ^ 24 ∧ s.dev.freeEnv.isSome = true ∧ s.dev.bulkRoom [] (u32 k.bytes 16) = true) ∧
    (∃ (s : State) (k : Docket) (data : List Byte) (addr n : Nat) (rest : List Waiting), k.sq < 64 ∧ dkOp k = 0x11
      ∧ s.dev.host.waitData = ⟨k, addr, data.length⟩ :: rest ∧ s.dev.freeEnv = some n ∧ s.dev.bulkRoom []
      data.length = true) ∧
    (∃ (d : Dev) (n : Nat) (e : Env), d.sealFails n e = none) ∧
    (∃ (d : Dev) (n code m : Nat) (e : Env), d.sealFails n e = some (code, m)) :=
  ⟨⟨on (fun (d : Dev) => d.onEnvI 63 fun _ => { Env.empty with phase := .opened }), dk 0 0x24 [(8, 1, 63), (10, 1,
    1)], { Env.empty with phase := .opened, dk := dk 0 0x24 [(8, 1, 63), (10, 1, 1)], noLate := true },
    by unfold Dev.runsHere; decide⟩,
   ⟨on id, dk 0 0x10 [(8, 4, 0x02000000), (12, 1, 32)], 0, by unfold Dev.runsHere; decide⟩,
   ⟨on id, dk 0 0x11 [(8, 4, 4), (16, 4, 2 ^ 24)], by unfold Dev.runsHere; decide⟩,
   ⟨on (waits (dk 63 0x11 []) 1), dk 63 0x11 [], [7], 4, 0, [], by decide⟩,
   ⟨fit dev0, 0, Env.empty, by decide +kernel⟩,
   ⟨dev0, 0, 0x28, 0, Env.empty, by decide +kernel⟩⟩

theorem witness_SealSequenceNumbers :
    (∃ (d : Dev) (n : Nat), n < d.env.envs.length ∧ (d.envI n).chain = none ∧ (d.aim (d.envI n)).2 = false ∧
      d.armedTooFar (d.envI n) = none ∧ 1 ≤ d.env.nextSeq ∧ d.env.nextSeq ≤ 0xFFFFFFFE ∧ (d.envI n).kind = 0) ∧
    (∃ (d : Dev) (n : Nat), (d.envI n).chain = none ∧ (d.aim (d.envI n)).2 = true ∧ (d.envI n).noLate = true) :=
  ⟨⟨dev0.onEnv fun x => { x with nextSeq := 0xFFFFFFFE }, 63, by decide⟩,
   ⟨((dev0.onTime fun t => { t with dev := 1 }).onEnvI 63 fun e => { e with noLate := true, kind := 3 }), 63,
    by decide⟩⟩

theorem witness_WithdrawAndReturn :
    (∃ (s : State) (k : Docket), s.dev.runsHere k [(8, 8)] ∧ u8 k.bytes 8 < 64 ∧ (s.dev.envI (u8 k.bytes 8)).phase
      = .sealed) ∧
    (∃ (d : Dev) (k : Docket) (n : Nat), (d.envI n).phase = .sealed ∧ (d.envI n).chain = none ∧ d.tick.done8 = []) ∧
    (∃ (d : Dev) (k : Docket) (n : Nat), (d.envI n).phase ≠ .sealed) :=
  ⟨⟨on (fun (d : Dev) => d.onEnvI 63 fun _ => { Env.empty with phase := .sealed }), dk 0 0x25 [(8, 1, 63)],
    by unfold Dev.runsHere; decide⟩,
   ⟨(fun (d : Dev) => d.onEnvI 63 fun _ => { Env.empty with phase := .sealed }) dev0, dk 0 0x25 [], 63, by decide⟩,
   ⟨dev0, dk 0 0x25 [], 63, by decide⟩⟩

theorem witness_ChainWideEnvelopes :
    (∃ (s : State) (ref : ChainRef) (land n : Nat) (recs : List (List Byte)), s.dev.host.ready = true ∧
      s.dev.freeEnv = some n) ∧
    (∃ (s : State) (ref : ChainRef) (land : Nat) (recs : List (List Byte)), s.dev.host.ready = true ∧ s.dev.freeEnv
      = none) ∧
    (∃ (s : State) (ref : ChainRef) (a : Nat) (c : ChainPart), s.dev.coordinated ref = some c ∧ c.decision = none ∧
      (s.dev.envI ref.env).phase = .sealed ∧ a ∈ c.members) ∧
    (∃ (s : State) (ref : ChainRef) (a : Nat) (c : ChainPart) (why : Nat), s.dev.coordinated ref = some c ∧
      c.decision = none ∧ (s.dev.envI ref.env).phase = .sealed ∧ a ∈ c.members) ∧
    (∃ (s : State) (n : Fin 64) (c : ChainPart), (s.dev.envI n).chain = some c ∧ c.isCoord = true ∧ c.decision =
      none ∧ (s.dev.envI n).phase = .sealed) ∧
    (∃ (s : State) (ref : ChainRef) (n : Nat) (c : ChainPart), s.dev.participating ref = some (n, c) ∧ c.decision =
      none) ∧
    (∃ (s : State) (ref : ChainRef) (a : Nat) (l : Bool) (c : ChainPart), s.dev.coordinated ref = some c ∧ a ∈
      c.members ∧ (∀ r ∈ c.reports, r.1 ≠ a)) ∧
    (∃ (s : State) (n : Fin 64) (c : ChainPart), (s.dev.envI n).chain = some c ∧ (s.dev.envI n).phase = .ended ∧
      c.holdRcpt = true) :=
  ⟨⟨on id, ⟨1, 0, 5⟩, 0, 0, [], by decide⟩,
   ⟨on (fun (d : Dev) => d.onEnv fun x =>
    { x with envs := List.replicate 64 { Env.empty with phase := .opened } }), ⟨1, 0, 5⟩, 0, [], by decide⟩,
   ⟨on (fun (d : Dev) => d.onEnvI 63 fun _ =>
    { Env.empty with phase := .sealed, seq := 5, kind := 4, chain := some ⟨⟨0, 63, 5⟩, true, [0, 254], [], none, [], 0, false, false⟩ }),
    ⟨0, 63, 5⟩, 254, ⟨⟨0, 63, 5⟩, true, [0, 254], [], none, [], 0, false, false⟩, by decide⟩,
   ⟨on (fun (d : Dev) => d.onEnvI 63 fun _ =>
    { Env.empty with phase := .sealed, seq := 5, kind := 4, chain := some ⟨⟨0, 63, 5⟩, true, [0, 254], [], none, [], 0, false, false⟩ }),
    ⟨0, 63, 5⟩, 254, ⟨⟨0, 63, 5⟩, true, [0, 254], [], none, [], 0, false, false⟩, 0x21, by decide⟩,
   ⟨on (fun (d : Dev) => d.onEnvI 63 fun _ =>
    { Env.empty with phase := .sealed, seq := 5, kind := 4, chain := some ⟨⟨0, 63, 5⟩, true, [0, 254], [], none, [], 0, false, false⟩ }),
    63, ⟨⟨0, 63, 5⟩, true, [0, 254], [], none, [], 0, false, false⟩, by decide⟩,
   ⟨on (fun (d : Dev) => d.onEnvI 63 fun _ =>
    { Env.empty with phase := .sealed, seq := 5, kind := 4, chain := some ⟨⟨0, 63, 5⟩, false, [0, 254], [], none, [], 0, false, false⟩ }),
    ⟨0, 63, 5⟩, 63, ⟨⟨0, 63, 5⟩, false, [0, 254], [], none, [], 0, false, false⟩, by decide⟩,
   ⟨on (fun (d : Dev) => d.onEnvI 63 fun _ =>
    { Env.empty with phase := .sealed, seq := 5, kind := 4, chain := some ⟨⟨0, 63, 5⟩, true, [0, 254], [], none, [(0, true)], 0, false, false⟩ }),
    ⟨0, 63, 5⟩, 254, true, ⟨⟨0, 63, 5⟩, true, [0, 254], [], none, [(0, true)], 0, false, false⟩, by decide⟩,
   ⟨on (fun (d : Dev) => d.onEnvI 63 fun _ =>
    { Env.empty with phase := .ended, seq := 5, kind := 4, chain := some ⟨⟨0, 63, 5⟩, true, [0, 254], [], none, [], 0, false, true⟩ }),
    63, ⟨⟨0, 63, 5⟩, true, [0, 254], [], none, [], 0, false, true⟩, by decide⟩⟩

theorem witness_PigeonholesSharedAndExclusive :
    (∃ (s : State) (k : Docket), s.dev.store.holes.length < 384 ∧ s.dev.runsHere k [(8, 19), (20, 20), (24, 31)] ∧
      u8 k.bytes 20 ≤ 1 ∧ u64 k.bytes 8 % (if u8 k.bytes 20 = 1 then 8 else 4) = 0 ∧ 4096 ≤ u32 k.bytes 16 ∧ u32
      k.bytes 16 ≤ 16777216 ∧ u32 k.bytes 16 % 4096 = 0) ∧
    (∃ (s : State) (k : Docket), s.dev.store.holes.length < 384 ∧ s.dev.runsHere k [(16, 19), (24, 31)] ∧ 0 < u32
      k.bytes 16 ∧ u32 k.bytes 16 ≤ 4096) :=
  ⟨⟨on id, dk 0 0x40 [(8, 4, 8), (16, 4, 16777216), (20, 1, 1)], by unfold Dev.runsHere; decide⟩,
   ⟨on id, dk 0 0x44 [(16, 4, 4096)], by unfold Dev.runsHere; decide⟩⟩

theorem witness_PigeonholesFirstInFirstOut :
    (∃ (s : State) (pre post : List Hole) (h : Hole), s.dev.store.holes = pre ++ h :: post ∧ (∀ x ∈ pre, x.lock ≠
      h.lock) ∧ ((∃ x ∈ pre, x.first < h.first + h.blocks ∧ h.first < x.first + x.blocks ∧ (x.shared = false ∨
      h.shared = false)) ∨ s.dev.store.parked = true ∨ (s.dev.store.online = false ∧ s.dev.store.offline = false ∧
      s.dev.store.locked = false))) ∧
    (∃ (s : State) (pre post : List Hole) (h : Hole), s.dev.store.holes = pre ++ h :: post ∧ (∀ x ∈ pre, x.lock ≠
      h.lock) ∧ s.dev.store.parked = false ∧ s.dev.store.online = true ∧ h.granted = false ∧ (∀ x ∈ pre, (x.first +
      x.blocks ≤ h.first ∨ h.first + h.blocks ≤ x.first) ∨ (x.shared = true ∧ h.shared = true)) ∧ storeRefusal
      s.dev.store { h with granted := true } = none ∧ dkOp h.d = 0x44) ∧
    (∃ (s : State) (pre post : List Hole) (h : Hole), s.dev.store.holes = pre ++ h :: post ∧ (∀ x ∈ pre, x.lock ≠
      h.lock) ∧ s.dev.store.parked = false ∧ s.dev.store.online = true ∧ h.granted = false ∧ (∀ x ∈ pre, (x.first +
      x.blocks ≤ h.first ∨ h.first + h.blocks ≤ x.first) ∨ (x.shared = true ∧ h.shared = true)) ∧ storeRefusal
      s.dev.store { h with granted := true } = none ∧ dkOp h.d = 0x40 ∧ u8 h.d.bytes 20 = 0) ∧
    (∃ (s : State) (pre post : List Hole) (h : Hole), s.dev.store.holes = pre ++ h :: post ∧ (∀ x ∈ pre, x.lock ≠
      h.lock) ∧ s.dev.store.parked = false ∧ s.dev.store.online = true ∧ h.granted = false ∧ (∀ x ∈ pre, (x.first +
      x.blocks ≤ h.first ∨ h.first + h.blocks ≤ x.first) ∨ (x.shared = true ∧ h.shared = true)) ∧ storeRefusal
      s.dev.store { h with granted := true } = none ∧ (dkOp h.d = 0x41 ∨ dkOp h.d = 0x42) ∧ u8 h.d.bytes 20 = 0 ∧
      h.pages = none) :=
  ⟨⟨on (stored fun x =>
    { x with online := true, holes := [(hole 1 (dk 0 0x40 []) 0 2 true), (hole 2 (dk 0 0x41 []) 1 2 false)] }),
    [(hole 1 (dk 0 0x40 []) 0 2 true)], [], (hole 2 (dk 0 0x41 []) 1 2 false), by decide⟩,
   ⟨on (stored fun x =>
    { x with online := true, capacity := 8, holes := [(hole 1 (dk 0 0x40 []) 0 2 true), (hole 2 (dk 0 0x44 []) 2 2 false)] }),
    [(hole 1 (dk 0 0x40 []) 0 2 true)], [], (hole 2 (dk 0 0x44 []) 2 2 false), by decide⟩,
   ⟨on (stored fun x =>
    { x with online := true, capacity := 8, holes := [(hole 1 (dk 0 0x40 []) 0 2 true), (hole 2 (dk 0 0x40 []) 1 2 true)] }),
    [(hole 1 (dk 0 0x40 []) 0 2 true)], [], (hole 2 (dk 0 0x40 []) 1 2 true), by decide⟩,
   ⟨on (stored fun x =>
    { x with online := true, capacity := 8, holes := [(hole 1 (dk 0 0x40 []) 0 2 true), (hole 2 (dk 0 0x41 []) 2 2 false)] }),
    [(hole 1 (dk 0 0x40 []) 0 2 true)], [], (hole 2 (dk 0 0x41 []) 2 2 false), by decide⟩⟩

theorem witness_UnwrittenBlocksReadZeros :
    ∃ (d : Dev) (h : Hole), d.host.power = .d0 ∧ h.pages = none ∧ h.failed = [] ∧ 0 < h.blocks ∧ (∀ i, i < h.blocks
    → onMedium d.store (h.first + i) = none ∨ buffered d.store (h.first + i) ≠ none) ∧ (∀ i v, i < h.blocks →
    buffered d.store (h.first + i) = some (some v) → v.length = 4096) :=
  ⟨(((stored fun x => { x with dirty := [⟨1, 1, some (List.replicate 4096 7), true, false⟩] })) dev0), { hole 1 (dk 0 0x40 []) 0 2 true with granted := true }, rfl, rfl, rfl, by decide, by decide, by
      intro i v h e
      change i < 2 at h
      rcases (by omega : i = 0 ∨ i = 1) with rfl | rfl
      · exact absurd e (by intro h; cases h)
      · cases e; exact List.length_replicate⟩

theorem witness_StoreReadOutDockets :
    (∃ (s : State) (k : Docket), s.dev.runsHere k [] ∧ s.dev.store.online = true ∧ s.dev.store.offline = false ∧
      s.dev.store.locked = false) ∧
    (∃ (d : Dev) (k : Docket), d.store.dirty = [] ∧ d.store.lostWr = [] ∧ d.store.holes = []) ∧
    (∃ (s : State) (k : Docket), s.dev.runsHere k [(8, 19)] ∧ s.dev.store.online = true ∧ s.dev.store.offline =
      false ∧ s.dev.store.locked = false ∧ u64 k.bytes 8 % 4 = 0 ∧ 512 ≤ u32 k.bytes 16) ∧
    (∃ (s : State) (k : Docket) (c : Clip), s.dev.runsHere k [(8, 19), (24, 31)] ∧ s.dev.store.online = true ∧
      s.dev.store.offline = false ∧ s.dev.store.locked = false ∧ u64 k.bytes 8 % 4 = 0 ∧ 64 ≤ u32 k.bytes 16 ∧
      s.dev.store.clips.find? (fun c => c.id == u64 k.bytes 24) = some c) ∧
    (∃ (s : State) (k : Docket), s.dev.runsHere k [] ∧ s.dev.store.online = false ∧ s.dev.store.offline = false ∧
      s.dev.store.locked = false) :=
  ⟨⟨on (stored fun x => { x with online := true }), dk 0 0x43 [], by unfold Dev.runsHere; decide⟩,
   ⟨dev0, dk 0 0x43 [], by decide⟩,
   ⟨on (stored fun x => { x with online := true }), dk 0 0x45 [(8, 4, 4), (16, 4, 512)],
    by unfold Dev.runsHere; decide⟩,
   ⟨on (stored fun x =>
    { x with online := true, clips := [{ id := 1, source := 0, slot := 0, opened := false, continues := false, continued := false, trimmed := false, damaged := false, fullEnd := false, extents := [(0, 1)], bands := [], fill := 0, first := 0, last := 0, bytes := 0, units := 0, take := 0, safeBytes := 0, safeUnits := 0, safeLast := 0 }] }),
    dk 0 0x46 [(8, 4, 4), (16, 4, 64), (24, 1, 1)],
    { id := 1, source := 0, slot := 0, opened := false, continues := false, continued := false, trimmed := false, damaged := false, fullEnd := false, extents := [(0, 1)], bands := [], fill := 0, first := 0, last := 0, bytes := 0, units := 0, take := 0, safeBytes := 0, safeUnits := 0, safeLast := 0 },
    by unfold Dev.runsHere; decide⟩,
   ⟨on id, dk 0 0x43 [], by unfold Dev.runsHere; decide⟩⟩

theorem witness_WriteReceipts :
    (∃ (s : State) (h : Hole), s.dev.store.holes.find? (fun x => x.lock == h.lock) = some h ∧ h.moved = true ∧
      h.ended = false ∧ dkOp h.d = 0x41 ∧ dirtyBytes s.dev.store + 4096 * s.dev.store.dirty.countP (fun e => e.lock
      == h.lock && !e.receipted) ≤ s.dev.dirtyLimit) ∧
    (∃ (s : State) (h : Hole), s.dev.store.holes.find? (fun x => x.lock == h.lock) = some h ∧ s.dev.dirtyLimit <
      dirtyBytes s.dev.store + 4096 * s.dev.store.dirty.countP (fun e => e.lock == h.lock && !e.receipted)) ∧
    (∃ (s : State) (die block lba lock : Nat) (v : List Byte), s.dev.store.units = [] ∧ s.dev.store.dirty = [⟨lock,
      lba, some v, true, false⟩]) :=
  ⟨⟨on ((Dev.onParams · (fun _ => [(0x0E000003, [255, 255])])) ∘ (stored fun x =>
    { x with holes := [{ hole 1 (dk 0 0x41 []) 0 1 false with granted := true, moved := true }], online := true, geom := some geom, dirty := List.replicate 1 ⟨1, 0, some [], false, false⟩ })),
    { hole 1 (dk 0 0x41 []) 0 1 false with granted := true, moved := true }, by decide⟩,
   ⟨on (stored fun x =>
    { x with holes := [{ hole 1 (dk 0 0x41 []) 0 1 false with granted := true, moved := true }], dirty := [⟨1, 0, some [], true, false⟩] }),
    { hole 1 (dk 0 0x41 []) 0 1 false with granted := true, moved := true }, by decide⟩,
   ⟨on (stored fun x => { x with dirty := [⟨1, 9, some [], true, false⟩] }), 0, 0, 9, 1, [], by decide⟩⟩

theorem witness_MediumMaintenance :
    (∃ (s : State) (die block : Nat), (∀ b ∈ s.dev.store.blocks, b.die = die → b.block = block → b.bad = false)) ∧
    (∃ (s : State) (x y : NandBlk), x ∈ s.dev.store.blocks ∧ x.bad = false ∧ x.lbas ≠ [] ∧ (∀ z ∈
      s.dev.store.blocks, z.die = x.die → z.bad = false → z.lbas ≠ [] → z = x ∨ x.erases < z.erases) ∧ y ∈
      s.dev.store.blocks ∧ y.die = x.die ∧ y.bad = false ∧ x.erases + s.dev.parN 0x0E 0 1 < y.erases) ∧
    (∃ (s : State) (die : Nat) (g : NandGeometry), s.dev.store.geom = some g ∧ die < dieCount g ∧ die ∉
      s.dev.store.retired) ∧
    (∃ (s : State) (lba : Nat) (b : NandBlk) (step : LadderStep), s.dev.store.holes = [] ∧ s.dev.store.blocks.find?
      (fun b => b.lbas.contains lba) = some b ∧ (step = .retry ∨ step = .soft)) :=
  ⟨⟨on (stored fun x => { x with blocks := [⟨0, 3, 1, false, [9], false⟩] }), 0, 3, by decide⟩,
   ⟨on (stored fun x => { x with blocks := [⟨0, 3, 1, false, [9], false⟩, ⟨0, 4, 40000, false, [], false⟩] }), ⟨0,
    3, 1, false, [9], false⟩, ⟨0, 4, 40000, false, [], false⟩, by decide⟩,
   ⟨on (stored fun x => { x with geom := some geom }), 0, geom, by decide⟩,
   ⟨on (stored fun x => { x with blocks := [⟨0, 3, 1, false, [9], false⟩] }), 9, ⟨0, 3, 1, false, [9], false⟩,
    .soft, by decide⟩⟩

theorem witness_ReadEndsWithItsLastCodeword :
    ∃ (s : State) (h : Hole) (lba : Nat), s.dev.store.holes = [h] ∧ s.dev.store.blocks = [] ∧ s.dev.store.clips = []
    ∧ h.granted = true ∧ h.ended = false ∧ h.need = [lba] ∧ h.failed = [] ∧ h.pages = none ∧ h.blocks = 1 ∧ h.first
    = lba ∧ s.dev.host.power = .d0 ∧ (blockValue s.dev.store lba).length = 4096 :=
  ⟨on (stored fun x => { x with holes := [{ hole 1 (dk 0 0x40 []) 9 1 true with granted := true, need := [9] }] }),
  { hole 1 (dk 0 0x40 []) 9 1 true with granted := true, need := [9] }, 9, by decide +kernel⟩

theorem witness_StoreStartAndPark :
    (∃ (s : State) (g : NandGeometry), geometryOk g = true ∧ s.dev.store.formatted = false ∧ s.dev.store.early = []) ∧
    (∃ (s : State) (g : NandGeometry), geometryOk g = false ∧ s.dev.store.early = []) ∧
    (∃ (s : State) (cyc : Nat), s.dev.store.pfailLow = false) ∧
    (∃ (s : State), s.dev.store.parked = true ∧ s.dev.store.pfailLow = false ∧ s.dev.halted = false) ∧
    (∃ (s : State), s.dev.store.pfailLow = true) ∧
    (∃ (s : State) (g : NandGeometry) (c : Fin 16), s.dev.store.geom = some g ∧ c.val ∈ g.channels ∧
      s.dev.store.online = true) ∧
    (∃ (s : State) (g : NandGeometry) (c : Fin 16), s.dev.store.geom = some g ∧ c.val ∉ g.channels) :=
  ⟨⟨on id, geom, by decide⟩,
   ⟨on id, { geom with channels := [13, 14, 15] }, by decide⟩,
   ⟨on id, 0, by decide⟩,
   ⟨on (stored fun x => { x with parked := true }), by decide⟩,
   ⟨on (stored fun x => { x with pfailLow := true }), by decide⟩,
   ⟨on (stored fun x => { x with geom := some geom, online := true }), geom, 15, by decide⟩,
   ⟨on (stored fun x => { x with geom := some geom }), geom, 0, by decide⟩⟩

theorem witness_StoreSanitizeErases :
    ∃ (s : State) (k : Docket), s.dev.runsHere k [(8, 8)] ∧ s.dev.host.presOpen = true ∧ u8 k.bytes 8 ≤ 1 ∧ (∀ r ∈
    s.dev.store.slots, r.running = false) ∧ s.dev.store.locked = false :=
  ⟨on (fun (d : Dev) => d.onHost fun h => { h with presOpen := true }), dk 0 0xE1 [(8, 1, 1)],
  by unfold Dev.runsHere; decide⟩

theorem witness_StoreKeyInstallation :
    (∃ (s : State) (k : Docket), s.dev.runsHere k [(8, 19)] ∧ s.dev.host.presOpen = true ∧ u64 k.bytes 8 % 4 = 0 ∧
      u32 k.bytes 16 = 64) ∧
    (∃ (s : State) (k : Docket) (addr : Nat) (key : List Byte) (rest : List Waiting), k.sq < 64 ∧ dkOp k = 0xE2 ∧
      s.dev.host.waitData = ⟨k, addr, 64⟩ :: rest ∧ key.length = 64 ∧ s.dev.store.locked = true ∧ key =
      s.dev.store.wrapKey) ∧
    (∃ (s : State) (k : Docket) (addr : Nat) (key : List Byte) (rest : List Waiting), k.sq < 64 ∧ dkOp k = 0xE2 ∧
      s.dev.host.waitData = ⟨k, addr, 64⟩ :: rest ∧ key.length = 64 ∧ s.dev.store.locked = true ∧ key ≠
      s.dev.store.wrapKey) ∧
    (∃ (s : State) (k : Docket) (addr : Nat) (key : List Byte) (rest : List Waiting), k.sq < 64 ∧ dkOp k = 0xE2 ∧
      s.dev.host.waitData = ⟨k, addr, 64⟩ :: rest ∧ key.length = 64 ∧ s.dev.store.locked = false ∧
      s.dev.store.online = true) :=
  ⟨⟨on (fun (d : Dev) => d.onHost fun h => { h with presOpen := true }), dk 0 0xE2 [(8, 4, 4), (16, 4, 64)],
    by unfold Dev.runsHere; decide⟩,
   ⟨on (stored (fun x => { x with locked := true, online := false }) ∘ waits (dk 63 0xE2 []) 64), dk 63 0xE2 [], 4,
    List.replicate 64 0, [], by decide⟩,
   ⟨on (stored (fun x => { x with locked := true, online := false }) ∘ waits (dk 63 0xE2 []) 64), dk 63 0xE2 [], 4,
    List.replicate 64 1, [], by decide⟩,
   ⟨on (stored (fun x => { x with locked := false, online := true }) ∘ waits (dk 63 0xE2 []) 64), dk 63 0xE2 [], 4,
    List.replicate 64 1, [], by decide⟩⟩

theorem witness_RecordUnits :
    (∃ (s : State) (n : Fin 8) (ep ring : Nat) (x : RecSrc) (b : Buf) (c : Clip), s.dev.store.parked = false ∧
      s.dev.store.online = true ∧ (∀ ch, ch < 16 → s.dev.isShed (480 + 8 * ch + n) = false) ∧
      s.dev.store.slots.length = 8 ∧ (s.dev.store.slots.getD n RecSlot.idle).sources = [x] ∧ x.ep = ep ∧ sourceRing
      ep = some ring ∧ (s.dev.ringI ring).waitingFor x.cslot = [b] ∧ s.dev.continues ring b = false ∧ x.fromFrame =
      none ∧ x.waitKey = false ∧ x.stopOrd = none ∧ x.stopFrame = none ∧ x.clip = c.id ∧ c.id ≠ 0 ∧
      s.dev.store.clips = [c] ∧ c.extents.length < 262144 ∧ c.bands ≠ [] ∧ c.fill + ceilDiv (s.dev.bufBytes ring
      b).length 4096 ≤ 1024 ∧ 0 < (s.dev.bufBytes ring b).length) ∧
    (∃ (s : State) (n : Fin 8) (ep : Nat), s.dev.store.parked = true) ∧
    (∃ (s : State) (n : Fin 8) (ep : Nat), (∀ x ∈ (s.dev.store.slots.getD n RecSlot.idle).sources, x.ep ≠ ep)) :=
  ⟨⟨on ((fun (d : Dev) => (d.onRingI 98 fun r => { r with bufs := [buf .full 5] }).memWrite 255 24 [1]) ∘ pooled ∘
    (stored fun x =>
    { x with online := true, clips := [{ id := 1, source := 0xD00, slot := 7, opened := true, continues := false, continued := false, trimmed := false, damaged := false, fullEnd := false, extents := [(0, 1)], bands := [0], fill := 1, first := 0, last := 0, bytes := 0, units := 0, take := 1, safeBytes := 0, safeUnits := 0, safeLast := 0 }], slots := (List.replicate 7 RecSlot.idle) ++ [⟨true, [⟨0xD00, 3, 1, 1, none, false, none, none⟩]⟩] })),
    7, 0xD00, 98, ⟨0xD00, 3, 1, 1, none, false, none, none⟩, buf .full 5,
    { id := 1, source := 0xD00, slot := 7, opened := true, continues := false, continued := false, trimmed := false, damaged := false, fullEnd := false, extents := [(0, 1)], bands := [0], fill := 1, first := 0, last := 0, bytes := 0, units := 0, take := 1, safeBytes := 0, safeUnits := 0, safeLast := 0 },
    by decide +kernel⟩,
   ⟨on (stored fun x => { x with parked := true }), 0, 0xD00, by decide⟩,
   ⟨on id, 7, 0xD00, by decide⟩⟩

theorem witness_EncodePictures :
    (∃ (s : State) (core : Fin 8) (n : Nat) (rest : List Nat) (pic : CodedPic) (more : List CodedPic) (b : Buf),
      s.dev.coreStreams core = n :: rest ∧ (∀ m ∈ n :: rest, (s.dev.encI m).stalled = false) ∧ (s.dev.encI n).plan =
      pic :: more ∧ (s.dev.ringI (8 * (s.dev.encI n).pipe + (s.dev.encI n).tap)).byOrder pic.order = some b) ∧
    (∃ (s : State) (core : Fin 8), (∃ m ∈ s.dev.coreStreams core, (s.dev.encI m).stalled = true)) ∧
    (∃ (s : State) (n : Fin 32) (piece : List Byte) (d : Dev), (s.dev.encI n).pendingAu = [piece] ∧ s.dev.putPiece
      (64 + n) piece (u32 piece 1) = some d) ∧
    (∃ (s : State) (n : Fin 32), (s.dev.encI n).ending = true ∧ (s.dev.encI n).taken = [] ∧ (s.dev.encI n).plan =
      [] ∧ (s.dev.encI n).pendingAu = [] ∧ (∃ b, (s.dev.ringI (64 + n)).freeBuf encSpans = some b) ∧
      s.dev.enc.length = 32) ∧
    (∃ (s : State) (n : Fin 32), ((s.dev.encI n).ending = false ∨ (s.dev.encI n).taken ≠ [] ∨ (s.dev.encI n).plan ≠
      [] ∨ (s.dev.encI n).pendingAu ≠ [])) :=
  ⟨⟨on ((fun (d : Dev) => d.onEncI 31 fun x =>
    { x with active := true, cores := 0x80, plan := [⟨5, 0, 0, 0, true, false, 0⟩], pipe := 7, tap := 4 }) ∘ fun (d
    : Dev) => d.onRingI 60 fun r => { r with bufs := [buf .full 5] }), 7, 31, [], ⟨5, 0, 0, 0, true, false, 0⟩, [],
    buf .full 5, by decide +kernel⟩,
   ⟨on (fun (d : Dev) => d.onEncI 31 fun x => { x with active := true, cores := 0x80, stalled := true }), 7,
    by decide +kernel⟩,
   ⟨on ((fun (d : Dev) => d.onEncI 31 fun x => { x with pendingAu := [List.replicate 64 1] }) ∘ (fun (d : Dev) =>
    d.onRingI 95 fun r => { r with bufs := [buf .free 5] }) ∘ pooled), 31, List.replicate 64 1, _, by decide, rfl⟩,
   ⟨on ((fun (d : Dev) => d.onEncI 31 fun x => { x with ending := true }) ∘ (fun (d : Dev) => d.onRingI 95 fun r =>
    { r with bufs := [buf .free 5] })), 31, rfl, rfl, rfl, rfl, ⟨buf .free 5, rfl⟩, rfl⟩,
   ⟨on id, 0, by decide⟩⟩

theorem witness_DecodeCommands :
    (∃ (s : State) (k : Docket) (p : Pool), s.dev.runsHere k [(8, 8), (16, 19), (24, 31)] ∧ 0 < u32 k.bytes 16 ∧
      u32 k.bytes 16 ≤ 2 ^ 24 ∧ u8 k.bytes 8 ≤ 1 ∧ (s.dev.decI (u8 k.bytes 8)).active = true ∧ s.dev.pool (decN
      s.dev.params (u8 k.bytes 8) 2) = some p ∧ u64 k.bytes 24 + u32 k.bytes 16 ≤ p.size) ∧
    (∃ (s : State) (k : Docket), s.dev.runsHere k [(8, 8)] ∧ u8 k.bytes 8 ≤ 1 ∧ (s.dev.decI (u8 k.bytes 8)).active
      = true) ∧
    (∃ (s : State) (c : Fin 2) (au : AccessUnit) (cyc : Nat), (s.dev.decI c).active = true ∧ s.dev.isShed (417 + 2
      * c) = false ∧ ((au.irap = false ∧ (s.dev.decI c).stopped = true) ∨ (au.irap = false ∧ (s.dev.decI c).synced =
      false ∧ (s.dev.decI c).stopped = false ∧ au.newSps = false))) ∧
    (∃ (s : State) (c : Fin 2) (au : AccessUnit) (cyc : Nat), (s.dev.decI c).active = true ∧ s.dev.isShed (417 + 2
      * c) = false ∧ (s.dev.decI c).stopped = false ∧ au.newSps = true ∧ au.spsOk = false) ∧
    (∃ (s : State) (c : Fin 2) (au : AccessUnit) (cyc : Nat), (s.dev.decI c).active = true ∧ s.dev.isShed (417 + 2
      * c) = false ∧ (s.dev.decI c).stopped = false ∧ au.newSps = false ∧ (s.dev.decI c).synced = true ∧ (s.dev.decI
      c).craStart = false ∧ au.parseOk = false) :=
  ⟨⟨on ((fun (d : Dev) => d.onDecI 1 fun x => { x with active := true }) ∘ pooled ∘ parSet 0x0C010002 [255]), dk 0
    0x50 [(8, 1, 1), (16, 4, 2 ^ 24), (24, 4, 2 ^ 24)], pool, by unfold Dev.runsHere; decide⟩,
   ⟨on (fun (d : Dev) => d.onDecI 1 fun x => { x with active := true }), dk 0 0x51 [(8, 1, 1)],
    by unfold Dev.runsHere; decide⟩,
   ⟨on (fun (d : Dev) => d.onDecI 1 fun x => { x with active := true, stopped := true }), 1,
    { au with irap := false }, 0, by decide⟩,
   ⟨on (fun (d : Dev) => d.onDecI 1 fun x => { x with active := true }), 1,
    { au with newSps := true, spsOk := false }, 0, by decide⟩,
   ⟨on (fun (d : Dev) => d.onDecI 1 fun x => { x with active := true, synced := true }), 1,
    { au with parseOk := false }, 0, by decide⟩⟩

theorem witness_GeneralLaneJobs :
    (∃ (s : State) (k : Docket), s.dev.runsHere k [(8, 15), (16, 19), (20, 20), (21, 21), (22, 22), (24, 31)] ∧ u8
      k.bytes 21 ≤ 1 ∧ u64 k.bytes 8 % 4 = 0 ∧ u64 k.bytes 24 % 4 = 0 ∧ 0 < u32 k.bytes 16 ∧ u32 k.bytes 16 ≤ 2 ^ 24
      ∧ 0 < u8 k.bytes 22 ∧ u8 k.bytes 22 ≤ 16 ∧ u8 k.bytes 20 ≤ 1 ∧ (s.dev.boltI (8 + u8 k.bytes 20)).active = true) ∧
    (∃ (s : State) (k : Docket), s.dev.runsHere k [(20, 20), (21, 21)] ∧ u8 k.bytes 21 ≤ 2 ∧ (s.dev.boltI (u8
      k.bytes 20)).active = true ∧ 8 ≤ u8 k.bytes 20 ∧ u8 k.bytes 20 ≤ 9) ∧
    (∃ (s : State) (k : Docket), s.dev.runsHere k [(20, 20), (21, 21)] ∧ u8 k.bytes 21 ≤ 2 ∧ (s.dev.boltI (u8
      k.bytes 20)).active = true ∧ u8 k.bytes 20 < 8 ∧ s.dev.recordFrame (u8 k.bytes 20) = none) ∧
    (∃ (s : State) (k : Docket), s.dev.runsHere k [(20, 20), (21, 21)] ∧ u8 k.bytes 21 ≤ 2 ∧ (s.dev.boltI (u8
      k.bytes 20)).active = true ∧ u8 k.bytes 20 < 8 ∧ (s.dev.recordFrame (u8 k.bytes 20)).isSome = true) ∧
    (∃ (s : State) (n : Fin 2) (j : BoltJob) (rest : List BoltJob), (s.dev.boltI (8 + n)).jobs = j :: rest ∧
      s.dev.isShed (428 + 2 * n) = false ∧ s.dev.isShed (429 + 2 * n) = false ∧ j.op ≠ 0x63 ∧ j.input = none) ∧
    (∃ (s : State) (n : Fin 2) (j : BoltJob) (rest : List BoltJob), (s.dev.boltI (8 + n)).jobs = j :: rest ∧
      s.dev.isShed (428 + 2 * n) = false ∧ s.dev.isShed (429 + 2 * n) = false ∧ j.op = 0x63 ∧ j.mode = 0) ∧
    (∃ (s : State) (n : Fin 2) (j : BoltJob) (rest : List BoltJob) (input : List Byte) (segs : List (Nat × Nat)),
      (s.dev.boltI (8 + n)).jobs = j :: rest ∧ s.dev.isShed (428 + 2 * n) = false ∧ s.dev.isShed (429 + 2 * n) =
      false ∧ j.op = 0x62 ∧ j.input = some input ∧ j.segs = some segs ∧ rawDecode input = none) ∧
    (∃ (s : State) (n : Fin 2) (j : BoltJob) (rest : List BoltJob) (input : List Byte) (segs : List (Nat × Nat)),
      (s.dev.boltI (8 + n)).jobs = j :: rest ∧ s.dev.isShed (428 + 2 * n) = false ∧ s.dev.isShed (429 + 2 * n) =
      false ∧ j.op = 0x60 ∧ j.input = some input ∧ j.segs = some segs) :=
  ⟨⟨on (fun (d : Dev) => d.onBoltI 9 fun x => { x with active := true }), dk 0 0x60 [(8, 4, 4), (16, 4, 2 ^ 24),
    (20, 1, 1), (21, 1, 1), (22, 1, 16), (24, 4, 4)], by unfold Dev.runsHere; decide⟩,
   ⟨on (fun (d : Dev) => d.onBoltI 9 fun x => { x with active := true }), dk 0 0x63 [(20, 1, 9), (21, 1, 2)],
    by unfold Dev.runsHere; decide⟩,
   ⟨on (fun (d : Dev) => d.onBoltI 7 fun x => { x with active := true }), dk 0 0x63 [(20, 1, 7), (21, 1, 2)],
    by unfold Dev.runsHere; decide⟩,
   ⟨on ((fun (d : Dev) => d.onBoltI 7 fun x => { x with active := true }) ∘ recording 7), dk 0 0x63 [(20, 1, 7),
    (21, 1, 0)], by unfold Dev.runsHere; decide⟩,
   ⟨on (fun (d : Dev) => d.onBoltI 9 fun x => { x with jobs := [⟨0x60, dk 0 0x60 [], true, 0, none, none⟩] }), 1,
    ⟨0x60, dk 0 0x60 [], true, 0, none, none⟩, [], by decide⟩,
   ⟨on (fun (d : Dev) => d.onBoltI 9 fun x => { x with jobs := [⟨0x63, dk 0 0x63 [], true, 0, none, none⟩] }), 1,
    ⟨0x63, dk 0 0x63 [], true, 0, none, none⟩, [], by decide⟩,
   ⟨on (fun (d : Dev) => d.onBoltI 9 fun x =>
    { x with jobs := [⟨0x62, dk 0 0x62 [], true, 0, some [255], some [(0, 65536)]⟩] }), 1, ⟨0x62, dk 0 0x62 [],
    true, 0, some [255], some [(0, 65536)]⟩, [], [255], [(0, 65536)], by decide +kernel⟩,
   ⟨on (fun (d : Dev) => d.onBoltI 9 fun x =>
    { x with jobs := [⟨0x60, dk 0 0x60 [], true, 0, some [1], some [(0, 65536)]⟩] }), 1, ⟨0x60, dk 0 0x60 [], true,
    0, some [1], some [(0, 65536)]⟩, [], [1], [(0, 65536)], by decide⟩⟩

theorem witness_BolterRecords :
    (∃ (s : State) (n : Fin 8) (bad : List Nat) (cyc : Nat), s.dev.recordFrame n = none) ∧
    (∃ (s : State) (n : Fin 8) (f : Frame) (cyc : Nat), s.dev.recordFrame n = some f ∧ (s.dev.boltI n).ovf = [] ∧
      s.dev.pipe.length = 8 ∧ s.dev.bolt.length = 10 ∧ s.dev.boltRings.length = 10) ∧
    (∃ (d : Dev) (n frame ns a b : Nat), n < 8 ∧ n < d.bolt.length ∧ (d.boltI n).mismAt = [a, b] ∧ d.tick.tclk /
      125000000 < b + 3600) ∧
    (∃ (d : Dev) (n frame ns : Nat), n < d.bolt.length) :=
  ⟨⟨on id, 7, [], 0, by decide⟩,
   ⟨on (recording 7), 7, rawFrame, 0, by decide⟩,
   ⟨(fun (d : Dev) => d.onBoltI 7 fun x => { x with mismAt := [3, 1] }) dev0, 7, 0, 0, 3, 1, by decide⟩,
   ⟨dev0, 9, 0, 0, by decide⟩⟩

theorem witness_DeviceTimeCommands :
    (∃ (s : State) (k : Docket) (cyc : Nat), s.dev.runsHere k []) ∧
    (∃ (s : State) (k : Docket) (cyc : Nat), let n := toSigned 64 (u64 k.bytes 8); s.dev.runsHere k [(8, 15)] ∧
      (s.dev.timeSource = 2 ∨ (s.dev.timeSource = 1 ∧ n % 1000000000 = 0)) ∧ s.dev.tick.steps = [] ∧ 0 ≤
      (s.dev.timeAt cyc : Int) + n * 2 ^ 32) ∧
    (∃ (d : Dev) (n : Int) (c : Nat), 0 ≤ (d.time.dev : Int) + n * 2 ^ 32 ∧ (d.time.dev : Int) + n * 2 ^ 32 < 2 ^
      48 * 1000000000 * 2 ^ 32) ∧
    (∃ (s : State) (k : Docket), s.dev.runsHere k [(8, 11)] ∧ (toSigned 32 (u32 k.bytes 8)).natAbs ≤ 500000000 ∧
      s.dev.timeSource = 2) ∧
    (∃ (s : State) (k : Docket), s.dev.runsHere k [(8, 8)] ∧ u8 k.bytes 8 ≤ 63) ∧
    (∃ (s : State) (cyc : Nat), (s.dev.timeSource = 1 ∨ s.dev.timeSource = 3) ∧ (s.dev.time.servo = .locked ∨
      s.dev.time.servo = .acquiring)) :=
  ⟨⟨on id, dk 0 0x80 [], 0, by unfold Dev.runsHere; decide⟩,
   ⟨on (parSet 0x12000000 [1]), dk 0 0x81 [(8, 4, 1000000000)], 0, by unfold Dev.runsHere; decide⟩,
   ⟨dev0, 2 ^ 48 * 1000000000 - 1, 0, by decide⟩,
   ⟨on (parSet 0x12000000 [2]), dk 0 0x82 [(8, 4, 2 ^ 32 - 500000000)], by unfold Dev.runsHere; decide⟩,
   ⟨on id, dk 0 0x83 [(8, 1, 63)], by unfold Dev.runsHere; decide⟩,
   ⟨on ((Dev.onTime · fun t => { t with servo := .acquiring }) ∘ (parSet 0x12000000 [3])), 0, by decide⟩⟩

theorem witness_TimeCapturesAndMessages :
    (∃ (s : State) (edge cyc : Nat), s.dev.time.ppsLast.elim True (fun l => l + 100000000 ≤ s.dev.upNs cyc) ∧
      s.dev.timeSource ≠ 1) ∧
    (∃ (s : State) (edge cyc : Nat), s.dev.time.htpLast.elim True (fun l => l + 100000000 ≤ s.dev.upNs cyc)) ∧
    (∃ (s : State) (edge cyc l : Nat), s.dev.upNs cyc < l + 100000000 ∧ s.dev.time.ppsLast = some l) ∧
    (∃ (s : State) (edge cyc l : Nat), s.dev.upNs cyc < l + 100000000 ∧ s.dev.time.htpLast = some l) ∧
    (∃ (s : State) (p : Fin 2) (n cyc : Nat) (t2 t1 corr : Int), s.dev.mayOriginate = true ∧ s.dev.chainUp p = true
      ∧ s.dev.time.ptp.length = 2 ∧ (s.dev.ptpI p).syncT2 = some (n, t2) ∧ s.dev.timeSource = 3 ∧
      s.dev.timeMaster.isSome = true ∧ s.dev.chain.upstream = p) ∧
    (∃ (s : State) (p : Fin 2) (n : Nat) (a b c e : Int), s.dev.mayOriginate = true ∧ s.dev.chainUp p = true ∧
      (s.dev.ptpI p).t1 = some (n, a) ∧ (s.dev.ptpI p).t2 = some (n, b) ∧ (s.dev.ptpI p).t4 = some (n, e)) ∧
    (∃ (s : State) (p : Fin 2) (m hops : Nat), s.dev.mayOriginate = true ∧ s.dev.chainUp p = true) ∧
    (∃ (s : State) (n : Fin 64) (at' : Int), (s.dev.slotI n).state = .armed ∧ (s.dev.slotI n).scheduled = true ∧
      (s.dev.slotI n).use = 0 ∧ s.dev.lslot n 1 = 0 ∧ s.dev.time.slots.length = 64) :=
  ⟨⟨on id, 0, 0, ⟨trivial, by decide⟩⟩,
   ⟨on id, 0, 0, trivial⟩,
   ⟨on (fun (d : Dev) => d.onTime fun t => { t with ppsLast := some 0 }), 0, 0, 0, by decide⟩,
   ⟨on (fun (d : Dev) => d.onTime fun t => { t with htpLast := some 0 }), 0, 0, 0, by decide⟩,
   ⟨on ((fun (d : Dev) => (d.onPtpI 1 fun x => { x with syncT2 := some (65535, 7) }).onChain fun c =>
    { c with upstream := 1, map := upd c.map 9 fun e => { e with present := true, h1 := 1, source := 1 } }) ∘ linked
    ∘ (parSet 0x12000000 [3])), 1, 65535, 0, 7, 0, 0, by decide⟩,
   ⟨on ((fun (d : Dev) => d.onPtpI 1 fun x => { x with t1 := some (3, 1), t2 := some (3, 2), t4 := some (3, 5) }) ∘
    linked), 1, 3, 1, 2, 0, 5, by decide⟩,
   ⟨on linked, 1, 9, 15, by decide⟩,
   ⟨on (fun (d : Dev) => d.onSlotI 63 fun x => { x with state := .armed, scheduled := true }), 63, 0, by decide⟩⟩

theorem witness_ChainMapCommands :
    (∃ (s : State) (p : Fin 2) (a hops src servo cyc : Nat), s.dev.chainUp p = true ∧ a < 256 ∧ s.dev.address ≠
      some a ∧ s.dev.chain.map.length = 256 ∧ s.dev.chain.ports.length = 2) ∧
    (∃ (s : State) (p : Fin 2) (a hops src servo cyc : Nat), s.dev.chainUp p = true ∧ a < 256 ∧ s.dev.address =
      some a ∧ s.dev.chain.map.length = 256) ∧
    (∃ (s : State) (p : Fin 2) (a hops src servo cyc : Nat), s.dev.chainUp p = false) ∧
    (∃ (s : State) (a : Fin 256) (cyc : Nat), s.dev.address ≠ some a.val ∧ s.dev.chain.map.length = 256) :=
  ⟨⟨on linked, 1, 255, 1, 0, 0, 0, by decide +kernel⟩,
   ⟨on linked, 1, 5, 0, 0, 0, 0, by decide +kernel⟩,
   ⟨on id, 0, 0, 0, 0, 0, 0, by decide⟩,
   ⟨on linked, 255, 0, by decide +kernel⟩⟩

theorem witness_CourierFrames :
    (∃ (s : State) (f : Courier) (cyc : Nat), s.dev.chainUp f.port = false) ∧
    (∃ (s : State) (f : Courier) (cyc : Nat), s.dev.chainUp f.port = true ∧ (12 ≤ f.cls ∨ courierMax f.cls <
      f.payload.length)) ∧
    (∃ (s : State) (f : Courier) (cyc : Nat), s.dev.chainUp f.port = true ∧ f.cls < 12 ∧ f.payload.length ≤
      courierMax f.cls ∧ f.hops = 0) ∧
    (∃ (s : State) (f : Courier) (cyc : Nat), s.dev.chainUp f.port = true ∧ f.cls < 12 ∧ f.payload.length ≤
      courierMax f.cls ∧ 0 < f.hops ∧ f.bcast = false ∧ s.dev.mayOriginate = true ∧ s.dev.address = some f.dst ∧
      f.crcOk = true ∧ f.resent = false) ∧
    (∃ (s : State) (f : Courier) (cyc : Nat), s.dev.chainUp f.port = true ∧ f.cls < 12 ∧ f.payload.length ≤
      courierMax f.cls ∧ 0 < f.hops ∧ f.bcast = false ∧ s.dev.address ≠ some f.dst ∧ s.dev.chainUp (1 - f.port) =
      true ∧ f.crcOk = true) ∧
    (∃ (s : State) (f : Courier) (cyc : Nat), s.dev.chainUp f.port = true ∧ f.cls < 12 ∧ f.payload.length ≤
      courierMax f.cls ∧ 0 < f.hops ∧ f.bcast = false ∧ s.dev.address ≠ some f.dst ∧ s.dev.chainUp (1 - f.port) =
      true ∧ f.crcOk = false) ∧
    (∃ (s : State) (f : Courier) (cyc : Nat), s.dev.chainUp f.port = true ∧ f.cls < 12 ∧ f.payload.length ≤
      courierMax f.cls ∧ 0 < f.hops ∧ f.bcast = false ∧ s.dev.address ≠ some f.dst ∧ s.dev.chainUp (1 - f.port) =
      false ∧ f.crcOk = true) ∧
    (∃ (s : State) (f : Courier) (cyc : Nat), s.dev.chainUp f.port = true ∧ f.cls < 12 ∧ f.payload.length ≤
      courierMax f.cls ∧ 0 < f.hops ∧ f.bcast = true ∧ s.dev.chain.conflict = false ∧ s.dev.address = some f.src) ∧
    (∃ (s : State) (f : Courier) (cyc : Nat), s.dev.chainUp f.port = true ∧ f.cls < 12 ∧ f.payload.length ≤
      courierMax f.cls ∧ 0 < f.hops ∧ f.bcast = true ∧ s.dev.chain.conflict = false ∧ s.dev.address ≠ some f.src ∧
      recently s.dev.chain.seen f (s.dev.upNs cyc) = true) ∧
    (∃ (s : State) (f : Courier) (cyc : Nat), s.dev.chainUp f.port = true ∧ f.cls < 12 ∧ f.payload.length ≤
      courierMax f.cls ∧ 0 < f.hops ∧ f.bcast = true ∧ s.dev.chain.conflict = false ∧ s.dev.address ≠ some f.src ∧
      recently s.dev.chain.seen f (s.dev.upNs cyc) = false ∧ f.crcOk = true ∧ s.dev.chainUp (1 - f.port) = true) ∧
    (∃ (s : State) (x : Proxy) (off : Nat) (bytes : List Byte) (last : Bool), s.dev.chain.proxies = [x] ∧ x.stopped
      = false ∧ x.dst / 256 = 0x0F) :=
  ⟨⟨on id, courier, 0, by decide⟩,
   ⟨on linked, { courier with cls := 12 }, 0, by decide⟩,
   ⟨on linked, { courier with payload := List.replicate 256 0, hops := 0 }, 0, by decide +kernel⟩,
   ⟨on linked, courier, 0, by decide⟩,
   ⟨on linked, { courier with dst := 6 }, 0, by decide⟩,
   ⟨on linked, { courier with dst := 6, crcOk := false }, 0, by decide⟩,
   ⟨on ((fun (d : Dev) => d.onLanes fun x => { x with chains := [⟨true, true⟩, ⟨false, true⟩] }) ∘ linked),
    { courier with dst := 6 }, 0, by decide⟩,
   ⟨on linked, { courier with bcast := true, src := 5 }, 0, by decide⟩,
   ⟨on ((fun (d : Dev) => d.onChain fun c => { c with seen := [(9, 1, 65535, 0)] }) ∘ linked),
    { courier with bcast := true }, 125000, by decide⟩,
   ⟨on linked, { courier with bcast := true }, 0, by decide⟩,
   ⟨on (fun (d : Dev) => d.onChain fun c => { c with proxies := [⟨3, 1, 0xF00, 0xF01, 1, false⟩] }), ⟨3, 1, 0xF00,
    0xF01, 1, false⟩, 0, [1], true, by decide⟩⟩

theorem witness_ForwardedDockets :
    (∃ (c : Instr) (k : Docket) (used : List (Nat × Nat)) (s : State), docketRow c = some (k, used) ∧ dkOp k < 0x10
      ∧ s.dev.canBegin k = true ∧ s.dev.store.holes.length < 384 ∧ dkForward k = true) ∧
    (∃ (c : Instr) (k : Docket) (used : List (Nat × Nat)) (s : State), docketRow c = some (k, used) ∧ dkOp k < 0x10
      ∧ s.dev.canBegin k = true ∧ s.dev.store.holes.length < 384 ∧ dkForward k = false) ∧
    (∃ (s : State) (src seq : Nat) (b : List Byte), s.dev.mayOriginate = true ∧ b.length = 64 ∧ knownOpcode (u8 b
      0) = true ∧ (src, seq) ∉ s.dev.chain.ran ∧ s.dev.chain.queue = []) ∧
    (∃ (s : State) (src seq : Nat) (b : List Byte), (src, seq) ∈ s.dev.chain.ran) ∧
    (∃ (s : State) (k : Docket) (seq : Nat) (r : List Byte), s.dev.chain.fwd = [⟨seq, k⟩] ∧ dkOp k ≠ 0x24 ∧
      r.length = 32) ∧
    (∃ (s : State) (src seq : Nat) (r : List Byte), (∀ x ∈ s.dev.chain.fwd, x.seq ≠ seq)) ∧
    (∃ (s : State) (src cls ns ep endp cyc : Nat) (b : List Byte), s.dev.mayOriginate = true) ∧
    (∃ (s : State) (k : Docket), s.dev.runsHere k [(8, 8)]) ∧
    (∃ (s : State) (k : Docket) (seq sent elapsed : Nat), s.dev.chain.echoes = [(seq, k, sent)]) ∧
    (∃ (s : State) (k : Docket), s.dev.runsHere k [(8, 19)] ∧ u64 k.bytes 8 % 4 = 0 ∧ 4096 ≤ u32 k.bytes 16) :=
  ⟨⟨.noOperation (dk 0 0 [(1, 1, 4), (4, 1, 9)]), dk 0 0 [(1, 1, 4), (4, 1, 9)], [], on id, by decide⟩,
   ⟨.noOperation (dk 0 0 [(4, 1, 9)]), dk 0 0 [(4, 1, 9)], [], on id, by decide⟩,
   ⟨on linked, 9, 1, 0x80 :: List.replicate 63 0, by decide⟩,
   ⟨on (fun (d : Dev) => d.onChain fun c => { c with ran := [(9, 1)] }), 9, 1, [], by decide⟩,
   ⟨on (fun (d : Dev) => d.onChain fun c => { c with fwd := [⟨3, dk 1 0x80 []⟩] }), dk 1 0x80 [], 3, List.replicate
    32 0, by decide⟩,
   ⟨on id, 9, 3, [], by decide⟩,
   ⟨on linked, 9, 0x89, 0, 0, 0, 0, [], by decide⟩,
   ⟨on linked, dk 0 0x85 [(8, 1, 9)], by unfold Dev.runsHere; decide⟩,
   ⟨on (fun (d : Dev) => d.onChain fun c => { c with echoes := [(3, dk 0 0x85 [], 0)] }), dk 0 0x85 [], 3, 0, 0,
    by decide⟩,
   ⟨on id, dk 0 0x84 [(8, 4, 4), (16, 4, 4096)], by unfold Dev.runsHere; decide⟩⟩

theorem witness_LedgerHealthAndFirmwareDockets :
    (∃ (s : State) (k : Docket), s.dev.runsHere k [(8, 19)] ∧ u64 k.bytes 8 % 4 = 0 ∧ 64 ≤ u32 k.bytes 16) ∧
    (∃ (s : State) (k : Docket), s.dev.runsHere k [(8, 11)]) ∧
    (∃ (s : State) (k : Docket), s.dev.runsHere k [(8, 19)] ∧ u64 k.bytes 8 % 4 = 0 ∧ 4096 ≤ u32 k.bytes 16) ∧
    (∃ (s : State) (k : Docket), s.dev.runsHere k [(8, 19)] ∧ u64 k.bytes 8 % 4 = 0 ∧ 0 < u32 k.bytes 16 ∧ u32
      k.bytes 16 ≤ 2 ^ 24 ∧ s.dev.boot.activating = false) ∧
    (∃ (s : State) (k : Docket) (addr : Nat) (b : List Byte) (rest : List Waiting), k.sq < 64 ∧ dkOp k = 0x93 ∧
      s.dev.host.waitData = ⟨k, addr, b.length⟩ :: rest ∧ s.dev.boot.activating = false) ∧
    (∃ (s : State) (k : Docket), s.dev.runsHere k [] ∧ s.dev.host.presOpen = true ∧ s.dev.boot.staged.isSome = true) ∧
    (∃ (s : State) (k : Docket), s.dev.boot.activating = true ∧ s.dev.boot.actDocket = some k) ∧
    (∃ (s : State) (k : Docket), s.dev.runsHere k [(8, 8)] ∧ s.dev.host.presOpen = true ∧ (s.dev.mapEntry (u8
      k.bytes 8)).present = false) ∧
    (∃ (s : State) (k : Docket), s.dev.runsHere k [(8, 8)] ∧ s.dev.host.presOpen = true ∧ 0 < u8 k.bytes 8 ∧ u8
      k.bytes 8 < 16) ∧
    (∃ (s : State) (k : Docket) (c : Instr), s.dev.host.presOpen = false ∧ ((c = .firmwareActivation k ∧
      s.dev.runsHere k []) ∨ ((c = .chainAddressLock k ∨ c = .calibrationDataReset k ∨ c = .storeSanitize k) ∧
      s.dev.runsHere k [(8, 8)]) ∨ (c = .storeKeyInstallation k ∧ s.dev.runsHere k [(8, 19)]))) ∧
    (∃ (s : State), 3600 ≤ s.dev.health.imageSec) ∧
    (∃ (s : State), s.dev.health.imageSec < 3600) :=
  ⟨⟨on id, dk 0 0x90 [(8, 4, 4), (16, 4, 64)], by unfold Dev.runsHere; decide⟩,
   ⟨on id, dk 0 0x91 [(8, 4, 2 ^ 32 - 1)], by unfold Dev.runsHere; decide⟩,
   ⟨on id, dk 0 0x92 [(8, 4, 4), (16, 4, 4096)], by unfold Dev.runsHere; decide⟩,
   ⟨on id, dk 0 0x93 [(8, 4, 4), (16, 4, 2 ^ 24)], by unfold Dev.runsHere; decide⟩,
   ⟨on (waits (dk 63 0x93 []) 2), dk 63 0x93 [], 4, [1, 2], [], by decide⟩,
   ⟨on ((fun (d : Dev) => d.onHost fun h => { h with presOpen := true }) ∘ (fun (d : Dev) => d.onBoot fun b =>
    { b with staged := some ⟨2, 0, true, true, true⟩ })), dk 0 0xE0 [], by unfold Dev.runsHere; decide⟩,
   ⟨on (fun (d : Dev) => d.onBoot fun b => { b with activating := true, actDocket := some (dk 0 0xE0 []) }), dk 0
    0xE0 [], by decide⟩,
   ⟨on (fun (d : Dev) => d.onHost fun h => { h with presOpen := true }), dk 0 0xE4 [(8, 1, 9)],
    by unfold Dev.runsHere; decide⟩,
   ⟨on (fun (d : Dev) => d.onHost fun h => { h with presOpen := true }), dk 0 0xE5 [(8, 1, 15)],
    by unfold Dev.runsHere; decide⟩,
   ⟨on id, dk 0 0xE1 [], .storeSanitize (dk 0 0xE1 []), by decide, .inr (.inl ⟨.inr (.inr rfl),
    by unfold Dev.runsHere; decide⟩)⟩,
   ⟨on fun (d : Dev) => d.onHealth fun h => { h with imageSec := 3600 }, by decide⟩,
   ⟨on fun (d : Dev) => d.onHealth fun h => { h with imageSec := 3599 }, by decide⟩⟩

theorem witness_ErrorsTripsAndClerks :
    (∃ (s : State) (c pg cyc : Nat), s.dev.dram.hourPage = []) ∧
    (∃ (s : State), s.dev.health.hourDram ≤ 1000 ∧ s.dev.health.hourSram ≤ 1000) ∧
    (∃ (s : State), 1000 < s.dev.health.hourDram ∧ s.dev.health.hourSram ≤ 1000) ∧
    (∃ (s : State) (n : Fin 13) (tj : Int) (cyc : Nat), s.dev.gov.tj.length = 13) ∧
    (∃ (s : State) (n : Fin 4) (ok : Bool) (cyc : Nat), s.dev.health.active.getD n false = true) ∧
    (∃ (s : State) (n : Fin 4) (ok : Bool) (cyc : Nat), s.dev.health.active.getD n false = false) :=
  ⟨⟨on id, 23, 0, 0, by decide⟩,
   ⟨on fun (d : Dev) => d.onHealth fun h => { h with hourDram := 1000 }, by decide⟩,
   ⟨on fun (d : Dev) => d.onHealth fun h => { h with hourDram := 1001 }, by decide⟩,
   ⟨on id, 12, 120, 0, by decide⟩,
   ⟨on (fun (d : Dev) => d.onHealth fun h => { h with active := [true, true, true, true] }), 3, false, 0,
    by decide⟩,
   ⟨on (fun (d : Dev) => d.onHealth fun h => { h with active := [false, false, false, false] }), 0, true, 0,
    by decide⟩⟩

theorem witness_ReadClearRegisters :
    (∃ (s : State) (n : Nat), n < 64) ∧
    (∃ (s : State) (n : Nat), n < 8) ∧
    (∃ (s : State) (n : Nat), n < 32) ∧
    (∃ (s : State) (n : Nat), n < 2) ∧
    (∃ (s : State) (n : Nat), n < 4) ∧
    (∃ (s : State) (n : Nat), n < 28) ∧
    (∃ (s : State) (p k : Nat), p < 8 ∧ k < 6) ∧
    (∃ (s : State), s.ledger.entries.length ≤ 1024) ∧
    (∃ (s : State) (off : BitVec 24), off.toNat % 4 ≠ 0) :=
  ⟨⟨State.reset, 63, by decide⟩,
   ⟨State.reset, 7, by decide⟩,
   ⟨State.reset, 31, by decide⟩,
   ⟨State.reset, 1, by decide⟩,
   ⟨State.reset, 3, by decide⟩,
   ⟨State.reset, 27, by decide⟩,
   ⟨State.reset, 7, 5, by decide⟩,
   ⟨State.reset, by decide⟩,
   ⟨State.reset, 2, by decide⟩⟩

theorem witness_TickCountAndClose :
    (∃ (s : State) (o : Bool) (n : Nat), 0 < s.dev.time.addend.toNat ∧ 0 < s.periodNs.toNat ∧ n < s.tickCycles) ∧
    (∃ (s : State) (o : Bool), 0 < s.dev.time.addend.toNat ∧ 0 < s.periodNs.toNat ∧ s.dev.tick.halfNext = false) ∧
    (∃ (s : State) (o : Bool), 0 < s.dev.time.addend.toNat ∧ 0 < s.periodNs.toNat ∧ s.dev.tick.halfNext = true) ∧
    (∃ (s : State) (o : Bool), s.dev.boot.inReset = false) ∧
    (∃ (s : State) (o : Bool), s.dev.boot.inReset = true) ∧
    (∃ (s : State) (p : Fin 28), s.dev.audio.ports.length = 28) :=
  ⟨⟨State.reset, false, 0, by decide⟩,
   ⟨State.reset, true, by decide⟩,
   ⟨{ State.reset with dev := Dev.reset.onTick fun t => { t with halfNext := true } }, false, by decide⟩,
   ⟨on (fun (d : Dev) => d.onBoot fun b => { b with inReset := false }), false, by decide⟩,
   ⟨State.reset.withDev (Dev.reset.onBoot fun b => { b with inReset := true }), false, by decide⟩,
   ⟨State.reset, 27, by decide⟩⟩

theorem witness_RegisterWrites :
    (∃ (s : State) (off : BitVec 24) (n : Nat) (v : BitVec 64), ¬(n = 4 ∧ off.toNat % 4 = 0) ∧ ¬(n = 8 ∧ off.toNat
      % 8 = 0)) ∧
    (∃ (s : State) (off : BitVec 24) (v : BitVec 64), off.toNat % 8 = 0) ∧
    (∃ (s : State) (off : BitVec 24) (v : BitVec 64), off.toNat % 4 = 0 ∧ off.toNat / 0x1000 ∈ [0x03, 0x04, 0x05,
      0x06, 0x08, 0x09, 0x0C, 0x0F, 0x10, 0x14, 0x15, 0x16, 0x21, 0x22, 0x23, 0x24, 0x201]) ∧
    (∃ (s : State) (t : Fin 16) (n : Nat), n < 320 ∧ s.dev.eligible t n = true ∧ (∀ m, m < 320 → s.dev.eligible t m
      = true → m ≠ n → s.dev.srcPrio m < s.dev.srcPrio n ∨ (s.dev.srcPrio m = s.dev.srcPrio n ∧ m < n))) ∧
    (∃ (s : State) (t : Fin 16), (∀ n, n < 320 → s.dev.eligible t n = false)) ∧
    (∃ (s : State) (v : Fin 64), s.dev.host.pba.getD v false = true ∧ s.dev.host.power = .d0 ∧ s.dev.host.msixOn =
      true ∧ s.dev.host.funcMask = false ∧ (s.dev.msixVec v).masked = false) ∧
    (∃ (s : State) (v : Fin 64), (s.dev.host.pba.getD v false = false ∨ s.dev.host.power ≠ .d0 ∨ s.dev.host.msixOn
      = false ∨ s.dev.host.funcMask = true ∨ (s.dev.msixVec v).masked = true)) :=
  ⟨⟨State.reset, 4, 8, 0, by decide⟩,
   ⟨State.reset, 0, 0, by decide⟩,
   ⟨State.reset, 0x201FFC, 0, by decide⟩,
   ⟨on ((fun (d : Dev) => d.onEvt fun e => { e with sources := [⟨true, 1, 0, 0⟩] }) ∘ parSet 0x14000000 [15] ∘
    parSet 0x14000001 [0, 0x80] ∘ parSet 0x1400800F [14, 0, 0, 0]), 15, 0, by decide +kernel⟩,
   ⟨on (fun (d : Dev) => d.onEvt fun e => { e with sources := [] }), 15, by decide +kernel⟩,
   ⟨on (fun (d : Dev) => d.onHost fun h =>
    { h with msixOn := true, pba := List.replicate 64 true, msix := List.replicate 64 ⟨0, 0, false⟩ }), 63,
    by decide⟩,
   ⟨State.reset, 63, by decide⟩⟩

theorem witness_PowerStatesAndResets :
    (∃ (s : State) (cold : Bool), s.dev.host.power = .d0) ∧
    (∃ (s : State) (cold : Bool), s.dev.host.power ≠ .d0) ∧
    (∃ (d : Dev) (a v cq : Nat) (bs : List Byte) (now froze : Bool), d.host.power ≠ .d0) ∧
    (∃ (s : State), s.dev.host.power ≠ .d0) ∧
    (∃ (c : Instr) (s : State), (c = .poresetNLow ∨ (c = .deviceReset ∧ s.dev.boot.inReset = false ∧ (s.dev.halted
      = false ∨ s.dev.hottest < 95)))) ∧
    (∃ (s : State), s.dev.boot.inReset = false ∧ s.dev.halted = true ∧ 95 ≤ s.dev.hottest) ∧
    (∃ (s : State), s.dev.boot.inReset = true) ∧
    (∃ (s : State) (tj : Int) (b : BoardState), s.dev.boot.devReset = true) ∧
    (∃ (s : State) (tj : Int) (b : BoardState), 95 ≤ tj) ∧
    (∃ (s : State) (tj : Int) (b : BoardState), s.dev.boot.inReset = true ∧ s.dev.boot.storeSeq = true ∧ tj < 95 ∧
      b.flash = none ∧ bootChoice s.dev.boot.minSecurity.toNat s.dev.boot.dirs s.dev.boot.images = none) ∧
    (∃ (s : State) (b : BoardState), b.railsInOrder = true ∧ b.flash = none ∧ bootChoice
      s.dev.boot.minSecurity.toNat s.dev.boot.dirs s.dev.boot.images = none) ∧
    (∃ (s : State) (b : BoardState), b.railsInOrder = true ∧ b.flash = none ∧ bootChoice
      s.dev.boot.minSecurity.toNat s.dev.boot.dirs s.dev.boot.images ≠ none ∧ referencePair b.channels = none) ∧
    (∃ (s : State) (b : BoardState) (p : BoardChan × BoardChan) (rate : Nat), b.railsInOrder = true ∧ b.flash =
      none ∧ bootChoice s.dev.boot.minSecurity.toNat s.dev.boot.dirs s.dev.boot.images ≠ none ∧ referencePair
      b.channels = some (p, rate)) :=
  ⟨⟨State.reset, true, by decide⟩,
   ⟨on (fun (d : Dev) => d.onHost fun h => { h with power := .d3hot }), true, by decide⟩,
   ⟨(fun (d : Dev) => d.onHost fun h => { h with power := .d3cold }) dev0, 0, 0, 0, [], true, true, by decide⟩,
   ⟨on (fun (d : Dev) => d.onHost fun h => { h with power := .d3cold }), by decide⟩,
   ⟨.poresetNLow, State.reset, by decide⟩,
   ⟨on ((fun (d : Dev) => d.onFaults fun f => { f with thermalHalt := true }) ∘ (fun (d : Dev) => d.onGov fun g =>
    { g with tj := [95] }) ∘ (fun (d : Dev) => d.onBoot fun b => { b with inReset := false })), by decide⟩,
   ⟨on (fun (d : Dev) => d.onBoot fun b => { b with inReset := true }), by decide⟩,
   ⟨on (fun (d : Dev) => d.onBoot fun b => { b with devReset := true }), 25, board, by decide⟩,
   ⟨State.reset, 95, board, by decide⟩,
   ⟨on (fun (d : Dev) => d.onBoot fun b => { b with inReset := true, storeSeq := true, images := [none, none] }),
    94, board, by decide⟩,
   ⟨on (fun (d : Dev) => d.onBoot fun b => { b with images := [none, none] }), board, by decide⟩,
   ⟨on imaged, board, by decide, by decide, by decide, by decide⟩,
   ⟨on imaged, { board with channels := chans }, ((22, 8, 1, 6400, 6400), (23, 8, 1, 6400, 6400)), 6400, by decide,
    by decide, by decide, rfl⟩⟩

theorem witness_Governor :
    (∃ (s : State) (v : Word), let mv := v.toNat % 1024; let policy := v.toNat / 2 ^ 16 % 4; (policy = 3 ∨ mv < 700
      ∨ 900 < mv ∨ mv % 5 ≠ 0 ∨ (policy = 2 ∧ s.dev.reaches s.dev.needs 102 mv = false))) ∧
    (∃ (s : State) (v : Word), let mv := v.toNat % 1024; let policy := v.toNat / 2 ^ 16 % 4; policy ≠ 3 ∧ 700 ≤ mv
      ∧ mv ≤ 900 ∧ mv % 5 = 0 ∧ (policy = 2 → s.dev.reaches s.dev.needs 102 mv = true)) ∧
    (∃ (d : Dev) (needs : List Q) (mv : Nat) (short : Bool), d.request needs = (mv, short) ∧ d.gov.policy = 2) ∧
    (∃ (d : Dev) (needs : List Q) (mv : Nat) (short : Bool) (r : Nat), d.request needs = (mv, short) ∧ d.gov.policy
      ≠ 2 ∧ short = false ∧ r < 12) ∧
    (∃ (d : Dev) (needs : List Q) (mv : Nat) (short : Bool) (w : Nat), d.request needs = (mv, short) ∧ d.gov.policy
      ≠ 2 ∧ 700 ≤ w ∧ w < mv ∧ w % 5 = 0) ∧
    (∃ (d : Dev) (needs : List Q) (mv : Nat) (short : Bool), d.request needs = (mv, short) ∧ d.gov.policy ≠ 2 ∧
      short = true) ∧
    (∃ (s : State) (mv : Nat), (∀ x ∈ s.dev.heldEnvs, x.1.phase ≠ .sealing) ∧ mv ≤ s.dev.gov.requestMv + 15 ∧
      s.dev.gov.requestMv ≤ mv + 15 ∧ mv < 1024 ∧ (s.dev.gov.raising = false ∨ s.dev.gov.finalMv ≤
      s.dev.gov.requestMv)) ∧
    (∃ (s : State) (mv : Nat), (∀ x ∈ s.dev.heldEnvs, x.1.phase ≠ .sealing) ∧ mv ≤ s.dev.gov.requestMv + 15 ∧
      s.dev.gov.requestMv ≤ mv + 15 ∧ mv < 1024 ∧ s.dev.gov.raising = true ∧ s.dev.gov.requestMv < s.dev.gov.finalMv) ∧
    (∃ (s : State) (mv : Nat), (∀ x ∈ s.dev.heldEnvs, x.1.phase ≠ .sealing) ∧ (s.dev.gov.requestMv + 15 < mv ∨ mv +
      15 < s.dev.gov.requestMv) ∧ mv < 1024 ∧ s.dev.gov.retries < 3) ∧
    (∃ (s : State) (mv : Nat), (∀ x ∈ s.dev.heldEnvs, x.1.phase ≠ .sealing) ∧ (s.dev.gov.requestMv + 15 < mv ∨ mv +
      15 < s.dev.gov.requestMv) ∧ mv < 1024 ∧ 3 ≤ s.dev.gov.retries) ∧
    (∃ (s : State), s.dev.gov.raising = false ∧ s.dev.gov.retries = 0 ∧ s.dev.gov.finalMv < s.dev.gov.requestMv) ∧
    (∃ (s : State), (s.dev.gov.raising = true ∨ 0 < s.dev.gov.retries ∨ s.dev.gov.requestMv ≤ s.dev.gov.finalMv)) ∧
    (∃ (s : State) (w : BitVec 16), w ≠ 0) ∧
    (∃ (s : State) (w : BitVec 16) (mv : Nat) (t : State), (∀ x ∈ s.dev.heldEnvs, x.1.phase ≠ .sealing) ∧ exec
      (.readVout mv true) s = .next t) ∧
    (∃ (s : State) (l : List Nat), l.length = 48 ∧ (∀ x ∈ l, x < 2 ^ 16) ∧ s.dev.pointNow = 5) ∧
    (∃ (s : State) (l : List Nat), l.length = 48 ∧ (∀ x ∈ l, x < 2 ^ 16) ∧ s.dev.pointNow < 5 ∧
      s.dev.gov.curves.length = 12 ∧ (∀ c ∈ s.dev.gov.curves, c.length = 5)) ∧
    (∃ (s : State) (cap : List Nat) (v1 : List Int) (tj : Int), cap.length = 12 ∧ (∀ x ∈ cap, x < 2 ^ 16) ∧
      v1.length = 12 ∧ s.dev.gov.curves.length = 12 ∧ (∀ c ∈ s.dev.gov.curves, c.length = 5)) ∧
    (∃ (s : State) (race : Nat) (rest : List Nat), s.dev.gov.shed = race :: rest ∧ 100 < s.dev.hottest) ∧
    (∃ (s : State) (race : Nat) (rest : List Nat), s.dev.gov.shed = race :: rest ∧ s.dev.hottest ≤ 100 ∧
      (s.dev.onGov fun g => { g with shed := rest }).reaches (s.dev.onGov fun g =>
      { g with shed := rest }).unshed.demands 105 (s.dev.onGov fun g => { g with shed := rest }).ceiling = true) :=
  ⟨⟨State.reset, 695, by decide⟩,
   ⟨on fit, BitVec.ofNat 32 (2 * 2 ^ 16 + 900), by decide +kernel⟩,
   ⟨(fun (d : Dev) => d.onGov fun g => { g with policy := 2 }) dev0, [], 900, false, by decide⟩,
   ⟨fit dev0, [], 700, false, 11, by decide +kernel⟩,
   ⟨fit dev0, List.replicate 12 ⟨9, 10⟩, 835, false, 830, by decide +kernel⟩,
   ⟨dev0, [⟨1, 1⟩], 900, true, by decide +kernel⟩,
   ⟨on id, 885, by decide⟩,
   ⟨on (fun (d : Dev) => d.onGov fun g => { g with raising := true, requestMv := 895, finalMv := 900 }), 880,
    by decide⟩,
   ⟨on id, 884, by decide⟩,
   ⟨on (fun (d : Dev) => d.onGov fun g => { g with retries := 3 }), 916, by decide⟩,
   ⟨on (fun (d : Dev) => d.onGov fun g => { g with finalMv := 895 }), by decide⟩,
   ⟨State.reset, by decide⟩,
   ⟨State.reset, 1, by decide⟩,
   ⟨on id, 1, 900, _, by decide, rfl⟩,
   ⟨on id, List.replicate 48 65535, by decide +kernel⟩,
   ⟨on (fun (d : Dev) => d.onGov fun g => { g with requestMv := 700, finalMv := 700, voutMv := 700 }),
    List.replicate 48 65535, by decide +kernel⟩,
   ⟨on id, List.replicate 12 65535, List.replicate 12 0, 25, by decide +kernel⟩,
   ⟨on (fun (d : Dev) => d.onGov fun g => { g with shed := [3], tj := [101] }), 3, [], by decide⟩,
   ⟨on (fit ∘ (fun (d : Dev) => d.onGov fun g => { g with shed := [3], tj := [100] })), 3, [], by decide +kernel⟩⟩

theorem witness_LaneCommands :
    (∃ (s : State) (q : Fin 16), (s.dev.quadI q).powered = false) ∧
    (∃ (s : State) (q : Fin 16), (s.dev.quadI q).powered = true ∧ s.dev.lanes.quads.length = 16) ∧
    (∃ (s : State) (n : Fin 64) (l : LinkId) (lanes : List Nat) (pos : Nat), s.dev.linkOfLane n = some (l, lanes,
      pos) ∧ receives l = true ∧ s.dev.quadReady (n / 4) = true ∧ s.dev.carriesData n = true ∧ (∀ p, l ≠ .chain p)) ∧
    (∃ (s : State) (n : Fin 64) (l : LinkId) (lanes : List Nat) (pos : Nat), s.dev.linkOfLane n = some (l, lanes,
      pos) ∧ receives l = true ∧ s.dev.quadReady (n / 4) = true ∧ s.dev.carriesData n = true ∧ (∃ p, l = .chain p)) ∧
    (∃ (s : State) (n : Fin 64) (l : LinkId) (lanes : List Nat) (pos : Nat), s.dev.linkOfLane n = some (l, lanes,
      pos) ∧ receives l = true ∧ (s.dev.quadReady (n / 4) = false ∨ s.dev.carriesData n = false)) ∧
    (∃ (s : State) (n : Fin 64) (l : LinkId) (lanes : List Nat) (pos : Nat) (b ctle cyc : Nat) (dfe : List Int),
      s.dev.linkOfLane n = some (l, lanes, pos) ∧ receives l = true ∧ (s.dev.laneI n).cdrLock = false) ∧
    (∃ (s : State) (n : Fin 64) (l : LinkId) (lanes : List Nat) (pos : Nat) (b ctle cyc : Nat) (dfe : List Int),
      s.dev.linkOfLane n = some (l, lanes, pos) ∧ receives l = true ∧ (s.dev.laneI n).cdrLock = true ∧ s.dev.parN
      0x03 n 2 = 0 ∧ (s.dev.linkI l).trained = true) ∧
    (∃ (s : State) (n : Fin 64) (l : LinkId) (lanes : List Nat) (pos : Nat) (b ctle cyc : Nat) (dfe : List Int),
      s.dev.linkOfLane n = some (l, lanes, pos) ∧ receives l = true ∧ (s.dev.laneI n).cdrLock = true ∧ s.dev.parN
      0x03 n 2 = 0 ∧ (s.dev.linkI l).trained = false) ∧
    (∃ (s : State) (n : Fin 64) (l : LinkId) (lanes : List Nat) (pos index count skew cyc : Nat), s.dev.linkOfLane
      n = some (l, lanes, pos) ∧ receives l = true ∧ (s.dev.laneI n).sync = true ∧ s.dev.lanes.lanes.length = 64 ∧
      index ≠ pos ∧ (s.dev.linkI l).up = false) ∧
    (∃ (s : State) (n : Fin 64) (l : LinkId) (lanes : List Nat) (pos index count skew cyc : Nat), s.dev.linkOfLane
      n = some (l, lanes, pos) ∧ receives l = true ∧ (s.dev.laneI n).sync = true ∧ s.dev.lanes.lanes.length = 64 ∧
      index = pos ∧ (s.dev.linkI l).up = false ∧ lanes.length ≠ 1 ∧ 65 ≤ skew) ∧
    (∃ (s : State) (n : Fin 64) (l : LinkId) (lanes : List Nat) (pos index count skew cyc : Nat), s.dev.linkOfLane
      n = some (l, lanes, pos) ∧ receives l = true ∧ (s.dev.laneI n).sync = true ∧ s.dev.lanes.lanes.length = 64 ∧
      index = pos ∧ (s.dev.linkI l).up = false ∧ skew < 65 ∧ (∀ m ∈ lanes, m < 64) ∧ (∀ m ∈ lanes, m ≠ n.val →
      s.dev.carriesData m = true → (s.dev.laneI m).sync = true ∧ (s.dev.laneI m).aligned = true ∧ (s.dev.laneI
      m).aosCount = some (count % 256))) ∧
    (∃ (s : State) (n : Fin 64) (l : LinkId) (lanes : List Nat) (pos index count skew cyc : Nat), s.dev.linkOfLane
      n = some (l, lanes, pos) ∧ receives l = true ∧ (s.dev.laneI n).sync = true ∧ s.dev.lanes.lanes.length = 64 ∧
      index = pos ∧ (s.dev.linkI l).up = true ∧ lanes.length ≠ 1 ∧ (∃ m ∈ lanes, m ≠ n.val ∧ ∃ c, (s.dev.laneI
      m).aosCount = some c ∧ countsClose c (count % 256) = false)) ∧
    (∃ (s : State) (n : Fin 64) (p : Nat) (lanes : List Nat) (pos preset : Nat), s.dev.linkOfLane n = some (.chain
      p, lanes, pos) ∧ preset < 8 ∧ (s.dev.linkI (.chain p)).up = false ∧ (s.dev.laneI n).cdrLock = true ∧
      (s.dev.laneI n).sync = false) ∧
    (∃ (s : State) (n : Fin 64) (p : Nat) (lanes : List Nat) (pos preset : Nat), s.dev.linkOfLane n = some (.chain
      p, lanes, pos) ∧ (8 ≤ preset ∨ (s.dev.linkI (.chain p)).up = true)) ∧
    (∃ (s : State) (n : Fin 64) (p : Nat) (lanes : List Nat) (pos preset : Nat) (high : Bool), s.dev.linkOfLane n =
      some (.chain p, lanes, pos)) ∧
    (∃ (s : State) (n : Fin 64) (l : LinkId) (lanes : List Nat) (pos symbol cyc : Nat) (kind : CodeError),
      s.dev.linkOfLane n = some (l, lanes, pos) ∧ receives l = true ∧ symbol < (s.dev.laneI n).repDue) ∧
    (∃ (s : State) (n : Fin 64) (l : LinkId) (lanes : List Nat) (pos symbol cyc : Nat) (kind : CodeError),
      s.dev.linkOfLane n = some (l, lanes, pos) ∧ receives l = true ∧ (s.dev.laneI n).repDue ≤ symbol) ∧
    (∃ (s : State) (n : Fin 64) (l : LinkId) (lanes : List Nat) (pos cyc : Nat), s.dev.linkOfLane n = some (l,
      lanes, pos) ∧ receives l = true ∧ (s.dev.linkI l).up = true) ∧
    (∃ (s : State) (n : Fin 64) (l : LinkId) (lanes : List Nat) (pos cyc : Nat) (m : Nat), s.dev.linkOfLane n =
      some (l, lanes, pos) ∧ receives l = true ∧ (s.dev.linkI l).up = false ∧ s.dev.lanes.lanes.length = 64 ∧ (∀ m ∈
      lanes, m < 64) ∧ lanes.find? (fun m => s.dev.carriesData m && decide (s.dev.failingStep m < 5)) = some m) ∧
    (∃ (s : State) (n : Fin 64) (cyc : Nat), s.dev.quadMode (n / 4) = 3 ∧ s.dev.lanes.lanes.length = 64 ∧
      s.dev.lanes.quads.length = 16) ∧
    (∃ (s : State) (n : Fin 64) (l : LinkId) (lanes : List Nat) (pos w h cyc : Nat), s.dev.linkOfLane n = some (l,
      lanes, pos) ∧ receives l = true ∧ (s.dev.linkI l).up = true ∧ s.dev.lanes.lanes.length = 64) ∧
    (∃ (s : State) (n : Fin 64) (l : LinkId) (lanes : List Nat) (pos ctle w h : Nat) (tj : Int), s.dev.linkOfLane n
      = some (l, lanes, pos) ∧ receives l = true ∧ (s.dev.linkI l).up = true ∧ s.dev.calTriggered n tj = false) ∧
    (∃ (s : State) (n : Fin 64) (l : LinkId) (lanes : List Nat) (pos ctle w h : Nat) (tj : Int), s.dev.linkOfLane n
      = some (l, lanes, pos) ∧ receives l = true ∧ (s.dev.linkI l).up = true ∧ s.dev.calTriggered n tj = true ∧ (∀
      m, m ≠ n.val → (s.dev.laneI m).spare = none) ∧ s.dev.lanes.lanes.length = 64) ∧
    (∃ (s : State) (n : Fin 64) (w h cyc : Nat), s.dev.lanes.lanes.length = 64 ∧ (s.dev.laneI n).spare = none) ∧
    (∃ (s : State) (n : Fin 64) (w h cyc : Nat) (c : Nat) (f : Nat), s.dev.lanes.lanes.length = 64 ∧ (s.dev.laneI
      n).spare = some (c, f)) ∧
    (∃ (s : State) (n : Fin 64), (s.dev.laneI n).slip = 0) ∧
    (∃ (s : State) (n : Fin 64), 0 < (s.dev.laneI n).slip) :=
  ⟨⟨State.reset, 15, by decide⟩,
   ⟨on (fun (d : Dev) => d.onQuadI 15 fun q => { q with powered := true, pllLock := true }), 15, by decide⟩,
   ⟨on ((fun (d : Dev) => d.onQuadI 15 fun q => { q with powered := true, pllLock := true }) ∘ (laned (.capture
    7))), 63, .capture 7, [60, 61, 62, 63], 3, by decide, by decide, by decide, by decide, (by intro p h; cases h)⟩,
   ⟨on ((fun (d : Dev) => d.onQuadI 15 fun q => { q with powered := true, pllLock := true }) ∘ (laned (.chain 1))),
    63, .chain 1, [60, 61, 62, 63], 3, by decide, by decide, by decide, by decide, ⟨1, rfl⟩⟩,
   ⟨on ((fun (d : Dev) => d.onQuadI 15 fun q => { q with powered := true, pllLock := true }) ∘ parSet 0x040F0001
    [3] ∘ (laned (.capture 7))), 63, .capture 7, [60, 61, 62, 63], 3, by decide⟩,
   ⟨on (laned (.capture 7)), 63, .capture 7, [60, 61, 62, 63], 3, 0, 0, 0, [], by decide⟩,
   ⟨on ((fun (d : Dev) => d.onLaneI 63 fun x => { x with cdrLock := true }) ∘ (fun (d : Dev) => d.onLanes fun x =>
    { x with caps := List.replicate 8 ⟨false, true⟩ }) ∘ (laned (.capture 7))), 63, .capture 7, [60, 61, 62, 63], 3,
    0, 0, 0, [], by decide⟩,
   ⟨on ((fun (d : Dev) => d.onLaneI 63 fun x => { x with cdrLock := true }) ∘ (laned (.capture 7))), 63, .capture
    7, [60, 61, 62, 63], 3, 0, 0, 0, [], by decide⟩,
   ⟨on ((fun (d : Dev) => d.onLaneI 63 fun x => { x with sync := true }) ∘ (laned (.capture 7))), 63, .capture 7,
    [60, 61, 62, 63], 3, 2, 0, 0, 0, by decide⟩,
   ⟨on ((fun (d : Dev) => d.onLaneI 63 fun x => { x with sync := true }) ∘ (laned (.capture 7))), 63, .capture 7,
    [60, 61, 62, 63], 3, 3, 0, 65, 0, by decide⟩,
   ⟨on ((fun (d : Dev) => d.onLaneI 63 fun x => { x with sync := true }) ∘ (fun (d : Dev) => d.each [60, 61, 62]
    fun d n => d.onLaneI n fun x => { x with sync := true, aligned := true, aosCount := some 255 }) ∘ (laned
    (.capture 7))), 63, .capture 7, [60, 61, 62, 63], 3, 3, 511, 64, 0, by decide⟩,
   ⟨on ((fun (d : Dev) => d.onLaneI 63 fun x => { x with sync := true }) ∘ (fun (d : Dev) => d.onLaneI 60 fun x =>
    { x with aosCount := some 2 }) ∘ up (.capture 7)), 63, .capture 7, [60, 61, 62, 63], 3, 3, 0, 0, 0, by decide,
    by decide, by decide, by decide, by decide, by decide, by decide, ⟨60, by decide, by decide, 2, by decide,
    by decide⟩⟩,
   ⟨on ((fun (d : Dev) => d.onLaneI 63 fun x => { x with cdrLock := true }) ∘ (laned (.chain 1))), 63, 1, [60, 61,
    62, 63], 3, 7, by decide⟩,
   ⟨on (laned (.chain 1)), 63, 1, [60, 61, 62, 63], 3, 8, by decide⟩,
   ⟨on (laned (.chain 1)), 63, 1, [60, 61, 62, 63], 3, 0, true, by decide⟩,
   ⟨on ((fun (d : Dev) => d.onLaneI 63 fun x => { x with repDue := 1 }) ∘ (laned (.capture 7))), 63, .capture 7,
    [60, 61, 62, 63], 3, 0, 0, .violation, by decide⟩,
   ⟨on ((fun (d : Dev) => d.onLaneI 63 fun x => { x with repDue := 1 }) ∘ (laned (.capture 7))), 63, .capture 7,
    [60, 61, 62, 63], 3, 1, 0, .disparity, by decide⟩,
   ⟨on (up (.capture 7)), 63, .capture 7, [60, 61, 62, 63], 3, 0, by decide⟩,
   ⟨on (laned (.capture 7)), 63, .capture 7, [60, 61, 62, 63], 3, 0, 60, by decide⟩,
   ⟨on (parSet 0x040F0001 [3]), 63, 0, by decide⟩,
   ⟨on (up (.capture 7)), 63, .capture 7, [60, 61, 62, 63], 3, 0, 0, 0, by decide⟩,
   ⟨on (up (.capture 7)), 63, .capture 7, [60, 61, 62, 63], 3, 0, 0, 0, 0, by decide⟩,
   ⟨on ((fun (d : Dev) => d.onLaneI 63 fun x => { x with calDue := true }) ∘ up (.capture 7)), 63, .capture 7, [60, 61, 62, 63], 3, 0, 0, 0, 0, by decide, by decide, by decide, by decide, (by
      intro m h
      by_cases hm : m < 63
      · exact (by decide : ∀ m, m < 63 → ((on ((fun (d : Dev) => d.onLaneI 63 fun x => { x with calDue := true }) ∘ up (.capture 7))).dev.laneI m).spare = none) m hm
      · have : 64 ≤ m := by change m ≠ 63 at h; omega
        rw [Dev.laneI, List.getD, List.getElem?_eq_none (by change 64 ≤ m; exact this)]; rfl), by decide⟩,
   ⟨State.reset, 63, 0, 0, 0, by decide⟩,
   ⟨on (fun (d : Dev) => d.onLaneI 63 fun x => { x with spare := some (3, 9) }), 63, 0, 0, 0, 3, 9, by decide⟩,
   ⟨State.reset, 63, by decide⟩,
   ⟨on (fun (d : Dev) => d.onLaneI 63 fun x => { x with slip := 1 }), 63, by decide⟩⟩

theorem witness_CaptureLinks :
    (∃ (s : State) (p : Fin 8) (cyc : Nat), (s.dev.pipeI p).cur = none ∧ s.dev.accepts p = false) ∧
    (∃ (s : State) (p : Fin 8) (cyc : Nat), (s.dev.pipeI p).cur = none ∧ s.dev.accepts p = true ∧ s.dev.pipe.length
      = 8 ∧ s.dev.cap.length = 8) ∧
    (∃ (s : State) (p : Fin 8) (cyc : Nat) (f : Frame), (s.dev.pipeI p).cur = some f ∧ f.aborted = false ∧ f.lines
      < mergedH (s.dev.frameCfg p f) ∧ f.lines < 3) ∧
    (∃ (s : State) (p : Fin 8) (cyc : Nat) (f : Frame), (s.dev.pipeI p).cur = some f ∧ f.aborted = false ∧ mergedH
      (s.dev.frameCfg p f) ≤ f.lines) ∧
    (∃ (s : State) (p : Fin 8) (die : Fin 4) (a b : Nat) (bs : List Byte) (chk : PacketCheck) (cyc : Nat), chk ≠
      .good) ∧
    (∃ (s : State) (p : Fin 8) (cyc : Nat) (f : Frame), (s.dev.pipeI p).cur = some f ∧ f.aborted = true) ∧
    (∃ (s : State) (p : Fin 8) (cyc : Nat) (f : Frame), (s.dev.pipeI p).cur = some f ∧ f.aborted = false ∧ f.gated
      = false) ∧
    (∃ (s : State) (p : Fin 8) (cyc : Nat) (f : Frame), (s.dev.pipeI p).cur = some f ∧ f.aborted = false ∧ f.gated
      = true ∧ s.dev.pipe.length = 8 ∧ s.dev.cap.length = 8) ∧
    (∃ (s : State) (p : Fin 8) (die : Fin 4) (cnt line off : Nat) (bs : List Byte) (cyc : Nat), (s.dev.pipeI p).cur
      = none ∧ bs.length ≤ 16) ∧
    (∃ (s : State) (p : Fin 8) (die : Fin 4) (cnt line off : Nat) (bs : List Byte) (cyc : Nat), (s.dev.pipeI p).cur
      = none ∧ segGood (s.dev.openDepth p) off bs .good = true ∧ line < 64) ∧
    (∃ (s : State) (p : Fin 8) (die : Fin 4) (cnt line off : Nat) (bs : List Byte) (cyc : Nat), (s.dev.pipeI p).cur
      = none ∧ bs.length ≤ 4096) ∧
    (∃ (s : State) (p : Fin 8) (die : Fin 4) (f : Frame) (cyc : Nat) (cnt : Nat) (bs : List Byte), (s.dev.pipeI
      p).cur = some f ∧ f.aborted = false ∧ s.dev.pipe.length = 8 ∧ die < (s.dev.frameCfg p f).dies ∧ bs.length ≤ 16
      ∧ f.gated = false ∧ die = 0 ∧ u16 bs 0 = dieW (s.dev.frameCfg p f) 0 ∧ u16 bs 2 = dieH (s.dev.frameCfg p f) 0
      ∧ 10 + 2 * u8 bs 4 = (s.dev.frameCfg p f).depth) ∧
    (∃ (s : State) (p : Fin 8) (die : Fin 4) (f : Frame) (cyc : Nat) (line off : Nat) (bs : List Byte),
      (s.dev.pipeI p).cur = some f ∧ f.aborted = false ∧ s.dev.pipe.length = 8 ∧ die < (s.dev.frameCfg p f).dies ∧
      segGood (s.dev.frameCfg p f).depth off bs .good = true ∧ hasStatus f stLongFrame = false ∧ line < dieH
      (s.dev.frameCfg p f) die ∧ (∀ l, (f.dies.getD die DieFrame.empty).lastLine = some l → l ≤ line) ∧ off +
      (unpackSamples (s.dev.frameCfg p f).depth bs).length ≤ dieW (s.dev.frameCfg p f) die) ∧
    (∃ (s : State) (p : Fin 8) (die : Fin 4) (f : Frame) (cyc : Nat) (line off : Nat) (bs : List Byte),
      (s.dev.pipeI p).cur = some f ∧ f.aborted = false ∧ s.dev.pipe.length = 8 ∧ die < (s.dev.frameCfg p f).dies ∧
      segGood (s.dev.frameCfg p f).depth off bs .good = true ∧ line < 64) ∧
    (∃ (s : State) (p : Fin 8) (die : Fin 4) (f : Frame) (cyc : Nat) (chunk : Nat) (bs : List Byte), (s.dev.pipeI
      p).cur = some f ∧ f.aborted = false ∧ s.dev.pipe.length = 8 ∧ die < (s.dev.frameCfg p f).dies ∧ bs.length ≤
      4096 ∧ (f.dies.getD die DieFrame.empty).embed.length + bs.length ≤ 4096) ∧
    (∃ (s : State) (p : Fin 8) (die : Fin 4) (f : Frame) (cyc : Nat) (chunk : Nat) (bs : List Byte), (s.dev.pipeI
      p).cur = some f ∧ f.aborted = false ∧ s.dev.pipe.length = 8 ∧ die < (s.dev.frameCfg p f).dies ∧ bs.length ≤
      4096 ∧ 4096 < (f.dies.getD die DieFrame.empty).embed.length + bs.length) ∧
    (∃ (s : State) (p : Fin 8) (die : Fin 4) (f : Frame) (cyc : Nat) (cnt : Nat), (s.dev.pipeI p).cur = some f ∧
      f.aborted = false ∧ s.dev.pipe.length = 8 ∧ die < (s.dev.frameCfg p f).dies ∧ (∃ i, i < (s.dev.frameCfg p
      f).dies ∧ i ≠ die.val ∧ (f.dies.getD i DieFrame.empty).trailer = false)) ∧
    (∃ (d : Dev) (p cyc : Nat) (f : Frame), p < 8 ∧ d.pipe.length = 8 ∧ d.cap.length = 8 ∧ (d.pipeI p).cur = some f
      ∧ f.aborted = false ∧ f.status = 0 ∧ 0 < (d.frameCfg p f).dies ∧ mergedH (d.frameCfg p f) ≤ f.lines ∧
      f.dies.length = (d.frameCfg p f).dies ∧ (∀ i, i < (d.frameCfg p f).dies → (f.dies.getD i
      DieFrame.empty).header = true ∧ (f.dies.getD i DieFrame.empty).trailer = true ∧ (f.dies.getD i
      DieFrame.empty).oos = false ∧ (∀ n, n < mergedH (d.frameCfg p f) → i ∈ diesOfLine (d.frameCfg p f) n → ∃ g ∈
      (f.dies.getD i DieFrame.empty).segs, g.line = n - dieTop (d.frameCfg p f) i) ∧ ∀ g ∈ (f.dies.getD i
      DieFrame.empty).segs, lineShort (f.dies.getD i DieFrame.empty) g.line (dieW (d.frameCfg p f) i) = false)) ∧
    (∃ (s : State) (p : Fin 8) (n : Nat) (res : Nat) (cyc : Nat), ((s.dev.capI p).letters.find? fun l => l.seq ==
      n) = none) ∧
    (∃ (s : State) (p : Fin 8) (n : Nat), ((s.dev.capI p).letters.find? fun l => l.seq == n) = none) ∧
    (∃ (s : State) (p : Fin 8) (n cyc : Nat) (l : Letter), ((s.dev.capI p).letters.find? fun l => l.seq == n) =
      some l ∧ l.env = none ∧ s.dev.latency p l.cls = 0 ∧ l.addr ≠ 0xF002) ∧
    (∃ (s : State) (p : Fin 8) (n cyc : Nat) (l : Letter) (res : Nat), ((s.dev.capI p).letters.find? fun l => l.seq
      == n) = some l ∧ l.env = none ∧ res ≠ 0) ∧
    (∃ (s : State) (p : Fin 8) (n cyc : Nat) (l : Letter), ((s.dev.capI p).letters.find? fun l => l.seq == n) =
      some l ∧ l.env = none ∧ l.held = false ∧ l.request = false ∧ l.resends < 3) ∧
    (∃ (s : State) (p : Fin 8) (n cyc : Nat) (l : Letter), ((s.dev.capI p).letters.find? fun l => l.seq == n) =
      some l ∧ l.env = none ∧ l.held = false ∧ l.request = false ∧ 3 ≤ l.resends) ∧
    (∃ (s : State) (p : Fin 8) (n e m : Nat) (l : Letter), ((s.dev.capI p).letters.find? fun l => l.seq == n) =
      some l ∧ l.env = some (e, m) ∧ e < s.dev.env.envs.length ∧ (s.dev.envI e).phase = .sealed ∧ (s.dev.envI
      e).failed = none) ∧
    (∃ (s : State) (p : Fin 8) (bs : List Byte) (cyc : Nat), s.dev.cap.length = 8 ∧ 64 < bs.length) ∧
    (∃ (s : State) (p : Fin 8) (bs : List Byte) (cyc : Nat), s.dev.cap.length = 8 ∧ bs.length = 64 ∧ descValid bs =
      true ∧ (s.dev.capI p).freshDesc = false ∧ s.dev.hasCapture p = false) ∧
    (∃ (s : State) (p : Fin 8) (bs : List Byte) (cyc : Nat), s.dev.cap.length = 8 ∧ bs.length = 64 ∧ descValid bs =
      false ∧ (s.dev.capI p).badDesc ≠ bs) ∧
    (∃ (s : State) (p : Fin 8) (code : Nat) (bs : List Byte) (cyc : Nat), 32 < bs.length) ∧
    (∃ (s : State) (p : Fin 8) (code : Nat) (bs : List Byte) (cyc : Nat), bs.length ≤ 32) ∧
    (∃ (s : State) (p : Fin 8) (type cyc : Nat), (s.dev.capI p).unknownSec = none) ∧
    (∃ (s : State) (p : Fin 8) (type cyc : Nat) (x : Nat), (s.dev.capI p).unknownSec = some x ∧ s.dev.nsAt cyc < x
      + 1000000000) ∧
    (∃ (s : State) (p : Fin 8) (cyc : Nat), s.dev.cap.length = 8 ∧ ((s.dev.linkI (.capture p)).up = false ∨
      (s.dev.capI p).freshDesc = true)) ∧
    (∃ (s : State) (p : Fin 8) (cyc : Nat), s.dev.cap.length = 8 ∧ (s.dev.linkI (.capture p)).up = true ∧
      (s.dev.capI p).freshDesc = false) :=
  ⟨⟨State.reset, 7, 0, by decide⟩,
   ⟨on ((fun (d : Dev) => (d.onCapI 7 fun c => { c with freshDesc := true }).onRes fun r =>
    { r with streams := [streamOf 0x507] }) ∘ up (.capture 7)), 7, 0, by decide⟩,
   ⟨on (opened { whole with lines := 0 }), 7, 0, { whole with lines := 0 }, by decide⟩,
   ⟨on (opened whole), 7, 0, whole, by decide⟩,
   ⟨State.reset, 7, 3, 0, 0, [], .tooLong, 0, by decide⟩,
   ⟨on (opened { whole with aborted := true }), 7, 0, { whole with aborted := true }, by decide⟩,
   ⟨on (opened { whole with gated := false }), 7, 0, { whole with gated := false }, by decide⟩,
   ⟨on (opened whole), 7, 0, whole, by decide⟩,
   ⟨State.reset, 7, 3, 65535, 0, 0, List.replicate 16 0, 0, by decide⟩,
   ⟨State.reset, 7, 3, 0, 63, 8, List.replicate 10 0, 0, by decide⟩,
   ⟨State.reset, 7, 3, 0, 0, 0, List.replicate 4096 0, 0, by decide +kernel⟩,
   ⟨on (parSet 0x05070010 [8] ∘ parSet 0x05070014 [1] ∘ opened { whole with gated := false }), 7, 0,
    { whole with gated := false }, 0, 65535, [8, 0, 1, 0] ++ [0] ++ List.replicate 11 0, by decide⟩,
   ⟨on (opened { whole with params := [(0x05070010, [16]), (0x05070014, [2])] }), 7, 0,
    { whole with params := [(0x05070010, [16]), (0x05070014, [2])] }, 0, 1, 8, List.replicate 10 0, by decide,
    by decide, by decide, by decide, by decide, by decide, by decide, (by intro l h; cases h), by decide⟩,
   ⟨on (opened whole), 7, 0, whole, 0, 63, 8, List.replicate 10 0, by decide⟩,
   ⟨on (opened whole), 7, 0, whole, 0, 0, List.replicate 4096 0, by decide +kernel⟩,
   ⟨on (opened { whole with dies := [{ DieFrame.empty with embed := [1] }] }), 7, 0,
    { whole with dies := [{ DieFrame.empty with embed := [1] }] }, 0, 0, List.replicate 4096 0, by decide +kernel⟩,
   ⟨on (opened { whole with params := [(0x05070001, [2])] }), 7, 0, { whole with params := [(0x05070001, [2])] },
    0, 65535, by decide, by decide, by decide, by decide, ⟨1, by decide, by decide, by decide⟩⟩,
   ⟨opened whole dev0, 7, 0, whole, by decide⟩,
   ⟨State.reset, 7, 255, 0, 0, by decide⟩,
   ⟨State.reset, 7, 255, by decide⟩,
   ⟨on (lettered { letter with cls := 5 }), 7, 255, 0, { letter with cls := 5 }, by decide⟩,
   ⟨on (lettered letter), 7, 255, 0, letter, 1, by decide⟩,
   ⟨on (lettered { letter with resends := 2 }), 7, 255, 0, { letter with resends := 2 }, by decide⟩,
   ⟨on (lettered { letter with resends := 3 }), 7, 255, 0, { letter with resends := 3 }, by decide⟩,
   ⟨on ((fun (d : Dev) => d.onEnvI 63 fun e => { e with phase := .sealed }) ∘ lettered
    { letter with env := some (63, 1023) }), 7, 255, 63, 1023, { letter with env := some (63, 1023) }, by decide⟩,
   ⟨State.reset, 7, List.replicate 65 0, 0, by decide⟩,
   ⟨State.reset, 7, goodDesc, 0, by decide⟩,
   ⟨State.reset, 7, List.replicate 64 0, 0, by decide⟩,
   ⟨State.reset, 7, 0, List.replicate 33 0, 0, by decide⟩,
   ⟨State.reset, 7, 15, List.replicate 32 0, 0, by decide⟩,
   ⟨State.reset, 7, 255, 0, by decide⟩,
   ⟨on (fun (d : Dev) => d.onCapI 7 fun c => { c with unknownSec := some 0 }), 7, 255, 0, 0, by decide⟩,
   ⟨State.reset, 7, 0, by decide⟩,
   ⟨on (up (.capture 7)), 7, 0, by decide⟩⟩

theorem witness_PipelinesAndMills :
    (∃ (s : State) (p : Fin 8), (s.dev.pipeI p).ended = []) ∧
    (∃ (s : State) (p : Fin 8) (pt : Fin 4) (tile : Nat) (cyc : Nat), (s.dev.pipeI p).ended = []) ∧
    (∃ (s : State) (p : Fin 8) (pt : Fin 4) (c : Fin 4) (cyc : Nat), (s.dev.pipeI p).ended = []) ∧
    (∃ (s : State) (p : Fin 8) (f : Frame) (rest : List Frame), (s.dev.pipeI p).ended = f :: rest ∧ (f.gated =
      false ∨ s.dev.tilesBack p f = false)) ∧
    (∃ (s : State) (p : Fin 8) (f : Frame) (rest : List Frame), (s.dev.pipeI p).ended = f :: rest ∧ f.gated = true
      ∧ s.dev.tilesBack p f = true ∧ f.holding = [] ∧ s.dev.pipe.length = 8 ∧ s.dev.cap.length = 8) ∧
    (∃ (s : State) (p : Fin 8) (f : Frame) (rest : List Frame) (pt : Nat), (s.dev.pipeI p).ended = f :: rest ∧
      f.gated = true ∧ s.dev.tilesBack p f = true ∧ pt < 3 ∧ f.holding = [pt] ∧ s.dev.pipe.length = 8 ∧
      s.dev.cap.length = 8) ∧
    (∃ (s : State) (p : Fin 8) (k : Fin 6), (s.dev.pipeI p).done = none) ∧
    (∃ (s : State) (p : Fin 8), (s.dev.pipeI p).done = none) ∧
    (∃ (s : State) (p : Fin 8) (f : Frame) (k : Fin 6), (s.dev.pipeI p).done = some f ∧ s.dev.taps.length = 64 ∧
      s.dev.pipe.length = 8 ∧ f.buf k = none) ∧
    (∃ (s : State) (p : Fin 8) (f : Frame) (k : Fin 6) (o : Nat) (b : Buf), (s.dev.pipeI p).done = some f ∧
      s.dev.taps.length = 64 ∧ s.dev.pipe.length = 8 ∧ f.buf k = some o ∧ (s.dev.ringI (8 * p + k)).byOrder o = some
      b) ∧
    (∃ (s : State) (p : Fin 8) (f : Frame), (s.dev.pipeI p).done = some f ∧ s.dev.taps.length = 64 ∧
      s.dev.pipe.length = 8 ∧ f.buf 6 = none) ∧
    (∃ (s : State) (p : Fin 8) (f : Frame) (o : Nat) (b : Buf), (s.dev.pipeI p).done = some f ∧ s.dev.taps.length =
      64 ∧ s.dev.pipe.length = 8 ∧ f.buf 6 = some o ∧ (s.dev.ringI (8 * p + 6)).byOrder o = some b) ∧
    (∃ (s : State) (p : Fin 8) (f : Frame) (cyc : Nat), s.dev.capRace p < 64 ∧ s.dev.hasCapture p = true ∧ (∀ q, q
      < p.val → s.dev.hasCapture q = true → s.dev.capRace q ≠ s.dev.capRace p) ∧ (s.dev.pipeI p).cur = some f ∧
      f.aborted = false ∧ f.gated = false) ∧
    (∃ (s : State) (race cyc : Nat), 448 ≤ race ∧ race < 480 ∧ s.dev.raster.length = 4) ∧
    (∃ (s : State) (race : Nat), s.dev.dram.chans.length = 24 ∧ (∀ x ∈ s.dev.res.streams, x.race = race → x.policy
      ≠ 2)) ∧
    (∃ (s : State) (race : Nat), s.dev.dram.chans.length = 24 ∧ (∃ x ∈ s.dev.res.streams, x.race = race ∧ x.policy
      = 2)) ∧
    (∃ (s : State) (p : Fin 8) (pt : Fin 4) (f : Frame) (cyc e : Nat) (tile : Nat),
      let v := placedImage f.params p pt; let im := imageOf v;
      let pd := pointData f p im (develop f p (s.dev.pipeI p).clamp); (s.dev.pipeI p).ended = [f] ∧ v ≠ [] ∧ pt.val
      ∉ f.passing ∧ pt.val ∉ f.holding ∧ s.dev.pipe.length = 8 ∧ (pt.val, tile) ∉ f.tiles ∧ tileCount pd.w pd.h ≤
      tile) ∧
    (∃ (s : State) (p : Fin 8) (pt : Fin 4) (f : Frame) (cyc e : Nat) (tile : Nat),
      let v := placedImage f.params p pt; let im := imageOf v;
      let pd := pointData f p im (develop f p (s.dev.pipeI p).clamp); (s.dev.pipeI p).ended = [f] ∧ v ≠ [] ∧ pt.val
      ∉ f.passing ∧ pt.val ∉ f.holding ∧ s.dev.pipe.length = 8 ∧ (pt.val, tile) ∉ f.tiles ∧ tile < tileCount pd.w
      pd.h ∧ tile < 2 ^ 32 ∧ s.dev.awaitsEnd p pt ((imageClusters im).getD (tile % (imageClusters im).length) 0)
      (s.dev.beatAt cyc) f = false ∧ (s.dev.millI p).idleEngine ((imageClusters im).getD (tile % (imageClusters
      im).length) 0) (s.dev.beatAt cyc) = some e) ∧
    (∃ (s : State) (p : Fin 8) (pt : Fin 4) (f : Frame) (cyc e : Nat) (c : Fin 4),
      let v := placedImage f.params p pt; let im := imageOf v; (s.dev.pipeI p).ended = [f] ∧ v ≠ [] ∧ pt.val ∉
      f.passing ∧ pt.val ∉ f.holding ∧ s.dev.pipe.length = 8 ∧ im.fe = 0xFFFF) ∧
    (∃ (s : State) (p : Fin 8) (pt : Fin 4) (f : Frame) (cyc e : Nat) (c : Fin 4),
      let v := placedImage f.params p pt; let im := imageOf v;
      let pd := pointData f p im (develop f p (s.dev.pipeI p).clamp); (s.dev.pipeI p).ended = [f] ∧ v ≠ [] ∧ pt.val
      ∉ f.passing ∧ pt.val ∉ f.holding ∧ s.dev.pipe.length = 8 ∧ (pt.val, 2 ^ 32 + c.val) ∉ f.tiles ∧ im.fe ≠ 0xFFFF
      ∧ bit im.mask c = true ∧ tilesDone im f pt (tileCount pd.w pd.h) c = true ∧ (s.dev.millI p).busyWith pt
      f.number c (s.dev.beatAt cyc) = false ∧ (s.dev.millI p).endEngine c (s.dev.beatAt cyc) = some e) ∧
    (∃ (s : State) (m : Fin 8) (c : Fin 4) (e : Fin 16) (cyc : Nat) (pass : Bool), (retiredIn (s.dev.millI
      m).retired c).getD e true = true) ∧
    (∃ (s : State) (m : Fin 8) (c : Fin 4) (e : Fin 16) (cyc : Nat), (retiredIn (s.dev.millI m).retired c).getD e
      true = false ∧ s.dev.mills.length = 8 ∧ (s.dev.millI m).retired.length = 4 ∧ (∀ r ∈ (s.dev.millI m).resets,
      r.1 = c.val → r.2.1 = e.val → r.2.2 + 24 ≤ s.dev.health.life.hours) ∧ (∀ b ∈ (s.dev.millI m).busy, b.cluster =
      c.val → b.engine ≠ e.val)) ∧
    (∃ (s : State) (m : Fin 8) (c : Fin 4) (e : Fin 16) (cyc : Nat), (retiredIn (s.dev.millI m).retired c).getD e
      true = false ∧ s.dev.mills.length = 8 ∧ (s.dev.millI m).retired.length = 4 ∧ (∃ r ∈ (s.dev.millI m).resets,
      r.1 = c.val ∧ r.2.1 = e.val ∧ s.dev.health.life.hours < r.2.2 + 24)) ∧
    (∃ (s : State) (m : Fin 8) (c : Fin 4) (e : Fin 16) (cyc : Nat), (retiredIn (s.dev.millI m).retired c).getD e
      true = false ∧ s.dev.mills.length = 8 ∧ (s.dev.millI m).retired.length = 4 ∧ demandFits (clusterDemand
      s.dev.params m c ((s.dev.millI m).healthy c - 1)) = true) ∧
    (∃ (s : State) (m : Fin 8) (c : Fin 4) (e : Fin 16) (cyc : Nat) (pass : Bool), (retiredIn (s.dev.millI
      m).retired c).getD e true = false ∧ s.dev.mills.length = 8 ∧ (s.dev.millI m).retired.length = 4 ∧ demandFits
      (clusterDemand s.dev.params m c ((s.dev.millI m).healthy c - 1)) = false ∧ ((s.dev.millI m).deferred.find? fun
      x => x.1 == 16 * c.val + e.val) = none) :=
  ⟨⟨State.reset, 7, by decide⟩,
   ⟨State.reset, 7, 3, 0, 0, by decide⟩,
   ⟨State.reset, 7, 3, 3, 0, by decide⟩,
   ⟨on (ended { whole with gated := false }), 7, { whole with gated := false }, [], by decide⟩,
   ⟨on (ended whole), 7, whole, [], by decide⟩,
   ⟨on (ended { whole with holding := [2] }), 7, { whole with holding := [2] }, [], 2, by decide⟩,
   ⟨State.reset, 7, 5, by decide⟩,
   ⟨State.reset, 7, by decide⟩,
   ⟨on (done whole), 7, whole, 5, by decide⟩,
   ⟨on ((fun (d : Dev) => d.onRingI 61 fun r => { r with bufs := [buf .filling 5] }) ∘ done
    { whole with bufs := [none, none, none, none, none, some 5] }), 7,
    { whole with bufs := [none, none, none, none, none, some 5] }, 5, 5, buf .filling 5, by decide⟩,
   ⟨on (done whole), 7, whole, by decide⟩,
   ⟨on ((fun (d : Dev) => d.onRingI 62 fun r => { r with bufs := [buf .filling 5] }) ∘ done
    { whole with bufs := [none, none, none, none, none, none, some 5] }), 7,
    { whole with bufs := [none, none, none, none, none, none, some 5] }, 5, buf .filling 5, by decide⟩,
   ⟨on (parSet 0x05070007 [63] ∘ (fun (d : Dev) => d.onRes fun r => { r with streams := [streamOf 0x507] }) ∘
    opened { whole with gated := false }), 7, { whole with gated := false }, 0, by decide⟩,
   ⟨State.reset, 479, 0, by decide⟩,
   ⟨State.reset, 479, by decide⟩,
   ⟨on (fun (d : Dev) => d.onRes fun r => { r with streams := [{ streamOf 0x507 with policy := 2 }] }), 63,
    by decide⟩,
   ⟨on (ended
    { whole with params := (0x0A1C0000, ([0, 0, 0, 1, 0, 0, 0, 0, 1, 0, 255, 255] ++ List.replicate 24 0)) :: whole.params }),
    7, 0,
    { whole with params := (0x0A1C0000, ([0, 0, 0, 1, 0, 0, 0, 0, 1, 0, 255, 255] ++ List.replicate 24 0)) :: whole.params },
    0, 0, 1, by decide +kernel⟩,
   ⟨on (ended
    { whole with params := (0x0A1C0000, ([0, 0, 0, 1, 0, 0, 0, 0, 1, 0, 255, 255] ++ List.replicate 24 0)) :: whole.params }),
    7, 0,
    { whole with params := (0x0A1C0000, ([0, 0, 0, 1, 0, 0, 0, 0, 1, 0, 255, 255] ++ List.replicate 24 0)) :: whole.params },
    0, 0, 0, by decide +kernel⟩,
   ⟨on (ended
    { whole with params := (0x0A1C0000, ([0, 0, 0, 1, 0, 0, 0, 0, 1, 0, 255, 255] ++ List.replicate 24 0)) :: whole.params }),
    7, 0,
    { whole with params := (0x0A1C0000, ([0, 0, 0, 1, 0, 0, 0, 0, 1, 0, 255, 255] ++ List.replicate 24 0)) :: whole.params },
    0, 0, 3, by decide +kernel⟩,
   ⟨on (ended
    { whole with params := (0x0A1C0000, ([0, 0, 0, 1, 0, 0, 0, 0, 1, 0, 0, 0] ++ List.replicate 24 0)) :: whole.params, tiles := [(0, 0)] }),
    7, 0,
    { whole with params := (0x0A1C0000, ([0, 0, 0, 1, 0, 0, 0, 0, 1, 0, 0, 0] ++ List.replicate 24 0)) :: whole.params, tiles := [(0, 0)] },
    0, 0, 0, by decide +kernel⟩,
   ⟨on (fun (d : Dev) => d.onMillI 7 fun m => { m with retired := List.replicate 4 (List.replicate 16 true) }), 7,
    3, 15, 0, false, by decide⟩,
   ⟨on (fun (d : Dev) =>
    { (d.onMillI 7 fun m => { m with resets := [(3, 15, 0)] }) with health := { d.health with life := { d.health.life with hours := 24 } } }),
    7, 3, 15, 0, by decide⟩,
   ⟨on (fun (d : Dev) =>
    { (d.onMillI 7 fun m => { m with resets := [(3, 15, 0)] }) with health := { d.health with life := { d.health.life with hours := 23 } } }),
    7, 3, 15, 0, by decide⟩,
   ⟨State.reset, 7, 3, 15, 0, by decide +kernel⟩,
   ⟨on ((fun (d : Dev) => d.onMillI 7 fun m =>
    { m with retired := List.replicate 3 (List.replicate 16 false) ++ [List.replicate 15 true ++ [false]] }) ∘
    parSet 0x0A1C0000 ([0, 0, 0, 8, 0, 0, 0, 0, 1, 0, 255, 255] ++ List.replicate 24 0)), 7, 3, 15, 0, false,
    by decide +kernel⟩⟩

theorem witness_FrameMemoryAndOutputs :
    (∃ (s : State) (c : Fin 24), (s.dev.chanI c).populated = false) ∧
    (∃ (s : State) (c : Fin 24) (l : List Nat) (cyc : Nat), (s.dev.chanI c).populated = false) ∧
    (∃ (s : State) (c : Fin 24) (l : List Nat), (s.dev.chanI c).populated = false) ∧
    (∃ (s : State) (c : Fin 24) (limit owed left ahead : Nat), (s.dev.chanI c).populated = true ∧
      s.dev.dram.chans.length = 24 ∧ limit = (if 8 ≤ (s.dev.chanI c).mult then 64 else 128) ∧ owed = (s.dev.chanI
      c).debt + (16 - (s.dev.chanI c).ahead) ∧ left = (if owed < limit then owed else limit / 2) ∧ ahead =
      (s.dev.chanI c).ahead - 16) ∧
    (∃ (s : State) (c : Fin 24) (l : List Nat) (cyc : Nat), (s.dev.chanI c).populated = true ∧
      s.dev.dram.chans.length = 24 ∧ maxOf l = 8 ∧ (s.dev.chanI c).mult = 4) ∧
    (∃ (s : State) (c : Fin 24) (l : List Nat) (cyc : Nat), (s.dev.chanI c).populated = true ∧
      s.dev.dram.chans.length = 24 ∧ 8 < maxOf l ∧ (s.dev.chanI c).mult = 8) ∧
    (∃ (s : State) (c : Fin 24) (l : List Nat) (cyc : Nat), (s.dev.chanI c).populated = true ∧
      s.dev.dram.chans.length = 24 ∧ maxOf l ≤ 4 ∧ (s.dev.chanI c).cool = 0) ∧
    (∃ (s : State) (c : Fin 24) (l : List Nat) (cyc : Nat), (s.dev.chanI c).populated = true ∧
      s.dev.dram.chans.length = 24 ∧ maxOf l ≤ 4 ∧ (s.dev.chanI c).cool = 1 ∧ (s.dev.chanI c).mult = 8) ∧
    (∃ (s : State) (c : Fin 24) (a b : Nat), (s.dev.chanI c).populated = true ∧ (s.dev.chanI c).oscBase = [a] ∧
      s.dev.dram.chans.length = 24 ∧ s.dev.tick.tclk < (s.dev.chanI c).trainedAt + 600 * 125000000) ∧
    (∃ (s : State) (c : Fin 24), (s.dev.chanI c).populated = true ∧ (s.dev.chanI c).retrain = false) ∧
    (∃ (s : State) (c : Fin 24), (s.dev.chanI c).populated = true ∧ (s.dev.chanI c).retrain = true ∧ (s.dev.chanI
      c).retrainForced = false ∧ ((s.dev.chanI c).panics ≠ [] ∨ 64 ≤ (s.dev.chanI c).debt)) ∧
    (∃ (s : State) (c : Fin 24), (s.dev.chanI c).populated = true ∧ (s.dev.chanI c).retrain = true ∧ ((s.dev.chanI
      c).retrainForced = true ∨ ((s.dev.chanI c).panics = [] ∧ (s.dev.chanI c).debt < 64)) ∧ s.dev.dram.chans.length
      = 24) ∧
    (∃ (s : State) (c : Fin 24), s.dev.dram.chans.length = 24 ∧ nextSwitch s.dev.dram ≠ some c.val) ∧
    (∃ (s : State) (c : Fin 24) (rate : Nat), s.dev.dram.chans.length = 24 ∧ nextSwitch s.dev.dram = some c.val ∧
      s.dev.dram.target = some rate ∧ rate < 2 ^ 16) ∧
    (∃ (s : State) (o : Fin 4) (cyc : Nat), ((s.dev.rasterI o).enabled = false ∨ (s.dev.masterOf o).isSome = true)) ∧
    (∃ (s : State) (o : Fin 4) (cyc : Nat) (e : Int), ((s.dev.rasterI o).enabled = false ∨ (s.dev.masterOf
      o).isSome = true)) ∧
    (∃ (s : State) (o : Fin 4) (cyc : Nat), (s.dev.rasterI o).enabled = true ∧ (s.dev.masterOf o).isSome = false ∧
      s.dev.withClones o = [o.val] ∧ (s.dev.rasterI o).retiming = true) ∧
    (∃ (s : State) (o : Fin 4) (cyc : Nat), (s.dev.rasterI o).enabled = true ∧ (s.dev.masterOf o).isSome = false ∧
      s.dev.withClones o = [o.val] ∧ (s.dev.rasterI o).retiming = false ∧ (s.dev.linkI (.raster o)).up = true) ∧
    (∃ (s : State) (o : Fin 4) (cyc : Nat), (s.dev.rasterI o).enabled = true ∧ (s.dev.masterOf o).isSome = false ∧
      s.dev.withClones o = [o.val] ∧ (s.dev.rasterI o).window = false) ∧
    (∃ (s : State) (o : Fin 4) (cyc : Nat), (s.dev.rasterI o).enabled = true ∧ (s.dev.masterOf o).isSome = false ∧
      s.dev.withClones o = [o.val] ∧ (s.dev.rasterI o).window = true) ∧
    (∃ (s : State) (o : Fin 4) (cyc : Nat) (e : Int), (s.dev.rasterI o).enabled = true ∧ (s.dev.masterOf o).isSome
      = false ∧ s.dev.withClones o = [o.val] ∧ u8 (s.dev.rasB o 3) 0 ≠ 1) ∧
    (∃ (s : State) (o : Fin 4) (cyc : Nat) (e : Int), (s.dev.rasterI o).enabled = true ∧ (s.dev.masterOf o).isSome
      = false ∧ s.dev.withClones o = [o.val] ∧ u8 (s.dev.rasB o 3) 0 = 1) ∧
    (∃ (s : State) (o : Fin 4) (cyc : Nat), (s.dev.rasterI o).fetching = false) ∧
    (∃ (s : State) (o : Fin 4) (cyc : Nat), s.dev.withClones o = [o.val] ∧ s.dev.raster.length = 4 ∧ (s.dev.rasterI
      o).retiming = true) ∧
    (∃ (s : State) (o : Fin 4) (cyc : Nat), s.dev.withClones o = [o.val] ∧ s.dev.raster.length = 4 ∧ (s.dev.rasterI
      o).fetching = true ∧ (s.dev.linkI (.raster o)).up = true ∧ (s.dev.rasterI o).subst = true ∧ (s.dev.rasterI
      o).holdValid = true) ∧
    (∃ (s : State) (o : Fin 4) (cyc : Nat), s.dev.withClones o = [o.val] ∧ s.dev.raster.length = 4 ∧ (s.dev.rasterI
      o).fetching = true ∧ (s.dev.linkI (.raster o)).up = true ∧ (s.dev.rasterI o).subst = false ∧ (s.dev.rasterI
      o).dropped = [] ∧ (∀ l, l < 4 → s.dev.hostLayer o l = false)) :=
  ⟨⟨State.reset, 23, by decide⟩,
   ⟨State.reset, 23, [8], 0, by decide⟩,
   ⟨State.reset, 23, [8], by decide⟩,
   ⟨on (chan fun c => { c with mult := 8, debt := 48 }), 23, 64, 64, 32, 0, by decide⟩,
   ⟨on (chan id), 23, [4, 8], 0, by decide⟩,
   ⟨on (chan fun c => { c with mult := 8 }), 23, [9], 0, by decide⟩,
   ⟨on (chan id), 23, [4], 0, by decide⟩,
   ⟨on (chan fun c => { c with mult := 8, cool := 1 }), 23, [4], 0, by decide⟩,
   ⟨on (chan fun c => { c with oscBase := [1000] }), 23, 1000, 1031, by decide⟩,
   ⟨on (chan id), 23, by decide⟩,
   ⟨on (chan fun c => { c with retrain := true, debt := 64 }), 23, by decide⟩,
   ⟨on (chan fun c => { c with retrain := true, debt := 63 }), 23, by decide⟩,
   ⟨State.reset, 23, by decide⟩,
   ⟨on (chan id ∘ (fun (d : Dev) => d.onDram fun x => { x with switching := true, target := some 6400 })), 23,
    6400, by decide⟩,
   ⟨State.reset, 3, 0, by decide⟩,
   ⟨State.reset, 3, 0, 0, by decide⟩,
   ⟨on (shows fun r => { r with retiming := true }), 3, 0, by decide⟩,
   ⟨on (shows id ∘ up (.raster 3)), 3, 0, by decide⟩,
   ⟨on (shows id), 3, 0, by decide⟩,
   ⟨on (shows fun r => { r with window := true }), 3, 0, by decide⟩,
   ⟨on (shows id), 3, 0, 0, by decide⟩,
   ⟨on (shows fun r => { r with force := [(0x10030003, [1])] }), 3, 0, -100, by decide⟩,
   ⟨State.reset, 3, 0, by decide⟩,
   ⟨on (shows fun r => { r with retiming := true }), 3, 0, by decide⟩,
   ⟨on ((shows fun r => { r with fetching := true, subst := true, holdValid := true }) ∘ up (.raster 3)), 3, 0,
    by decide⟩,
   ⟨on ((shows fun r => { r with fetching := true }) ∘ up (.raster 3)), 3, 0, by decide⟩⟩

theorem witness_AudioPortsAndClocks :
    (∃ (s : State) (p : Fin 28) (cyc : Nat), s.dev.audio.ports.length = 28 ∧ ((s.dev.portI p).enabled = false ∨
      (s.dev.portI p).startReq = false ∨ (s.dev.portI p).running = true ∨ (s.dev.portI p).needEnable = true ∨
      s.dev.halted = true)) ∧
    (∃ (s : State) (p : Fin 28) (cyc : Nat), s.dev.audio.ports.length = 28 ∧ (s.dev.portI p).enabled = true ∧
      (s.dev.portI p).startReq = true ∧ (s.dev.portI p).running = false ∧ (s.dev.portI p).needEnable = false ∧
      s.dev.halted = false) ∧
    (∃ (s : State) (p : Fin 28) (l : List Word) (cyc : Nat), s.dev.audio.ports.length = 28 ∧ (isOut p = true ∨
      (s.dev.portI p).running = false)) ∧
    (∃ (s : State) (p : Fin 28) (l : List Word) (cyc : Nat), s.dev.audio.ports.length = 28 ∧ (isOut p = false ∨
      (s.dev.portI p).running = false)) ∧
    (∃ (s : State) (p : Fin 28) (l : List Word) (cyc : Nat), s.dev.audio.ports.length = 28 ∧ isOut p = false ∧
      (s.dev.portI p).running = true) ∧
    (∃ (s : State) (p : Fin 28) (cyc : Nat), (p = 25 ∨ p = 27) ∧ s.dev.audio.ports.length = 28 ∧ (s.dev.portI
      p).running = true ∧ (s.dev.portI p).source = 0xFFFF ∧ (s.dev.portI p).newSource = none ∧ (s.dev.ringI
      (ringAudio + p)).bufs = []) ∧
    (∃ (s : State) (p : Fin 28) (ch : Fin 16), s.dev.audio.ports.length = 28 ∧ (s.dev.portI p).newSource = none ∧
      ((∀ y ∈ (s.dev.portI p).pendGain, y.1 ≠ ch.val) ∨ isOut p = false)) ∧
    (∃ (s : State) (p : Fin 28) (ch : Fin 16) (g : Nat) (m : Bool), s.dev.audio.ports.length = 28 ∧ (s.dev.portI
      p).newSource = none ∧ isOut p = true ∧ (s.dev.portI p).pendGain = [(ch.val, g, m)] ∧ (s.dev.portI
      p).gainNow.length = 16) ∧
    (∃ (s : State) (c : AudioClock) (cyc : Nat), s.dev.audio.ports.length = 28 ∧ s.dev.audio.domains.length = 2 ∧
      s.dev.offRun c + 1 ≠ 10) ∧
    (∃ (s : State) (c : AudioClock) (cyc : Nat), s.dev.audio.ports.length = 28 ∧ s.dev.audio.domains.length = 2 ∧
      s.dev.offRun c + 1 = 10) ∧
    (∃ (s : State) (c : AudioClock) (cyc : Nat) (n : Fin 4), s.dev.audio.ports.length = 28 ∧
      s.dev.audio.domains.length = 2 ∧ s.dev.offRun c ≠ 1 ∧ c = .aes3 n) ∧
    (∃ (s : State) (c : AudioClock) (cyc : Nat), s.dev.audio.ports.length = 28 ∧ s.dev.audio.domains.length = 2 ∧
      s.dev.offRun c ≠ 1 ∧ (∀ n, c ≠ .aes3 n)) ∧
    (∃ (s : State) (c : AudioClock) (cyc : Nat), s.dev.audio.ports.length = 28 ∧ s.dev.audio.domains.length = 2 ∧
      s.dev.offRun c = 1) ∧
    (∃ (s : State) (c : AudioClock) (cyc : Nat) (missed : Nat), s.dev.audio.ports.length = 28 ∧
      s.dev.audio.domains.length = 2) ∧
    (∃ (s : State) (n : Fin 4) (rate : Nat) (a b : List Byte), s.dev.audio.ports.length = 28 ∧ a.length = 24 ∧
      b.length = 24 ∧ statusGood a = true ∧ statusGood b = true) ∧
    (∃ (s : State) (k : Docket), s.dev.runsHere k [(8, 8)] ∧ 3 < u8 k.bytes 8) ∧
    (∃ (s : State) (k : Docket), s.dev.runsHere k [(8, 8)] ∧ u8 k.bytes 8 ≤ 3 ∧ (s.dev.portI (16 + u8 k.bytes
      8)).locked = false) ∧
    (∃ (s : State) (k : Docket), s.dev.runsHere k [(8, 8)] ∧ u8 k.bytes 8 ≤ 3 ∧ (s.dev.portI (16 + u8 k.bytes
      8)).locked = true) ∧
    (∃ (s : State) (tx cyc : Nat), s.dev.audio.domains.length = 2 ∧ s.dev.parN 0x11 28 1 = 0) ∧
    (∃ (s : State) (tx cyc : Nat) (t0 : Int), s.dev.audio.domains.length = 2 ∧ s.dev.parN 0x11 28 1 = 1 ∧
      (s.dev.domI 0).startT = some t0) :=
  ⟨⟨State.reset, 27, 0, by decide⟩,
   ⟨on (port 27 fun x => { x with enabled := true, startReq := true }), 27, 0, by decide⟩,
   ⟨State.reset, 27, [], 0, by decide⟩,
   ⟨State.reset, 24, [], 0, by decide⟩,
   ⟨on (port 24 fun x => { x with running := true }), 24, [], 0, by decide⟩,
   ⟨on (port 27 fun x => { x with running := true }), 27, 0, by decide⟩,
   ⟨State.reset, 27, 15, by decide⟩,
   ⟨on (port 27 fun x => { x with pendGain := [(15, 9, true)], gainNow := List.replicate 16 (0, false) }), 27, 15,
    9, true, by decide⟩,
   ⟨on (port 19 fun x => { x with offRun := 8 }), .aes3 3, 0, by decide⟩,
   ⟨on (port 19 fun x => { x with offRun := 9 }), .aes3 3, 0, by decide⟩,
   ⟨on (port 19 fun x => { x with offRun := 2 }), .aes3 3, 0, 3, by decide⟩,
   ⟨State.reset, .rx, 0, by decide, by decide, by decide, (by intro n h; cases h)⟩,
   ⟨on (fun (d : Dev) => d.onDomI 1 fun m => { m with offRun := 1 }), .rx, 0, by decide⟩,
   ⟨State.reset, .tx, 0, 1, by decide⟩,
   ⟨State.reset, 3, 48000, List.replicate 24 0, List.replicate 24 2, by decide⟩,
   ⟨on id, dk 0 0x70 [(8, 1, 4)], by unfold Dev.runsHere; decide⟩,
   ⟨on id, dk 0 0x70 [(8, 1, 3)], by unfold Dev.runsHere; decide⟩,
   ⟨on (port 19 fun x => { x with locked := true }), dk 0 0x70 [(8, 1, 3)], by unfold Dev.runsHere; decide⟩,
   ⟨State.reset, 0, 0, by decide⟩,
   ⟨on (parSet 0x111C0001 [1] ∘ (fun (d : Dev) => d.onDomI 0 fun m => { m with startT := some 0 })), 0, 0, 0,
    by decide⟩⟩


end Sys2Proof.Tests
end

section
/-!
SUPPORT. The dockets that travel on the Choly chain: a docket's command as the sorting office's common course, the
refusal of group 0x0_ under FORWARD, and the device of a forwarded docket, its receipt, its timeout and an echo
(14 R352, R363; 21 R508 to R513).
-/
namespace Sys2Proof.Machine

/-! ### The common course of a docket command -/

/-- The pigeonhole dockets take the common course while a host pigeonhole is free (16 R393). -/
theorem Dev.moveDocket_runs (d : Dev) (k : Docket) (shared : Bool) (h : d.store.holes.length < 384) :
    ∃ work, d.moveDocket k shared = d.runDocket k [(8, 19), (20, 20), (24, 31)] work :=
  ⟨_, if_neg (Nat.not_le.mpr h)⟩

theorem Dev.deallocDocket_runs (d : Dev) (k : Docket) (h : d.store.holes.length < 384) :
    ∃ work, d.deallocDocket k = d.runDocket k [(16, 19), (24, 31)] work :=
  ⟨_, if_neg (Nat.not_le.mpr h)⟩

theorem Dev.onAdmin_runs (d : Dev) (k : Docket) (used : List (Nat × Nat)) (work : Dev → Dev) :
    ∃ work', d.onAdmin k used work = d.runDocket k used work' := ⟨_, rfl⟩

theorem Dev.gated_runs (d : Dev) (k : Docket) (used : List (Nat × Nat)) (work : Dev → Dev) :
    ∃ work', d.gated k used work = d.runDocket k used work' := ⟨_, rfl⟩

/-- A command that only runs the common course of a docket leaves the ledger. -/
theorem next_of_runDocket {s : State} {k : Docket} {used : List (Nat × Nat)} {d : Dev}
    (h : ∃ work, d = s.dev.runDocket k used work) :
    ∃ work ledger, (.next { s with dev := d } : Host.Outcome State Fault Refusal) =
        .next { s with dev := s.dev.runDocket k used work, ledger := ledger } ∧
      (s.dev.worksNow k used = false → ledger = s.ledger) := by
  obtain ⟨work, rfl⟩ := h
  exact ⟨work, s.ledger, rfl, fun _ => rfl⟩

/-- The command of one docket is the common course of that docket with some work; beside the device it changes the
fault ledger at most, and that only where the docket works here. -/
theorem exec_docketRow {c : Instr} {k : Docket} {used : List (Nat × Nat)} {s : State}
    (h : docketRow c = some (k, used)) (hh : s.dev.store.holes.length < 384) :
    ∃ work ledger, exec c s = .next { s with dev := s.dev.runDocket k used work, ledger := ledger } ∧
      (s.dev.worksNow k used = false → ledger = s.ledger) := by
  cases c <;> cases h
  case read.refl => exact next_of_runDocket (s.dev.moveDocket_runs k true hh)
  case write.refl | registeredWrite.refl => exact next_of_runDocket (s.dev.moveDocket_runs k false hh)
  case deallocate.refl => exact next_of_runDocket (s.dev.deallocDocket_runs k hh)
  case clearFaultLedger.refl => exact ⟨_, _, rfl, fun hw => if_neg (by rw [hw]; exact Bool.false_ne_true)⟩
  case createCq.refl | deleteCq.refl | createSq.refl | deleteSq.refl | setModeration.refl | mapAperture.refl |
      unmapAperture.refl =>
    exact next_of_runDocket (s.dev.onAdmin_runs k _ _)
  case firmwareActivation.refl | storeSanitize.refl | storeKeyInstallation.refl | chainAddressLock.refl |
      calibrationDataReset.refl =>
    exact next_of_runDocket (s.dev.gated_runs k _ _)
  all_goals exact next_of_runDocket ⟨_, rfl⟩

/-- A docket that begins and is to leave this device does what forwarding it does and nothing of its row's work. -/
theorem exec_docketRow_forwards {c : Instr} {k : Docket} {used : List (Nat × Nat)} {s : State}
    (h : docketRow c = some (k, used)) (hh : s.dev.store.holes.length < 384) (hb : s.dev.canBegin k = true)
    (hf : s.dev.forwards k = true) : exec c s = .next (s.after k fun d => d.forwardDocket k) := by
  obtain ⟨work, ledger, he, hl⟩ := exec_docketRow h hh
  rw [he, hl (by simp [Dev.worksNow, hf])]
  simp [State.after, Dev.runDocket, hb, Dev.begin_forwards, hf]

/-- The command of a docket that runs here does that docket's work. -/
theorem State.after_of_runsHere {s : State} {k : Docket} {used : List (Nat × Nat)} (h : s.dev.runsHere k used)
    (work : Dev → Dev) : ({ s with dev := s.dev.runDocket k used work } : State) = s.after k work := by
  rw [Dev.runDocket_runs _ _ _ _ h]; rfl

/-! ### FORWARD on group 0x0_ (14 R352) -/

theorem Dev.forwards_of_group0 (d : Dev) {k : Docket} (h : dkOp k < 0x10) : d.forwards k = dkForward k := by
  simp [Dev.forwards, h]

theorem Dev.forwardDocket_of_group0 (d : Dev) {k : Docket} (h : dkOp k < 0x10) :
    d.forwardDocket k = d.finish k 0x8005 := if_pos h

/-- Group 0x0_ acts on the local host attachment: FORWARD is refused whatever the address. -/
theorem group0_forward_refused {c : Instr} {k : Docket} {used : List (Nat × Nat)} {s : State}
    (h : docketRow c = some (k, used)) (hop : dkOp k < 0x10) (hb : s.dev.canBegin k = true)
    (hh : s.dev.store.holes.length < 384) (hf : dkForward k = true) :
    exec c s = .next (s.after k fun d => d.finish k 0x8005) := by
  rw [exec_docketRow_forwards h hh hb (by rw [Dev.forwards_of_group0 _ hop, hf])]
  simp only [Dev.forwardDocket_of_group0 _ hop]

/-! ### Forwarded dockets at their destination (21 R508) -/

theorem padTo_of_length {n : Nat} {b : List Byte} (h : b.length = n) : padTo n b = b := by
  rw [padTo, h, Nat.sub_self, List.replicate_zero, List.append_nil, ← h, List.take_length]

/-- The chain queue keeps a waiting docket of a known opcode. -/
theorem refuseChain_known (fuel : Nat) (d : Dev) (x : ChainDocket) (hq : d.chain.queue = [x]) (hx : x.begun = false)
    (hk : knownOpcode (u8 x.bytes 0) = true) : refuseChain fuel d = d := by
  cases fuel with
  | zero => rfl
  | succ fuel => simp [refuseChain, hq, takeFirst, hx, dkOp, hk]

/-- A docket that has run once from its source does not run again. -/
theorem Dev.forwardedIn_again (d : Dev) (src seq : Nat) (b : List Byte) (h : (src, seq) ∈ d.chain.ran) :
    d.forwardedIn src seq b = d := by
  simp [Dev.forwardedIn, h]

theorem Dev.forwardedIn_joins (d : Dev) (src seq : Nat) (b : List Byte) (ho : d.mayOriginate = true)
    (hb : b.length = 64) (hk : knownOpcode (u8 b 0) = true) (hr : (src, seq) ∉ d.chain.ran)
    (hq : d.chain.queue = []) :
    ∃ ran, (src, seq) ∈ ran ∧
      d.forwardedIn src seq b = d.onChain fun c => { c with ran := ran, queue := [⟨src, seq, b, false⟩] } := by
  refine ⟨(d.chain.ran.filter fun r => r.1 != src || decide ((seq + 65536 - r.2 % 65536) % 65536 < 32768)) ++
    [(src, seq)], by simp, ?_⟩
  simp only [Dev.forwardedIn, ho, hr, List.contains_eq_mem, padTo_of_length hb]
  rw [refuseChain_known 64 _ ⟨src, seq, b, false⟩ (by simp [hq]) rfl hk]
  simp [Dev.onChain, hq]

/-! ### Receipts of forwarded dockets (21 R509) -/

theorem Dev.receiptIn_answers (d : Dev) (k : Docket) (seq : Nat) (r : List Byte) (hf : d.chain.fwd = [⟨seq, k⟩])
    (hop : dkOp k ≠ 0x24) (hr : r.length = 32) :
    d.receiptIn (u8 k.bytes 4) seq r = (d.onChain fun c => { c with fwd := [] }).answer
      ⟨k, u16 r 0, r.drop 8, true, bit (u8 r 7) 4, 1, true, true⟩ := by
  have hop' : (dkOp k == 0x24) = false := beq_eq_false_iff_ne.mpr hop
  simp [Dev.receiptIn, hf, hop', padTo_of_length hr, Dev.onChain]

theorem Dev.forwardTimeout_answers (d : Dev) (k : Docket) (seq : Nat) (hf : d.chain.fwd = [⟨seq, k⟩]) :
    d.forwardTimeout seq = (d.onChain fun c => { c with fwd := [] }).answer
      ⟨k, 0x0603, [4], true, false, 4, true, false⟩ := by
  simp [Dev.forwardTimeout, hf, Dev.onChain]

/-- A receipt for no outstanding docket is counted as late, and nothing else. -/
theorem Dev.receiptIn_late (d : Dev) (src seq : Nat) (r : List Byte) (h : ∀ x ∈ d.chain.fwd, x.seq ≠ seq) :
    d.receiptIn src seq r = d.onChain fun c => { c with lateRcpt := bump c.lateRcpt } := by
  have hn : (d.chain.fwd.find? fun x => x.seq == seq && u8 x.dk.bytes 4 == src) = none :=
    List.find?_eq_none.mpr fun x hx => by simp [h x hx]
  simp [Dev.receiptIn, hn]

theorem Dev.forwardTimeout_none (d : Dev) (seq : Nat) (h : ∀ x ∈ d.chain.fwd, x.seq ≠ seq) :
    d.forwardTimeout seq = d := by
  have hn : (d.chain.fwd.find? fun x => x.seq == seq) = none :=
    List.find?_eq_none.mpr fun x hx => by simp [h x hx]
  simp [Dev.forwardTimeout, hn]

/-! ### Reports and echoes (21 R513; 14 R363) -/

theorem Dev.remoteReport_held (d : Dev) (r : RemoteReport) (h : d.mayOriginate = true) :
    d.remoteReport r = d.onChain fun c => { c with remote := c.remote ++ [r] } := if_pos h

@[simp] theorem Dev.putFrame_tick (d : Dev) (port cls : Nat) (bcast resent : Bool) (src dst hops seq : Nat)
    (payload : List Byte) : (d.putFrame port cls bcast resent src dst hops seq payload).tick = d.tick := by
  unfold Dev.putFrame
  split <;> rfl

/-- Sending a frame takes no time. -/
@[simp] theorem Dev.sendTo_tick (d : Dev) (cls dst : Nat) (payload : List Byte) :
    (d.sendTo cls dst payload).tick = d.tick := by
  simp only [Dev.sendTo]
  split
  · exact Dev.putFrame_tick ..
  · rfl

theorem Dev.sendTo_upNs (d : Dev) (cls dst cyc : Nat) (payload : List Byte) :
    (d.sendTo cls dst payload).upNs cyc = d.upNs cyc := by
  simp only [Dev.upNs, Dev.sendTo_tick]

theorem exec_chainEcho {s : State} {k : Docket} (h : s.dev.runsHere k [(8, 8)]) :
    exec (.chainEcho k) s = .next (s.after k fun d =>
      (d.sendTo 7 (u8 k.bytes 8) (leBytes 2 (d.chain.seqs.getD 7 0) ++ [0])).onChain fun c =>
        { c with echoes := c.echoes ++ [(d.chain.seqs.getD 7 0, k, d.upNs 0)] }) := by
  refine congrArg Host.Outcome.next ((State.after_of_runsHere h _).trans ?_)
  simp only [Dev.sendTo_upNs]

/-- The reply to the one echo that waits ends its docket, with the round trip where that is within 1 ms. -/
theorem Dev.echoIn_reply (d : Dev) (k : Docket) (seq sent elapsed : Nat) (h : d.chain.echoes = [(seq, k, sent)]) :
    d.echoIn (u8 k.bytes 8) seq true elapsed =
      (let d := d.onChain fun c => { c with echoes := [] }
       if elapsed ≤ 1000000 then d.finish k 0 (leBytes 4 elapsed) else d.finish k 0x8802) := by
  simp [Dev.echoIn, h, Dev.onChain]

/-- CHAIN_MAP with an aligned address and room for the map writes it (21 R515). -/
theorem exec_chainMap {s : State} {k : Docket} (h : s.dev.runsHere k [(8, 19)]) (ha : u64 k.bytes 8 % 4 = 0)
    (hl : 4096 ≤ u32 k.bytes 16) :
    exec (.chainMap k) s = .next (s.after k fun d =>
      (d.hostWrite (u64 k.bytes 8) d.chainMapBytes).finish k 0 (leBytes 4 4096)) := by
  refine congrArg Host.Outcome.next ((State.after_of_runsHere h _).trans ?_)
  simp only [ha, Nat.not_lt.mpr hl, ne_eq, not_true_eq_false, if_false]

/-! ### The obligation -/

/-- Settles O48: group 0x0_ by the common course of a docket command (R352), the chain's own commands by what each
does to the device (R363, R508 to R513; the bytes of an echo are the model's, log 40). -/
theorem forwardedDockets : Obligations.ForwardedDockets := by
  unfold Obligations.ForwardedDockets
  refine ⟨fun c k used s h hop hb hh => ⟨group0_forward_refused h hop hb hh, fun hf => ?_⟩,
    ?_, ?_, ?_, ?_, ?_, ?_, ?_, ?_, ?_, ?_⟩
  · rw [Dev.forwards_of_group0 _ hop, hf]
  · intro s src seq b ho hb hk hr hq
    obtain ⟨ran, hm, he⟩ := s.dev.forwardedIn_joins src seq b ho hb hk hr hq
    exact ⟨ran, hm, congrArg (Host.Outcome.next <| s.withDev ·) he⟩
  · intro s src seq b h
    exact congrArg (Host.Outcome.next <| s.withDev ·) (s.dev.forwardedIn_again src seq b h)
  · intro s k seq r hf hop hr
    exact ⟨congrArg (Host.Outcome.next <| s.withDev ·) (s.dev.receiptIn_answers k seq r hf hop hr),
      congrArg (Host.Outcome.next <| s.withDev ·) (s.dev.forwardTimeout_answers k seq hf)⟩
  · intro s src seq r h
    exact ⟨congrArg (Host.Outcome.next <| s.withDev ·) (s.dev.receiptIn_late src seq r h),
      congrArg (Host.Outcome.next <| s.withDev ·) (s.dev.forwardTimeout_none seq h)⟩
  · intro s src code cyc b
    rfl
  · intro s src cls ns ep endp cyc b ho
    exact congrArg (Host.Outcome.next <| s.withDev ·) (s.dev.remoteReport_held _ ho)
  · intro s k h
    exact exec_chainEcho h
  · intro s k seq sent elapsed h
    exact congrArg (Host.Outcome.next <| s.withDev ·) (s.dev.echoIn_reply k seq sent elapsed h)
  · intro s src seq elapsed
    rfl
  · intro s k h ha hl
    exact exec_chainMap h ha hl

end Sys2Proof.Machine
end

section
/-!
SUPPORT. The presence-gated dockets inside the open window, and store sanitize (13 R340; 15 R377).
-/
namespace Sys2Proof.Machine

/-- Beginning a docket leaves the presence window. -/
@[simp] theorem Dev.begin_presOpen (d : Dev) (k : Docket) : (d.begin k).host.presOpen = d.host.presOpen := by
  obtain ⟨q, c, h⟩ := d.begin_eq k
  rw [h]

/-- Beginning a docket leaves the clip store. -/
@[simp] theorem Dev.begin_store (d : Dev) (k : Docket) : (d.begin k).store = d.store := by
  obtain ⟨q, c, h⟩ := d.begin_eq k
  rw [h]

/-- Only what a docket does to the device that has begun it counts. -/
theorem State.after_congr {s : State} {k : Docket} {work work' : Dev → Dev}
    (h : work (s.dev.begin k) = work' (s.dev.begin k)) : s.after k work = s.after k work' := by
  simp only [State.after, h]

/-- A gated docket that runs here inside the presence window does its work (13 R340). -/
theorem State.after_of_gated {s : State} {k : Docket} {used : List (Nat × Nat)} (h : s.dev.runsHere k used)
    (hp : s.dev.host.presOpen = true) (work : Dev → Dev) :
    ({ s with dev := s.dev.gated k used work } : State) = s.after k work :=
  (State.after_of_runsHere h _).trans <| State.after_congr <| if_pos <| by rw [Dev.begin_presOpen, hp]

/-! ### The obligation -/

/-- Settles O37: beginning the docket leaves the store, so the sanitize of an unlocked store in which no slot records
passes its two refusals and does not unlock anything (R377; the presence window R340, the receipt at rank 8 log 19,
the free data key logs 3 and 74). -/
theorem storeSanitizeErases : Obligations.StoreSanitizeErases := by
  unfold Obligations.StoreSanitizeErases
  intro s k h hp hmode hrec hlock
  have hmode' : ¬ 1 < u8 k.bytes 8 := Nat.not_lt.mpr hmode
  have hrec' : ¬ (s.dev.begin k).store.slots.any (·.running) = true := by
    rw [Dev.begin_store]
    simpa using hrec
  have hlock' : ¬ (s.dev.begin k).store.locked = true := by
    rw [Dev.begin_store, hlock]
    exact Bool.false_ne_true
  refine congrArg Host.Outcome.next ((State.after_of_gated h hp _).trans (State.after_congr ?_))
  simp only [if_neg hmode', if_neg hrec', if_neg hlock']

end Sys2Proof.Machine
end

section
/-!
SUPPORT. The pigeonholes that store dockets take as they begin (16 R393, R394).
-/
namespace Sys2Proof.Machine

/-! ### Operands in range -/

/-- A read, write or registered write whose operands pass the checks of its row takes one pigeonhole over its blocks. -/
theorem State.after_moveDocket {s : State} {k : Docket} (shared : Bool) (hh : s.dev.store.holes.length < 384)
    (hr : s.dev.runsHere k [(8, 19), (20, 20), (24, 31)]) (hf : u8 k.bytes 20 ≤ 1)
    (ha : u64 k.bytes 8 % (if u8 k.bytes 20 = 1 then 8 else 4) = 0) (hlo : 4096 ≤ u32 k.bytes 16)
    (hhi : u32 k.bytes 16 ≤ 16777216) (hm : u32 k.bytes 16 % 4096 = 0) :
    ({ s with dev := s.dev.moveDocket k shared } : State) =
      s.after k fun d => d.takeHole k (u64 k.bytes 24) (u32 k.bytes 16 / 4096) shared := by
  have hlen : ¬ (u32 k.bytes 16 < 4096 ∨ 16777216 < u32 k.bytes 16 ∨ u32 k.bytes 16 % 4096 ≠ 0) := by omega
  rw [Dev.moveDocket, if_neg (Nat.not_le.mpr hh), State.after_of_runsHere hr]
  refine State.after_congr ?_
  rw [if_neg (Nat.not_lt.mpr hf), if_neg (not_not_intro ha), if_neg hlen]

/-- A deallocate of 1 to 4,096 blocks takes one exclusive pigeonhole over them. -/
theorem State.after_deallocDocket {s : State} {k : Docket} (hh : s.dev.store.holes.length < 384)
    (hr : s.dev.runsHere k [(16, 19), (24, 31)]) (hlo : 0 < u32 k.bytes 16) (hhi : u32 k.bytes 16 ≤ 4096) :
    ({ s with dev := s.dev.deallocDocket k } : State) =
      s.after k fun d => d.takeHole k (u64 k.bytes 24) (u32 k.bytes 16) false := by
  have hlen : ¬ (u32 k.bytes 16 = 0 ∨ 4096 < u32 k.bytes 16) := by omega
  rw [Dev.deallocDocket, if_neg (Nat.not_le.mpr hh), State.after_of_runsHere hr]
  exact State.after_congr (if_neg hlen)

/-! ### The obligation -/

/-- Settles O29: past the checks of its operands each of the four dockets is the taking of one pigeonhole, and the row
says whether it is shared (R394). -/
theorem pigeonholesSharedAndExclusive : Obligations.PigeonholesSharedAndExclusive := by
  unfold Obligations.PigeonholesSharedAndExclusive
  refine ⟨fun s k hh hr hf ha hlo hhi hm => ?_, fun s k hh hr hlo hhi => ?_⟩
  · have taken (shared : Bool) := State.after_moveDocket shared hh hr hf ha hlo hhi hm
    exact ⟨congrArg Host.Outcome.next (taken true), congrArg Host.Outcome.next (taken false),
      congrArg Host.Outcome.next (taken false)⟩
  · exact congrArg Host.Outcome.next (State.after_deallocDocket hh hr hlo hhi)

end Sys2Proof.Machine
end

section
/-!
SUPPORT. Device time: what a docket that begins leaves of it, what a change of servo state, a rate correction and a
step move and leave, and the entry into holdover (20 R477, R478, R480, R482, R488; 14 R363).
-/
namespace Sys2Proof.Machine

/-! ### Beginning a docket leaves device time -/

@[simp] theorem Dev.begin_time (d : Dev) (k : Docket) : (d.begin k).time = d.time := by
  obtain ⟨q, c, h⟩ := d.begin_eq k
  rw [h]

@[simp] theorem Dev.begin_tick (d : Dev) (k : Docket) : (d.begin k).tick = d.tick := by
  obtain ⟨q, c, h⟩ := d.begin_eq k
  rw [h]

@[simp] theorem Dev.begin_timeAt (d : Dev) (k : Docket) (cyc : Nat) : (d.begin k).timeAt cyc = d.timeAt cyc := by
  simp only [Dev.timeAt, Dev.begin_time]

@[simp] theorem Dev.begin_timeSource (d : Dev) (k : Docket) : (d.begin k).timeSource = d.timeSource := by
  obtain ⟨q, c, h⟩ := d.begin_eq k
  rw [h]
  rfl

/-! ### The servo state and the rate correction (R477, R488) -/

/-- A change of servo state touches the state, its runs of samples and the events raised. -/
theorem Dev.setServo_eq (d : Dev) (v : Servo) : ∃ l o e,
    d.setServo v = { d with time := { d.time with servo := v, lockRun := l, outRun := o }, evt := e } := by
  unfold Dev.setServo
  split
  case isTrue h => exact ⟨d.time.lockRun, d.time.outRun, d.evt, by rw [← h]⟩
  case isFalse => exact ⟨0, 0, _, rfl⟩

@[simp] theorem Dev.setServo_servo (d : Dev) (v : Servo) : (d.setServo v).time.servo = v := by
  obtain ⟨l, o, e, h⟩ := d.setServo_eq v
  rw [h]

@[simp] theorem Dev.setServo_dev (d : Dev) (v : Servo) : (d.setServo v).time.dev = d.time.dev := by
  obtain ⟨l, o, e, h⟩ := d.setServo_eq v
  rw [h]

@[simp] theorem Dev.setServo_epoch (d : Dev) (v : Servo) : (d.setServo v).time.epoch = d.time.epoch := by
  obtain ⟨l, o, e, h⟩ := d.setServo_eq v
  rw [h]

@[simp] theorem Dev.setServo_tick (d : Dev) (v : Servo) : (d.setServo v).tick = d.tick := by
  obtain ⟨l, o, e, h⟩ := d.setServo_eq v
  rw [h]

@[simp] theorem Dev.setServo_faults (d : Dev) (v : Servo) : (d.setServo v).faults = d.faults := by
  obtain ⟨l, o, e, h⟩ := d.setServo_eq v
  rw [h]

/-- A rate correction within the limits is taken as it is. -/
theorem Dev.setRate_within (d : Dev) {r : Int} (h : r.natAbs ≤ 500000000 * 65536) :
    d.setRate r = d.onTime fun t => { t with rate := r, newAddend := some (BitVec.ofNat 40 (addendOf r)) } := by
  have hc : clampI (-rateMax) rateMax r = r := by
    unfold clampI rateMax
    rw [if_neg (by omega), if_neg (by omega)]
  simp only [Dev.setRate, hc]

/-! ### A step (R478, R480) -/

/-- A step that stays at or above 0 s and below the wrap moves device time by whole nanoseconds, counts the epoch up
and enters the log; of the rest of device time only the servo state and its runs can change. -/
theorem Dev.applyStep_time (d : Dev) (n : Int) (c : Nat) {now : Nat} (hn : (now : Int) = d.time.dev + n * 2 ^ 32)
    (hw : now < timeWrap) : ∃ v l o, (d.applyStep n c).time =
      { d.time with
        dev := now, epoch := d.time.epoch + 1, stepped := true, servo := v, lockRun := l, outRun := o,
        steps := lastN 16 (d.time.steps ++
          [⟨d.tick.count.toNat, n, now / 2 ^ 32 / 1000000000, (d.time.epoch + 1).toNat, c⟩]) } := by
  unfold Dev.applyStep
  simp only [← hn, if_neg (Int.not_lt.mpr (Int.natCast_nonneg now)), Int.toNat_natCast, Nat.mod_eq_of_lt hw]
  split
  case isTrue => exact ⟨_, _, _, rfl⟩
  case isFalse =>
    obtain ⟨l, o, e, h⟩ := Dev.setServo_eq _ .acquiring
    exact ⟨.acquiring, l, o, by rw [h]; rfl⟩

/-- No step, applied or refused, moves the tick count. -/
@[simp] theorem Dev.applyStep_count (d : Dev) (n : Int) (c : Nat) :
    (d.applyStep n c).tick.count = d.tick.count := by
  simp only [Dev.applyStep]
  split
  case isTrue => rfl
  case isFalse =>
    split
    case isTrue => rfl
    case isFalse => rw [Dev.setServo_tick]; rfl

/-! ### TIME_NS (R494) -/

/-- The wrap of device time is a whole number of ns, so the latched fraction does not see it. -/
theorem ofNat_mod_timeWrap (t : Nat) : BitVec.ofNat 32 (t % timeWrap) = BitVec.ofNat 32 t := by
  refine BitVec.eq_of_toNat_eq ?_
  rw [BitVec.toNat_ofNat, BitVec.toNat_ofNat]
  exact Nat.mod_mod_of_dvd t (Nat.dvd_mul_left _ _)

/-! ### The dockets of group 0x8_ on time (14 R363) -/

theorem exec_readTime {s : State} {k : Docket} (cyc : Nat) (h : s.dev.runsHere k []) :
    exec (.readTime k cyc) s = .next (s.after k fun d =>
      let t := d.timeAt cyc % timeWrap
      d.finish k 0 (leBytes 6 (secOf (t / 2 ^ 32)) ++ leBytes 2 d.time.epoch.toNat ++ leBytes 4 (nsOf (t / 2 ^ 32)) ++
        leBytes 4 (t % 2 ^ 32) ++ leBytes 8 d.tick.count.toNat)) :=
  congrArg Host.Outcome.next (State.after_of_runsHere h _)

/-- STEP_TIME that its source accepts, with no step waiting and not below 0 s, asks for the step (R478, R482). -/
theorem exec_stepTime {s : State} {k : Docket} (cyc : Nat) (h : s.dev.runsHere k [(8, 15)])
    (hsrc : s.dev.timeSource = 2 ∨ (s.dev.timeSource = 1 ∧ toSigned 64 (u64 k.bytes 8) % 1000000000 = 0))
    (hq : s.dev.tick.steps = []) (h0 : 0 ≤ (s.dev.timeAt cyc : Int) + toSigned 64 (u64 k.bytes 8) * 2 ^ 32) :
    exec (.stepTime k cyc) s = .next (s.after k fun d =>
      (d.requestStep (toSigned 64 (u64 k.bytes 8)) (if d.timeSource = 1 then 2 else 1)).finish k 0) := by
  have hok : (s.dev.timeSource == 2 ||
      (s.dev.timeSource == 1 && toSigned 64 (u64 k.bytes 8) % 1000000000 == 0)) = true := by
    simpa using hsrc
  refine congrArg Host.Outcome.next ((State.after_of_runsHere h _).trans (State.after_congr ?_))
  simp only [Dev.begin_timeSource, Dev.begin_timeAt, Dev.begin_tick, hok, hq, List.map_nil, List.foldl_nil,
    Int.zero_add, if_neg (Int.not_lt.mpr h0), Bool.not_true, Bool.false_eq_true, if_false, Dev.requestStep]

/-- ADJUST_RATE within 500 ppm under the host source sets the correction and the addend to come (R477, R482). -/
theorem exec_adjustRate {s : State} {k : Docket} (h : s.dev.runsHere k [(8, 11)])
    (hr : (toSigned 32 (u32 k.bytes 8)).natAbs ≤ 500000000) (hsrc : s.dev.timeSource = 2) :
    exec (.adjustRate k) s = .next (s.after k fun d => (d.onTime fun t =>
      { t with rate := toSigned 32 (u32 k.bytes 8) * 65536,
               newAddend := some (BitVec.ofNat 40 (addendOf (toSigned 32 (u32 k.bytes 8) * 65536))) }).finish k 0) := by
  have hlim : (toSigned 32 (u32 k.bytes 8) * 65536).natAbs ≤ 500000000 * 65536 := by omega
  refine congrArg Host.Outcome.next ((State.after_of_runsHere h _).trans (State.after_congr ?_))
  simp only [if_neg (Nat.not_lt.mpr hr), Dev.begin_timeSource, hsrc, ne_eq, not_true_eq_false, if_false,
    Dev.setRate_within _ hlim]

theorem exec_readLaunchRecord {s : State} {k : Docket} (h : s.dev.runsHere k [(8, 8)]) (hn : u8 k.bytes 8 ≤ 63) :
    exec (.readLaunchRecord k) s = .next (s.after k fun d =>
      let x := d.slotI (u8 k.bytes 8)
      d.finish k 0 (leBytes 6 (secOf x.recTarget) ++ [0, 0] ++ leBytes 4 (nsOf x.recTarget) ++
        leBytes 4 (ofSigned 32 x.recDiff) ++ leBytes 1 (launchCode x.state))) :=
  congrArg Host.Outcome.next ((State.after_of_runsHere h _).trans (State.after_congr (if_neg (Nat.not_lt.mpr hn))))

/-! ### The step log and holdover (R480, R488) -/

theorem Dev.readPar_stepLog (d : Dev) :
    d.readPar (pkey 0x12 0 0x20) = padTo 384 (d.time.steps.flatMap (·.bytes)) := rfl

/-- A servo that follows PPS or the chain and is locked or acquiring goes into holdover: the flag, the report, and
device time as it was. -/
theorem Dev.enterHoldover_follows (d : Dev) (ns : Nat) (hsrc : d.timeSource = 1 ∨ d.timeSource = 3)
    (hs : d.time.servo = .locked ∨ d.time.servo = .acquiring) :
    (d.enterHoldover ns).time.servo = .holdover ∧ (d.enterHoldover ns).time.holdoverF = true ∧
      (d.enterHoldover ns).time.dev = d.time.dev ∧
      (d.enterHoldover ns).faults.reports =
        d.faults.reports ++ [⟨0x0089, ns, d.time.epoch.toNat, timeEp, []⟩] := by
  have hgo : ((d.timeSource = 1 || d.timeSource = 3) && d.time.servo != .holdover && d.time.servo != .free) = true := by
    rcases hs with hs | hs <;> simpa [hs] using hsrc
  simp only [Dev.enterHoldover, if_pos hgo]
  split
  case isTrue => simp [Dev.report, Dev.mark]
  case isFalse => simp [Dev.report, Dev.mark, Dev.setRate]

/-! ### The obligation -/

/-- Settles O44: the four dockets by their row's work (R363, R482), TIME_NS by what it latches (R494), the step by the
device time it leaves (R477, R478), the log by its parameter (R480) and holdover by its entry (R488). -/
theorem deviceTimeCommands : Obligations.DeviceTimeCommands := by
  unfold Obligations.DeviceTimeCommands
  refine ⟨fun s k cyc h => exec_readTime cyc h, fun s cyc => ⟨_, rfl, rfl, ofNat_mod_timeWrap _, rfl⟩,
    fun s k cyc h hsrc hq h0 => exec_stepTime cyc h hsrc hq h0, fun d n c h0 hw => ?_,
    fun d => d.readPar_stepLog, fun s k h hr hsrc => exec_adjustRate h hr hsrc,
    fun s k h hn => exec_readLaunchRecord h hn,
    fun s cyc hsrc hs => ⟨_, rfl, s.dev.enterHoldover_follows _ hsrc hs⟩⟩
  obtain ⟨now, hn⟩ := Int.eq_ofNat_of_zero_le h0
  have hlt : now < timeWrap := by unfold timeWrap; omega
  obtain ⟨v, l, o, ht⟩ := d.applyStep_time n c hn.symm hlt
  dsimp only
  rw [ht, Dev.applyStep_count]
  exact ⟨hn.symm, rfl, rfl, rfl, rfl⟩

end Sys2Proof.Machine
end

section
/-!
SUPPORT. What a command can change beside the device part: the queue of waiting commands never, the tick period only
to a legal one, and the ledger only within its bound (01 R30, R31; 23 R531; 24 R548 to R550).
-/
namespace Sys2Proof.Machine

/-! ### What every command keeps -/

/-- From `s` to `t` the queue stays, a new tick period is legal (01 R30) and the ledger stays within its bound
(23 R531). -/
structure State.Keeps (s t : State) : Prop where
  pending : t.pending = s.pending
  period : t.periodNs = s.periodNs ∨ legalPeriod t.periodNs.toNat = true
  ledger : s.ledger.entries.length ≤ 1024 → t.ledger.entries.length ≤ 1024

/-- A change of the device part and the scan port keeps all three. -/
theorem State.Keeps.dev (s : State) (d : Dev) (j : JtagSt) : s.Keeps { s with dev := d, jtag := j } :=
  ⟨rfl, .inl rfl, id⟩

theorem State.Keeps.andDev {s t : State} (h : s.Keeps t) (d : Dev) : s.Keeps { t with dev := d } :=
  ⟨h.pending, h.period, h.ledger⟩

theorem State.Keeps.trans {s t u : State} (h : s.Keeps t) (h' : t.Keeps u) : s.Keeps u where
  pending := h'.pending.trans h.pending
  period := h'.period.elim (fun e => e ▸ h.period) .inr
  ledger := h'.ledger ∘ h.ledger

/-- What a step keeps of the state keeps its invariant. -/
theorem State.Keeps.inv {s t : State} (h : s.Keeps t) (hs : s.Inv) : t.Inv :=
  ⟨h.ledger hs.1, h.period.elim (fun e => e ▸ hs.2) id⟩

/-! ### The ledger rank (23 R531, R533) -/

/-- A full ledger takes no entry (R531). -/
theorem State.keeps_enter (s : State) (e : LedgerEntry) : s.Keeps (s.enter e) := by
  unfold State.enter
  split
  · exact ⟨rfl, .inl rfl, fun h => by simpa using h⟩
  · dsimp only
    split
    case isTrue hlt => exact ⟨rfl, .inl rfl, fun _ => by rw [List.length_append]; exact hlt⟩
    case isFalse => exact ⟨rfl, .inl rfl, id⟩

theorem State.keeps_enterAll (l : List LedgerEntry) (s : State) : s.Keeps (l.foldl State.enter s) := by
  induction l generalizing s with
  | nil => exact .dev s s.dev s.jtag
  | cons e l ih => exact (s.keeps_enter e).trans (ih _)

theorem State.keeps_ledgerRank (s : State) : s.Keeps s.ledgerRank :=
  ((State.Keeps.dev s _ s.jtag).trans (State.keeps_enterAll _ _)).trans (State.keeps_enterAll _ _)

/-! ### The close of a tick (01 R31, R35) -/

/-- The tick period changes at rank 5 only, and only to a legal one. -/
theorem State.keeps_takePeriod (s : State) : s.Keeps s.takePeriod := by
  unfold State.takePeriod
  dsimp only
  split
  case isFalse => exact .dev s s.dev s.jtag
  case isTrue h =>
    have hp : s.dev.parN 0x01 0 0 ≤ 8000 := by
      simp only [legalPeriod, Bool.and_eq_true, decide_eq_true_eq] at h
      exact h.1.2
    refine ⟨rfl, .inr ?_, id⟩
    dsimp only
    rwa [BitVec.toNat_ofNat, Nat.mod_eq_of_lt (by omega)]

theorem State.keeps_dataRanks (s : State) (downs : List LinkId) : s.Keeps (s.dataRanks downs) := by
  unfold State.dataRanks
  split
  case isTrue => exact .dev s _ s.jtag
  case isFalse =>
    exact (((State.Keeps.dev s _ s.jtag).trans (State.keeps_takePeriod _)).andDev _).andDev _

theorem State.keeps_closeTick (s : State) (overran : Bool) : s.Keeps (s.closeTick overran) := by
  unfold State.closeTick
  split
  case isTrue => exact .dev s s.dev s.jtag
  case isFalse =>
    have htrips : s.Keeps { s.endTick overran with dev := (s.endTick overran).dev.tripRank.timeRank } :=
      .dev s _ s.jtag
    have hledger := htrips.trans (State.keeps_ledgerRank _)
    exact ((hledger.andDev _).trans (State.keeps_dataRanks _ _)).andDev _

/-! ### Resets (24 R548 to R550) -/

theorem legalPeriod_afterReset : legalPeriod (250 : BitVec 13).toNat = true := by decide

theorem State.keeps_powerDown (s : State) : s.Keeps s.powerDown :=
  ⟨rfl, .inr legalPeriod_afterReset, fun _ => Nat.zero_le _⟩

/-- A device reset that takes effect leaves the period after reset; one that is ignored leaves the one before. -/
theorem State.deviceReset_period (s : State) : s.deviceReset.periodNs = s.periodNs ∨ s.deviceReset.periodNs = 250 := by
  unfold State.deviceReset
  dsimp only
  split
  · exact .inl rfl
  · split
    · exact .inl rfl
    · exact .inr rfl

theorem State.keeps_deviceReset (s : State) : s.Keeps s.deviceReset := by
  unfold State.deviceReset
  dsimp only
  split
  · exact .dev s _ s.jtag
  · split
    · exact .dev s s.dev s.jtag
    · exact ⟨rfl, .inr legalPeriod_afterReset, fun _ => Nat.zero_le _⟩

/-- A release of reset writes the scan port and the device part only. -/
theorem State.releaseReset_eq (s : State) (high : Bool) (tj : Int) (b : BoardState) :
    ∃ d j, s.releaseReset high tj b = { s with dev := d, jtag := j } := by
  unfold State.releaseReset
  cases high
  all_goals
    simp only [if_true, Bool.false_eq_true, if_false]
    split
    · exact ⟨_, _, rfl⟩
    · exact ⟨_, _, rfl⟩

/-! ### Register reads and the clear docket -/

/-- A register read writes the device part and at most the ledger's count of lost reports. -/
theorem State.readReg_eq (s : State) (off : Nat) :
    ∃ d lost, s.readReg off = { s with dev := d, ledger := { s.ledger with lost := lost } } := by
  unfold State.readReg
  split
  · exact ⟨_, s.ledger.lost, rfl⟩
  · split
    · exact ⟨_, s.ledger.lost, rfl⟩
    · split
      · exact ⟨_, s.ledger.lost, rfl⟩
      · dsimp only
        split
        · exact ⟨_, 0, rfl⟩
        · exact ⟨_, s.ledger.lost, rfl⟩

theorem State.readReg_period (s : State) (off : Nat) : (s.readReg off).periodNs = s.periodNs := by
  obtain ⟨d, lost, h⟩ := s.readReg_eq off
  rw [h]

theorem State.keeps_readReg (s : State) (off : Nat) : s.Keeps (s.readReg off) := by
  obtain ⟨d, lost, h⟩ := s.readReg_eq off
  rw [h]
  exact ⟨rfl, .inl rfl, id⟩

/-- Clearing the ledger takes entries out of it. -/
theorem exec_clearFaultLedger_keeps (k : Docket) (s : State) :
    ∃ t, exec (.clearFaultLedger k) s = .next t ∧ s.Keeps t ∧ t.periodNs = s.periodNs := by
  refine ⟨_, rfl, ⟨rfl, .inl rfl, fun h => ?_⟩, rfl⟩
  dsimp only
  split
  · simp only [List.length_drop]
    omega
  · exact h

/-! ### Every command -/

/-- The commands that may write the tick period or the fault ledger. -/
def writesFrame : Instr → Bool
  | .tickClose _ | .clearFaultLedger _ | .readClearCounter _ | .tickCountLoRead | .audioIndexLoRead _ | .poresetNLow |
    .powerOnReset _ | .deviceReset | .deviceResetRelease .. => true
  | _ => false

/-- Every other command changes the device part and the scan port at most. -/
theorem exec_of_not_writesFrame {c : Instr} (h : writesFrame c = false) (s : State) :
    ∃ d j, exec c s = .next { s with dev := d, jtag := j } := by
  cases c
  case extest | clamp | highz =>
    cases hr : s.dev.boot.devReset
    all_goals exact ⟨_, _, congrArg Host.Outcome.next (by simp only [State.inResetOnly, hr]; rfl)⟩
  case tickClose | clearFaultLedger | readClearCounter | tickCountLoRead | audioIndexLoRead | poresetNLow |
      powerOnReset | deviceReset | deviceResetRelease =>
    cases h
  all_goals exact ⟨_, _, rfl⟩

/-- Every command answers a next state, which keeps queue, legal period and bounded ledger. -/
theorem exec_keeps (c : Instr) (s : State) : ∃ t, exec c s = .next t ∧ s.Keeps t := by
  cases hc : writesFrame c
  case false =>
    obtain ⟨d, j, h⟩ := exec_of_not_writesFrame hc s
    exact ⟨_, h, .dev s d j⟩
  case true =>
    cases c
    case tickClose o => exact ⟨_, rfl, s.keeps_closeTick o⟩
    case clearFaultLedger k =>
      obtain ⟨t, h, hk, -⟩ := exec_clearFaultLedger_keeps k s
      exact ⟨t, h, hk⟩
    case readClearCounter | tickCountLoRead | audioIndexLoRead => exact ⟨_, rfl, s.keeps_readReg _⟩
    case poresetNLow => exact ⟨_, rfl, s.keeps_powerDown⟩
    case powerOnReset b => exact ⟨_, rfl, s.keeps_powerDown.andDev _⟩
    case deviceReset => exact ⟨_, rfl, s.keeps_deviceReset⟩
    case deviceResetRelease high tj b =>
      obtain ⟨d, j, h⟩ := s.releaseReset_eq high tj b
      exact ⟨_, congrArg Host.Outcome.next h, .dev s d j⟩
    all_goals cases hc

/-- The tick period of a reset is 250 ns (24 R549). -/
theorem exec_period {c : Instr} {s t : State} (h : exec c s = .next t) (hp : t.periodNs ≠ s.periodNs) :
    (∃ o, c = .tickClose o) ∨
      ((c = .poresetNLow ∨ (∃ b, c = .powerOnReset b) ∨ c = .deviceReset) ∧ t.periodNs = 250) := by
  cases hc : writesFrame c
  case false =>
    obtain ⟨d, j, h'⟩ := exec_of_not_writesFrame hc s
    cases h.symm.trans h'
    exact absurd rfl hp
  case true =>
    cases c
    case tickClose o => exact .inl ⟨o, rfl⟩
    case clearFaultLedger k =>
      obtain ⟨t', h', -, hp'⟩ := exec_clearFaultLedger_keeps k s
      cases h.symm.trans h'
      exact absurd hp' hp
    case readClearCounter | tickCountLoRead | audioIndexLoRead =>
      cases h
      exact absurd (s.readReg_period _) hp
    case poresetNLow =>
      cases h
      exact .inr ⟨.inl rfl, rfl⟩
    case powerOnReset b =>
      cases h
      exact .inr ⟨.inr (.inl ⟨b, rfl⟩), rfl⟩
    case deviceReset =>
      cases h
      exact .inr ⟨.inr (.inr rfl), s.deviceReset_period.resolve_left hp⟩
    case deviceResetRelease high tj b =>
      obtain ⟨d, j, h'⟩ := s.releaseReset_eq high tj b
      cases h.symm.trans (congrArg Host.Outcome.next h')
      exact absurd rfl hp
    all_goals cases hc

/-! ### The obligations -/

/-- Settles O3: a step runs one command, and every command keeps the bound and the legality. -/
theorem stepKeepsInvariant : Obligations.StepKeepsInvariant := by
  unfold Obligations.StepKeepsInvariant
  intro s t hs h
  unfold step at h
  split at h
  case h_1 =>
    cases h
    exact hs
  case h_2 c rest hq =>
    obtain ⟨t', h', hk⟩ := exec_keeps c { s with pending := rest }
    cases h.symm.trans h'
    exact hk.inv hs

/-- Settles O2 (the model's answer in states that the spec never reaches is log 117). -/
theorem everyCommandAnswersNext : Obligations.EveryCommandAnswersNext := by
  unfold Obligations.EveryCommandAnswersNext
  intro c s
  obtain ⟨t, h, hk⟩ := exec_keeps c s
  exact ⟨t, h, hk.pending⟩

/-- Settles O5: past the close, only a reset that takes effect changes the period, and to 250 ns. -/
theorem periodChangesOnlyAtClose : Obligations.PeriodChangesOnlyAtClose := by
  unfold Obligations.PeriodChangesOnlyAtClose
  intro c s t h hp
  rcases exec_period h hp with hclose | ⟨hreset | hreset | hreset, h250⟩
  · exact .inl hclose
  · exact .inr ⟨.inl hreset, h250⟩
  · exact .inr ⟨.inr (.inl hreset), h250⟩
  · exact .inr ⟨.inr (.inr (.inl hreset)), h250⟩

/-- Settles O1: `step` by its two cases (an idle step on an empty queue is log 1). -/
theorem stepRunsFrontCommand : Obligations.StepRunsFrontCommand := by
  unfold Obligations.StepRunsFrontCommand
  refine ⟨fun c rest s h => ?_, fun s h => ?_⟩
  · simp only [step, h]
  · simp only [step, h]

/-- Settles O4. -/
theorem resetMeetsInvariant : Obligations.ResetMeetsInvariant := by
  unfold Obligations.ResetMeetsInvariant
  exact ⟨⟨Nat.zero_le _, by decide⟩, rfl, rfl⟩

end Sys2Proof.Machine
end

section
/-!
SUPPORT. The sorting office: refusals by place and by reserved bytes, the order of a queue, and the receipt of one
docket (13 R324, R328 to R330).
-/
namespace Sys2Proof.Machine

/-! ### Dockets of the administration queue (13 R324) -/

/-- A docket of opcodes 0x01 to 0x07 that runs on another queue than SQ0 is refused. -/
theorem State.after_onAdmin_refused {s : State} {k : Docket} {used : List (Nat × Nat)} (h : s.dev.runsHere k used)
    (hk : k.sq ≠ 0) (work : Dev → Dev) :
    ({ s with dev := s.dev.onAdmin k used work } : State) = s.after k fun d => d.finish k 0x0208 :=
  (State.after_of_runsHere h _).trans (State.after_congr (if_neg hk))

/-- Settles O10 (that 0x0208 comes before the faults of the operands is the model's choice, log 17). -/
theorem adminOnlyOnSq0 : Obligations.AdminOnlyOnSq0 := by
  unfold Obligations.AdminOnlyOnSq0
  intro s k hk
  have refused {used} (h : s.dev.runsHere k used) (work : Dev → Dev) :=
    congrArg (Host.Outcome.next (φ := Fault) (ρ := Refusal)) (State.after_onAdmin_refused h hk work)
  exact ⟨fun h => refused h _, fun h => refused h _, fun h => refused h _, fun h => refused h _, fun h => refused h _,
    fun h => refused h _, fun h => refused h _⟩

/-! ### Reserved bytes (13 R329) -/

/-- Settles O12 (that 0x0202 comes before every other fault is the model's choice, log 17). -/
theorem reservedDocketFieldRefused : Obligations.ReservedDocketFieldRefused := by
  unfold Obligations.ReservedDocketFieldRefused
  intro c k used s hrow hb hf hr hh
  obtain ⟨work, ledger, he, hl⟩ := exec_docketRow hrow hh
  rw [he, hl (by simp [Dev.worksNow, hr]), Dev.runDocket_reserved _ _ _ _ hb hf hr]
  rfl

/-! ### The order of a queue (13 R328) -/

/-- A command that only runs the common course of a docket that waits changes nothing. -/
theorem next_of_waits {s : State} {k : Docket} {used : List (Nat × Nat)} {d : Dev} (hw : s.dev.canBegin k = false)
    (h : ∃ work, d = s.dev.runDocket k used work) :
    (.next { s with dev := d } : Host.Outcome State Fault Refusal) = .next s := by
  obtain ⟨work, rfl⟩ := h
  rw [Dev.runDocket_waits _ _ _ _ hw]

theorem Dev.moveDocket_waits {d : Dev} {k : Docket} (shared : Bool) (hw : d.canBegin k = false) :
    d.moveDocket k shared = d := by
  unfold Dev.moveDocket
  split
  · rfl
  · exact Dev.runDocket_waits _ _ _ _ hw

theorem Dev.deallocDocket_waits {d : Dev} {k : Docket} (hw : d.canBegin k = false) : d.deallocDocket k = d := by
  unfold Dev.deallocDocket
  split
  · rfl
  · exact Dev.runDocket_waits _ _ _ _ hw

/-- The command of a docket that may not begin changes nothing (log 12). -/
theorem exec_docketRow_waits {c : Instr} {k : Docket} {used : List (Nat × Nat)} {s : State}
    (h : docketRow c = some (k, used)) (hw : s.dev.canBegin k = false) : exec c s = .next s := by
  cases c <;> cases h
  case read.refl | write.refl | registeredWrite.refl =>
    exact congrArg (Host.Outcome.next <| s.withDev ·) (Dev.moveDocket_waits _ hw)
  case deallocate.refl => exact congrArg (Host.Outcome.next <| s.withDev ·) (Dev.deallocDocket_waits hw)
  case clearFaultLedger.refl =>
    have hn : ¬ s.dev.worksNow k [(8, 11)] = true := by simp [Dev.worksNow, hw]
    simp only [exec, execClearFaultLedger, Dev.runDocket_waits _ _ _ _ hw, if_neg hn]
  case createCq.refl | deleteCq.refl | createSq.refl | deleteSq.refl | setModeration.refl | mapAperture.refl |
      unmapAperture.refl =>
    exact next_of_waits hw (s.dev.onAdmin_runs k _ _)
  case firmwareActivation.refl | storeSanitize.refl | storeKeyInstallation.refl | chainAddressLock.refl |
      calibrationDataReset.refl =>
    exact next_of_waits hw (s.dev.gated_runs k _ _)
  all_goals exact next_of_waits hw ⟨_, rfl⟩

theorem Dev.canBegin_notReady {d : Dev} (k : Docket) (h : d.host.ready = false) : d.canBegin k = false := by
  simp [Dev.canBegin, h]

/-- What stands before a waiting docket: everything up to the first place that holds its index and waits. -/
theorem before_append_waiting (idx : Nat) (l after : List Fetched) (f : Fetched) (hi : f.idx = idx)
    (hf : f.begun = false) (hl : ∀ e ∈ l, e.idx = idx → e.begun = true) : before idx (l ++ f :: after) = some l := by
  induction l with
  | nil => simp [before, hi, hf]
  | cons e l ih =>
    have he : ¬ (e.idx == idx && !e.begun) = true := by
      simpa using hl e List.mem_cons_self
    rw [List.cons_append, before, if_neg he, ih fun x hx => hl x (List.mem_cons_of_mem _ hx)]
    rfl

/-- A docket waits behind one that has not begun, or under FENCE has not written its first receipt. -/
theorem Dev.canBegin_behind {d : Dev} {k : Docket} {l : List Fetched} (hk : k.sq < 64)
    (hb : before k.idx (d.sqI k.sq).fetched = some l)
    (hl : ∃ e ∈ l, e.begun = false ∨ (dkFence k = true ∧ e.wrote = false)) : d.canBegin k = false := by
  have hmay : mayBegin (dkFence k) l = false := by
    obtain ⟨e, he, hw⟩ := hl
    refine List.all_eq_false.mpr ⟨e, he, ?_⟩
    rcases hw with hw | ⟨hfence, hw⟩
    · simp [hw]
    · simp [hfence, hw]
  simp [Dev.canBegin, hk, hb, hmay]

/-- Settles O13 (a docket that waits is one that its queue holds as fetched, log 12). -/
theorem docketWaitsItsTurn : Obligations.DocketWaitsItsTurn := by
  unfold Obligations.DocketWaitsItsTurn
  refine ⟨fun c k used s => exec_docketRow_waits, fun d k => Dev.canBegin_notReady k, ?_⟩
  intro d k l after f hk hq hi hf hl hw
  exact Dev.canBegin_behind hk (hq ▸ before_append_waiting k.idx l after f hi hf hl) hw

end Sys2Proof.Machine
end

section
/-!
SUPPORT. The numbered queues after a change of one of them, and a receipt put at the tail of a completion queue
(13 R326, R330).
-/
namespace Sys2Proof.Machine

/-! ### Queues by number -/

@[simp] theorem Dev.sqI_onCqI (d : Dev) (n m : Nat) (f : CompQ → CompQ) : (d.onCqI m f).sqI n = d.sqI n := rfl
@[simp] theorem Dev.cqI_onSqI (d : Dev) (n m : Nat) (f : SubQ → SubQ) : (d.onSqI m f).cqI n = d.cqI n := rfl

theorem Dev.sqI_onSqI_same (d : Dev) {n : Nat} (f : SubQ → SubQ) (h : n < d.host.sqs.length) :
    (d.onSqI n f).sqI n = f (d.sqI n) := getD_upd_same _ _ _ _ h

theorem Dev.cqI_onCqI_same (d : Dev) {n : Nat} (f : CompQ → CompQ) (h : n < d.host.cqs.length) :
    (d.onCqI n f).cqI n = f (d.cqI n) := getD_upd_same _ _ _ _ h

@[simp] theorem Dev.onSqI_sqs_length (d : Dev) (n : Nat) (f : SubQ → SubQ) :
    (d.onSqI n f).host.sqs.length = d.host.sqs.length := length_upd _ _ _

@[simp] theorem Dev.onCqI_cqs_length (d : Dev) (n : Nat) (f : CompQ → CompQ) :
    (d.onCqI n f).host.cqs.length = d.host.cqs.length := length_upd _ _ _

@[simp] theorem Dev.onSqI_cqs (d : Dev) (n : Nat) (f : SubQ → SubQ) : (d.onSqI n f).host.cqs = d.host.cqs := rfl
@[simp] theorem Dev.onCqI_sqs (d : Dev) (n : Nat) (f : CompQ → CompQ) : (d.onCqI n f).host.sqs = d.host.sqs := rfl
@[simp] theorem Dev.onSqI_dlog (d : Dev) (n : Nat) (f : SubQ → SubQ) : (d.onSqI n f).host.dlog = d.host.dlog := rfl
@[simp] theorem Dev.onCqI_dlog (d : Dev) (n : Nat) (f : CompQ → CompQ) : (d.onCqI n f).host.dlog = d.host.dlog := rfl
@[simp] theorem Dev.onSqI_power (d : Dev) (n : Nat) (f : SubQ → SubQ) : (d.onSqI n f).host.power = d.host.power := rfl
@[simp] theorem Dev.onCqI_power (d : Dev) (n : Nat) (f : CompQ → CompQ) : (d.onCqI n f).host.power = d.host.power := rfl

/-! ### A receipt at the tail (13 R326, R330) -/

/-- The tail of a completion queue after one more receipt. -/
def CompQ.nextTail (q : CompQ) : Nat := if q.entries ≤ q.tail + 1 then 0 else q.tail + 1

/-- A completion queue after one more receipt at its tail. -/
def CompQ.takes (q : CompQ) (r : Receipt) : CompQ :=
  { q with tail := q.nextTail, phase := if q.nextTail = 0 then !q.phase else q.phase, pend := q.pend ++ [r] }

theorem CompQ.nextTail_eq_zero (q : CompQ) : q.nextTail = 0 ↔ q.entries ≤ q.tail + 1 := by
  unfold CompQ.nextTail
  split <;> simp_all

/-- In D0 a receipt is written at the tail of its queue with the queue's phase bit. -/
theorem Dev.putReceipt_hostMem {d : Dev} (hp : d.host.power = .d0) (cq : Nat) (bytes : List Byte) (irq froze : Bool) :
    (d.putReceipt cq bytes irq froze).hostMem = hostCellWrite d.hostMem ((d.cqI cq).base.toNat + 32 * (d.cqI cq).tail)
      (putBytes bytes 7 [bytes.getD 7 0 ||| (if (d.cqI cq).phase then 1 else 0)]) := by
  simp only [Dev.putReceipt, if_pos hp, Dev.hostWrite, Dev.onCqI, Dev.onHost_hostMem, Dev.onHostMem_hostMem]

theorem Dev.putReceipt_cqI {d : Dev} (hp : d.host.power = .d0) {cq : Nat} (hc : cq < d.host.cqs.length)
    (bytes : List Byte) (irq froze : Bool) :
    (d.putReceipt cq bytes irq froze).cqI cq = (d.cqI cq).takes ⟨bytes, d.tick.tclk, irq, froze⟩ := by
  simp only [Dev.putReceipt, if_pos hp, Dev.hostWrite]
  exact getD_upd_same _ _ _ _ hc

@[simp] theorem Dev.putReceipt_sqI (d : Dev) (cq n : Nat) (bytes : List Byte) (irq froze : Bool) :
    (d.putReceipt cq bytes irq froze).sqI n = d.sqI n := by
  simp only [Dev.putReceipt, Dev.hostWrite]
  split <;> rfl

@[simp] theorem Dev.putReceipt_dlog (d : Dev) (cq : Nat) (bytes : List Byte) (irq froze : Bool) :
    (d.putReceipt cq bytes irq froze).host.dlog = d.host.dlog := by
  simp only [Dev.putReceipt, Dev.hostWrite]
  split <;> rfl

theorem Dev.finishDelete_none {d : Dev} {n : Nat} (h : (d.sqI n).deleting = none) : d.finishDelete n = d := by
  simp [Dev.finishDelete, h]

/-! ### The receipt of the one docket that its queue holds (13 R329, R330) -/

/-- Docket `k` is the one docket of its queue, which is not frozen nor being deleted and writes its receipts to a
completion queue that exists; `f` is its entry, begun. -/
structure Dev.HoldsOnly (d : Dev) (k : Docket) (f : Fetched) : Prop where
  sq : k.sq < d.host.sqs.length
  cq : (d.sqI k.sq).cq < d.host.cqs.length
  submission : k.sq < 64
  cqEnabled : (d.cqI (d.sqI k.sq).cq).enabled = true
  fetched : (d.sqI k.sq).fetched = [f]
  idx : f.idx = k.idx
  begun : f.begun = true
  deleting : (d.sqI k.sq).deleting = none
  frozen : (d.sqI k.sq).frozen = false

/-- The device once docket `k` has gone from its queue with the receipts it reserved. -/
def Dev.letGo (d : Dev) (k : Docket) (reserved : Nat) : Dev :=
  (d.onCqI (d.sqI k.sq).cq fun c => { c with reserved := c.reserved - reserved }).onSqI k.sq fun q =>
    { q with fetched := q.fetched.filter fun f => !(f.idx == k.idx && f.begun) }

theorem Dev.HoldsOnly.letGo_sqI {d : Dev} {k : Docket} {f : Fetched} (h : d.HoldsOnly k f) (r : Nat) :
    (d.letGo k r).sqI k.sq = { d.sqI k.sq with fetched := [] } := by
  have hsq : k.sq < (d.onCqI (d.sqI k.sq).cq fun c => { c with reserved := c.reserved - r }).host.sqs.length := h.sq
  rw [Dev.letGo, Dev.sqI_onSqI_same _ _ hsq, Dev.sqI_onCqI]
  simp [h.fetched, h.idx, h.begun]

theorem Dev.HoldsOnly.letGo_cqI {d : Dev} {k : Docket} {f : Fetched} (h : d.HoldsOnly k f) (r : Nat) :
    (d.letGo k r).cqI (d.sqI k.sq).cq =
      { d.cqI (d.sqI k.sq).cq with reserved := (d.cqI (d.sqI k.sq).cq).reserved - r } := by
  rw [Dev.letGo, Dev.cqI_onSqI, Dev.cqI_onCqI_same _ _ h.cq]

/-- A receipt of class 0 or 1 without QUIET, which ends the one docket its queue holds, is put on the queue's
completion queue once the docket has gone. -/
theorem Dev.HoldsOnly.finish {d : Dev} {k : Docket} {f : Fetched} (h : d.HoldsOnly k f) {status : Nat}
    (result : List Byte) (hq : dkQuiet k = false) (hst : status / 256 ≤ 1) :
    d.finish k status result = (d.letGo k f.reserved).putReceipt (d.sqI k.sq).cq
      (receiptBytes status (dkTag k) (d.sqI k.sq).fetch k.sq false false false false result) (dkIrqNow k) false := by
  have hclass : ¬ 2 ≤ statusClass status := by
    unfold statusClass
    omega
  have hsq := h.submission
  have hchain : k.sq ≠ chainSq := by
    unfold chainSq
    omega
  have horphan : ¬ orphanBase ≤ k.sq := by
    unfold orphanBase
    omega
  have hnofreeze : d.wouldFreeze ⟨k, status, result, true, false, 1, true, false⟩ = false := by
    simp [Dev.wouldFreeze, hclass]
  have hreply : d.sqReply ⟨k, status, result, true, false, 1, true, false⟩ false =
      (d.letGo k f.reserved).putReceipt (d.sqI k.sq).cq
        (receiptBytes status (dkTag k) (d.sqI k.sq).fetch k.sq false false false false result) (dkIrqNow k) false := by
    have hspend : ((d.sqI k.sq).fetched.find? fun f => f.idx == k.idx && f.begun).elim 0 (·.reserved) = f.reserved := by
      simp [h.fetched, h.idx, h.begun]
    have hhead : sqHead ((d.letGo k f.reserved).sqI k.sq) = (d.sqI k.sq).fetch := by
      rw [h.letGo_sqI]
      simp [sqHead, h.frozen]
    have hlog : ((1 : Nat) == 2 || decide (2 ≤ statusClass status)) = false := by simp [hclass]
    have hen : ((d.letGo k f.reserved).cqI (d.sqI k.sq).cq).enabled = true := by
      rw [h.letGo_cqI]
      exact h.cqEnabled
    unfold Dev.letGo at hen hhead ⊢
    simp only [Dev.sqReply, hq, hspend, hlog, hen, hhead, Bool.false_and, Bool.false_or, Bool.not_true,
      Bool.false_eq_true, if_false, if_true]
    rfl
  have hdel : ((d.letGo k f.reserved).sqI k.sq).deleting = none := by
    rw [h.letGo_sqI]
    exact h.deleting
  rw [Dev.finish, Dev.answer, hnofreeze, if_neg Bool.false_ne_true, Dev.writeReceipt, if_neg hchain, if_neg horphan]
  dsimp only
  rw [hreply, if_pos rfl, Dev.finishDelete_none (by rw [Dev.putReceipt_sqI, hdel])]

/-- The bytes of a receipt as they stand in host memory: the phase bit is bit 0 of byte 7 (13 R330). -/
theorem receiptBytes_phased (status tag head queue : Nat) (phase : Bool) (result : List Byte) :
    let bytes := receiptBytes status tag head queue false false false false result
    putBytes bytes 7 [bytes.getD 7 0 ||| (if phase then 1 else 0)] =
      leBytes 2 status ++ leBytes 2 tag ++ leBytes 2 head ++ leBytes 1 queue ++ [if phase then 1 else 0] ++
        padTo 24 result := by
  cases phase <;> simp [receiptBytes, putBytes, leBytes, packWord]

/-- Settles O17. -/
theorem receiptIsWritten : Obligations.ReceiptIsWritten := by
  unfold Obligations.ReceiptIsWritten
  intro d k status result f n hn hsq hsqs hcqs hpow hcq hen hf hi hb hdel hfr hquiet hst _
  subst hn
  have h : d.HoldsOnly k f := ⟨hsqs ▸ hsq, hcqs ▸ hcq, hsq, hen, hf, hi, hb, hdel, hfr⟩
  have hpow' : (d.letGo k f.reserved).host.power = .d0 := hpow
  have hcq' : (d.sqI k.sq).cq < (d.letGo k f.reserved).host.cqs.length := by
    rw [Dev.letGo, Dev.onSqI_cqs, Dev.onCqI_cqs_length]
    exact hcqs ▸ hcq
  dsimp only
  rw [h.finish result hquiet hst, Dev.putReceipt_hostMem hpow', h.letGo_cqI, receiptBytes_phased,
    Dev.putReceipt_cqI hpow' hcq', h.letGo_cqI, Dev.putReceipt_sqI, h.letGo_sqI, Dev.putReceipt_dlog]
  simp [CompQ.takes, CompQ.nextTail_eq_zero]
  simp [CompQ.nextTail]
  exact ⟨rfl, rfl⟩
end Sys2Proof.Machine
end

section
/-!
SUPPORT. Store dockets on their way: the grant of a pigeonhole, reads served without the medium, and the last codeword
of a read (15 R368; 16 R390, R391, R394, R395, R399, R403).
-/
namespace Sys2Proof.Machine

/-- A command that writes the device part only, by what it makes of it. -/
theorem next_withDev {s : State} {d d' : Dev} (h : d = d') :
    (.next { s with dev := d } : Host.Outcome State Fault Refusal) = .next (s.withDev d') := by
  rw [h]
  rfl

/-! ### The place of a pigeonhole in the table -/

theorem rangesMeet_iff (f1 n1 f2 n2 : Nat) : rangesMeet f1 n1 f2 n2 = true ↔ f1 < f2 + n2 ∧ f2 < f1 + n1 := by
  simp [rangesMeet]

/-- The first entry of a lock is the one that no earlier entry shares the lock of. -/
theorem find_hole {pre post : List Hole} {h : Hole} (hpre : ∀ x ∈ pre, x.lock ≠ h.lock) :
    (pre ++ h :: post).find? (fun x => x.lock == h.lock) = some h := by
  rw [List.find?_append, List.find?_eq_none.mpr fun x hx => by simpa using hpre x hx]
  simp

theorem takeWhile_holes {pre post : List Hole} {h : Hole} (hpre : ∀ x ∈ pre, x.lock ≠ h.lock) :
    (pre ++ h :: post).takeWhile (fun x => x.lock != h.lock) = pre := by
  rw [List.takeWhile_append_of_pos fun x hx => by simpa using hpre x hx]
  simp

/-- No earlier entry stands in the way of `h`: each is apart from it or shared as it is (R394, R395). -/
def unobstructed (pre : List Hole) (h : Hole) : Bool :=
  pre.all fun x => !rangesMeet x.first x.blocks h.first h.blocks || (x.shared && h.shared)

theorem unobstructed_of {pre : List Hole} {h : Hole}
    (hfree : ∀ x ∈ pre, (x.first + x.blocks ≤ h.first ∨ h.first + h.blocks ≤ x.first) ∨
      (x.shared = true ∧ h.shared = true)) : unobstructed pre h = true := by
  refine List.all_eq_true.mpr fun x hx => ?_
  rcases hfree x hx with hapart | ⟨hs, hs'⟩
  · have : ¬ rangesMeet x.first x.blocks h.first h.blocks = true := by
      rw [rangesMeet_iff]
      omega
    simp [this]
  · simp [hs, hs']

theorem obstructed_of {pre : List Hole} {h x : Hole} (hx : x ∈ pre) (h1 : x.first < h.first + h.blocks)
    (h2 : h.first < x.first + x.blocks) (hsh : x.shared = false ∨ h.shared = false) : unobstructed pre h = false := by
  refine List.all_eq_false.mpr ⟨x, hx, ?_⟩
  have hm : rangesMeet x.first x.blocks h.first h.blocks = true := (rangesMeet_iff ..).mpr ⟨h1, h2⟩
  rcases hsh with hsh | hsh <;> simp [hm, hsh]

/-! ### The grant (R390, R395, R403; 24 R559) -/

section grant
variable {d : Dev} {pre post : List Hole} {h : Hole}

theorem Dev.grant_waits (ht : d.store.holes = pre ++ h :: post) (hpre : ∀ x ∈ pre, x.lock ≠ h.lock)
    (hw : unobstructed pre h = false ∨ d.store.parked = true ∨ storeUp d.store = false) : d.grant h.lock = d := by
  unfold Dev.grant
  dsimp only
  rw [ht, find_hole hpre, takeWhile_holes hpre]
  dsimp only
  rw [← unobstructed]
  rcases hw with hw | hw | hw <;> simp [hw]

/-- What a granted docket that passes the checks of R390 goes on to. -/
def Dev.goOn (d : Dev) (h : Hole) : Dev :=
  if dkOp h.d = 0x44 then d.runDeallocate h
  else if bit (u8 h.d.bytes 20) 0 then d.readHost h.d (u64 h.d.bytes 8) (8 * h.blocks)
  else if dkOp h.d = 0x40 then d.startRead h
  else d.startWrite h

theorem Dev.grant_passes (ht : d.store.holes = pre ++ h :: post) (hpre : ∀ x ∈ pre, x.lock ≠ h.lock)
    (hpark : d.store.parked = false) (hup : storeUp d.store = true) (hg : h.granted = false)
    (hfree : unobstructed pre h = true) (hok : storeRefusal d.store { h with granted := true } = none) :
    d.grant h.lock = (d.onHole h.lock fun _ => { h with granted := true }).goOn { h with granted := true } := by
  unfold Dev.grant
  dsimp only
  rw [ht, find_hole hpre, takeWhile_holes hpre]
  dsimp only
  rw [← unobstructed, hfree, hpark, hup, hg]
  simp only [hok]
  rfl

end grant

/-- A write of one buffer of host memory reads that buffer. -/
theorem Dev.startWrite_buffer (d : Dev) {h : Hole} (hp : h.pages = none) :
    d.startWrite h = d.readHost h.d (u64 h.d.bytes 8) (4096 * h.blocks) := by
  simp [Dev.startWrite, hostSpans, hp, Dev.each]

/-- Settles O30 (that a docket before bring-up waits is 24 R559; the table of pigeonholes is log 72). -/
theorem pigeonholesFirstInFirstOut : Obligations.PigeonholesFirstInFirstOut := by
  unfold Obligations.PigeonholesFirstInFirstOut
  refine ⟨fun s pre post h ht hpre hw => ?_, fun s pre post h ht hpre hpark hon hg hfree hok => ?_⟩
  · refine next_withDev (Dev.grant_waits ht hpre ?_)
    rcases hw with ⟨x, hx, h1, h2, hsh⟩ | hpark | ⟨hon, hoff, hlock⟩
    · exact .inl (obstructed_of hx h1 h2 hsh)
    · exact .inr (.inl hpark)
    · exact .inr (.inr (by simp [storeUp, hon, hoff, hlock]))
  · have hgrant := Dev.grant_passes ht hpre hpark (by simp [storeUp, hon]) hg (unobstructed_of hfree) hok
    refine ⟨fun hop => next_withDev (hgrant.trans ?_), fun hop hl => next_withDev (hgrant.trans ?_),
      fun hop hl hp => next_withDev (hgrant.trans ?_)⟩
    · exact if_pos hop
    · simp [Dev.goOn, hop, hl, bit]
    · rw [← Dev.startWrite_buffer _ (h := { h with granted := true }) hp]
      rcases hop with hop | hop <;> simp [Dev.goOn, hop, hl, bit]

end Sys2Proof.Machine
end

section
/-!
SUPPORT. Reads of the store: what the buffer and the medium give, host data in one buffer, and the last codeword
(15 R368; 16 R390, R391, R399).
-/
namespace Sys2Proof.Machine

/-! ### Host data in one buffer -/

theorem Dev.hostWrite_d0 {d : Dev} (hp : d.host.power = .d0) (a : Nat) (bs : List Byte) :
    d.hostWrite a bs = d.onHostMem (hostCellWrite · a bs) := if_pos hp

theorem Dev.writeSegs_one {d : Dev} (hp : d.host.power = .d0) {a n : Nat} {bs : List Byte} (hn : 0 < n)
    (hl : bs.length = n) : d.writeSegs [(a, n)] bs = d.onHostMem (hostCellWrite · a bs) := by
  have hne : ¬ bs.isEmpty = true := by
    rw [List.isEmpty_iff]
    rintro rfl
    exact absurd hl (Nat.ne_of_lt hn)
  rw [Dev.writeSegs, if_neg hne, Dev.hostWrite_d0 hp, ← hl, List.take_length]
  rfl

/-- The bytes that a read sends: zeros for a failed block, else what the block holds. -/
def readData (s : StoreSt) (h : Hole) : List Byte :=
  (List.range h.blocks).flatMap fun i =>
    if h.failed.contains (h.first + i) then zeroBlock else blockValue s (h.first + i)

theorem length_flatMap_range {n m : Nat} {f : Nat → List Byte} (hf : ∀ i, i < n → (f i).length = m) :
    ((List.range n).flatMap f).length = m * n := by
  rw [List.length_flatMap, List.map_congr_left fun i hi => hf i (List.mem_range.mp hi), List.map_const', List.length_range,
    List.sum_replicate_nat, Nat.mul_comm]

/-- A read of one buffer that needs no codeword and has none failed sends its data and ends with status 0. -/
theorem Dev.finishRead_whole {d : Dev} {h : Hole} (hp : d.host.power = .d0) (hpages : h.pages = none)
    (hneed : h.need = []) (hfailed : h.failed = []) (hb : 0 < h.blocks)
    (hl : (readData d.store h).length = 4096 * h.blocks) :
    d.finishRead h = (d.onHostMem (hostCellWrite · (u64 h.d.bytes 8) (readData d.store h))).endHole h 0 := by
  have hw := Dev.writeSegs_one (a := u64 h.d.bytes 8) hp (by omega : 0 < 4096 * h.blocks) hl
  unfold Dev.finishRead
  rw [hneed, hostSpans, hpages]
  dsimp only
  rw [← readData, hw, hfailed]
  rfl

/-- A read with one failed block counts it and ends with 0x8408 and that block. -/
theorem Dev.finishRead_failed {d : Dev} {h : Hole} {lba : Nat} (hp : d.host.power = .d0) (hpages : h.pages = none)
    (hneed : h.need = []) (hfailed : h.failed = [lba]) (hb : 0 < h.blocks)
    (hl : (readData d.store h).length = 4096 * h.blocks) :
    d.finishRead h = ((d.onHostMem (hostCellWrite · (u64 h.d.bytes 8) (readData d.store h))).onStore fun s =>
      { s with readFailed := bumpBy s.readFailed 1 }).endHole h 0x8408 (leBytes 8 lba ++ leBytes 4 1) := by
  have hw := Dev.writeSegs_one (a := u64 h.d.bytes 8) hp (by omega : 0 < 4096 * h.blocks) hl
  unfold Dev.finishRead
  rw [hneed, hostSpans, hpages]
  dsimp only
  rw [← readData, hw, hfailed]
  rfl

/-! ### Blocks that hold nothing or are buffered (R391, R399) -/

theorem needOf_eq_nil {s : StoreSt} {h : Hole}
    (hm : ∀ i, i < h.blocks → onMedium s (h.first + i) = none ∨ buffered s (h.first + i) ≠ none) : needOf s h = [] := by
  refine List.filter_eq_nil_iff.mpr fun lba hlba => ?_
  obtain ⟨i, hi, rfl⟩ := List.mem_map.mp hlba
  rcases hm i (List.mem_range.mp hi) with h | h
  · simp [h]
  · simp [Option.isNone_iff_eq_none, h]

/-- The buffered data of a block, or zeros. -/
def bufferedOrZeros (s : StoreSt) (lba : Nat) : List Byte :=
  match buffered s lba with
  | some (some v) => v
  | _ => List.replicate 4096 0

theorem blockValue_of_unwritten {s : StoreSt} {lba : Nat} (h : onMedium s lba = none ∨ buffered s lba ≠ none) :
    blockValue s lba = bufferedOrZeros s lba := by
  unfold blockValue bufferedOrZeros
  cases hb : buffered s lba with
  | none =>
    dsimp only
    rw [h.resolve_right (not_not_intro hb)]
    rfl
  | some v => cases v <;> rfl

theorem length_bufferedOrZeros {s : StoreSt} {lba : Nat} (h : ∀ v, buffered s lba = some (some v) → v.length = 4096) :
    (bufferedOrZeros s lba).length = 4096 := by
  unfold bufferedOrZeros
  split
  case h_1 v hv => exact h v hv
  case h_2 => exact List.length_replicate

/-- Settles O31. -/
theorem unwrittenBlocksReadZeros : Obligations.UnwrittenBlocksReadZeros := by
  unfold Obligations.UnwrittenBlocksReadZeros
  intro d h hp hpages hfailed hb hm hlen
  have hneed : needOf d.store h = [] := needOf_eq_nil hm
  have hdata : readData (d.onHole h.lock fun _ => { h with need := [] }).store { h with need := [] } =
      (List.range h.blocks).flatMap fun i => bufferedOrZeros d.store (h.first + i) := by
    rw [readData, List.flatMap_def, List.flatMap_def]
    refine congrArg List.flatten (List.map_congr_left fun i hi => ?_)
    rw [hfailed]
    exact blockValue_of_unwritten (hm i (List.mem_range.mp hi))
  have hl := hdata ▸ length_flatMap_range fun i hi => length_bufferedOrZeros fun v => hlen i v hi
  have hp' : (d.onHole h.lock fun _ => { h with need := [] }).host.power = .d0 := hp
  rw [Dev.startRead, hneed]
  dsimp only
  rw [Dev.finishRead_whole (h := { h with need := [] }) hp' hpages rfl hfailed hb hl, hdata]
  rfl

/-! ### The last codeword (R368, R390) -/

theorem Dev.onStore_same {d : Dev} {f : StoreSt → StoreSt} (h : f d.store = d.store) : d.onStore f = d := by
  rw [Dev.onStore, h]

/-- The ladder's step for a block that no NAND block with a history holds and no clip covers, when one read waits for
it and for nothing else. -/
theorem Dev.codeword_last {d : Dev} {h : Hole} {lba : Nat} (hh : d.store.holes = [h]) (hblk : d.store.blocks = [])
    (hclip : d.store.clips = []) (hg : h.granted = true) (he : h.ended = false) (hn : h.need = [lba])
    (hf : h.failed = []) (step : LadderStep) :
    d.codeword lba step =
      let h' := { h with need := [], failed := if step = .failed then [lba] else [] }
      (d.onHole h.lock fun _ => h').finishRead h' := by
  have hst (f : Clip → Clip) : (d.onStore fun s => { s with clips := s.clips.map f }) = d :=
    Dev.onStore_same (by rw [hclip, List.map_nil, ← hclip])
  unfold Dev.codeword
  cases step <;> simp [hblk, hh, hg, he, hn, hf, Dev.each, hst]

theorem bumpBy_one {n : Nat} (c : BitVec n) : bumpBy c 1 = bump c := by
  have hlt := c.isLt
  unfold bumpBy bump
  by_cases hc : c = BitVec.allOnes n
  · have hmax : ¬ c.toNat + 1 < 2 ^ n := by
      rw [hc, BitVec.toNat_allOnes]
      omega
    rw [if_neg hmax, if_pos hc, hc]
  · have hmax : c.toNat + 1 < 2 ^ n := by
      have hne : c.toNat ≠ 2 ^ n - 1 := fun h => hc (BitVec.eq_of_toNat_eq (by rw [h, BitVec.toNat_allOnes]))
      omega
    rw [if_pos hmax, if_neg hc]
    exact BitVec.eq_of_toNat_eq (by simp)

/-- The bytes of a read of one block. -/
theorem readData_one {s : StoreSt} {h : Hole} (hb : h.blocks = 1) :
    readData s h = if h.failed.contains h.first then zeroBlock else blockValue s h.first := by
  simp [readData, hb]

/-- Settles O35. -/
theorem readEndsWithItsLastCodeword : Obligations.ReadEndsWithItsLastCodeword := by
  unfold Obligations.ReadEndsWithItsLastCodeword
  intro s h lba hh hblk hclip hg he hn hf hpages hb hfirst hp hlen
  have hcode := Dev.codeword_last hh hblk hclip hg he hn hf
  have hpos : 0 < h.blocks := by omega
  subst hfirst
  constructor
  · let h' : Hole := { h with need := [], failed := [] }
    have hp' : (s.dev.onHole h.lock fun _ => h').host.power = .d0 := hp
    have hdata : readData (s.dev.onHole h.lock fun _ => h').store h' = blockValue s.dev.store h.first :=
      readData_one hb
    have hl : (readData (s.dev.onHole h.lock fun _ => h').store h').length = 4096 * h'.blocks := by
      rw [hdata, hlen, hb]
    have hread := Dev.finishRead_whole (h := h') hp' hpages rfl rfl hpos hl
    rw [hdata] at hread
    exact ⟨_, next_withDev ((hcode .hard).trans hread), rfl, rfl, rfl⟩
  · let h' : Hole := { h with need := [], failed := [h.first] }
    have hp' : (s.dev.onHole h.lock fun _ => h').host.power = .d0 := hp
    have hdata : readData (s.dev.onHole h.lock fun _ => h').store h' = List.replicate 4096 0 :=
      (readData_one (h := h') hb).trans (if_pos (by simp [h']))
    have hl : (readData (s.dev.onHole h.lock fun _ => h').store h').length = 4096 * h'.blocks := by
      rw [hdata, List.length_replicate, hb]
    have hread := Dev.finishRead_failed (h := h') hp' hpages rfl rfl hpos hl
    rw [hdata] at hread
    exact ⟨_, next_withDev ((hcode .failed).trans hread), rfl, bumpBy_one _, rfl⟩

end Sys2Proof.Machine
end

section
/-!
SUPPORT. The medium of the clip store: erases, refreshes, wear moves, dies that leave and the read ladder
(15 R368, R370, R371, R373).
-/
namespace Sys2Proof.Machine

/-! ### Wear moves (R373) -/

theorem le_foldl_max (l : List Nat) (a : Nat) : a ≤ l.foldl max a := by
  induction l generalizing a with
  | nil => exact Nat.le_refl a
  | cons b l ih => exact Nat.le_trans (Nat.le_max_left a b) (ih _)

theorem le_maxOf {l : List Nat} {a : Nat} (h : a ∈ l) : a ≤ maxOf l := by
  have key (l : List Nat) (m : Nat) (h : a ∈ l) : a ≤ l.foldl max m := by
    induction l generalizing m with
    | nil => cases h
    | cons b l ih =>
      rcases List.mem_cons.mp h with rfl | h
      · exact Nat.le_trans (Nat.le_max_right m a) (le_foldl_max l _)
      · exact ih _ h
  exact key l 0 h

theorem foldl_min_le_start (l : List Nat) (a : Nat) : l.foldl min a ≤ a := by
  induction l generalizing a with
  | nil => exact Nat.le_refl a
  | cons b l ih => exact Nat.le_trans (ih _) (Nat.min_le_left a b)

theorem foldl_min_le {l : List Nat} {a : Nat} (m : Nat) (h : a ∈ l) : l.foldl min m ≤ a := by
  induction l generalizing m with
  | nil => cases h
  | cons b l ih =>
    rcases List.mem_cons.mp h with rfl | h
    · exact Nat.le_trans (foldl_min_le_start l _) (Nat.min_le_right m a)
    · exact ih _ h

/-- One step of the choice of the least-erased block. -/
def fewerErases (m : Option NandBlk) (b : NandBlk) : Option NandBlk :=
  match m with
  | some x => if b.erases < x.erases then some b else m
  | none => some b

/-- A choice is one of its two values. -/
theorem ite_eq_left_or_right {α : Type} (c : Prop) [Decidable c] (a b : α) :
    (if c then a else b) = a ∨ (if c then a else b) = b := by
  split
  · exact .inl rfl
  · exact .inr rfl

/-- The choice stays with a block of strictly fewer erases than the rest. -/
theorem foldl_fewerErases_stays {l : List NandBlk} {x : NandBlk} (h : ∀ z ∈ l, z = x ∨ x.erases < z.erases) :
    l.foldl fewerErases (some x) = some x := by
  induction l with
  | nil => rfl
  | cons b l ih =>
    have hb : ¬ b.erases < x.erases := by
      rcases h b List.mem_cons_self with rfl | hb <;> omega
    rw [List.foldl_cons, fewerErases, if_neg hb]
    exact ih fun z hz => h z (List.mem_cons_of_mem _ hz)

/-- The choice falls on a block of strictly fewer erases than the rest and than the one at hand. -/
theorem foldl_fewerErases_falls {l : List NandBlk} {x : NandBlk} {m : Option NandBlk} (hx : x ∈ l)
    (h : ∀ z ∈ l, z = x ∨ x.erases < z.erases) (hm : ∀ y ∈ m, x.erases < y.erases) :
    l.foldl fewerErases m = some x := by
  induction l generalizing m with
  | nil => cases hx
  | cons b l ih =>
    have hrest : ∀ z ∈ l, z = x ∨ x.erases < z.erases := fun z hz => h z (List.mem_cons_of_mem _ hz)
    rw [List.foldl_cons]
    rcases h b List.mem_cons_self with rfl | hb
    · have hstep : fewerErases m b = some b := by
        cases m with
        | none => rfl
        | some y => exact if_pos (hm y rfl)
      rw [hstep]
      exact foldl_fewerErases_stays hrest
    · have hxl : x ∈ l := (List.mem_cons.mp hx).resolve_left fun e => absurd (e ▸ hb) (Nat.lt_irrefl _)
      refine ih hxl hrest fun y hy => ?_
      cases m with
      | none =>
        cases hy
        exact hb
      | some z =>
        rcases ite_eq_left_or_right (b.erases < z.erases) (some b) (some z) with e | e
        · cases e.symm.trans hy
          exact hb
        · cases e.symm.trans hy
          exact hm _ rfl

/-- The good blocks of a die that the list of blocks names. -/
def Dev.dieBlocks (d : Dev) (die : Nat) : List NandBlk := d.store.blocks.filter fun b => b.die == die && !b.bad

/-- How far the erase counts of a die's blocks are apart, those without a history included. -/
def Dev.wearGap (d : Dev) (die : Nat) : Nat :=
  let all := (d.dieBlocks die).map (·.erases)
  maxOf all - (if (d.dieBlocks die).length < d.store.geom.elim 0 blocksPerDie then d.store.erases :: all else all).foldl
    min (maxOf all)

/-- The least-erased block of a die that holds data. -/
def Dev.leastHeld (d : Dev) (die : Nat) : Option NandBlk :=
  ((d.dieBlocks die).filter fun b => !b.lbas.isEmpty).foldl fewerErases none

theorem Dev.moveWear_eq (d : Dev) (die : Nat) :
    d.moveWear die = match d.leastHeld die with
      | some x =>
        if d.parN 0x0E 0 1 < d.wearGap die then
          d.onStore fun s => { s with blocks := s.blocks.map fun b =>
            if b.die == die && b.block == x.block then { b with lbas := [] } else b }
        else d
      | none => d := rfl

/-- The gap of a die is at least that of two of its blocks. -/
theorem Dev.le_wearGap {d : Dev} {die : Nat} {x y : NandBlk} (hx : x ∈ d.dieBlocks die) (hy : y ∈ d.dieBlocks die) :
    y.erases - x.erases ≤ d.wearGap die := by
  have hhigh := le_maxOf (List.mem_map_of_mem (f := fun b : NandBlk => b.erases) hy)
  have hmem := List.mem_map_of_mem (f := fun b : NandBlk => b.erases) hx
  have hlow := foldl_min_le (l := if (d.dieBlocks die).length < d.store.geom.elim 0 blocksPerDie then
    d.store.erases :: (d.dieBlocks die).map (·.erases) else (d.dieBlocks die).map (·.erases))
    (maxOf ((d.dieBlocks die).map (·.erases))) (a := x.erases) (by split <;> simp [hmem])
  unfold Dev.wearGap
  dsimp only
  omega

theorem Dev.mem_dieBlocks {d : Dev} {x : NandBlk} {die : Nat} :
    x ∈ d.dieBlocks die ↔ x ∈ d.store.blocks ∧ x.die = die ∧ x.bad = false := by
  simp [Dev.dieBlocks]

theorem Dev.moveWear_moves {d : Dev} {x y : NandBlk} (hx : x ∈ d.store.blocks) (hxb : x.bad = false)
    (hxl : x.lbas ≠ []) (hleast : ∀ z ∈ d.store.blocks, z.die = x.die → z.bad = false → z.lbas ≠ [] →
      z = x ∨ x.erases < z.erases) (hy : y ∈ d.store.blocks) (hyd : y.die = x.die) (hyb : y.bad = false)
    (hwear : x.erases + d.parN 0x0E 0 1 < y.erases) :
    d.moveWear x.die = d.onStore fun t =>
      { t with blocks := t.blocks.map fun b => if b.die = x.die ∧ b.block = x.block then { b with lbas := [] } else b } := by
  have hxm := Dev.mem_dieBlocks.mpr ⟨hx, rfl, hxb⟩
  have hgap := Dev.le_wearGap hxm (Dev.mem_dieBlocks.mpr ⟨hy, hyd, hyb⟩)
  have hpick : d.leastHeld x.die = some x := by
    refine foldl_fewerErases_falls (List.mem_filter.mpr ⟨hxm, by simpa using hxl⟩) (fun z hz => ?_) (by simp)
    obtain ⟨hz, hzl⟩ := List.mem_filter.mp hz
    obtain ⟨hz, hzd, hzb⟩ := Dev.mem_dieBlocks.mp hz
    exact hleast z hz hzd hzb (by simpa using hzl)
  have hfar : d.parN 0x0E 0 1 < d.wearGap x.die := by omega
  rw [Dev.moveWear_eq, hpick]
  dsimp only
  rw [if_pos hfar]
  simp

theorem Dev.retireBlock_good {d : Dev} {die block : Nat}
    (h : ∀ b ∈ d.store.blocks, b.die = die → b.block = block → b.bad = false) :
    d.retireBlock die block = (d.onStore fun x =>
      let y := onBlk x die block fun b => { b with bad := true, lbas := [], refresh := false }
      { y with free := y.free - 1 }).checkSpare := by
  unfold Dev.retireBlock
  exact if_neg (by simpa using h)

/-! ### Spare exhaustion leaves the pigeonholes -/

/-- What each step of a list keeps, the whole list keeps. -/
theorem Dev.each_keeps {α β : Type} (g : Dev → β) {f : Dev → α → Dev} (l : List α) (d : Dev)
    (h : ∀ d a, g (f d a) = g d) : g (d.each l f) = g d := by
  induction l generalizing d with
  | nil => rfl
  | cons a l ih => exact (ih (f d a)).trans (h d a)

@[simp] theorem Dev.onRingI_store (d : Dev) (r : Nat) (f : Ring → Ring) : (d.onRingI r f).store = d.store := by
  unfold Dev.onRingI
  split
  · rfl
  · split
    · rfl
    · split
      · rfl
      · split <;> rfl

@[simp] theorem Dev.queueRelease_store (d : Dev) (r k o : Nat) (byHost : Bool) :
    (d.queueRelease r k o byHost).store = d.store := by
  simp only [Dev.queueRelease, Dev.onTick_store, Dev.onRingI_store]

@[simp] theorem Dev.detach_store (d : Dev) (r k : Nat) (keep : List Nat) : (d.detach r k keep).store = d.store := by
  simp only [Dev.detach, Dev.onRingI_store]
  exact Dev.each_keeps (·.store) _ d fun d o => d.queueRelease_store r k o false

theorem Dev.endSource_holes (d : Dev) (n : Nat) (x : RecSrc) (full : Bool) :
    (d.endSource n x full).store.holes = d.store.holes := by
  cases h : sourceRing x.ep with
  | none => simp only [Dev.endSource, h, Dev.onStore_store, closeClip, dropEmptyClips, onClip]
  | some r => simp only [Dev.endSource, h, Dev.onStore_store, closeClip, dropEmptyClips, onClip, Dev.detach_store]

theorem Dev.slotStopped_store (d : Dev) (n : Nat) : (d.slotStopped n).store = d.store := by
  unfold Dev.slotStopped
  split <;> rfl

theorem Dev.fullStore_holes (d : Dev) (n : Nat) : (d.fullStore n).store.holes = d.store.holes := by
  unfold Dev.fullStore
  dsimp only
  split
  · rw [Dev.slotStopped_store]
    exact Dev.each_keeps (·.store.holes) _ d fun d x => d.endSource_holes n x true
  · rfl

theorem Dev.checkSpare_holes (d : Dev) : d.checkSpare.store.holes = d.store.holes := by
  unfold Dev.checkSpare
  dsimp only
  split
  · rfl
  · split
    · rw [Dev.each_keeps (·.store.holes) _ _ Dev.fullStore_holes]
      split <;> rfl
    · split <;> rfl

theorem Dev.retireBlock_holes (d : Dev) (die block : Nat) : (d.retireBlock die block).store.holes = d.store.holes := by
  unfold Dev.retireBlock
  split
  · rfl
  · rw [Dev.checkSpare_holes]
    unfold onBlk
    dsimp only [Dev.onStore]
    split <;> rfl

/-! ### The read ladder with no read that waits (R368) -/

/-- What a step of the ladder does to the medium. -/
def Dev.ladder (d : Dev) (lba : Nat) (step : LadderStep) : Dev :=
  let home := d.store.blocks.find? fun b => b.lbas.contains lba
  let refresh := fun (d : Dev) => home.elim d fun b => d.onStore fun s => onBlk s b.die b.block fun x =>
    { x with refresh := true }
  match step with
  | .hard => d
  | .retry => refresh d
  | .soft => refresh d
  | .rebuild => home.elim d fun b => d.retireBlock b.die b.block
  | .failed => d.onStore fun s =>
    { s with clips := s.clips.map fun (c : Clip) => if inExtents c.extents lba then { c with damaged := true } else c }

theorem Dev.ladder_holes (d : Dev) (lba : Nat) (step : LadderStep) : (d.ladder lba step).store.holes = d.store.holes := by
  have hrefresh (home : Option NandBlk) : (home.elim d fun b => d.onStore fun s => onBlk s b.die b.block fun x =>
      { x with refresh := true }).store.holes = d.store.holes := by
    cases home with
    | none => rfl
    | some b =>
      dsimp only [Option.elim, Dev.onStore, onBlk]
      split <;> rfl
  cases step with
  | hard | failed => rfl
  | retry | soft => exact hrefresh _
  | rebuild =>
    dsimp only [Dev.ladder]
    cases d.store.blocks.find? fun b => b.lbas.contains lba with
    | none => rfl
    | some b => exact d.retireBlock_holes b.die b.block

theorem Dev.codeword_noRead {d : Dev} (hh : d.store.holes = []) (lba : Nat) (step : LadderStep) :
    d.codeword lba step = d.ladder lba step := by
  have hh' : (d.ladder lba step).store.holes = [] := (d.ladder_holes lba step).trans hh
  show Dev.each (d.ladder lba step) ((d.ladder lba step).store.holes.filter _) _ = _
  rw [hh']
  rfl

/-! ### The obligation -/

/-- Settles O34. -/
theorem mediumMaintenance : Obligations.MediumMaintenance := by
  unfold Obligations.MediumMaintenance
  refine ⟨fun s die block => ⟨rfl, fun hgood => next_withDev ?_, next_withDev ?_⟩, ?_, ?_, fun s die => rfl, ?_⟩
  · exact Dev.retireBlock_good hgood
  · simp [Dev.refreshBlock, and_assoc]
  · intro s x y hx hxb hxl hleast hy hyd hyb hwear
    exact next_withDev (Dev.moveWear_moves hx hxb hxl hleast hy hyd hyb hwear)
  · intro s die g hg hd hr
    refine next_withDev ?_
    have hin : die < dieCount g ∧ s.dev.store.retired.contains die = false := ⟨hd, by simpa using hr⟩
    simp only [Dev.retireDie, hg, if_pos hin]
    rfl
  · intro s lba b hh hb
    have hcode (step : LadderStep) {d : Dev} (h : s.dev.ladder lba step = d) :
        exec (.codewordRead lba step) s = .next (s.withDev d) := next_withDev ((Dev.codeword_noRead hh lba step).trans h)
    refine ⟨hcode .hard rfl, fun step hs => ?_, ?_, hcode .failed rfl⟩
    · rcases hs with rfl | rfl
      all_goals exact hcode _ (by simp only [Dev.ladder, hb, Option.elim])
    · exact hcode .rebuild (by simp only [Dev.ladder, hb, Option.elim])

end Sys2Proof.Machine
end

section
/-!
SUPPORT. A recording slot's writers take the next full buffer of a source (15 R381, R384).
-/
namespace Sys2Proof.Machine

/-! ### Rings by number -/

theorem getD_of_length_le {α : Type} {l : List α} {i : Nat} {x : α} (h : l.length ≤ i) : l.getD i x = x := by
  rw [List.getD_eq_getElem?_getD, List.getElem?_eq_none h, Option.getD_none]

theorem getD_upd_of_ne {α : Type} {l : List α} {i : Nat} {x : α} (f : α → α) (h : l.getD i x ≠ x) :
    (upd l i f).getD i x = f (l.getD i x) := by
  exact getD_upd_same l i f x (Nat.lt_of_not_le fun hle => h (getD_of_length_le hle))

/-- A ring that holds anything is changed by a change of its number. -/
theorem Dev.ringI_onRingI_same (d : Dev) {r : Nat} (f : Ring → Ring) (h : d.ringI r ≠ Ring.empty) :
    (d.onRingI r f).ringI r = f (d.ringI r) := by
  unfold Dev.ringI at h
  unfold Dev.ringI Dev.onRingI
  by_cases htap : r < ringEnc
  · simp only [if_pos htap] at h ⊢
    exact getD_upd_of_ne f h
  by_cases henc : r < ringDec
  · simp only [if_neg htap, if_pos henc] at h ⊢
    exact getD_upd_of_ne f h
  by_cases hdec : r < ringBolt
  · simp only [if_neg htap, if_neg henc, if_pos hdec] at h ⊢
    exact getD_upd_of_ne f h
  by_cases hbolt : r < ringAudio
  · simp only [if_neg htap, if_neg henc, if_neg hdec, if_pos hbolt] at h ⊢
    exact getD_upd_of_ne f h
  · simp only [if_neg htap, if_neg henc, if_neg hdec, if_neg hbolt] at h ⊢
    exact getD_upd_of_ne f h

/-- What a change of a ring keeps: the device's other parts. -/
theorem Dev.onRingI_keeps {β : Type} (g : Dev → β) (d : Dev) (r : Nat) (f : Ring → Ring)
    (h1 : ∀ k, g (d.onTaps k) = g d) (h2 : ∀ k, g (d.onEncRings k) = g d) (h3 : ∀ k, g (d.onDecRings k) = g d)
    (h4 : ∀ k, g (d.onBoltRings k) = g d) (h5 : ∀ k, g (d.onAudioRings k) = g d) : g (d.onRingI r f) = g d := by
  unfold Dev.onRingI
  split
  · exact h1 _
  split
  · exact h2 _
  split
  · exact h3 _
  split
  · exact h4 _
  · exact h5 _

theorem Dev.onRingI_bufBytes (d : Dev) (r ring : Nat) (f : Ring → Ring) (b : Buf) :
    (d.onRingI r f).bufBytes ring b = d.bufBytes ring b :=
  Dev.onRingI_keeps (·.bufBytes ring b) d r f (fun _ => rfl) (fun _ => rfl) (fun _ => rfl) (fun _ => rfl) fun _ => rfl

/-! ### Chains of one buffer and their place in a clip -/

theorem chainOf_single {d : Dev} {ring : Nat} {b : Buf} (h : d.continues ring b = false) :
    chainOf d ring (sortBy (·.order) [b]) = some [b] := by
  simp [sortBy, insertBy, chainOf, h]

theorem length_addExtent_le (l : List (Nat × Nat)) (e : Nat × Nat) : (addExtent l e).length ≤ l.length + 1 := by
  induction l with
  | nil => exact Nat.le_refl _
  | cons x l ih =>
    cases l with
    | nil =>
      unfold addExtent
      split <;> simp
    | cons y l =>
      rw [addExtent]
      simpa using ih

theorem roomFor_zero (s : StoreSt) (id : Nat) (bands : List Nat) (fill fuel : Nat) :
    roomFor s id (fuel + 1) bands fill 0 = some ([], [], fill) := by
  rw [roomFor, if_pos rfl]

/-- Blocks that fit the last band of a clip need no further band. -/
theorem roomFor_lastBand (s : StoreSt) (id : Nat) {bands : List Nat} {fill n b : Nat} (hb : bands.getLast? = some b)
    (hn : n ≠ 0) (hfit : fill + n ≤ 1024) (fuel : Nat) :
    roomFor s id (fuel + 2) bands fill n = some ([(1024 * b + fill, n)], [], fill + n) := by
  have hfill : fill < 1024 := by omega
  have hall : min n (1024 - fill) = n := by omega
  rw [roomFor, if_neg hn, hb]
  dsimp only
  rw [if_pos hfill, hall, Nat.sub_self, roomFor_zero]
  simp only [Option.map_some]

/-! ### Delivery and the nearly-full event leave clips, units and rings (15 R384) -/

theorem Dev.checkNearly_keeps {β : Type} (g : Dev → β) (d : Dev)
    (hstore : ∀ nearly, g (d.onStore fun s => { s with nearly := nearly }) = g d)
    (hraise : ∀ d : Dev, g (d.raiseNow 12) = g d) : g d.checkNearly = g d := by
  unfold Dev.checkNearly
  dsimp only
  split
  · rw [hraise, hstore]
  · rw [hstore]

theorem Dev.checkNearly_units (d : Dev) : d.checkNearly.store.units = d.store.units :=
  d.checkNearly_keeps (·.store.units) (fun _ => rfl) fun _ => rfl

theorem Dev.checkNearly_clips (d : Dev) : d.checkNearly.store.clips = d.store.clips :=
  d.checkNearly_keeps (·.store.clips) (fun _ => rfl) fun _ => rfl

theorem Dev.checkNearly_ringI (d : Dev) (r : Nat) : d.checkNearly.ringI r = d.ringI r :=
  d.checkNearly_keeps (·.ringI r) (fun _ => rfl) fun _ => rfl

/-- A clip after a unit of `blocks` blocks in its last band. -/
def Clip.withUnit (c : Clip) (first blocks mark : Nat) : Clip :=
  { c with extents := addExtent c.extents (first, blocks), bands := c.bands ++ [], fill := c.fill + blocks,
           first := if c.units = 0 then mark else c.first, last := mark, bytes := c.bytes + 4096 * blocks,
           units := c.units + 1 }

/-- A unit that fits the last band of its clip is placed there, and its blocks go to the writers. -/
theorem Dev.placeUnit_lastBand {d : Dev} {x : RecSrc} {bytes : List Byte} {c : Clip} (hc : d.store.clips = [c])
    (hx : x.clip = c.id) {b : Nat} (hb : c.bands.getLast? = some b) (hn : 0 < bytes.length)
    (hfit : c.fill + ceilDiv bytes.length 4096 ≤ 1024) (n : Nat) (chain : List Buf) (mark : Nat) :
    let t := d.placeUnit n x chain bytes mark
    let blocks := ceilDiv bytes.length 4096
    (∃ left, t.store.units = d.store.units ++
      [⟨n, x.ep, x.cslot, chain.map (·.order), c.id, 4096 * blocks, mark, left⟩]) ∧
      t.store.clips = [c.withUnit (1024 * b + c.fill) blocks mark] ∧ ∀ r, t.ringI r = d.ringI r := by
  have hblocks : ceilDiv bytes.length 4096 ≠ 0 := by
    rw [ceilDiv, if_neg (by decide)]
    omega
  have hroom := roomFor_lastBand d.store c.id hb hblocks hfit (2 * ceilDiv bytes.length 4096 + 2)
  dsimp only
  unfold Dev.placeUnit
  simp only [hc, hx, List.find?_cons, beq_self_eq_true, hroom, Dev.checkNearly_units, Dev.checkNearly_clips, Dev.checkNearly_ringI]
  cases sourceRing x.ep
  all_goals
    refine ⟨⟨_, rfl⟩, ?_, fun r => rfl⟩
    simp [onClip, hc, Clip.withUnit, Dev.deliver]

/-! ### The next unit (R381, R384) -/

/-- The source of a slot once it has met its key. -/
def RecSrc.keyed (x : RecSrc) : RecSrc := { x with waitKey := false }

/-- The device whose slot `n` has taken buffer `b` of the ring for source `x`. -/
def Dev.tookBuffer (d : Dev) (n ring : Nat) (x : RecSrc) (b : Buf) : Dev :=
  (d.onRingI ring fun r => r.take x.cslot b.order).onStore fun s =>
    { s with slots := upd s.slots n fun r =>
        { r with sources := r.sources.map fun y => if y.ep == x.ep then { y with waitKey := false } else y } }

theorem Dev.tookBuffer_sources {d : Dev} {n ring : Nat} {x : RecSrc} {b : Buf} (hn : n < d.store.slots.length)
    (hx : (d.store.slots.getD n RecSlot.idle).sources = [x]) :
    ((d.tookBuffer n ring x b).store.slots.getD n RecSlot.idle).sources = [x.keyed] := by
  have hslots : (d.tookBuffer n ring x b).store.slots = upd d.store.slots n fun r =>
      { r with sources := r.sources.map fun y => if y.ep == x.ep then { y with waitKey := false } else y } := by
    simp only [Dev.tookBuffer, Dev.onStore_store, Dev.onRingI_store]
  rw [hslots, getD_upd_same _ _ _ _ hn]
  dsimp only
  rw [hx]
  simp [RecSrc.keyed]

/-- Blocks that fit the last band ask for one extent more, so a clip with room in its list of extents goes on. -/
theorem roomFor_extents_le {s : StoreSt} {c : Clip} {n fuel : Nat} (hext : c.extents.length < 262144) (hn : n ≠ 0)
    (hbands : c.bands ≠ []) (hfit : c.fill + n ≤ 1024) :
    ∃ ext t f, roomFor s c.id (fuel + 2) c.bands c.fill n = some (ext, t, f) ∧
      ¬ 262144 < (ext.foldl addExtent c.extents).length := by
  refine ⟨_, _, _, roomFor_lastBand s c.id (List.getLast?_eq_some_getLast hbands) hn hfit fuel, ?_⟩
  have := length_addExtent_le c.extents (1024 * c.bands.getLast hbands + c.fill, n)
  rw [List.foldl_cons, List.foldl_nil]
  omega

/-- The next unit of a source that has met its key and its frames is one buffer, for which the clip has room. -/
theorem Dev.recordUnit_one {d : Dev} {n ring : Nat} {x : RecSrc} {b : Buf} {c : Clip} (hpark : d.store.parked = false)
    (hon : d.store.online = true) (hshed : ∀ ch, ch < 16 → d.isShed (480 + 8 * ch + n) = false)
    (hn : n < d.store.slots.length) (hsrc : (d.store.slots.getD n RecSlot.idle).sources = [x])
    (hring : sourceRing x.ep = some ring) (hwait : (d.ringI ring).waitingFor x.cslot = [b])
    (hcont : d.continues ring b = false) (hfrom : x.fromFrame = none) (hkey : x.waitKey = false) (hord : x.stopOrd = none)
    (hframe : x.stopFrame = none) (hclip : x.clip = c.id) (hid : c.id ≠ 0) (hclips : d.store.clips = [c])
    (hext : c.extents.length < 262144) (hbands : c.bands ≠ [])
    (hfit : c.fill + ceilDiv (d.bufBytes ring b).length 4096 ≤ 1024) (hbytes : 0 < (d.bufBytes ring b).length) :
    d.recordUnit n x.ep = (d.tookBuffer n ring x b).placeUnit n x.keyed [b] (d.bufBytes ring b) b.postmark := by
  have hready : ¬ (d.store.parked || !d.store.online || (List.range 16).any fun c => d.isShed (480 + 8 * c + n)) = true := by
    simpa [hpark, hon] using hshed
  have hblocks : ceilDiv (d.bufBytes ring b).length 4096 ≠ 0 := by
    rw [ceilDiv, if_neg (by decide)]
    omega
  have hfind : ((d.tookBuffer n ring x b).store.slots.getD n RecSlot.idle).sources.find? (·.ep == x.ep) = some x.keyed := by
    rw [Dev.tookBuffer_sources hn hsrc]
    simp [RecSrc.keyed]
  have hstay : (d.tookBuffer n ring x b).store.clips = [c] := by
    simp only [Dev.tookBuffer, Dev.onStore_store, Dev.onRingI_store, hclips]
  obtain ⟨ext, t, f, hroom, hroomy⟩ := roomFor_extents_le (s := (d.tookBuffer n ring x b).store)
    (fuel := 2 * ceilDiv (d.bufBytes ring b).length 4096 + 2) hext hblocks hbands hfit
  have hcid : x.keyed.clip = c.id := hclip
  have htook : ∀ e : Dev, e = d.onRingI ring (fun r => r.take x.cslot b.order) →
      (e.onStore fun s => { s with slots := upd s.slots n fun r => { r with sources := r.sources.map fun y =>
        if y.ep == x.ep then { y with waitKey := false } else y } }) = d.tookBuffer n ring x b :=
    fun e he => by rw [he]; rfl
  unfold Dev.recordUnit
  rw [if_neg hready, hsrc, hring, List.find?_singleton, beq_self_eq_true, if_pos rfl]
  dsimp only
  rw [hwait, chainOf_single hcont]
  simp only [hfrom, hkey, hord, hframe, Option.elim_none, Bool.false_and, Bool.or_false, Bool.false_eq_true, if_false,
    Dev.each, List.foldl_cons, List.foldl_nil, List.flatMap_cons, List.flatMap_nil, List.append_nil, Dev.onRingI_bufBytes,
    htook _ rfl, hclip, hid, hfind, Option.getD_some, hstay, hcid,
    List.find?_singleton, beq_self_eq_true, if_true, hroom, hroomy, decide_false]

/-- Settles O39. -/
theorem recordUnits : Obligations.RecordUnits := by
  unfold Obligations.RecordUnits
  refine ⟨?_, fun s n ep hpark => next_withDev (d' := s.dev) ?_, fun s n ep hno => next_withDev (d' := s.dev) ?_⟩
  · intro s n ep ring x b c hpark hon hshed hlen hsrc hep hring hwait hcont hfrom hkey hord hframe hclip hid hclips hext
      hbands hfit hbytes
    subst hep
    have hn : n.val < s.dev.store.slots.length := by rw [hlen]; exact n.isLt
    have hhave : s.dev.ringI ring ≠ Ring.empty := fun h => by simp [h, Ring.empty, Ring.waitingFor] at hwait
    have hstep := Dev.recordUnit_one hpark hon hshed hn hsrc hring hwait hcont hfrom hkey hord hframe hclip hid hclips hext
      hbands hfit hbytes
    have hstay : (s.dev.tookBuffer n ring x b).store.clips = [c] := by
      simp only [Dev.tookBuffer, Dev.onStore_store, Dev.onRingI_store, hclips]
    obtain ⟨⟨left, hunits⟩, hclips', hrings⟩ := Dev.placeUnit_lastBand (x := x.keyed) hstay hclip
      (List.getLast?_eq_some_getLast hbands) hbytes hfit n [b] b.postmark
    rw [← hstep] at hunits hclips' hrings
    refine ⟨_, ⟨n, x.ep, x.cslot, [b.order], c.id, _, b.postmark, left⟩, _, rfl, hunits.trans ?_, rfl, rfl, rfl, rfl, rfl, hclips', rfl, rfl, rfl, (hrings ring).trans ?_⟩
    · simp only [Dev.tookBuffer, Dev.onStore_store, Dev.onRingI_store]
      rfl
    · exact Dev.ringI_onRingI_same _ _ hhave
  · simp [Dev.recordUnit, hpark]
  · have hnone : (s.dev.store.slots.getD n RecSlot.idle).sources.find? (·.ep == ep) = none :=
      List.find?_eq_none.mpr fun x hx => by simpa using hno x hx
    unfold Dev.recordUnit
    split
    · rfl
    · rw [hnone]

end Sys2Proof.Machine
end

section
/-!
SUPPORT. The coding of a stream's pictures and the output of its pieces (11 R272, R282 to R290).
-/
namespace Sys2Proof.Machine

/-! ### What the output of a piece keeps of the encode streams -/

@[simp] theorem Dev.onRingI_enc (d : Dev) (r : Nat) (f : Ring → Ring) : (d.onRingI r f).enc = d.enc :=
  Dev.onRingI_keeps (·.enc) d r f (fun _ => rfl) (fun _ => rfl) (fun _ => rfl) (fun _ => rfl) fun _ => rfl

@[simp] theorem Dev.queueRelease_enc (d : Dev) (r k o : Nat) (byHost : Bool) :
    (d.queueRelease r k o byHost).enc = d.enc := by
  simp only [Dev.queueRelease, Dev.onTick_enc, Dev.onRingI_enc]

/-- What a write to memory keeps: everything but memory. -/
theorem Dev.memWrite_keeps {β : Type} (g : Dev → β) (d : Dev) (pool off : Nat) (bs : List Byte)
    (hmem : ∀ f, g (d.onMem f) = g d) : g (d.memWrite pool off bs) = g d := by
  unfold Dev.memWrite
  split
  · exact hmem _
  · rfl

@[simp] theorem Dev.memWrite_enc (d : Dev) (pool off : Nat) (bs : List Byte) : (d.memWrite pool off bs).enc = d.enc :=
  d.memWrite_keeps (·.enc) pool off bs fun _ => rfl

@[simp] theorem Dev.memWrite_ringI (d : Dev) (pool off : Nat) (bs : List Byte) (r : Nat) :
    (d.memWrite pool off bs).ringI r = d.ringI r :=
  d.memWrite_keeps (·.ringI r) pool off bs fun _ => rfl

theorem Dev.encI_congr {d d' : Dev} (h : d'.enc = d.enc) (n : Nat) : d'.encI n = d.encI n := by
  rw [Dev.encI, Dev.encI, h]

theorem Dev.encI_onEncI_same (d : Dev) {n : Nat} (f : EncSt → EncSt) (h : d.encI n ≠ EncSt.reset) :
    (d.onEncI n f).encI n = f (d.encI n) :=
  getD_upd_of_ne f h

theorem upd_upd {α : Type} (l : List α) (i : Nat) (f g : α → α) : upd (upd l i f) i g = upd l i (g ∘ f) := by
  simp [upd, List.modify_modify_eq]

theorem Dev.putPiece_enc {d d' : Dev} {ring frame : Nat} {piece : List Byte} (h : d.putPiece ring piece frame = some d') :
    d'.enc = d.enc := by
  unfold Dev.putPiece at h
  split at h
  · cases h
  · cases h
    simp only [Dev.onRingI_enc, Dev.memWrite_enc]

/-- A piece goes out whenever a buffer is free, and takes the next order of its ring. -/
theorem Dev.putPiece_nextOrd {d : Dev} {ring frame : Nat} {piece : List Byte} {b : Buf}
    (h : (d.ringI ring).freeBuf encSpans = some b) :
    ∃ d', d.putPiece ring piece frame = some d' ∧ (d'.ringI ring).nextOrd = (d.ringI ring).nextOrd + 1 := by
  have hhave : d.ringI ring ≠ Ring.empty := fun he => by simp [he, Ring.empty, Ring.freeBuf] at h
  have hbegin := d.ringI_onRingI_same (fun r => r.begin b.idx frame encSpans) hhave
  unfold Dev.putPiece
  rw [h]
  refine ⟨_, rfl, ?_⟩
  rw [Dev.ringI_onRingI_same]
  · simp only [Dev.memWrite_ringI, hbegin]
    rfl
  · simp only [Dev.memWrite_ringI, hbegin]
    exact fun he => absurd (congrArg Ring.nextOrd he) (Nat.succ_ne_zero _)

/-- The output of a stream's pieces changes nothing else of the stream than its pieces and its stall. -/
theorem Dev.encDrain_keeps {β : Type} (g : EncSt → β) (n : Nat) (hau : ∀ e l, g { e with pendingAu := l } = g e)
    (hstall : ∀ e b, g { e with stalled := b } = g e) (fuel : Nat) (d : Dev) :
    g ((d.encDrain n fuel).encI n) = g (d.encI n) := by
  have hset : ∀ (d : Dev) (f : EncSt → EncSt), (∀ e, g (f e) = g e) → g ((d.onEncI n f).encI n) = g (d.encI n) := by
    intro d f hf
    by_cases hlt : n < d.enc.length
    · exact (congrArg g (getD_upd_same _ _ _ _ hlt)).trans (hf _)
    · exact congrArg g (congrArg (·.getD n EncSt.reset) (upd_past d.enc n f (Nat.le_of_not_lt hlt)))
  induction fuel generalizing d with
  | zero => rfl
  | succ fuel ih =>
    unfold Dev.encDrain
    split
    · exact hset d _ fun e => hstall e _
    · next piece rest hp =>
      split
      · next d' hput =>
        rw [ih, hset d' _ fun e => hau e _, Dev.encI_congr (Dev.putPiece_enc hput)]
      · dsimp only
        split
        · exact hset d _ fun e => hstall e _
        · exact hset d _ fun e => hstall e _

/-! ### Coding (R282 to R288) -/

/-- What follows the coding of a picture: its event, its delivery, the release of its buffer, and its pieces. -/
def Dev.sendPicture (d : Dev) (s ring order fuel : Nat) (slot : Option Nat) (event : Bool) : Dev :=
  let d := if event then d.raiseNow (200 + s) else d
  let d := d.deliver (endpoint 0x0B s)
  let d := match slot with
    | some k => d.queueRelease ring k order false
    | none => d
  d.encDrain s fuel

theorem Dev.sendPicture_keeps {β : Type} (g : EncSt → β) (d : Dev) (s ring order fuel : Nat) (slot : Option Nat)
    (event : Bool) (hau : ∀ e l, g { e with pendingAu := l } = g e) (hstall : ∀ e b, g { e with stalled := b } = g e) :
    g ((d.sendPicture s ring order fuel slot event).encI s) = g (d.encI s) := by
  unfold Dev.sendPicture
  refine (Dev.encDrain_keeps g s hau hstall _ _).trans (congrArg g (Dev.encI_congr ?_ s))
  cases slot <;> cases event
  · exact rfl
  · exact rfl
  · exact Dev.queueRelease_enc _ _ _ _ _
  · exact Dev.queueRelease_enc _ _ _ _ _

/-- The coding of a picture moves the plan on, counts the picture, and takes the QPs of its rows. -/
theorem Dev.codePicture_eq {d : Dev} {s : Nat} {pic : CodedPic} {rest : List CodedPic} {b : Buf}
    (hb : (d.ringI (8 * (d.encI s).pipe + (d.encI s).tap)).byOrder pic.order = some b) :
    ∃ (f : EncSt → EncSt) (used ring fuel : Nat) (slot : Option Nat) (event : Bool),
      d.codePicture s pic rest = ((d.used used).onEncI s f).sendPicture s ring pic.order fuel slot event ∧
      ∀ e, (f e).plan = rest ∧ (f e).decOrder = e.decOrder + 1 ∧
        (f e).fKey = (if pic.key then pic.frame else (d.encI s).fKey) ∧
        (encN (d.encParams s pic.frame) s 1 = 0 →
          let qp := BitVec.ofNat 8 (baseQp (d.encParams s pic.frame) s pic.type pic.tid)
          (f e).qpPic = qp ∧ (f e).qpMin = qp ∧ (f e).qpMax = qp) := by
  unfold Dev.codePicture
  dsimp only
  rw [hb]
  cases (d.ringI (8 * (d.encI s).pipe + (d.encI s).tap)).slotOf (endpoint 0x0B s) with
  | none =>
    dsimp only
    refine ⟨?_, ?_, 0, ?_, none, ?_, ?_, ?_⟩
    rotate_left 4
    · unfold Dev.sendPicture
      exact rfl
    · exact fun e => ⟨rfl, rfl, rfl, fun h => by simp [h]⟩
  | some k =>
    dsimp only
    refine ⟨?_, ?_, ?_, ?_, some k, ?_, ?_, ?_⟩
    rotate_left 5
    · unfold Dev.sendPicture
      exact rfl
    · exact fun e => ⟨rfl, rfl, rfl, fun h => by simp [h]⟩

/-- The closing piece of a stream: its end-of-sequence and end-of-bitstream NAL units (R290). -/
def Dev.endPiece (d : Dev) (s : Nat) : List Byte :=
  let nals : List Byte := [0, 0, 1, 0x48, 1, 0, 0, 1, 0x4A, 1]
  let hdr := postmark d.nowNs d.time.epoch.toNat 0xFFFFFFFF (0x40 + s) ++ List.replicate 48 0
  let pic : CodedPic := ⟨0, 0xFFFFFFFF, 0, 0, false, false, 0⟩
  auHeader hdr pic s nals.length nals.length (d.encI s).decOrder 0 0 0 0 1 ++ nals

/-- A core with no stalled stream codes the first picture of its first stream. -/
theorem encodePicture_codesPlanned : ∀ (s : State) (core : Fin 8) (n : Nat) (rest : List Nat) (pic : CodedPic) (more : List CodedPic) (b : Buf),
      s.dev.coreStreams core = n :: rest → (∀ m ∈ n :: rest, (s.dev.encI m).stalled = false) →
      (s.dev.encI n).plan = pic :: more →
      (s.dev.ringI (8 * (s.dev.encI n).pipe + (s.dev.encI n).tap)).byOrder pic.order = some b →
      ∃ t : State, exec (.encodePicture core) s = .next t ∧ (t.dev.encI n).plan = more ∧
        (t.dev.encI n).decOrder = (s.dev.encI n).decOrder + 1 ∧
        (t.dev.encI n).fKey = (if pic.key then pic.frame else (s.dev.encI n).fKey) ∧
        (encN (s.dev.encParams n pic.frame) n 1 = 0 →
          let qp := BitVec.ofNat 8 (baseQp (s.dev.encParams n pic.frame) n pic.type pic.tid)
          (t.dev.encI n).qpPic = qp ∧ (t.dev.encI n).qpMin = qp ∧ (t.dev.encI n).qpMax = qp) := by
  intro s core n rest pic more b hon hstall hplan hb
  have hhave : s.dev.encI n ≠ EncSt.reset := fun he => by simp [he, EncSt.reset] at hplan
  obtain ⟨f, used, ring, fuel, slot, event, hcode, hf⟩ := Dev.codePicture_eq (rest := more) hb
  obtain ⟨hrest, hord, hkey, hqp⟩ := hf (s.dev.encI n)
  have hstep : s.dev.encodeNext core = s.dev.codePicture n pic more := by
    have htake : s.dev.encTake n 64 = s.dev := by
      rw [Dev.encTake]
      simp [hplan]
    rw [Dev.encodeNext, hon, if_neg (by simpa using hstall), Dev.serveCore]
    rw [htake, hplan]
  have hfield : ∀ {β : Type} (g : EncSt → β), (∀ e l, g { e with pendingAu := l } = g e) →
      (∀ e b, g { e with stalled := b } = g e) →
      g ((s.dev.codePicture n pic more).encI n) = g (f (s.dev.encI n)) := fun g hau hst => by
    rw [hcode, Dev.sendPicture_keeps g _ _ _ _ _ _ _ hau hst, Dev.encI_onEncI_same]
    · rfl
    · exact hhave
  refine ⟨_, next_withDev hstep, (hfield (·.plan) (fun _ _ => rfl) fun _ _ => rfl).trans hrest,
    (hfield (·.decOrder) (fun _ _ => rfl) fun _ _ => rfl).trans hord,
    (hfield (·.fKey) (fun _ _ => rfl) fun _ _ => rfl).trans hkey, fun hrow => ?_⟩
  obtain ⟨hpic, hmin, hmax⟩ := hqp hrow
  exact ⟨(hfield (·.qpPic) (fun _ _ => rfl) fun _ _ => rfl).trans hpic,
    (hfield (·.qpMin) (fun _ _ => rfl) fun _ _ => rfl).trans hmin,
    (hfield (·.qpMax) (fun _ _ => rfl) fun _ _ => rfl).trans hmax⟩

/-- The last waiting piece goes into a free buffer and the stream is no longer stalled. -/
theorem encodeOutputResume_lastPiece : ∀ (s : State) (n : Fin 32) (piece : List Byte) (d : Dev), (s.dev.encI n).pendingAu = [piece] →
      s.dev.putPiece (64 + n) piece (u32 piece 1) = some d →
      exec (.encodeOutputResume n) s = .next (s.withDev (d.onEncI n fun e => { e with pendingAu := [], stalled := false })) := by
  intro s n piece d hp hput
  refine next_withDev ?_
  have hhave : d.encI n ≠ EncSt.reset := fun he => by
    rw [← Dev.encI_congr (Dev.putPiece_enc hput), he] at hp
    cases hp
  have hempty : ((d.onEncI n fun e => { e with pendingAu := [] }).encI n).pendingAu = [] :=
    congrArg EncSt.pendingAu (Dev.encI_onEncI_same _ _ hhave)
  have hput' : s.dev.putPiece (ringEnc + n) piece (u32 piece 1) = some d := hput
  unfold Dev.encodeResume
  rw [hp, List.length_singleton, Dev.encDrain]
  simp only [hp, hput']
  rw [Dev.encDrain, hempty]
  exact congrArg d.onEnc (funext fun l => upd_upd l _ _ _)

/-- A released stream that has coded everything writes its closing piece and ends. -/
theorem encodeStreamEnd_released : ∀ (s : State) (n : Fin 32), (s.dev.encI n).ending = true → (s.dev.encI n).taken = [] → (s.dev.encI n).plan = [] →
      (s.dev.encI n).pendingAu = [] → (∃ b, (s.dev.ringI (64 + n)).freeBuf encSpans = some b) → s.dev.enc.length = 32 →
      ∃ t : State, exec (.encodeStreamEnd n) s = .next t ∧ t.dev.encI n = EncSt.reset ∧
        (t.dev.ringI (64 + n)).nextOrd = (s.dev.ringI (64 + n)).nextOrd + 1 := by
  intro s n hend htaken hplan hpend ⟨b, hfree⟩ hlen
  obtain ⟨d, hput, hnext⟩ := Dev.putPiece_nextOrd (frame := 0xFFFFFFFF) (piece := s.dev.endPiece n) hfree
  have hlt : n.val < d.enc.length := by
    rw [Dev.putPiece_enc hput, hlen]
    exact n.isLt
  have hstep : s.dev.encodeEnd n = d.onEncI n fun _ => EncSt.reset := by
    unfold Dev.encodeEnd
    simp only [hend, htaken, hplan, hpend, List.isEmpty_nil, Bool.and_self, if_true]
    split
    · next d' h =>
      have hd : some d' = some d := h.symm.trans hput
      rw [Option.some.inj hd]
    · next h => exact absurd (h.symm.trans hput) (by simp)
  exact ⟨_, next_withDev hstep, getD_upd_same _ _ _ _ hlt, hnext⟩

/-- Settles O40. -/
theorem encodePictures : Obligations.EncodePictures := by
  unfold Obligations.EncodePictures
  refine ⟨encodePicture_codesPlanned, ?_, encodeOutputResume_lastPiece, encodeStreamEnd_released, ?_⟩
  · rintro s core ⟨m, hm, hst⟩
    refine next_withDev (d' := s.dev) ?_
    rw [Dev.encodeNext, if_pos (List.any_eq_true.mpr ⟨m, hm, hst⟩)]
  · intro s n h
    refine next_withDev (d' := s.dev) ?_
    unfold Dev.encodeEnd
    rw [if_neg]
    rcases h with h | h | h | h <;> simp [h]

end Sys2Proof.Machine
end

section
/-!
SUPPORT. Writes to the registers of BAR0, claims of events, and pending MSI-X messages (00_scope R7; 13 R322, R334; 22 R521 to
R523).
-/
namespace Sys2Proof.Machine

/-! ### Sizes and blocks (13 R322) -/

theorem Dev.busWrite_word (d : Dev) {off : Nat} (v : Nat) (h : off % 4 = 0) :
    d.busWrite off 4 v = d.writeReg off (v % 2 ^ 32) := by
  rw [Dev.busWrite, if_pos ⟨rfl, h⟩]

theorem Dev.busWrite_pair (d : Dev) {off : Nat} (v : Nat) (h : off % 8 = 0) :
    d.busWrite off 8 v = (d.writeReg off (v % 2 ^ 32)).writeReg (off + 4) (v / 2 ^ 32) := by
  rw [Dev.busWrite, if_neg (by simp), if_pos ⟨rfl, h⟩]

theorem Dev.busWrite_other (d : Dev) {off n : Nat} (v : Nat) (h4 : ¬ (n = 4 ∧ off % 4 = 0)) (h8 : ¬ (n = 8 ∧ off % 8 = 0)) :
    d.busWrite off n v = d.emit .aerCorrectable := by
  rw [Dev.busWrite, if_neg h4, if_neg h8]

/-- No register of these blocks takes a write. -/
theorem Dev.writeReg_readOnly (d : Dev) {off : Nat} (v : Nat)
    (h : off / 0x1000 ∈ [0x03, 0x04, 0x05, 0x06, 0x08, 0x09, 0x0C, 0x0F, 0x10, 0x14, 0x15, 0x16, 0x21, 0x22, 0x23, 0x24,
      0x201]) : d.writeReg off v = d := by
  unfold Dev.writeReg Dev.writeFlags
  generalize off / 0x1000 = page at h ⊢
  simp only [List.mem_cons, List.not_mem_nil, or_false] at h
  rcases h with rfl | rfl | rfl | rfl | rfl | rfl | rfl | rfl | rfl | rfl | rfl | rfl | rfl | rfl | rfl | rfl | rfl <;> rfl

theorem bit_eq_testBit (n i : Nat) : bit n i = n.testBit i := (Nat.testBit_eq_decide_div_mod_eq).symm

theorem bit_toNat_mod (v : BitVec 64) {i : Nat} (h : i < 32) : bit (v.toNat % 2 ^ 32) i = v.getLsbD i := by
  rw [bit_eq_testBit, Nat.testBit_mod_two_pow, decide_eq_true h, Bool.true_and, BitVec.testBit_toNat]

/-! ### Flags of TICK_STATUS (00_scope R7) -/

theorem Dev.w1c_overrun (d : Dev) (v : Nat) : d.w1c 0x1010 v 2 (·.onTick fun t => { t with overrun := false }) =
    d.onTick fun t => { t with overrun := t.overrun && !(bit v 2 && d.clears 0x1010 2) } := by
  unfold Dev.w1c
  cases bit v 2 && d.clears 0x1010 2 with
  | false =>
    simp only [Bool.not_false, Bool.and_true]
    rfl
  | true =>
    simp only [Bool.not_true, Bool.and_false]
    rfl

theorem Dev.w1c_storm (d : Dev) (v : Nat) : d.w1c 0x1010 v 1 (·.onTick fun t => { t with storm := false }) =
    d.onTick fun t => { t with storm := t.storm && !(bit v 1 && d.clears 0x1010 1) } := by
  unfold Dev.w1c
  cases bit v 1 && d.clears 0x1010 1 with
  | false =>
    simp only [Bool.not_false, Bool.and_true]
    rfl
  | true =>
    simp only [Bool.not_true, Bool.and_false]
    rfl

theorem Dev.w1c_stepped (d : Dev) (v : Nat) : d.w1c 0x1010 v 0 (·.onTick fun t => { t with stepped := false }) =
    d.onTick fun t => { t with stepped := t.stepped && !(bit v 0 && d.clears 0x1010 0) } := by
  unfold Dev.w1c
  cases bit v 0 && d.clears 0x1010 0 with
  | false =>
    simp only [Bool.not_false, Bool.and_true]
    rfl
  | true =>
    simp only [Bool.not_true, Bool.and_false]
    rfl

/-! ### Fields of a word that is written -/

/-- Bits [31:12] of a word, as a base address takes them. -/
theorem ofNat_page (v : BitVec 64) : BitVec.ofNat 32 (v.toNat % 2 ^ 32 / 4096 * 4096) = v.setWidth 32 &&& 0xFFFFF000 := by
  have hmask : ∀ i : Fin 32, (0xFFFFF000 : BitVec 32).getLsbD i = decide (12 ≤ i.val) := by decide
  refine BitVec.eq_of_getLsbD_eq fun i hi => ?_
  have h := hmask ⟨i, hi⟩
  rw [BitVec.getLsbD_and, h, BitVec.getLsbD_ofNat, show (4096 : Nat) = 2 ^ 12 from rfl, Nat.testBit_mul_two_pow,
    Nat.testBit_div_two_pow, BitVec.getLsbD_setWidth, Nat.testBit_mod_two_pow]
  by_cases h12 : 12 ≤ i
  · simp [h12, hi, Nat.sub_add_cancel h12, ← BitVec.testBit_toNat]
  · simp [h12]

theorem ofNat_byte (v : BitVec 64) {i : Nat} (h : i ≤ 24) :
    BitVec.ofNat 8 (v.toNat % 2 ^ 32 / 2 ^ i) = (v >>> i).setWidth 8 := by
  refine BitVec.eq_of_getLsbD_eq fun k hk => ?_
  rw [BitVec.getLsbD_ofNat, Nat.testBit_div_two_pow, Nat.testBit_mod_two_pow, BitVec.getLsbD_setWidth,
    BitVec.getLsbD_ushiftRight, BitVec.testBit_toNat, decide_eq_true (by omega : k + i < 32), Bool.true_and, Nat.add_comm]

/-! ### Claims (22 R521, R523) -/

/-- The better of two sources by priority; of equals the later one. -/
def betterOf (prio : Nat → Nat) (m : Option Nat) (s : Nat) : Option Nat := match m with
  | some b => if prio b ≤ prio s then some s else m
  | none => some s

theorem Dev.bestSource_eq (d : Dev) (t : Nat) : d.bestSource t = (d.eligibles t).foldl (betterOf d.srcPrio) none := rfl

theorem foldl_betterOf_stays {prio : Nat → Nat} {n : Nat} {l : List Nat} (h : ∀ x ∈ l, prio x < prio n) :
    l.foldl (betterOf prio) (some n) = some n := by
  induction l with
  | nil => rfl
  | cons x l ih =>
    have hx : ¬ prio n ≤ prio x := Nat.not_le.mpr (h x List.mem_cons_self)
    rw [List.foldl_cons, betterOf, if_neg hx]
    exact ih fun y hy => h y (List.mem_cons_of_mem _ hy)

/-- In an ascending list, the source that beats every other, and of equals the greatest, is the one found. -/
theorem foldl_betterOf {prio : Nat → Nat} {n : Nat} {l : List Nat} (hsort : l.Pairwise (· < ·)) (hn : n ∈ l)
    (hbest : ∀ x ∈ l, x ≠ n → prio x < prio n ∨ (prio x = prio n ∧ x < n)) (m : Option Nat)
    (hm : ∀ b ∈ m, prio b ≤ prio n) : l.foldl (betterOf prio) m = some n := by
  induction l generalizing m with
  | nil => cases hn
  | cons x l ih =>
    obtain ⟨hx, hl⟩ := List.pairwise_cons.mp hsort
    have hle : ∀ y ∈ x :: l, prio y ≤ prio n := fun y hy => by
      by_cases hyn : y = n
      · exact Nat.le_of_eq (congrArg prio hyn)
      · rcases hbest y hy hyn with h | ⟨h, _⟩ <;> omega
    rw [List.foldl_cons]
    by_cases hxn : x = n
    · subst hxn
      have htake : betterOf prio m x = some x := by
        cases m with
        | none => rfl
        | some b => rw [betterOf, if_pos (hm b rfl)]
      rw [htake]
      refine foldl_betterOf_stays fun y hy => ?_
      have hlt := hx y hy
      rcases hbest y (List.mem_cons_of_mem _ hy) (Nat.ne_of_gt hlt) with h | ⟨_, h⟩
      · exact h
      · omega
    · refine ih hl ((List.mem_cons.mp hn).resolve_left fun h => hxn h.symm)
        (fun y hy => hbest y (List.mem_cons_of_mem _ hy)) _ fun b hb => ?_
      cases m with
      | none => exact (Option.some.inj hb) ▸ hle x List.mem_cons_self
      | some a =>
        rw [betterOf] at hb
        split at hb
        · exact (Option.some.inj hb) ▸ hle x List.mem_cons_self
        · exact hm b hb

theorem Dev.mem_eligibles {d : Dev} {t n : Nat} : n ∈ d.eligibles t ↔ n < 320 ∧ d.eligible t n = true := by
  simp [Dev.eligibles, which]

theorem Dev.eligibles_ascending (d : Dev) (t : Nat) : (d.eligibles t).Pairwise (· < ·) :=
  List.Pairwise.filter _ List.pairwise_lt_range

/-- A write of 8 bytes is two of 4 bytes. -/
theorem registerWrite_eight_eq_two_four : ∀ (s : State) (off : BitVec 24) (v : BitVec 64), off.toNat % 8 = 0 →
      ∃ t : State, exec (.registerWrite off 4 (v &&& 0xFFFFFFFF)) s = .next t ∧
        exec (.registerWrite off 8 v) s = exec (.registerWrite (off + 4) 4 (v >>> 32)) t := by
  intro s off v h8
  have hlow : (v &&& 0xFFFFFFFF).toNat % 2 ^ 32 = v.toNat % 2 ^ 32 := by
    rw [BitVec.toNat_and, show (0xFFFFFFFF : BitVec 64).toNat = 2 ^ 32 - 1 from rfl, Nat.and_two_pow_sub_one_eq_mod,
      Nat.mod_mod]
  have hhigh : (v >>> 32).toNat % 2 ^ 32 = v.toNat / 2 ^ 32 := by
    have := v.isLt
    rw [BitVec.toNat_ushiftRight, Nat.shiftRight_eq_div_pow]
    omega
  have hnext : (off + 4).toNat = off.toNat + 4 := by bv_omega
  refine ⟨_, rfl, congrArg Host.Outcome.next ?_⟩
  have hword := s.dev.busWrite_word (off := off.toNat) (v &&& 0xFFFFFFFF).toNat (by omega)
  rw [s.dev.busWrite_pair v.toNat h8, hword, hlow, hnext, Dev.busWrite_word _ _ (by omega), hhigh]

/-- The three W1C bits of `TICK_STATUS`. -/
theorem registerWrite_tickStatus : ∀ (s : State) (v : BitVec 64), exec (.registerWrite 0x1010 4 v) s = .next (s.withDev (
        s.dev.onTick fun t => { t with
          overrun := t.overrun && !(v.getLsbD 2 && s.dev.clears 0x1010 2),
          storm := t.storm && !(v.getLsbD 1 && s.dev.clears 0x1010 1),
          stepped := t.stepped && !(v.getLsbD 0 && s.dev.clears 0x1010 0) })) := by
  intro s v
  refine next_withDev ?_
  rw [← bit_toNat_mod v (i := 2) (by decide), ← bit_toNat_mod v (i := 1) (by decide),
    ← bit_toNat_mod v (i := 0) (by decide)]
  have hwrite := s.dev.busWrite_word (off := 0x1010) v.toNat rfl
  refine hwrite.trans ?_
  show Dev.writeTick _ _ _ = _
  rw [Dev.writeTick, if_pos rfl]
  dsimp only
  rw [Dev.w1c_overrun, Dev.w1c_storm, Dev.w1c_stepped]
  rfl

/-- A claim with no eligible source. -/
theorem evtClaimRead_of_noneEligible : ∀ (s : State) (t : Fin 16), (∀ n, n < 320 → s.dev.eligible t n = false) →
      exec (.evtClaimRead t) s = .next (s.withDev (
        ((s.dev.onEvt fun e => { e with spurious :=
            if (s.dev.tgtI t).sent && !(s.dev.tgtI t).brought then bump e.spurious else e.spurious }).onTgtI t fun x =>
          { x with sent := false }).emit (.readData 0x3FF))) := by
  intro s t hnone
  have hempty : s.dev.eligibles t = [] :=
    List.eq_nil_iff_forall_not_mem.mpr fun n hn => by
      obtain ⟨hlt, hel⟩ := Dev.mem_eligibles.mp hn
      simp [hnone n hlt] at hel
  have hfound : s.dev.bestSource t = none := by rw [Dev.bestSource_eq, hempty, List.foldl_nil]
  refine next_withDev ?_
  rw [Dev.claim, hfound]
  dsimp only
  split <;> rfl

/-- A pending message leaves exactly when nothing holds it back. -/
theorem msixPendingSend_cases : ∀ (s : State) (v : Fin 64),
      (s.dev.host.pba.getD v false = true ∧ s.dev.host.power = .d0 ∧ s.dev.host.msixOn = true ∧
        s.dev.host.funcMask = false ∧ (s.dev.msixVec v).masked = false →
        exec (.msixPendingSend v) s = .next (s.withDev (
          (s.dev.onHost fun h => { h with pba := h.pba.set v false }).emit (.msix v)))) ∧
      (s.dev.host.pba.getD v false = false ∨ s.dev.host.power ≠ .d0 ∨ s.dev.host.msixOn = false ∨
        s.dev.host.funcMask = true ∨ (s.dev.msixVec v).masked = true → exec (.msixPendingSend v) s = .next s) := by
  intro s v
  refine ⟨fun ⟨hpend, hpower, hon, hfunc, hvec⟩ => next_withDev ?_, fun h => next_withDev (d' := s.dev) ?_⟩
  · rw [Dev.sendPending, if_pos]
    simp only [hpend, hpower, hon, hfunc, hvec, decide_true, Bool.not_false, Bool.and_self]
  · rw [Dev.sendPending, if_neg]
    simp only [Bool.and_eq_true, Bool.not_eq_true', decide_eq_true_eq]
    rintro ⟨⟨⟨⟨hpend, hpower⟩, hon⟩, hfunc⟩, hvec⟩
    rcases h with h | h | h | h | h
    · simp only [h, Bool.false_eq_true] at hpend
    · exact absurd hpower h
    · simp [h] at hon
    · simp [h] at hfunc
    · simp [h] at hvec

/-- Settles O53. -/
theorem registerWrites : Obligations.RegisterWrites := by
  unfold Obligations.RegisterWrites
  refine ⟨?_, registerWrite_eight_eq_two_four, ?_, ?_, registerWrite_tickStatus, ?_, ?_, ?_,
    evtClaimRead_of_noneEligible, msixPendingSend_cases⟩
  · exact fun s off n v h4 h8 => next_withDev (s.dev.busWrite_other v.toNat h4 h8)
  · intro s off v h4 hpage
    refine next_withDev (d' := s.dev) ?_
    rw [Dev.busWrite_word _ _ h4, Dev.writeReg_readOnly _ _ hpage]
  · intro s v
    refine next_withDev ?_
    rw [← bit_toNat_mod v (by decide)]
    rfl
  · intro s v
    refine next_withDev ?_
    rw [← ofNat_page]
    rfl
  · intro s v
    refine next_withDev ?_
    have hlow := ofNat_byte v (i := 0) (by decide)
    rw [Nat.pow_zero, Nat.div_one, BitVec.ushiftRight_zero] at hlow
    rw [← ofNat_byte v (i := 16) (by decide), ← ofNat_byte v (i := 8) (by decide), ← hlow]
    rfl
  · intro s t n hn hel hbest
    have hfound : s.dev.bestSource t = some n :=
      (s.dev.bestSource_eq t).trans (foldl_betterOf (s.dev.eligibles_ascending t) (Dev.mem_eligibles.mpr ⟨hn, hel⟩)
        (fun x hx hne => hbest x (Dev.mem_eligibles.mp hx).1 (Dev.mem_eligibles.mp hx).2 hne) none nofun)
    refine next_withDev ?_
    rw [Dev.claim, hfound]

end Sys2Proof.Machine
end

section
/-!
SUPPORT. Power states and resets (13 R320; 22 R526; 24 R547 to R560): what sleep, the loss of power, the store's sequence and
start-up leave of the device.
-/
namespace Sys2Proof.Machine

/-! ### Sleep and the return to D0 (13 R320; 22 R526) -/

/-- Data that waited in D3 is written in its order. -/
theorem Dev.each_hostWrite {d : Dev} (h : d.host.power = .d0) (l : List (Nat × List Byte)) :
    d.each l (fun d w => d.hostWrite w.1 w.2) =
      d.onHostMem fun m => l.foldl (fun m w => hostCellWrite m w.1 w.2) m := by
  induction l generalizing d with
  | nil => rfl
  | cons w l ih =>
    have hstep : d.hostWrite w.1 w.2 = d.onHostMem (hostCellWrite · w.1 w.2) := Dev.hostWrite_d0 h _ _
    show (d.hostWrite w.1 w.2).each l _ = _
    rw [hstep]
    exact (ih (d := d.onHostMem (hostCellWrite · w.1 w.2)) h).trans rfl

/-- Receipts written on the return to D0 leave the power state, what waits and the event targets. -/
theorem Dev.each_writeHeld {d : Dev} (h : d.host.power = .d0) (l : List (Nat × List Byte)) :
    let e := d.each l fun d w => d.writeHeld w.1 w.2
    e.host.power = .d0 ∧ e.host.heldRcpt = d.host.heldRcpt ∧ e.host.heldWr = d.host.heldWr ∧ e.evt = d.evt := by
  induction l generalizing d with
  | nil => exact ⟨h, rfl, rfl, rfl⟩
  | cons w l ih =>
    obtain ⟨hp, hr, hw, he⟩ : (d.writeHeld w.1 w.2).host.power = .d0 ∧
        (d.writeHeld w.1 w.2).host.heldRcpt = d.host.heldRcpt ∧
        (d.writeHeld w.1 w.2).host.heldWr = d.host.heldWr ∧ (d.writeHeld w.1 w.2).evt = d.evt := by
      unfold Dev.writeHeld
      dsimp only
      split
      · rw [Dev.hostWrite_d0 h]
        exact ⟨h, rfl, rfl, rfl⟩
      · exact ⟨h, rfl, rfl, rfl⟩
    obtain ⟨hp', hr', hw', he'⟩ := ih hp
    exact ⟨hp', hr'.trans hr, hw'.trans hw, he'.trans he⟩

theorem Dev.writeHeld_hostMem {d : Dev} {cq : Nat} (h : d.host.power = .d0) (hq : (d.cqI cq).enabled = true)
    (b : List Byte) : (d.writeHeld cq b).hostMem = hostCellWrite d.hostMem
      ((d.cqI cq).base.toNat + 32 * (d.cqI cq).tail)
      (putBytes b 7 [b.getD 7 0 ||| (if (d.cqI cq).phase then 1 else 0)]) := by
  unfold Dev.writeHeld
  dsimp only
  rw [if_pos hq, Dev.hostWrite_d0 h]
  rfl

/-- The device in D0 again, with nothing waiting. -/
def Dev.awake (d : Dev) : Dev :=
  d.onHost fun h => { h with power := .d0, heldRcpt := [], heldWr := [], heldRaised := false, d3Wake := false }

/-- The return to D0 writes the data that waited, then the receipts, and lets targets wake again. -/
theorem Dev.wakeUp_asleep {d : Dev} (h : d.host.power ≠ .d0) :
    let e := (d.awake.onHostMem fun m => d.host.heldWr.foldl (fun m w => hostCellWrite m w.1 w.2) m).each d.host.heldRcpt
      fun d w => d.writeHeld w.1 w.2
    d.wakeUp.host = e.host ∧ d.wakeUp.hostMem = e.hostMem ∧
      d.wakeUp.evt.targets = e.evt.targets.map fun y => { y with wakeSent := false } := by
  have hasleep : (d.host.power != .d0) = true := by simpa using h
  have hdata := Dev.each_hostWrite (d := d.awake) rfl d.host.heldWr
  rw [← hdata]
  unfold Dev.wakeUp
  simp only [hasleep, if_true]
  split <;> exact ⟨rfl, rfl, rfl⟩

/-! ### The store's sequence and the loss of power leave the other parts (24 R548, R549) -/

/-- What the release of finished store commands keeps. -/
theorem Dev.settleStore_keeps {β : Type} (g : Dev → β) (hstore : ∀ f (d : Dev), g (d.onStore f) = g d)
    (htick : ∀ f (d : Dev), g (d.onTick f) = g d) (hfaults : ∀ f (d : Dev), g (d.onFaults f) = g d) (d : Dev) :
    g d.settleStore = g d := by
  unfold Dev.settleStore
  dsimp only
  rw [hstore, Dev.each_keeps g, Dev.each_keeps g]
  · intro d h
    rw [Dev.endHole, Dev.finish8, Dev.atClose, htick, hstore]
  · intro d f
    split
    · rw [Dev.finish8, Dev.atClose, htick, Dev.reportNow, Dev.report, hfaults]
    · rw [Dev.finish8, Dev.atClose, htick]

theorem Dev.powerDownStore_keeps {β : Type} (g : Dev → β) (hstore : ∀ f (d : Dev), g (d.onStore f) = g d)
    (htick : ∀ f (d : Dev), g (d.onTick f) = g d) (hfaults : ∀ f (d : Dev), g (d.onFaults f) = g d)
    (hring : ∀ r f (d : Dev), g (d.onRingI r f) = g d) (d : Dev) : g d.powerDownStore = g d := by
  unfold Dev.powerDownStore
  dsimp only
  rw [Dev.settleStore_keeps g hstore htick hfaults, hstore, Dev.each_keeps g]
  intro d u
  split
  · exact Dev.each_keeps g _ d fun d o => hring _ _ d
  · rfl

/-- Memory, boot flash and engines: what the reset of the device reads beside the store. -/
theorem Dev.powerDownStore_kept (d : Dev) :
    d.powerDownStore.mem = d.mem ∧ d.powerDownStore.boot = d.boot ∧ d.powerDownStore.mills = d.mills := by
  refine ⟨?_, ?_, ?_⟩
  · exact Dev.powerDownStore_keeps (·.mem) (fun _ _ => rfl) (fun _ _ => rfl) (fun _ _ => rfl) (fun r f d =>
      Dev.onRingI_keeps (·.mem) d r f (fun _ => rfl) (fun _ => rfl) (fun _ => rfl) (fun _ => rfl) fun _ => rfl) d
  · exact Dev.powerDownStore_keeps (·.boot) (fun _ _ => rfl) (fun _ _ => rfl) (fun _ _ => rfl) (fun r f d =>
      Dev.onRingI_keeps (·.boot) d r f (fun _ => rfl) (fun _ => rfl) (fun _ => rfl) (fun _ => rfl) fun _ => rfl) d
  · exact Dev.powerDownStore_keeps (·.mills) (fun _ _ => rfl) (fun _ _ => rfl) (fun _ _ => rfl) (fun r f d =>
      Dev.onRingI_keeps (·.mills) d r f (fun _ => rfl) (fun _ => rfl) (fun _ => rfl) (fun _ => rfl) fun _ => rfl) d

/-- A device reset that is taken: the store runs its sequence, unless a halt has run it, and the device is cleared. -/
theorem State.deviceReset_taken {s : State} (hin : s.dev.boot.inReset = false)
    (h : s.dev.halted = false ∨ s.dev.hottest < 95) : s.deviceReset = { s with
      dev := (if s.dev.halted then s.dev else s.dev.powerDownStore).lossOfPower.cleared.onBoot fun b =>
        { b with devReset := true, halt := s.dev.halted, storeSeq := true }
      ledger := LedgerSt.reset
      periodNs := 250 } := by
  have hcold : ¬ (s.dev.halted && decide (95 ≤ s.dev.hottest)) = true := by
    rcases h with h | h
    · simp [h]
    · simp [h]
  rw [State.deviceReset]
  simp only [hin, Bool.false_eq_true, if_false, if_neg hcold]

/-- The retired engines are what a reset keeps of the mills (10 R264). -/
theorem Dev.cleared_retired (d : Dev) : d.cleared.mills.map (·.retired) = d.mills.map (·.retired) := by
  show (d.mills.map _).map _ = _
  rw [List.map_map]
  rfl

/-! ### Start-up (24 R554 to R558; 17 R413) -/

/-- The device at the first step of start-up, with the boot flash it has. -/
def Dev.started (d : Dev) (b : BoardState) (powerOn halted : Bool) : Dev :=
  (d.onBoot fun x =>
    { x with inReset := false, devReset := false, powerOn := powerOn, device := !powerOn, halt := halted,
             startMs := BitVec.ofNat 16 (capN 16 b.startMs) }).onHost fun h => { h with msixOn := true }

/-- The device of an image once memory is trained. -/
def Dev.trained (d : Dev) (b : BoardState) (powerOn halted : Bool) (slot : Nat) (image : Image) : Dev :=
  (((d.started b powerOn halted).onBoot fun x => { x with
    slot := slot, version := BitVec.ofNat 32 image.version, security := BitVec.ofNat 6 image.security, phase := 5 }).raiseCore
      b).trainMemory b.channels

theorem Dev.startUp_noImage {d : Dev} {b : BoardState} (powerOn halted : Bool) (hflash : b.flash = none)
    (hnone : bootChoice d.boot.minSecurity.toNat d.boot.dirs d.boot.images = none) :
    d.startUp b powerOn halted =
      (d.started b powerOn halted).onBoot fun x => { x with noImage := true, failedStep := 3, phase := 3 } := by
  have hchoice : bootChoice (d.started b powerOn halted).boot.minSecurity.toNat (d.started b powerOn halted).boot.dirs
      (d.started b powerOn halted).boot.images = none := hnone
  unfold Dev.startUp
  rw [hflash]
  show (match bootChoice (d.started b powerOn halted).boot.minSecurity.toNat (d.started b powerOn halted).boot.dirs
      (d.started b powerOn halted).boot.images with
    | none => _
    | some (slot, image) => _) = _
  rw [hchoice]
  rfl

theorem Dev.startUp_image {d : Dev} {b : BoardState} (powerOn halted : Bool) {slot : Nat} {image : Image}
    (hflash : b.flash = none)
    (hsome : bootChoice d.boot.minSecurity.toNat d.boot.dirs d.boot.images = some (slot, image)) :
    d.startUp b powerOn halted =
      let e := d.trained b powerOn halted slot image
      if !e.dram.ready then e.onBoot fun x => { x with failedStep := if x.failedStep = 0 then 5 else x.failedStep }
      else
        let e := ((e.sweep b).testEngines b).startClerks.startChain
        (e.onHost fun h => { h with ready := e.health.active.count true != 1 }).onBoot fun x => { x with phase := 10 } := by
  have hchoice : bootChoice (d.started b powerOn halted).boot.minSecurity.toNat (d.started b powerOn halted).boot.dirs
      (d.started b powerOn halted).boot.images = some (slot, image) := hsome
  unfold Dev.startUp
  rw [hflash]
  show (match bootChoice (d.started b powerOn halted).boot.minSecurity.toNat (d.started b powerOn halted).boot.dirs
      (d.started b powerOn halted).boot.images with
    | none => _
    | some (slot, image) => _) = _
  rw [hchoice]
  rfl

/-! ### Memory after training (17 R413; 24 R557) -/

/-- The branches of a choice keep what both keep. -/
theorem ite_keeps {β : Type} (g : Dev → β) (c : Prop) [Decidable c] {a b d : Dev} (ha : g a = g d) (hb : g b = g d) :
    g (if c then a else b) = g d := by
  split
  · exact ha
  · exact hb

/-- The pairs that come up at a rate have their channels trained for it, and the others are reported. -/
def Dev.channelsUp (d : Dev) (chans : List BoardChan) (rate : Nat) : Dev :=
  (d.each chans fun d (c : BoardChan) =>
    d.onChanI c.1 fun x =>
      { x with populated := true, gib := c.2.1, ranks := c.2.2.1, limit := c.2.2.2.1,
               trained := if x.trained.contains rate then x.trained else x.trained ++ [rate] }).onDram fun s =>
    { s with rate := BitVec.ofNat 16 rate, ready := decide (rate ≠ 0) }

def Dev.reportLeftOut (d : Dev) (l out : List BoardChan) (rate : Nat) : Dev :=
  let d := if rate = 0 then d else d.onParams fun p => setPar p (pkey 0x0F 0 0x8000) (leBytes 2 rate)
  let d := d.each out fun d (c : BoardChan) => d.reportNow 0x0070 (endpoint 0x0F 0) [c.1]
  let d := if l.isEmpty then d.reportNow 0x0070 (endpoint 0x0F 0) [] else d
  if out.isEmpty && !l.isEmpty then d else d.raiseNow 15

theorem Dev.trainMemory_eq (d : Dev) (l : List BoardChan) :
    let rate := (referencePair l).elim 0 (·.2)
    ∃ chans out, d.trainMemory l = (d.channelsUp chans rate).reportLeftOut l out rate := ⟨_, _, rfl⟩

theorem Dev.reportLeftOut_keeps {β : Type} (g : Dev → β) (hparams : ∀ f (d : Dev), g (d.onParams f) = g d)
    (hreport : ∀ c e x (d : Dev), g (d.reportNow c e x) = g d) (hraise : ∀ n (d : Dev), g (d.raiseNow n) = g d) (d : Dev)
    (l out : List BoardChan) (rate : Nat) : g (d.reportLeftOut l out rate) = g d := by
  have hevent : ∀ d : Dev, g (if out.isEmpty && !l.isEmpty then d else d.raiseNow 15) = g d :=
    fun d => ite_keeps g _ rfl (hraise _ _)
  have hempty : ∀ d : Dev, g (if l.isEmpty then d.reportNow 0x0070 (endpoint 0x0F 0) [] else d) = g d :=
    fun d => ite_keeps g _ (hreport _ _ _ _) rfl
  unfold Dev.reportLeftOut
  rw [hevent, hempty, Dev.each_keeps g _ _ fun d c => hreport _ _ _ d]
  exact ite_keeps g _ rfl (hparams _ _)

/-- Memory is ready when a reference pair gave a rate, and runs at it. -/
theorem Dev.trainMemory_dram (d : Dev) (l : List BoardChan) :
    let rate := (referencePair l).elim 0 (·.2)
    (d.trainMemory l).dram.ready = decide (rate ≠ 0) ∧ (d.trainMemory l).dram.rate = BitVec.ofNat 16 rate := by
  obtain ⟨chans, out, h⟩ := d.trainMemory_eq l
  have hdram := Dev.reportLeftOut_keeps (·.dram) (fun _ _ => rfl) (fun _ _ _ _ => rfl) (fun _ _ => rfl)
    (d.channelsUp chans ((referencePair l).elim 0 (·.2))) l out ((referencePair l).elim 0 (·.2))
  rw [h]
  exact ⟨congrArg DramSt.ready hdram, congrArg DramSt.rate hdram⟩

theorem Dev.trainMemory_host (d : Dev) (l : List BoardChan) : (d.trainMemory l).host = d.host := by
  obtain ⟨chans, out, h⟩ := d.trainMemory_eq l
  rw [h, Dev.reportLeftOut_keeps (·.host) (fun _ _ => rfl) (fun _ _ _ _ => rfl) (fun _ _ => rfl)]
  exact Dev.each_keeps (·.host) chans d fun _ _ => rfl

/-! ### The governor, the engines and the chain leave memory -/

theorem Dev.retarget_dram (d : Dev) : d.retarget.dram = d.dram := by
  unfold Dev.retarget
  exact ite_keeps (·.dram) _ rfl (ite_keeps (·.dram) _ rfl rfl)

theorem Dev.govWatch_dram (d : Dev) : d.govWatch.dram = d.dram :=
  ite_keeps (·.dram) _ (Dev.retarget_dram _) rfl

theorem Dev.probe_dram (d : Dev) (cap : List Nat) (v1 : List Int) (tj : Int) : (d.probe cap v1 tj).dram = d.dram := by
  unfold Dev.probe
  dsimp only
  rw [Dev.retarget_dram, Dev.govWatch_dram]
  exact ite_keeps (·.dram) _ rfl rfl

theorem Dev.sweep_dram (d : Dev) (b : BoardState) : (d.sweep b).dram = d.dram :=
  ite_keeps (·.dram) _ rfl (Dev.probe_dram _ _ _ _)

@[simp] theorem Dev.memWrite_dram (d : Dev) (pool off : Nat) (bs : List Byte) : (d.memWrite pool off bs).dram = d.dram :=
  d.memWrite_keeps (·.dram) pool off bs fun _ => rfl

@[simp] theorem Dev.onRingI_dram (d : Dev) (r : Nat) (f : Ring → Ring) : (d.onRingI r f).dram = d.dram :=
  Dev.onRingI_keeps (·.dram) d r f (fun _ => rfl) (fun _ => rfl) (fun _ => rfl) (fun _ => rfl) fun _ => rfl

theorem Dev.gsBlock_dram (d : Dev) (p : Nat) (f : Frame) : (d.gsBlock p f).dram = d.dram := by
  unfold Dev.gsBlock
  split
  · rfl
  · next b _ =>
    have hover : ∀ (full : Bool) (d : Dev), (if full then ((d.onMillI p fun m => { m with overflow := true }).mark
        (0xB000 + 0x40 * p) 12).raiseNow (192 + p) else d).dram = d.dram := fun full d => ite_keeps (·.dram) _ rfl rfl
    simp only [Dev.onRingI_dram, hover, Dev.memWrite_dram]

theorem Dev.gristFault_dram (d : Dev) (p pt : Nat) (f : Frame) (tile pc ns : Nat) :
    (d.gristFault p pt f tile pc ns).dram = d.dram :=
  ite_keeps (·.dram) _ rfl rfl

theorem Dev.runUnit_dram (d : Dev) (p pt : Nat) (f : Frame) (v : List Byte) (c unit : Nat) (pd : PointData) (cyc : Nat) :
    (d.runUnit p pt f v c unit pd cyc).dram = d.dram := by
  unfold Dev.runUnit
  dsimp only
  split
  · rfl
  · next e _ =>
    split
    · split
      · split
        · rw [Dev.gsBlock_dram]
          exact ite_keeps (·.dram) _ (Dev.gristFault_dram _ _ _ _ _ _ _) rfl
        · exact ite_keeps (·.dram) _ (Dev.gristFault_dram _ _ _ _ _ _ _) rfl
      · exact ite_keeps (·.dram) _ (Dev.gristFault_dram _ _ _ _ _ _ _) rfl
    · exact ite_keeps (·.dram) _ (Dev.gristFault_dram _ _ _ _ _ _ _) rfl

theorem Dev.reissue_dram (d : Dev) (p c e cyc : Nat) : (d.reissue p c e cyc).dram = d.dram := by
  unfold Dev.reissue
  dsimp only
  split
  · rfl
  · split
    · rfl
    · exact Dev.runUnit_dram _ _ _ _ _ _ _ _ _

theorem Dev.recheckMill_dram (d : Dev) (p j ns : Nat) : (d.recheckMill p j ns).dram = d.dram :=
  ite_keeps (·.dram) _ rfl rfl

theorem Dev.retireEngine_dram (d : Dev) (p c e cyc : Nat) : (d.retireEngine p c e cyc).dram = d.dram := by
  refine ite_keeps (·.dram) _ rfl ?_
  rw [Dev.recheckMill_dram]
  exact ite_keeps (·.dram) _ (Dev.reissue_dram _ _ _ _ _) rfl

theorem Dev.testEngines_dram (d : Dev) (b : BoardState) : (d.testEngines b).dram = d.dram := by
  unfold Dev.testEngines
  rw [Dev.each_keeps (·.dram)]
  · rfl
  · exact fun d x => ite_keeps (·.dram) _ rfl (Dev.retireEngine_dram _ _ _ _ _)

theorem Dev.enterHoldover_dram (d : Dev) (ns : Nat) : (d.enterHoldover ns).dram = d.dram := by
  unfold Dev.enterHoldover Dev.setServo
  refine ite_keeps (·.dram) _ ?_ rfl
  dsimp only
  split <;> split <;> rfl

theorem Dev.startChain_dram (d : Dev) : d.startChain.dram = d.dram := by
  unfold Dev.startChain Dev.followMaster
  split
  · split
    · rfl
    · split
      · exact Dev.enterHoldover_dram _ _
      · rfl
  · rfl

/-- The core's first voltage leaves the host's part. -/
theorem Dev.raiseCore_host (d : Dev) (b : BoardState) : (d.raiseCore b).host = d.host := by
  unfold Dev.raiseCore
  refine ite_keeps (·.host) _ rfl (ite_keeps (·.host) _ rfl ?_)
  exact ite_keeps (·.host) _ rfl rfl

/-- The waiting data goes out before the waiting receipts. -/
theorem d0Return_writesHeld : ∀ s : State, s.dev.host.power ≠ .d0 → ∃ t : State, exec .d0Return s = .next t ∧ t.dev.host.power = .d0 ∧
      t.dev.host.heldRcpt = [] ∧ t.dev.host.heldWr = [] ∧ (∀ x ∈ t.dev.evt.targets, x.wakeSent = false) ∧
      (s.dev.host.heldRcpt = [] →
        t.dev.hostMem = s.dev.host.heldWr.foldl (fun m w => hostCellWrite m w.1 w.2) s.dev.hostMem) ∧
      (∀ cq b, s.dev.host.heldRcpt = [(cq, b)] → (s.dev.cqI cq).enabled = true →
        t.dev.hostMem = hostCellWrite (s.dev.host.heldWr.foldl (fun m w => hostCellWrite m w.1 w.2) s.dev.hostMem)
          ((s.dev.cqI cq).base.toNat + 32 * (s.dev.cqI cq).tail)
          (putBytes b 7 [b.getD 7 0 ||| (if (s.dev.cqI cq).phase then 1 else 0)])) := by
  intro s hp
  obtain ⟨hhost, hmem, htargets⟩ := Dev.wakeUp_asleep hp
  obtain ⟨hp', hr', hw', -⟩ := Dev.each_writeHeld (d := s.dev.awake.onHostMem fun m =>
    s.dev.host.heldWr.foldl (fun m w => hostCellWrite m w.1 w.2) m) rfl s.dev.host.heldRcpt
  refine ⟨_, rfl, (congrArg HostSt.power hhost).trans hp', (congrArg HostSt.heldRcpt hhost).trans hr',
    (congrArg HostSt.heldWr hhost).trans hw', ?_, fun hnone => hmem.trans ?_, fun cq b hone hq => hmem.trans ?_⟩
  · intro x hx
    dsimp only at hx
    rw [htargets] at hx
    obtain ⟨y, -, rfl⟩ := List.mem_map.mp hx
    rfl
  · rw [hnone]
    rfl
  · rw [hone]
    have hawake : (s.dev.awake.onHostMem fun m =>
      s.dev.host.heldWr.foldl (fun m w => hostCellWrite m w.1 w.2) m).host.power = .d0 := rfl
    exact Dev.writeHeld_hostMem hawake hq b

/-- What the two resets of the whole device restore and what they keep. -/
theorem reset_restoresValues : ∀ (c : Instr) (s : State), (c = .poresetNLow ∨ (c = .deviceReset ∧ s.dev.boot.inReset = false ∧
        (s.dev.halted = false ∨ s.dev.hottest < 95))) → ∃ t : State, exec c s = .next t ∧
      t.periodNs = 250 ∧ t.ledger = LedgerSt.reset ∧ t.dev.boot.inReset = true ∧ t.dev.params = Dev.reset.params ∧
      t.dev.host = Dev.reset.host ∧ t.dev.env = Dev.reset.env ∧ t.dev.pipe = Dev.reset.pipe ∧
      t.dev.tick = Dev.reset.tick ∧ t.dev.time = Dev.reset.time ∧ t.dev.faults = Dev.reset.faults ∧
      t.dev.mem = s.dev.mem ∧ t.dev.boot.images = s.dev.boot.images ∧ t.dev.boot.dirs = s.dev.boot.dirs ∧
      t.dev.boot.minSecurity = s.dev.boot.minSecurity ∧ t.dev.mills.map (·.retired) = s.dev.mills.map (·.retired) ∧
      (c = .poresetNLow → t.dev.boot.devReset = false ∧ t.dev.store = s.dev.lossOfPower.store) ∧
      (c = .deviceReset → t.dev.boot.devReset = true ∧ t.dev.boot.storeSeq = true ∧ t.dev.boot.halt = s.dev.halted ∧
        (s.dev.halted = false → t.dev.store = s.dev.powerDownStore.lossOfPower.store)) := by
  intro c s hc
  rcases hc with rfl | ⟨rfl, hin, hhalt⟩
  · exact ⟨_, rfl, rfl, rfl, rfl, rfl, rfl, rfl, rfl, rfl, rfl, rfl, rfl, rfl, rfl, rfl, Dev.cleared_retired _,
      fun _ => ⟨rfl, rfl⟩, nofun⟩
  · obtain ⟨hmem, hboot, hmills⟩ : (if s.dev.halted then s.dev else s.dev.powerDownStore).mem = s.dev.mem ∧
        (if s.dev.halted then s.dev else s.dev.powerDownStore).boot = s.dev.boot ∧
        (if s.dev.halted then s.dev else s.dev.powerDownStore).mills = s.dev.mills := by
      split
      · exact ⟨rfl, rfl, rfl⟩
      · exact s.dev.powerDownStore_kept
    have himages := congrArg BootSt.images hboot
    have hdirs := congrArg BootSt.dirs hboot
    have hmin := congrArg BootSt.minSecurity hboot
    refine ⟨_, congrArg Host.Outcome.next (State.deviceReset_taken hin hhalt), rfl, rfl, rfl, rfl, rfl, rfl, rfl, rfl, rfl,
      rfl, hmem, himages, hdirs, hmin,
      (Dev.cleared_retired _).trans (congrArg (List.map (·.retired)) hmills), nofun, fun _ => ⟨rfl, rfl, rfl, ?_⟩⟩
    intro hno
    simp only [hno, Bool.false_eq_true, if_false]
    rfl

/-- Start-up after a device reset without an accepted image. -/
theorem deviceResetRelease_noImage : ∀ (s : State) (tj : Int) (b : BoardState), s.dev.boot.inReset = true → s.dev.boot.storeSeq = true → tj < 95 →
      b.flash = none → bootChoice s.dev.boot.minSecurity.toNat s.dev.boot.dirs s.dev.boot.images = none →
      ∃ t : State, exec (.deviceResetRelease true tj b) s = .next t ∧ t.dev.boot.inReset = false ∧
        t.dev.boot.device = true ∧ t.dev.boot.powerOn = false ∧ t.dev.boot.noImage = true ∧
        t.dev.boot.failedStep = 3 ∧ t.dev.host.ready = s.dev.host.ready := by
  intro s tj b hin hseq hcold hflash hnone
  have hstep : s.releaseReset true tj b = { s with
      jtag := s.jtag.settle
      dev := (s.dev.onBoot fun x => { x with devReset := false }).startUp b false s.dev.boot.halt } := by
    simp [State.releaseReset, hin, hseq, hcold]
  have hstart := Dev.startUp_noImage (d := s.dev.onBoot fun x => { x with devReset := false }) false s.dev.boot.halt hflash
    hnone
  rw [hstart] at hstep
  exact ⟨_, congrArg Host.Outcome.next hstep, rfl, rfl, rfl, rfl, rfl, rfl⟩

/-- Start-up after a power-on reset stops at step 3, at step 5, or ends. -/
theorem powerOnReset_cases : ∀ (s : State) (b : BoardState), b.railsInOrder = true → b.flash = none →
      (bootChoice s.dev.boot.minSecurity.toNat s.dev.boot.dirs s.dev.boot.images = none →
        ∃ t : State, exec (.powerOnReset b) s = .next t ∧ t.dev.boot.powerOn = true ∧ t.dev.boot.noImage = true ∧
          t.dev.boot.failedStep = 3 ∧ t.dev.boot.phase = 3 ∧ t.dev.host.ready = false) ∧
      (bootChoice s.dev.boot.minSecurity.toNat s.dev.boot.dirs s.dev.boot.images ≠ none →
        (referencePair b.channels = none → ∃ t : State, exec (.powerOnReset b) s = .next t ∧
          t.dev.dram.ready = false ∧ t.dev.host.ready = false ∧ t.dev.boot.failedStep ≠ 0) ∧
        ∀ p rate, referencePair b.channels = some (p, rate) → ∃ t : State, exec (.powerOnReset b) s = .next t ∧
          t.dev.boot.phase = 10 ∧ t.dev.dram.ready = true ∧ t.dev.dram.rate = BitVec.ofNat 16 rate ∧
          t.dev.host.ready = (t.dev.health.active.count true != 1)) := by
  intro s b hrails hflash
  have hstep : exec (.powerOnReset b) s = .next { s.powerDown with dev := s.powerDown.dev.startUp b true false } := by
    refine congrArg Host.Outcome.next ?_
    simp only [hrails, Bool.true_or, if_true]
  refine ⟨fun hnone => ?_, fun hsome => ?_⟩
  · have hstart := Dev.startUp_noImage (d := s.powerDown.dev) true false hflash hnone
    rw [hstep, hstart]
    exact ⟨_, rfl, rfl, rfl, rfl, rfl, rfl⟩
  · obtain ⟨⟨slot, image⟩, hchoice⟩ := Option.ne_none_iff_exists'.mp hsome
    have hstart := Dev.startUp_image (d := s.powerDown.dev) true false hflash hchoice
    obtain ⟨hready, hrate⟩ := Dev.trainMemory_dram ((((s.powerDown.dev.started b true false).onBoot fun x => { x with
      slot := slot, version := BitVec.ofNat 32 image.version, security := BitVec.ofNat 6 image.security,
      phase := 5 }).raiseCore b)) b.channels
    have hhost : (s.powerDown.dev.trained b true false slot image).host.ready = false := by
      rw [Dev.trained, Dev.trainMemory_host, Dev.raiseCore_host]
      rfl
    refine ⟨fun hpair => ?_, fun p rate hpair => ?_⟩
    · rw [hpair] at hready
      have hdown : (s.powerDown.dev.trained b true false slot image).dram.ready = false := hready
      dsimp only at hstart
      rw [hdown, Bool.not_false, if_pos rfl] at hstart
      rw [hstep, hstart]
      refine ⟨_, rfl, hdown, hhost, ?_⟩
      dsimp only [Dev.onBoot]
      split
      · decide
      · next h => exact h
    · have hrate0 : rate ≠ 0 := by
        obtain ⟨q, hq, hqr⟩ := Option.map_eq_some_iff.mp hpair
        have := List.find?_some hq
        obtain ⟨rfl, rfl⟩ := Prod.mk.inj hqr
        simpa using this
      rw [hpair] at hready hrate
      have hup : (s.powerDown.dev.trained b true false slot image).dram.ready = true := hready.trans (decide_eq_true hrate0)
      dsimp only at hstart
      rw [hup, Bool.not_true, if_neg Bool.false_ne_true] at hstart
      have hdram : ((((s.powerDown.dev.trained b true false slot image).sweep b).testEngines b).startClerks.startChain).dram =
          (s.powerDown.dev.trained b true false slot image).dram := by
        rw [Dev.startChain_dram]
        exact (Dev.testEngines_dram _ b).trans (Dev.sweep_dram _ b)
      rw [hstep, hstart]
      exact ⟨_, rfl, rfl, (congrArg DramSt.ready hdram).trans hup, (congrArg DramSt.rate hdram).trans hrate, rfl⟩

/-- Settles O54. -/
theorem powerStatesAndResets : Obligations.PowerStatesAndResets := by
  unfold Obligations.PowerStatesAndResets
  refine ⟨?_, ?_, ?_, d0Return_writesHeld, ?_, reset_restoresValues, ?_, ?_, ?_, deviceResetRelease_noImage,
    powerOnReset_cases⟩
  · intro s cold hp
    refine next_withDev ?_
    simp [Dev.sleep, hp]
  · intro s cold hp
    refine next_withDev ?_
    simp [Dev.sleep, hp]
  · intro d a v cq bs now froze hp
    refine ⟨if_neg hp, ?_, ?_, ?_⟩
    · simp [Dev.message, hp]
    · rw [Dev.putReceipt, if_neg hp]
      rfl
    · rw [Dev.putReceipt, if_neg hp]
      rfl
  · exact fun s c => rfl
  · intro s hin hhalt hhot
    refine congrArg Host.Outcome.next ?_
    simp [State.deviceReset, hin, hhalt, hhot]
  · intro s hin
    refine congrArg Host.Outcome.next ?_
    simp [State.deviceReset, hin, State.withDev]
  · refine fun s tj b => ⟨fun hlow => congrArg Host.Outcome.next ?_, fun hhot => congrArg Host.Outcome.next ?_⟩
    · simp [State.releaseReset, hlow]
    · have : ¬ tj < 95 := by omega
      simp [State.releaseReset, this]

end Sys2Proof.Machine
end

section
/-!
SUPPORT. The governor: what its ramp changes of its own state, the voltage it requests, its readings, its curves and its life
margin (02 R43 to R59).
-/
namespace Sys2Proof.Machine

/-! ### The ramp changes the request and its end only (R50, R51) -/

theorem Dev.retarget_gov (d : Dev) : ∃ final raising request,
    d.retarget.gov = { d.gov with finalMv := final, raising := raising, requestMv := request } := by
  unfold Dev.retarget
  dsimp only
  split
  · exact ⟨_, _, _, rfl⟩
  split
  · exact ⟨_, _, _, rfl⟩
  · exact ⟨_, _, _, rfl⟩

theorem Dev.govWatch_gov (d : Dev) : ∃ policy left final raising request, d.govWatch.gov =
    { d.gov with policy := policy, fixedLeft := left, finalMv := final, raising := raising, requestMv := request } := by
  unfold Dev.govWatch
  split
  · obtain ⟨final, raising, request, h⟩ := Dev.retarget_gov
      ((((d.onGov fun g => { g with policy := 1, fixedLeft := true }).mark 0x2004 3).reportNow 0x0031 0x0200 []).raiseNow 5)
    exact ⟨_, _, _, _, _, h⟩
  · exact ⟨_, _, _, _, _, rfl⟩

/-- What the governor does once the curves have changed keeps its readings, curves, margin and shed streams. -/
theorem Dev.govWatch_retarget_gov (d : Dev) : ∃ policy left final raising request, d.govWatch.retarget.gov =
    { d.gov with policy := policy, fixedLeft := left, finalMv := final, raising := raising, requestMv := request } := by
  obtain ⟨p, l, f, r, q, h⟩ := d.govWatch_gov
  obtain ⟨f', r', q', h'⟩ := d.govWatch.retarget_gov
  exact ⟨p, l, f', r', q', by rw [h', h]⟩

/-! ### The voltage requested (R48, R49, R51) -/

/-- The voltages of the request, 5 mV apart. -/
theorem mem_grid {w : Nat} : w ∈ (List.range 41).map (fun i => 700 + 5 * i) ↔ 700 ≤ w ∧ w ≤ 900 ∧ w % 5 = 0 := by
  simp only [List.mem_map, List.mem_range]
  constructor
  · rintro ⟨i, hi, rfl⟩
    omega
  · rintro ⟨hlo, hhi, h5⟩
    exact ⟨(w - 700) / 5, by omega, by omega⟩

theorem grid_ascending : ((List.range 41).map fun i => 700 + 5 * i).Pairwise (· < ·) :=
  List.pairwise_map.mpr (List.pairwise_lt_range.imp fun h => by omega)

/-- The first that passes, of an ascending list, has none that passes below it. -/
theorem find?_least {p : Nat → Bool} {l : List Nat} (hl : l.Pairwise (· < ·)) {m : Nat} (h : l.find? p = some m) :
    ∀ w ∈ l, w < m → p w = false := by
  obtain ⟨-, as, bs, rfl, has⟩ := List.find?_eq_some_iff_append.mp h
  intro w hw hlt
  rcases List.mem_append.mp hw with hw | hw
  · simpa using has w hw
  · have hge : m ≤ w := by
      rcases List.mem_cons.mp hw with rfl | hw
      · exact Nat.le_refl _
      · exact Nat.le_of_lt (List.rel_of_pairwise_cons (List.pairwise_append.mp hl).2.1 hw)
    omega

theorem all_regions {p : Nat → Bool} : ((List.range 12).all p = true ↔ ∀ r, r < 12 → p r = true) ∧
    ((List.range 12).all p = false ↔ ∃ r, r < 12 ∧ p r = false) := by
  constructor
  · simp
  · simp

/-! ### Readings of the regulator (R51, R52) -/

theorem Dev.heldEnvs_congr {d d' : Dev} (h : d'.env = d.env) : d'.heldEnvs = d.heldEnvs := by
  unfold Dev.heldEnvs Dev.seqAge
  rw [h]

theorem Dev.vcoreReached_none {d : Dev} (h : ∀ x ∈ d.heldEnvs, x.1.phase ≠ .sealing) (mv : Nat) (ok : Bool) :
    d.vcoreReached mv ok = d := by
  have hnone : (d.heldEnvs.filter fun x => x.1.phase == .sealing) = [] :=
    List.filter_eq_nil_iff.mpr fun x hx => by simpa using h x hx
  unfold Dev.vcoreReached
  rw [hnone]
  exact ite_self _

theorem Dev.voutReading_env (d : Dev) (mv : Nat) (ok : Bool) : (d.voutReading mv ok).env = d.env := by
  unfold Dev.voutReading Dev.regulatorFails
  cases ok
  all_goals
    dsimp only
    repeat' split
    all_goals rfl

theorem Dev.statusWord_env (d : Dev) (w : BitVec 16) (ok : Bool) : (d.statusWord w ok).env = d.env := by
  unfold Dev.statusWord
  split
  · rfl
  split <;> rfl

/-! ### The life margin (R58, R63) -/

/-- The worse of two margins, with its region. -/
def worseOf (acc : Nat × Int) (x : Int × Nat) : Nat × Int := if 900 - x.1 < acc.2 then (x.2, 900 - x.1) else acc

theorem worstMargin_eq (v1 : List Int) : worstMargin v1 = v1.zipIdx.foldl worseOf (0, 900 - v1.headD 0) := rfl

theorem foldl_worseOf (l : List (Int × Nat)) (acc : Nat × Int) :
    let r := l.foldl worseOf acc
    (r = acc ∨ ∃ x ∈ l, r = (x.2, 900 - x.1)) ∧ r.2 ≤ acc.2 ∧ ∀ x ∈ l, r.2 ≤ 900 - x.1 := by
  induction l generalizing acc with
  | nil => exact ⟨.inl rfl, Int.le_refl _, nofun⟩
  | cons x l ih =>
    obtain ⟨hfrom, hle, hall⟩ := ih (worseOf acc x)
    have hstep : (worseOf acc x = acc ∨ worseOf acc x = (x.2, 900 - x.1)) ∧ (worseOf acc x).2 ≤ acc.2 ∧
        (worseOf acc x).2 ≤ 900 - x.1 := by
      unfold worseOf
      split
      · next h => exact ⟨.inr rfl, Int.le_of_lt h, Int.le_refl _⟩
      · next h => exact ⟨.inl rfl, Int.le_refl _, Int.not_lt.mp h⟩
    obtain ⟨heq, hacc, hx⟩ := hstep
    refine ⟨?_, Int.le_trans hle hacc, fun y hy => ?_⟩
    · rcases hfrom with h | ⟨y, hy, h⟩
      · rcases heq with e | e
        · exact .inl (h.trans e)
        · exact .inr ⟨x, List.mem_cons_self, h.trans e⟩
      · exact .inr ⟨y, List.mem_cons_of_mem _ hy, h⟩
    · rcases List.mem_cons.mp hy with rfl | hy
      · exact Int.le_trans hle hx
      · exact hall y hy

/-- The worst margin is that of its region, and no region has a lower one. -/
theorem worstMargin_spec {v : List Int} (h : 0 < v.length) :
    (worstMargin v).1 < v.length ∧ (worstMargin v).2 = 900 - v.getD (worstMargin v).1 0 ∧
      ∀ r, r < v.length → (worstMargin v).2 ≤ 900 - v.getD r 0 := by
  have hmem : ∀ x ∈ v.zipIdx, x.2 < v.length ∧ v.getD x.2 0 = x.1 := fun x hx => by
    obtain ⟨a, i⟩ := x
    have hget := List.mem_zipIdx_iff_getElem?.mp hx
    refine ⟨(List.getElem?_eq_some_iff.mp hget).1, ?_⟩
    rw [List.getD_eq_getElem?_getD, hget, Option.getD_some]
  obtain ⟨hfrom, -, hall⟩ := foldl_worseOf v.zipIdx (0, 900 - v.headD 0)
  rw [← worstMargin_eq] at hfrom hall
  have hhead : v.headD 0 = v.getD 0 0 := by
    cases v with
    | nil => rfl
    | cons a v => rfl
  refine ⟨?_, ?_, fun r hr => ?_⟩
  · rcases hfrom with e | ⟨x, hx, e⟩
    · rw [e]
      exact h
    · rw [e]
      exact (hmem x hx).1
  · rcases hfrom with e | ⟨x, hx, e⟩
    · rw [e, hhead]
    · rw [e, (hmem x hx).2]
  · have hx : (v.getD r 0, r) ∈ v.zipIdx := by
      rw [List.mem_zipIdx_iff_getElem?, List.getD_eq_getElem?_getD, List.getElem?_eq_getElem hr, Option.getD_some]
    exact hall _ hx

/-! ### Points of the curves (R43, R44) -/

theorem getD_map_zipIdx {α β : Type} (l : List α) (f : α × Nat → β) {r : Nat} (h : r < l.length) (x : α) (y : β) :
    (l.zipIdx.map f).getD r y = f (l.getD r x, r) := by
  simp [List.getD_eq_getElem?_getD, h]

/-- A point of a region's curve after every region's point `p` is set. -/
theorem getD_setPoint {curves : List (List Nat)} (h12 : curves.length = 12) (h5 : ∀ c ∈ curves, c.length = 5) (p : Nat)
    (v : Nat → Nat) {r i : Nat} (hr : r < 12) (hi : i < 5) :
    ((curves.zipIdx.map fun x => x.1.set p (v x.2)).getD r []).getD i 0 =
      if i = p then v r else (curves.getD r []).getD i 0 := by
  have hlen : (curves.getD r []).length = 5 := by
    rw [List.getD_eq_getElem?_getD, List.getElem?_eq_getElem (h12 ▸ hr), Option.getD_some]
    exact h5 _ (List.getElem_mem _)
  rw [getD_map_zipIdx curves _ (h12 ▸ hr) [] []]
  by_cases hip : i = p
  · subst hip
    rw [if_pos rfl, List.getD_eq_getElem?_getD, List.getElem?_set_self (hlen ▸ hi), Option.getD_some]
  · rw [if_neg hip, List.getD_eq_getElem?_getD, List.getElem?_set_ne (Ne.symm hip), ← List.getD_eq_getElem?_getD]

theorem capN_of_lt {n v : Nat} (h : v < 2 ^ n) : capN n v = v := Nat.min_eq_left (by omega)

/-- Readings that fit their 16 bits are kept as they are. -/
theorem map_capN_getD {l : List Nat} {n : Nat} (hlen : l.length = n) (h : ∀ x ∈ l, x < 2 ^ 16) :
    (List.range n).map (fun i => capN 16 (l.getD i 0)) = l := by
  refine List.ext_getElem (by simp [hlen]) fun i h1 h2 => ?_
  rw [List.getElem_map, List.getElem_range, List.getD_eq_getElem?_getD, List.getElem?_eq_getElem h2, Option.getD_some]
  exact capN_of_lt (h _ (List.getElem_mem _))

theorem map_getD_range {α : Type} {l : List α} {n : Nat} (hlen : l.length = n) (x : α) :
    (List.range n).map (fun i => l.getD i x) = l := by
  refine List.ext_getElem (by simp [hlen]) fun i h1 h2 => ?_
  rw [List.getElem_map, List.getElem_range, List.getD_eq_getElem?_getD, List.getElem?_eq_getElem h2, Option.getD_some]

/-! ### The whole commands -/

/-- A reading while no seal waits for the voltage is the reading alone. -/
theorem exec_readVout {s : State} (h : ∀ x ∈ s.dev.heldEnvs, x.1.phase ≠ .sealing) (mv : Nat) (ok : Bool) :
    exec (.readVout mv ok) s = .next (s.withDev (s.dev.voutReading mv ok)) := by
  refine next_withDev (Dev.vcoreReached_none ?_ mv ok)
  rwa [Dev.heldEnvs_congr (Dev.voutReading_env s.dev mv ok)]

/-- A new GOV_CTRL is taken whole or refused whole (R49, R60). -/
theorem Dev.govCtrl_taken {d : Dev} {v : Nat} (h3 : v / 2 ^ 16 % 4 ≠ 3) (hlo : 700 ≤ v % 1024) (hhi : v % 1024 ≤ 900)
    (h5 : v % 1024 % 5 = 0) (hfix : v / 2 ^ 16 % 4 = 2 → d.reaches d.needs 102 (v % 1024) = true) :
    d.govCtrl v = (d.onGov fun g => { g with
      policy := BitVec.ofNat 2 (v / 2 ^ 16 % 4), fixedMv := BitVec.ofNat 10 (v % 1024) }).retarget := by
  have hpol : bits v 17 16 = v / 2 ^ 16 % 4 := rfl
  have hmv : bits v 9 0 = v % 1024 := congrArg (· % 1024) (Nat.div_one v)
  unfold Dev.govCtrl
  dsimp only
  rw [hpol, hmv, if_pos]
  by_cases h2 : v / 2 ^ 16 % 4 = 2
  · simp only [h2, hlo, hhi, h5, hfix h2, decide_true, Bool.and_self, Bool.or_true, ne_eq, Nat.reduceEqDiff, not_false_eq_true]
  · have : (v / 2 ^ 16 % 4 != 2) = true := by simpa using h2
    simp only [h3, hlo, hhi, h5, this, decide_true, Bool.and_self, Bool.true_or, ne_eq, not_false_eq_true]

theorem Dev.govCtrl_refused {d : Dev} {v : Nat}
    (h : v / 2 ^ 16 % 4 = 3 ∨ v % 1024 < 700 ∨ 900 < v % 1024 ∨ v % 1024 % 5 ≠ 0 ∨
      (v / 2 ^ 16 % 4 = 2 ∧ d.reaches d.needs 102 (v % 1024) = false)) :
    d.govCtrl v = (((d.onGov fun g => { g with refused := true }).mark 0x2004 2).raiseNow 5) := by
  have hpol : bits v 17 16 = v / 2 ^ 16 % 4 := rfl
  have hmv : bits v 9 0 = v % 1024 := congrArg (· % 1024) (Nat.div_one v)
  unfold Dev.govCtrl
  dsimp only
  rw [hpol, hmv, if_neg]
  simp only [Bool.and_eq_true, Bool.or_eq_true, decide_eq_true_eq, bne_iff_ne]
  rintro ⟨⟨⟨⟨h3, hlo⟩, hhi⟩, h5⟩, hfix⟩
  rcases h with h | h | h | h | ⟨h, hno⟩
  · exact h3 h
  · omega
  · omega
  · exact h h5
  · rcases hfix with hfix | hfix
    · exact hfix h
    · exact absurd hfix (by simp [hno])

/-- A request that no fixed voltage replaces is the lowest grid voltage that reaches the target everywhere. -/
theorem Dev.request_spec {d : Dev} {needs : List Q} {mv : Nat} {short : Bool} (hpol : d.gov.policy ≠ 2)
    (h : d.request needs = (mv, short)) : 700 ≤ mv ∧ mv ≤ 900 ∧ mv % 5 = 0 ∧
      (short = false → ∀ r, r < 12 → qLe (d.target needs) (d.capacity r mv) = true) ∧
      (∀ w, 700 ≤ w → w < mv → w % 5 = 0 → ∃ r, r < 12 ∧ qLe (d.target needs) (d.capacity r w) = false) ∧
      (short = true → mv = 900 ∧ ∃ r, r < 12 ∧ qLe (d.target needs) (d.capacity r 900) = false) := by
  rw [Dev.request, if_neg hpol] at h
  dsimp only at h
  split at h
  · next w hw =>
    obtain ⟨rfl, rfl⟩ := Prod.mk.inj h
    obtain ⟨hlo, hhi, h5⟩ := mem_grid.mp (List.mem_of_find?_eq_some hw)
    have hreach : ((List.range 12).all fun r => qLe (d.target needs) (d.capacity r w)) = true :=
      List.find?_some (p := fun mv => (List.range 12).all fun r => qLe (d.target needs) (d.capacity r mv)) hw
    refine ⟨hlo, hhi, h5, fun _ => all_regions.1.mp hreach, fun x hx hlt hx5 => ?_, nofun⟩
    exact all_regions.2.mp (find?_least grid_ascending hw x (mem_grid.mpr ⟨hx, by omega, hx5⟩) hlt)
  · next hnone =>
    obtain ⟨rfl, rfl⟩ := Prod.mk.inj h
    have hall : ∀ w, 700 ≤ w → w ≤ 900 → w % 5 = 0 → ∃ r, r < 12 ∧ qLe (d.target needs) (d.capacity r w) = false :=
      fun w hlo hhi h5 => all_regions.2.mp (by
        simpa using List.find?_eq_none.mp hnone w (mem_grid.mpr ⟨hlo, hhi, h5⟩))
    exact ⟨by decide, by decide, by decide, nofun, fun w hlo hlt h5 => hall w hlo (Nat.le_of_lt hlt) h5,
      fun _ => ⟨rfl, hall 900 (by decide) (by decide) (by decide)⟩⟩

/-- A reading near the request ends the retries; a raise goes on, or ends at its last voltage (R51). -/
theorem Dev.voutReading_near {d : Dev} {mv : Nat} (hmv : mv < 1024) (h : near15 mv d.gov.requestMv = true) :
    d.voutReading mv true =
      let e := d.onGov fun g => { g with voutMv := BitVec.ofNat 10 mv, retries := 0 }
      if !d.gov.raising then e
      else if d.gov.requestMv < d.gov.finalMv then e.raiseStep else e.onGov fun g => { g with raising := false } := by
  have hcap : capN 10 mv = mv := capN_of_lt hmv
  unfold Dev.voutReading
  simp only [if_true, Bool.true_and, hcap]
  exact (if_pos h).trans rfl

/-- A reading off the request is retried up to three times (R52). -/
theorem Dev.voutReading_far {d : Dev} {mv : Nat} (hmv : mv < 1024) (h : near15 mv d.gov.requestMv = false) :
    d.voutReading mv true =
      let e := d.onGov fun g => { g with voutMv := BitVec.ofNat 10 mv }
      if d.gov.retries < 3 then (e.onGov fun g => { g with retries := g.retries + 1 }).emit (.pmbus 0x8B 0)
      else e.regulatorFails := by
  have hcap : capN 10 mv = mv := capN_of_lt hmv
  unfold Dev.voutReading
  simp only [if_true, Bool.true_and, hcap]
  have hno : ¬ near15 mv d.gov.requestMv = true := by simp [h]
  exact (if_neg hno).trans rfl

/-- The margin probe keeps the values it measured and the worst region's margin (R58, R59). -/
theorem Dev.probe_gov (d : Dev) (cap v1 : _) (tj : Int) :
    let v := (List.range 12).map fun r => v1.getD r 0
    ∃ policy left final raising request, (d.probe cap v1 tj).gov =
      { d.gov with
        curves := d.gov.curves.zipIdx.map fun x => x.1.set 4 (capN 16 (cap.getD x.2 0)), v1 := v, probeTj := tj,
        probed := true, lifeRegion := BitVec.ofNat 4 (worstMargin v).1, lifeMv := (worstMargin v).2,
        lifeBelow := decide ((worstMargin v).2 < 10),
        lifeLow := d.gov.lifeLow || (decide ((worstMargin v).2 < 10) && !d.gov.lifeBelow),
        policy := policy, fixedLeft := left, finalMv := final, raising := raising, requestMv := request } := by
  unfold Dev.probe
  dsimp only
  obtain ⟨policy, left, final, raising, request, h⟩ := Dev.govWatch_retarget_gov (if (decide
    ((worstMargin ((List.range 12).map fun r => v1.getD r 0)).2 < 10) && !d.gov.lifeBelow) = true then _ else _)
  refine ⟨policy, left, final, raising, request, h.trans ?_⟩
  split <;> rfl

/-- A write of `GOV_CTRL` is refused or taken whole. -/
theorem govCtrlWrite_cases : ∀ (s : State) (v : Word),
      let mv := v.toNat % 1024
      let policy := v.toNat / 2 ^ 16 % 4
      (policy = 3 ∨ mv < 700 ∨ 900 < mv ∨ mv % 5 ≠ 0 ∨ (policy = 2 ∧ s.dev.reaches s.dev.needs 102 mv = false) →
        exec (.govCtrlWrite v) s = .next (s.withDev (
          (((s.dev.onGov fun g => { g with refused := true }).mark 0x2004 2).raiseNow 5)))) ∧
      (policy ≠ 3 → 700 ≤ mv → mv ≤ 900 → mv % 5 = 0 → (policy = 2 → s.dev.reaches s.dev.needs 102 mv = true) →
        ∃ t : State, exec (.govCtrlWrite v) s = .next t ∧ t.dev.gov.policy.toNat = policy ∧
          t.dev.gov.fixedMv.toNat = mv ∧ exec (.registerWrite 0x2000 4 (v.setWidth 64)) s = .next t) := by
  intro s v
  refine ⟨fun h => next_withDev (Dev.govCtrl_refused h), fun h3 hlo hhi h5 hfix => ?_⟩
  have htaken := Dev.govCtrl_taken h3 hlo hhi h5 hfix
  obtain ⟨final, raising, request, hgov⟩ := Dev.retarget_gov (s.dev.onGov fun g => { g with
    policy := BitVec.ofNat 2 (v.toNat / 2 ^ 16 % 4), fixedMv := BitVec.ofNat 10 (v.toNat % 1024) })
  refine ⟨_, next_withDev htaken, (congrArg (·.policy.toNat) hgov).trans ?_,
    (congrArg (·.fixedMv.toNat) hgov).trans ?_, ?_⟩
  · show (BitVec.ofNat 2 (v.toNat / 2 ^ 16 % 4)).toNat = _
    rw [BitVec.toNat_ofNat]
    omega
  · show (BitVec.ofNat 10 (v.toNat % 1024)).toNat = _
    rw [BitVec.toNat_ofNat]
    omega
  · refine next_withDev (Eq.trans ?_ htaken)
    have hv : (v.setWidth 64).toNat % 2 ^ 32 = v.toNat := by
      have := v.isLt
      rw [BitVec.toNat_setWidth]
      omega
    have hwrite := s.dev.busWrite_word (off := 0x2000) (v.setWidth 64).toNat rfl
    rw [hv] at hwrite
    exact hwrite

/-- A reading within 15 mV of the request. -/
theorem readVout_onRequest : ∀ (s : State) (mv : Nat), (∀ x ∈ s.dev.heldEnvs, x.1.phase ≠ .sealing) → mv ≤ s.dev.gov.requestMv + 15 →
      s.dev.gov.requestMv ≤ mv + 15 → mv < 1024 →
      (s.dev.gov.raising = false ∨ s.dev.gov.finalMv ≤ s.dev.gov.requestMv → exec (.readVout mv true) s =
        .next (s.withDev (s.dev.onGov fun g =>
          { g with voutMv := BitVec.ofNat 10 mv, retries := 0, raising := false }))) ∧
      (s.dev.gov.raising = true → s.dev.gov.requestMv < s.dev.gov.finalMv → exec (.readVout mv true) s =
        .next (s.withDev ((s.dev.onGov fun g => { g with
          voutMv := BitVec.ofNat 10 mv, retries := 0, requestMv := min (s.dev.gov.requestMv + 10) s.dev.gov.finalMv }).emit
            (.pmbus 0x21 (min (s.dev.gov.requestMv + 10) s.dev.gov.finalMv))))) := by
  intro s mv hheld hlo hhi hmv
  have hnear : near15 mv s.dev.gov.requestMv = true := by simp [near15, hlo, hhi]
  rw [exec_readVout hheld, Dev.voutReading_near hmv hnear]
  refine ⟨fun h => congrArg (Host.Outcome.next <| s.withDev ·) ?_, fun hr hlt =>
    congrArg (Host.Outcome.next <| s.withDev ·) ?_⟩
  · dsimp only
    split
    · next hr =>
      have hr : s.dev.gov.raising = false := by simpa using hr
      simp only [Dev.onGov, hr]
    · next hr =>
      rw [if_neg]
      · rfl
      · rcases h with h | h
        · simp [h] at hr
        · exact Nat.not_lt.mpr h
  · dsimp only
    rw [hr, Bool.not_true, if_neg Bool.false_ne_true, if_pos hlt]
    simp only [Dev.raiseStep, Dev.vcoreWrite, Dev.onGov, hr]

/-- A reading off the request is retried three times and then a fault. -/
theorem readVout_offRequest : ∀ (s : State) (mv : Nat), (∀ x ∈ s.dev.heldEnvs, x.1.phase ≠ .sealing) →
      s.dev.gov.requestMv + 15 < mv ∨ mv + 15 < s.dev.gov.requestMv → mv < 1024 →
      (s.dev.gov.retries < 3 → exec (.readVout mv true) s = .next (s.withDev ((s.dev.onGov fun g =>
        { g with voutMv := BitVec.ofNat 10 mv, retries := g.retries + 1 }).emit (.pmbus 0x8B 0)))) ∧
      (3 ≤ s.dev.gov.retries → ∃ t : State, exec (.readVout mv true) s = .next t ∧ t.dev.gov.regFault = true ∧
        t.dev.gov.raising = false ∧ t.dev.gov.retries = 0 ∧
        (s.dev.gov.regFault = false → t.dev.faults.reports = s.dev.faults.reports ++
          [⟨0x0030, s.dev.nowNs, s.dev.time.epoch.toNat, 0x0200, [s.dev.gov.requestMv, mv]⟩])) := by
  intro s mv hheld hoff hmv
  have hfar : near15 mv s.dev.gov.requestMv = false := by
    simp [near15]
    omega
  rw [exec_readVout hheld, Dev.voutReading_far hmv hfar]
  refine ⟨fun hretry => congrArg (Host.Outcome.next <| s.withDev ·) ?_, fun hretry => ?_⟩
  · dsimp only
    rw [if_pos hretry]
    rfl
  · dsimp only
    rw [if_neg (Nat.not_lt.mpr hretry)]
    unfold Dev.regulatorFails
    cases hfault : s.dev.gov.regFault with
    | true =>
      have hold : (s.dev.onGov fun g => { g with voutMv := BitVec.ofNat 10 mv }).gov.regFault = true := hfault
      simp only [hold, Bool.not_true, Bool.false_eq_true, if_false]
      exact ⟨_, rfl, rfl, rfl, rfl, nofun⟩
    | false =>
      have hnew : (s.dev.onGov fun g => { g with voutMv := BitVec.ofNat 10 mv }).gov.regFault = false := hfault
      simp only [hnew, Bool.not_false, if_true]
      refine ⟨_, rfl, rfl, rfl, rfl, fun _ => ?_⟩
      have hshown : (BitVec.ofNat 10 mv).toNat = mv := by
        rw [BitVec.toNat_ofNat]
        omega
      show s.dev.faults.reports ++ [⟨_, _, _, _, [_, (BitVec.ofNat 10 mv).toNat]⟩] = _
      rw [hshown]
      rfl

/-- A window keeps its readings and refreshes one point of every curve. -/
theorem monitorWindow_keeps : ∀ (s : State) (l : List Nat), l.length = 48 → (∀ x ∈ l, x < 2 ^ 16) →
      (∃ t : State, exec (.monitorWindow l) s = .next t ∧ t.dev.gov.readings = l) ∧
      (s.dev.pointNow = 5 → exec (.monitorWindow l) s =
        .next (s.withDev (s.dev.onGov fun g => { g with readings := l }))) ∧
      (s.dev.pointNow < 5 → s.dev.gov.curves.length = 12 → (∀ c ∈ s.dev.gov.curves, c.length = 5) →
        ∃ t : State, exec (.monitorWindow l) s = .next t ∧ ∀ r i, r < 12 → i < 5 →
          (t.dev.gov.curves.getD r []).getD i 0 =
            if i = s.dev.pointNow then slowest l r else (s.dev.gov.curves.getD r []).getD i 0) := by
  intro s l hlen h16
  have hkeep := map_capN_getD hlen h16
  refine ⟨?_, fun hnone => next_withDev ?_, fun hpoint hcurves hfive => ?_⟩
  · refine ⟨_, rfl, ?_⟩
    unfold Dev.window
    dsimp only
    split
    · obtain ⟨policy, left, final, raising, request, h⟩ := Dev.govWatch_retarget_gov (s.dev.onGov fun g =>
        { g with readings := _, curves := _ })
      rw [h]
      exact hkeep
    · exact hkeep
  · unfold Dev.window
    rw [hkeep, hnone]
    simp
  · have hstep : s.dev.window l = (s.dev.onGov fun g => { g with
        readings := l, curves := g.curves.zipIdx.map fun x => x.1.set s.dev.pointNow (slowest l x.2) }).govWatch.retarget := by
      unfold Dev.window
      simp only [hpoint, if_true, hkeep]
    obtain ⟨policy, left, final, raising, request, h⟩ := Dev.govWatch_retarget_gov (s.dev.onGov fun g => { g with
        readings := l, curves := g.curves.zipIdx.map fun x => x.1.set s.dev.pointNow (slowest l x.2) })
    refine ⟨_, next_withDev hstep, fun r i hr hi => ?_⟩
    exact (congrArg (fun g => (g.curves.getD r []).getD i 0) h).trans
      (getD_setPoint hcurves hfive _ (slowest l) hr hi)

/-- A probe sets the 0.90 V points and the life margin of the worst region. -/
theorem marginProbe_sets : ∀ (s : State) (cap : List Nat) (v1 : List Int) (tj : Int), cap.length = 12 → (∀ x ∈ cap, x < 2 ^ 16) →
      v1.length = 12 → s.dev.gov.curves.length = 12 → (∀ c ∈ s.dev.gov.curves, c.length = 5) →
      ∃ t : State, exec (.marginProbe cap v1 tj) s = .next t ∧ t.dev.gov.v1 = v1 ∧ t.dev.gov.probeTj = tj ∧
        t.dev.gov.probed = true ∧ (∀ r, r < 12 → t.dev.gov.lifeMv ≤ 900 - v1.getD r 0) ∧
        t.dev.gov.lifeMv = 900 - v1.getD t.dev.gov.lifeRegion.toNat 0 ∧
        (∀ r i, r < 12 → i < 5 → (t.dev.gov.curves.getD r []).getD i 0 =
          if i = 4 then cap.getD r 0 else (s.dev.gov.curves.getD r []).getD i 0) ∧
        (t.dev.gov.lifeMv < 10 → s.dev.gov.lifeBelow = false → t.dev.gov.lifeLow = true) := by
  intro s cap v1 tj hcap hcap16 hv1 hcurves hpoints
  have hkeep := map_getD_range hv1 0
  obtain ⟨hregion, hworst, hleast⟩ := worstMargin_spec (v := v1) (by omega)
  obtain ⟨policy, left, final, raising, request, hgov⟩ := s.dev.probe_gov cap v1 tj
  rw [hkeep] at hgov
  rw [hv1] at hregion hleast
  have hnum : (BitVec.ofNat 4 (worstMargin v1).1).toNat = (worstMargin v1).1 := by
    rw [BitVec.toNat_ofNat]
    omega
  refine ⟨_, rfl, ?_⟩
  dsimp only
  rw [hgov]
  refine ⟨rfl, rfl, rfl, hleast, ?_, fun r i hr hi => ?_, fun hlow hbelow => ?_⟩
  · dsimp only
    rw [hnum, hworst]
  · have hpoint := getD_setPoint hcurves hpoints 4 (fun r => capN 16 (cap.getD r 0)) hr hi
    have hmem : cap.getD r 0 < 2 ^ 16 := by
      rw [List.getD_eq_getElem?_getD, List.getElem?_eq_getElem (hcap ▸ hr), Option.getD_some]
      exact hcap16 _ (List.getElem_mem _)
    rw [capN_of_lt hmem] at hpoint
    exact hpoint
  · dsimp only at hlow ⊢
    simp [hlow, hbelow]

/-- The stream shed last comes back only when cool and with the capacity for it. -/
theorem shedRestore_cases : ∀ (s : State) (race : Nat) (rest : List Nat), s.dev.gov.shed = race :: rest →
      (100 < s.dev.hottest → exec .shedRestore s = .next s) ∧
      (s.dev.hottest ≤ 100 → (s.dev.onGov fun g => { g with shed := rest }).reaches
          (s.dev.onGov fun g => { g with shed := rest }).unshed.demands 105
          (s.dev.onGov fun g => { g with shed := rest }).ceiling = true →
        ∃ t : State, exec .shedRestore s = .next t ∧ t.dev.gov.shed = rest) := by
  intro s race rest hshed
  refine ⟨fun hhot => next_withDev (d' := s.dev) ?_, fun hcool hreach => ?_⟩
  · unfold Dev.restoreOne
    rw [hshed]
    exact if_neg fun h => absurd h.1 (Int.not_le.mpr hhot)
  · have hstep : s.dev.restoreOne = (match serviceOfRace race with
        | some x => (s.dev.onGov fun g => { g with shed := rest }).deliver x
        | none => s.dev.onGov fun g => { g with shed := rest }).retarget := by
      unfold Dev.restoreOne
      rw [hshed]
      exact if_pos ⟨hcool, hreach⟩
    refine ⟨_, next_withDev hstep, ?_⟩
    cases serviceOfRace race
    all_goals
      obtain ⟨final, raising, request, h⟩ := Dev.retarget_gov _
      exact congrArg GovSt.shed h

/-- Settles O55. -/
theorem governor : Obligations.Governor := by
  unfold Obligations.Governor
  refine ⟨govCtrlWrite_cases, ?_, readVout_onRequest, readVout_offRequest, ?_, ?_, ?_, monitorWindow_keeps,
    marginProbe_sets, shedRestore_cases⟩
  · intro d needs mv short hreq
    refine ⟨fun hfix => ?_, fun hpol => Dev.request_spec hpol hreq⟩
    rw [Dev.request, if_pos hfix] at hreq
    obtain ⟨rfl, rfl⟩ := Prod.mk.inj hreq
    exact ⟨rfl, rfl⟩
  · intro s mv hretry
    refine next_withDev ?_
    simp [Dev.voutReading, hretry, Dev.vcoreReached]
  · intro s
    refine ⟨fun hr h0 hlt => next_withDev ?_, fun h => next_withDev (d' := s.dev) ?_⟩
    · rw [Dev.lowerStep, if_neg (by simp [hr, h0, hlt])]
      rfl
    · rw [Dev.lowerStep, if_pos]
      rcases h with h | h | h <;> simp [h]
  · intro s w
    refine ⟨fun hw => next_withDev ?_, next_withDev (d' := s.dev) rfl, next_withDev rfl, fun mv t hheld ht => ?_⟩
    · rw [Dev.statusWord, if_neg (by simp), if_neg hw]
    · rw [exec_readVout hheld] at ht
      obtain rfl := Host.Outcome.next.inj ht
      refine congrArg (Host.Outcome.next <| s.withDev ·) (Dev.vcoreReached_none ?_ mv true)
      rwa [Dev.heldEnvs_congr ((Dev.statusWord_env _ w true).trans (Dev.voutReading_env s.dev mv true))]

end Sys2Proof.Machine
end

section
/-!
SUPPORT. Serial lanes: what the commands of one lane change of it and of its link (04 R91 to R109).
-/
namespace Sys2Proof.Machine

/-! ### Lanes and quads by number -/

theorem Dev.laneI_onLaneI_same (d : Dev) {n : Nat} (f : Lane → Lane) (h : n < d.lanes.lanes.length) :
    (d.onLaneI n f).laneI n = f (d.laneI n) := getD_upd_same _ _ _ _ h

theorem Dev.laneI_onLaneI_other (d : Dev) {n m : Nat} (f : Lane → Lane) (h : m ≠ n) : (d.onLaneI n f).laneI m = d.laneI m :=
  getD_upd_other _ _ _ _ _ h

theorem Dev.length_onLaneI (d : Dev) (n : Nat) (f : Lane → Lane) :
    (d.onLaneI n f).lanes.lanes.length = d.lanes.lanes.length := length_upd _ _ _

/-- A property of a lane that a change of any lane keeps. -/
theorem Dev.laneI_onLaneI_keeps {β : Type} (g : Lane → β) (d : Dev) (n m : Nat) {f : Lane → Lane} (h : ∀ x, g (f x) = g x) :
    g ((d.onLaneI n f).laneI m) = g (d.laneI m) := by
  by_cases hm : m = n
  · subst hm
    by_cases hlt : m < d.lanes.lanes.length
    · rw [d.laneI_onLaneI_same f hlt, h]
    · exact congrArg (fun l => g (l.getD m Lane.reset)) (upd_past d.lanes.lanes m f (Nat.not_lt.mp hlt))
  · rw [d.laneI_onLaneI_other f hm]

theorem Dev.quadI_onQuadI_same (d : Dev) {n : Nat} (f : Quad → Quad) (h : n < d.lanes.quads.length) :
    (d.onQuadI n f).quadI n = f (d.quadI n) := getD_upd_same _ _ _ _ h

theorem Dev.quadI_onQuadI_other (d : Dev) {n m : Nat} (f : Quad → Quad) (h : m ≠ n) : (d.onQuadI n f).quadI m = d.quadI m :=
  getD_upd_other _ _ _ _ _ h

theorem Dev.each_cons {α : Type} (d : Dev) (a : α) (l : List α) (f : Dev → α → Dev) : d.each (a :: l) f = (f d a).each l f :=
  rfl

/-- A change of each lane of a list that sets a property sets it for all of them. -/
theorem Dev.laneI_each {f : Lane → Lane} {P : Lane → Prop} (hset : ∀ x, P (f x)) {l : List Nat} {d : Dev}
    (hlen : ∀ m ∈ l, m < d.lanes.lanes.length) :
    let e := d.each l fun d m => d.onLaneI m f
    ∀ m, m ∈ l ∨ P (d.laneI m) → P (e.laneI m) := by
  induction l generalizing d with
  | nil => exact fun m h => h.resolve_left List.not_mem_nil
  | cons a l ih =>
    intro e m h
    refine ih (d := d.onLaneI a f) (fun k hk => ?_) m ?_
    · rw [Dev.length_onLaneI]
      exact hlen k (List.mem_cons_of_mem _ hk)
    · by_cases hma : m = a
      · subst hma
        rw [d.laneI_onLaneI_same f (hlen m List.mem_cons_self)]
        exact .inr (hset _)
      · rw [d.laneI_onLaneI_other f hma]
        exact h.imp_left fun hm => (List.mem_cons.mp hm).resolve_left hma

theorem Dev.quadI_congr {d d' : Dev} (h : d'.lanes.quads = d.lanes.quads) (n : Nat) : d'.quadI n = d.quadI n := by
  rw [Dev.quadI, Dev.quadI, h]

theorem Dev.laneI_congr {d d' : Dev} (h : d'.lanes.lanes = d.lanes.lanes) (n : Nat) : d'.laneI n = d.laneI n := by
  rw [Dev.laneI, Dev.laneI, h]

/-! ### Commands of one lane -/

theorem Dev.pllLocks_quads {d : Dev} {q : Nat} (h : (d.quadI q).powered = true) :
    (d.pllLocks q).lanes.quads = (d.onQuadI q fun x =>
      if d.quadMode q = 3 then { x with fwdOk := true } else { x with pllLock := true }).lanes.quads := by
  unfold Dev.pllLocks
  rw [if_pos h]
  exact Dev.each_keeps (·.lanes.quads) _ _ fun d l => ite_keeps (·.lanes.quads) _ rfl rfl

theorem Dev.fomSeen_lane {d : Dev} {n : Nat} (h : n < d.lanes.lanes.length) (fom ns : Nat) :
    (d.fomSeen n fom ns).laneI n = { d.laneI n with fom := BitVec.ofNat 8 fom, band := fomBand fom } := by
  have hset := d.laneI_onLaneI_same (fun x => { x with fom := BitVec.ofNat 8 fom, band := fomBand fom }) h
  unfold Dev.fomSeen
  dsimp only
  split
  · exact hset
  split
  · exact hset
  · exact hset

theorem Dev.fomSeen_time (d : Dev) (n fom ns : Nat) : (d.fomSeen n fom ns).time = d.time :=
  ite_keeps (·.time) _ rfl (ite_keeps (·.time) _ rfl rfl)

/-- The CTLE setting that a recalibration readies: the fixed one, or the best within 3 steps of the present one. -/
def Dev.spareCtle (d : Dev) (n ctle : Nat) : Nat :=
  if d.parN 0x03 n 3 < 16 then d.parN 0x03 n 3
  else max ((d.laneI n).ctle.toNat - 3) (min (min ((d.laneI n).ctle.toNat + 3) 15) ctle)

/-- A triggered lane of a link in service readies its spare slicer while no other lane recalibrates, unless the eye would
get worse (R107, R108). -/
theorem Dev.recalibrate_triggered {d : Dev} {n : Nat} {l : LinkId} {lanes : List Nat} {pos ctle w h : Nat} {tj : Int}
    (hlink : d.linkOfLane n = some (l, lanes, pos)) (hrec : receives l = true) (hup : (d.linkI l).up = true)
    (hcal : d.calTriggered n tj = true) (hbusy : (which 64 fun m => m != n && (d.laneI m).spare.isSome) = []) :
    d.recalibrate n tj ctle w h =
      if (d.laneI n).fom.toNat ≤ fomOf w h + 4 then
        d.onLaneI n fun _ => { d.laneI n with
          calDue := false, calTemp := BitVec.ofInt 8 tj, fomBefore := (d.laneI n).fom,
          spare := some (d.spareCtle n ctle, fomOf w h) }
      else (d.onLaneI n fun _ => { d.laneI n with
          calDue := false, calTemp := BitVec.ofInt 8 tj, fomBefore := (d.laneI n).fom, calResult := 4,
          fomAfter := (d.laneI n).fom, spare := none }).raiseNow 9 := by
  unfold Dev.recalibrate
  rw [hlink]
  dsimp only
  rw [hbusy]
  simp only [hrec, hup, hcal, List.length_nil, List.filter_nil, Nat.zero_lt_succ, decide_true, Bool.and_self, if_true]
  rfl

theorem Dev.laneLoses_quads (d : Dev) (n cyc : Nat) : (d.laneLoses n cyc).lanes.quads = d.lanes.quads := by
  unfold Dev.laneLoses
  dsimp only
  split
  · exact ite_keeps (·.lanes.quads) _ rfl rfl
  · rfl

theorem Dev.laneLoses_lanes (d : Dev) (n cyc : Nat) : (d.laneLoses n cyc).lanes.lanes =
    (d.onLaneI n fun x => { x with sync := false, aligned := false, deskewed := false, aosCount := none }).lanes.lanes := by
  unfold Dev.laneLoses
  dsimp only
  split
  · exact ite_keeps (·.lanes.lanes) _ rfl rfl
  · rfl

theorem Dev.length_laneLoses (d : Dev) (n cyc : Nat) :
    (d.laneLoses n cyc).lanes.lanes.length = d.lanes.lanes.length := by
  rw [Dev.laneLoses_lanes, Dev.length_onLaneI]

/-- Every lane of a list that loses sync is out of sync, and the quads stay as they are. -/
theorem Dev.each_laneLoses (first cyc : Nat) {l : List Nat} {d : Dev} (hlen : ∀ i ∈ l, first + i < d.lanes.lanes.length) :
    let e := d.each l fun d i => d.laneLoses (first + i) cyc
    e.lanes.quads = d.lanes.quads ∧
      ∀ m, (∃ i ∈ l, m = first + i) ∨ (d.laneI m).sync = false → (e.laneI m).sync = false := by
  induction l generalizing d with
  | nil =>
    refine ⟨rfl, fun m h => h.resolve_left ?_⟩
    rintro ⟨i, hi, -⟩
    exact List.not_mem_nil hi
  | cons a l ih =>
    obtain ⟨hquads, hsync⟩ := ih (d := d.laneLoses (first + a) cyc) fun i hi => by
      rw [Dev.length_laneLoses]
      exact hlen i (List.mem_cons_of_mem _ hi)
    refine ⟨hquads.trans (Dev.laneLoses_quads _ _ _), fun m h => hsync m ?_⟩
    rw [Dev.laneI_congr (d.laneLoses_lanes (first + a) cyc)]
    by_cases hma : m = first + a
    · subst hma
      rw [d.laneI_onLaneI_same _ (hlen a List.mem_cons_self)]
      exact .inr rfl
    · rw [d.laneI_onLaneI_other _ hma]
      refine h.imp_left ?_
      rintro ⟨i, hi, rfl⟩
      exact ⟨i, (List.mem_cons.mp hi).resolve_left fun e => hma (e ▸ rfl), rfl⟩

/-! ### Alignment (04 R98, R99) -/

/-- A lane of the link shows a count that one pass over the lanes cannot show beside this one. -/
def Dev.disagrees (d : Dev) (lanes : List Nat) (count : Nat) : Bool :=
  lanes.any fun m =>
    match (d.laneI m).aosCount with
    | some c => !countsClose c (count % 256)
    | none => false

/-- Every lane that carries data is in sync, is aligned and shows the count. -/
def Dev.allAligned (d : Dev) (lanes : List Nat) (count : Nat) : Bool :=
  lanes.all fun m =>
    let x := d.laneI m
    !d.carriesData m || (x.sync && x.aligned && (lanes.length == 1 || x.aosCount == some (count % 256)))

/-- The device whose lane has shown an alignment ordered set. -/
def Dev.shown (d : Dev) (n count : Nat) (right : Bool) : Dev :=
  d.onLaneI n fun x => { x with aosCount := some (count % 256), aligned := right }

theorem Dev.aos_eq {d : Dev} {n : Nat} {l : LinkId} {lanes : List Nat} {pos : Nat} (hlink : d.linkOfLane n = some (l, lanes, pos))
    (hrec : receives l = true) (hsync : (d.laneI n).sync = true) (index count skew cyc : Nat) :
    d.aos n index count skew cyc =
      let e := d.shown n count (index == pos)
      if index ≠ pos then
        let e := (e.report 0x0003 (laneEp (lanes.headD n)) (e.nsAt cyc) [index]).onLaneI n fun x => { x with deskewed := false }
        if (d.linkI l).up then e.linkEvent l false cyc else e
      else if (d.linkI l).up then
        if !(lanes.length == 1) && e.disagrees lanes count then e.linkEvent l false cyc else e
      else if !(lanes.length == 1) && decide (65 ≤ skew) then
        e.report 0x0003 (laneEp (lanes.headD n)) (e.nsAt cyc) [skew]
      else if e.allAligned lanes count then
        (e.each lanes fun d m => d.onLaneI m fun x => { x with deskewed := true }).linkEvent l true cyc
      else e := by
  unfold Dev.aos
  rw [hlink]
  simp only [hrec, hsync, Bool.and_self, if_true]
  rfl

theorem Dev.linkEvent_links (d : Dev) (l : LinkId) (up : Bool) (cyc : Nat) :
    (d.linkEvent l up cyc).tick.links = d.tick.links ++ [(l, up, d.timeAt cyc)] := rfl

/-- CDR lock and sync of a lane of a receiving link. -/
theorem cdrLock_sync_cases : ∀ (s : State) (n : Fin 64) (l : LinkId) (lanes : List Nat) (pos : Nat), s.dev.linkOfLane n = some (l, lanes, pos) →
      receives l = true →
      (s.dev.quadReady (n / 4) = true → s.dev.carriesData n = true →
        ((∀ p, l ≠ .chain p) → exec (.cdrLock n) s = .next (s.withDev (
          s.dev.onLaneI n fun x => { x with cdrLock := true, tries := [] }))) ∧
        ((∃ p, l = .chain p) → exec (.cdrLock n) s = .next (s.withDev (
          (s.dev.onLaneI n fun x => { x with cdrLock := true, tries := [] }).emit (.preset n 0))))) ∧
      (s.dev.quadReady (n / 4) = false ∨ s.dev.carriesData n = false → exec (.cdrLock n) s = .next s) ∧
      ∀ (b ctle cyc : Nat) (dfe : List Int),
        ((s.dev.laneI n).cdrLock = false → exec (.sync n b ctle dfe cyc) s = .next s) ∧
        ((s.dev.laneI n).cdrLock = true → s.dev.parN 0x03 n 2 = 0 →
          ((s.dev.linkI l).trained = true → exec (.sync n b ctle dfe cyc) s = .next (s.withDev (
            s.dev.onLaneI n fun x => { x with sync := true, boundary := BitVec.ofNat 4 (b % 10) }))) ∧
          ((s.dev.linkI l).trained = false → exec (.sync n b ctle dfe cyc) s = .next (s.withDev (
            s.dev.onLaneI n fun x => { x with
              sync := true, boundary := BitVec.ofNat 4 (b % 10),
              ctle := BitVec.ofNat 4 (if s.dev.parN 0x03 n 3 < 16 then s.dev.parN 0x03 n 3 else ctle),
              dfe := (List.range 5).map fun i => BitVec.ofInt 4 (dfe.getD i 0) })))) := by
  intro s n l lanes pos hlink hrec
  refine ⟨fun hready hdata => ⟨fun hl => next_withDev ?_, fun ⟨p, hp⟩ => next_withDev ?_⟩,
    fun h => next_withDev (d' := s.dev) ?_, fun b ctle cyc dfe => ⟨fun hno => next_withDev (d' := s.dev) ?_,
      fun hlock hauto => ⟨fun htrained => next_withDev ?_, fun htrained => next_withDev ?_⟩⟩⟩
  · cases l with
    | capture p => simp [Dev.cdrLocks, hlink, hready, hdata, hrec]
    | chain p => exact absurd rfl (hl p)
    | raster o => simp [Dev.cdrLocks, hlink, hready, hdata, hrec]
  · subst hp
    simp [Dev.cdrLocks, hlink, hready, hdata, hrec]
  · unfold Dev.cdrLocks
    rw [hlink]
    refine if_neg ?_
    rcases h with h | h <;> simp [h]
  · simp [Dev.laneSync, hlink, hno]
  · simp [Dev.laneSync, hlink, hrec, hlock, hauto, htrained]
  · simp [Dev.laneSync, hlink, hrec, hlock, hauto, htrained]

/-- An alignment set: wrong index, skew too large, the completing one, one that disagrees. -/
theorem alignmentOrderedSet_cases : ∀ (s : State) (n : Fin 64) (l : LinkId) (lanes : List Nat) (pos index count skew cyc : Nat),
      s.dev.linkOfLane n = some (l, lanes, pos) → receives l = true → (s.dev.laneI n).sync = true →
      s.dev.lanes.lanes.length = 64 →
      (index ≠ pos → (s.dev.linkI l).up = false → ∃ t : State, exec (.alignmentOrderedSet n index count skew cyc) s = .next t ∧
        (t.dev.laneI n).aligned = false ∧ (t.dev.laneI n).deskewed = false ∧ t.dev.tick.links = s.dev.tick.links ∧
        t.dev.faults.reports = s.dev.faults.reports ++
          [⟨0x0003, s.dev.nsAt cyc, s.dev.time.epoch.toNat, laneEp (lanes.headD n), [index]⟩]) ∧
      (index = pos → (s.dev.linkI l).up = false → lanes.length ≠ 1 → 65 ≤ skew →
        ∃ t : State, exec (.alignmentOrderedSet n index count skew cyc) s = .next t ∧
          t.dev.tick.links = s.dev.tick.links ∧ t.dev.faults.reports = s.dev.faults.reports ++
            [⟨0x0003, s.dev.nsAt cyc, s.dev.time.epoch.toNat, laneEp (lanes.headD n), [skew]⟩]) ∧
      (index = pos → (s.dev.linkI l).up = false → skew < 65 → (∀ m ∈ lanes, m < 64) →
        (∀ m ∈ lanes, m ≠ n.val → s.dev.carriesData m = true → (s.dev.laneI m).sync = true ∧
          (s.dev.laneI m).aligned = true ∧ (s.dev.laneI m).aosCount = some (count % 256)) →
        ∃ t : State, exec (.alignmentOrderedSet n index count skew cyc) s = .next t ∧
          t.dev.tick.links = s.dev.tick.links ++ [(l, true, s.dev.timeAt cyc)] ∧
          ∀ m ∈ lanes, (t.dev.laneI m).deskewed = true) ∧
      (index = pos → (s.dev.linkI l).up = true → lanes.length ≠ 1 →
        (∃ m ∈ lanes, m ≠ n.val ∧ ∃ c, (s.dev.laneI m).aosCount = some c ∧ countsClose c (count % 256) = false) →
        ∃ t : State, exec (.alignmentOrderedSet n index count skew cyc) s = .next t ∧
          t.dev.tick.links = s.dev.tick.links ++ [(l, false, s.dev.timeAt cyc)]) := by
  intro s n l lanes pos index count skew cyc hlink hrec hsync hlen
  have hn : n.val < s.dev.lanes.lanes.length := by
    rw [hlen]
    exact n.isLt
  have hshown : ∀ right, (s.dev.shown n count right).laneI n =
      { s.dev.laneI n with aosCount := some (count % 256), aligned := right } :=
    fun right => s.dev.laneI_onLaneI_same _ hn
  have hother : ∀ right m, m ≠ n.val → (s.dev.shown n count right).laneI m = s.dev.laneI m :=
    fun right m hm => s.dev.laneI_onLaneI_other _ hm
  have heq := Dev.aos_eq hlink hrec hsync index count skew cyc
  refine ⟨fun hwrong hdown => ?_, fun hpos hdown hmany hskew => ?_, fun hpos hdown hskew h64 hall => ?_,
    fun hpos hup hmany hdis => ?_⟩
  · have hbad : (index == pos) = false := by simpa using hwrong
    simp only [hwrong, ne_eq, not_false_eq_true, if_true, hdown, Bool.false_eq_true, if_false, hbad] at heq
    have hlane := ((s.dev.shown n count false).report 0x0003 (laneEp (lanes.headD n))
      ((s.dev.shown n count false).nsAt cyc) [index]).laneI_onLaneI_same (n := n)
      (fun x => { x with deskewed := false }) (by
        rw [← s.dev.length_onLaneI n fun x => { x with aosCount := some (count % 256), aligned := false }] at hn
        exact hn)
    refine ⟨_, next_withDev heq, ?_, ?_, rfl, rfl⟩
    · exact (congrArg Lane.aligned hlane).trans (congrArg Lane.aligned (hshown false))
    · exact congrArg Lane.deskewed hlane
  · subst hpos
    have hsingle : (lanes.length == 1) = false := by simpa using hmany
    simp only [ne_eq, not_true_eq_false, if_false, hdown, Bool.false_eq_true, hsingle, Bool.not_false, Bool.true_and,
      hskew, decide_true, if_true] at heq
    exact ⟨_, next_withDev heq, rfl, rfl⟩
  · subst hpos
    have hnear : ¬ 65 ≤ skew := Nat.not_le.mpr hskew
    have haligned : (s.dev.shown n count (index == index)).allAligned lanes count = true := by
      refine List.all_eq_true.mpr fun m hm => ?_
      by_cases hmn : m = n.val
      · subst hmn
        simp [hshown, hsync]
      · simp only [hother _ m hmn]
        cases hdata : s.dev.carriesData m with
        | false =>
          have hdata' : ∀ right, (s.dev.shown n count right).carriesData m = s.dev.carriesData m := fun _ => rfl
          simp [hdata', hdata]
        | true =>
          obtain ⟨h1, h2, h3⟩ := hall m hm hmn hdata
          simp [h1, h2, h3]
    simp only [ne_eq, not_true_eq_false, if_false, hdown, Bool.false_eq_true, hnear, decide_false, Bool.and_false,
      haligned, if_true] at heq
    have htime : ((s.dev.shown n count (index == index)).each lanes fun d m =>
        d.onLaneI m fun x => { x with deskewed := true }).time = s.dev.time :=
      Dev.each_keeps (·.time) lanes _ fun d m => rfl
    have htick : ((s.dev.shown n count (index == index)).each lanes fun d m =>
        d.onLaneI m fun x => { x with deskewed := true }).tick = s.dev.tick :=
      Dev.each_keeps (·.tick) lanes _ fun d m => rfl
    refine ⟨_, next_withDev heq, ?_, fun m hm => ?_⟩
    · refine (Dev.linkEvent_links _ l true cyc).trans ?_
      rw [Dev.timeAt, htime, htick]
      rfl
    · refine Dev.laneI_each (P := fun x => x.deskewed = true) (fun x => rfl) (fun k hk => ?_) m (.inl hm)
      rw [Dev.shown, Dev.length_onLaneI, hlen]
      exact h64 k hk
  · subst hpos
    have hsingle : (lanes.length == 1) = false := by simpa using hmany
    have hdisagree : (s.dev.shown n count (index == index)).disagrees lanes count = true := by
      obtain ⟨m, hm, hmn, c, hc, hfar⟩ := hdis
      refine List.any_eq_true.mpr ⟨m, hm, ?_⟩
      rw [hother _ m hmn, hc]
      simp [hfar]
    simp only [ne_eq, not_true_eq_false, if_false, hup, if_true, hsingle, Bool.not_false, Bool.true_and, hdisagree] at heq
    exact ⟨_, next_withDev heq, rfl⟩

/-- Presets and skip pairs of a chain lane. -/
theorem presetRequest_skipPair_cases : ∀ (s : State) (n : Fin 64) (p : Nat) (lanes : List Nat) (pos preset : Nat),
      s.dev.linkOfLane n = some (.chain p, lanes, pos) →
      (preset < 8 → (s.dev.linkI (.chain p)).up = false → (s.dev.laneI n).cdrLock = true → (s.dev.laneI n).sync = false →
        exec (.presetRequest n preset) s = .next (s.withDev (
          s.dev.onLaneI n fun x => { x with preset := BitVec.ofNat 3 preset }))) ∧
      (8 ≤ preset ∨ (s.dev.linkI (.chain p)).up = true → exec (.presetRequest n preset) s = .next s) ∧
      ∀ high : Bool, exec (.skipPair n high) s = .next (s.withDev (
        s.dev.onLaneI n fun x => { x with skips := if high then x.skips - 1 else x.skips + 1 })) := by
  intro s n p lanes pos preset hlink
  refine ⟨fun h8 hup hlock hsync => next_withDev ?_, fun h => next_withDev (d' := s.dev) ?_, fun high => next_withDev ?_⟩
  · unfold Dev.presetAsked
    rw [hlink]
    exact if_pos ⟨h8, hup, hlock, hsync⟩
  · unfold Dev.presetAsked
    rw [hlink]
    refine if_neg fun ⟨h8, hup, _⟩ => ?_
    rcases h with h | h
    · omega
    · simp [h] at hup
  · unfold Dev.skipPairs
    rw [hlink]

/-- Loss of sync and what follows on a link that is up or not. -/
theorem syncLost_deskewRetry_linkNotUp : ∀ (s : State) (n : Fin 64) (l : LinkId) (lanes : List Nat) (pos cyc : Nat),
      s.dev.linkOfLane n = some (l, lanes, pos) → receives l = true →
      ((s.dev.linkI l).up = true →
        exec (.syncLost n false cyc) s = .next (s.withDev ((s.dev.onLaneI n fun x =>
          { x with sync := false, aligned := false, deskewed := false, aosCount := none }).onTick fun t =>
            { t with links := t.links ++ [(l, false, s.dev.timeAt cyc)] })) ∧
        exec (.deskewRetry n) s = .next s ∧ exec (.linkNotUp n cyc) s = .next s) ∧
      ((s.dev.linkI l).up = false → s.dev.lanes.lanes.length = 64 → (∀ m ∈ lanes, m < 64) →
        (∃ t : State, exec (.deskewRetry n) s = .next t ∧ ∀ m ∈ lanes, (t.dev.laneI m).aligned = false ∧
          (t.dev.laneI m).deskewed = false ∧ (t.dev.laneI m).aosCount = none) ∧
        ∀ m, lanes.find? (fun m => s.dev.carriesData m && decide (s.dev.failingStep m < 5)) = some m →
          exec (.linkNotUp n cyc) s = .next (s.withDev (
            s.dev.report 0x0003 (laneEp m) (s.dev.nsAt cyc) [s.dev.failingStep m]))) := by
  intro s n l lanes pos cyc hlink hrec
  refine ⟨fun hup => ⟨next_withDev ?_, next_withDev (d' := s.dev) ?_, next_withDev (d' := s.dev) ?_⟩,
    fun hdown hlen h64 => ⟨⟨_, rfl, fun m hm => ?_⟩, fun m hfind => next_withDev ?_⟩⟩
  · have hloses : s.dev.laneLoses n cyc = (s.dev.onLaneI n fun x =>
        { x with sync := false, aligned := false, deskewed := false, aosCount := none }).linkEvent l false cyc := by
      have hlink' : (s.dev.onLaneI n fun x => { x with
        sync := false, aligned := false, deskewed := false, aosCount := none }).linkOfLane n = some (l, lanes, pos) := hlink
      have hup' : ((s.dev.onLaneI n fun x => { x with
        sync := false, aligned := false, deskewed := false, aosCount := none }).linkI l).up = true := by
        cases l <;> exact hup
      unfold Dev.laneLoses
      dsimp only
      rw [hlink']
      simp only [hrec, hup', Bool.and_self, if_true]
    exact hloses
  · unfold Dev.deskewAgain
    rw [hlink]
    exact if_pos hup
  · unfold Dev.notUp
    rw [hlink]
    exact if_pos (by simp [hup])
  · have hstep : s.dev.deskewAgain n = s.dev.each lanes fun d m =>
        d.onLaneI m fun x => { x with aligned := false, deskewed := false, aosCount := none } := by
      unfold Dev.deskewAgain
      rw [hlink]
      exact if_neg (by simp [hdown])
    rw [hstep]
    refine Dev.laneI_each (P := fun x => x.aligned = false ∧ x.deskewed = false ∧ x.aosCount = none)
      (fun x => ⟨rfl, rfl, rfl⟩) (fun k hk => ?_) m (.inl hm)
    rw [hlen]
    exact h64 k hk
  · have hfirst : (lanes.filter s.dev.carriesData).find? (fun m => s.dev.failingStep m < 5) = some m := by
      rw [List.find?_filter]
      simpa only [Bool.decide_and, Bool.decide_eq_true] using hfind
    unfold Dev.notUp
    rw [hlink]
    simp only [hdown, hrec, Bool.not_true, Bool.or_self, Bool.false_eq_true, if_false, hfirst, Option.getD_some]

/-- Loss of a forwarded clock strikes the four lanes of its quad. -/
theorem syncLost_forwardedClock : ∀ (s : State) (n : Fin 64) (cyc : Nat), s.dev.quadMode (n / 4) = 3 → s.dev.lanes.lanes.length = 64 →
      s.dev.lanes.quads.length = 16 → ∃ t : State, exec (.syncLost n true cyc) s = .next t ∧
        (t.dev.quadI (n / 4)).fwdOk = false ∧ ∀ i, i < 4 → (t.dev.laneI (4 * (n / 4) + i)).sync = false := by
  intro s n cyc hmode hlen hquads
  have hstep : s.dev.syncLoss n true cyc = (s.dev.onQuadI (n / 4) fun q => { q with fwdOk := false }).each (List.range 4)
      fun d i => d.laneLoses (4 * (n / 4) + i) cyc := by
    simp [Dev.syncLoss, hmode]
  have hn := n.isLt
  obtain ⟨hquad, hsync⟩ := Dev.each_laneLoses (4 * (n / 4)) cyc (l := List.range 4)
    (d := s.dev.onQuadI (n / 4) fun q => { q with fwdOk := false }) fun i hi => by
      have hi := List.mem_range.mp hi
      show _ < s.dev.lanes.lanes.length
      omega
  refine ⟨_, next_withDev hstep, ?_, fun i hi => hsync _ (.inl ⟨i, List.mem_range.mpr hi, rfl⟩)⟩
  exact congrArg Quad.fwdOk ((Dev.quadI_congr hquad _).trans (s.dev.quadI_onQuadI_same _ (by omega)))

/-- An eye measurement sets the FOM and its band. -/
theorem fomMeasure_bands : ∀ (s : State) (n : Fin 64) (l : LinkId) (lanes : List Nat) (pos w h cyc : Nat),
      s.dev.linkOfLane n = some (l, lanes, pos) → receives l = true → (s.dev.linkI l).up = true →
      s.dev.lanes.lanes.length = 64 →
      let fom := min 255 (4 * min w h)
      ∃ t : State, exec (.fomMeasure n w h cyc) s = .next t ∧ (t.dev.laneI n).fom = BitVec.ofNat 8 fom ∧
        (t.dev.laneI n).band = (if 96 ≤ fom then 0 else if 48 ≤ fom then 1 else 2) ∧
        (48 ≤ fom → fom < 96 → (s.dev.laneI n).band ≠ 1 → t.dev.evt.raised = s.dev.evt.raised ++
          [(282 + n.val / 4, s.dev.nsAt cyc, s.dev.time.epoch.toNat)] ∧ t.dev.faults = s.dev.faults) ∧
        (fom < 48 → (s.dev.laneI n).band ≠ 2 → t.dev.faults.reports = s.dev.faults.reports ++
          [⟨0x0002, s.dev.nsAt cyc, s.dev.time.epoch.toNat, laneEp n, [fom]⟩]) ∧
        (96 ≤ fom → t.dev.evt = s.dev.evt ∧ t.dev.faults = s.dev.faults) := by
  intro s n l lanes pos w h cyc hlink hrec hup hlen fom
  have hn : n.val < s.dev.lanes.lanes.length := by
    rw [hlen]
    exact n.isLt
  have hstep : s.dev.fomMeasured n w h cyc = s.dev.fomSeen n fom (s.dev.nsAt cyc) := by
    unfold Dev.fomMeasured
    rw [hlink]
    simp only [hup, hrec, if_true]
    rfl
  have hlane := Dev.fomSeen_lane hn fom (s.dev.nsAt cyc)
  refine ⟨_, next_withDev hstep, congrArg Lane.fom hlane, congrArg Lane.band hlane, fun hlo hhi hwas => ?_,
    fun hlow hwas => ?_, fun hgood => ?_⟩
  · have hband : fomBand fom = 1 := by
      rw [fomBand, if_neg (by omega), if_pos hlo]
    have hseen : s.dev.fomSeen n fom (s.dev.nsAt cyc) = (s.dev.onLaneI n fun x =>
        { x with fom := BitVec.ofNat 8 fom, band := 1 }).raise (282 + n / 4) (s.dev.nsAt cyc) := by
      simp [Dev.fomSeen, hband, hwas.symm]
    rw [hseen]
    exact ⟨rfl, rfl⟩
  · have hband : fomBand fom = 2 := by
      rw [fomBand, if_neg (by omega), if_neg (by omega)]
    have hseen : s.dev.fomSeen n fom (s.dev.nsAt cyc) = ((s.dev.onLaneI n fun x =>
        { x with fom := BitVec.ofNat 8 fom, band := 2 }).raise (282 + n / 4) (s.dev.nsAt cyc)).report 0x0002 (laneEp n)
          (s.dev.nsAt cyc) [fom] := by
      simp [Dev.fomSeen, hband, hwas.symm]
    rw [hseen]
    rfl
  · have hband : fomBand fom = 0 := by rw [fomBand, if_pos hgood]
    have hseen : s.dev.fomSeen n fom (s.dev.nsAt cyc) = s.dev.onLaneI n fun x =>
        { x with fom := BitVec.ofNat 8 fom, band := 0 } := by
      simp [Dev.fomSeen, hband]
    rw [hseen]
    exact ⟨rfl, rfl⟩

/-- A triggered recalibration readies the spare slicer or gives up. -/
theorem recalibration_cases : ∀ (s : State) (n : Fin 64) (l : LinkId) (lanes : List Nat) (pos ctle w h : Nat) (tj : Int),
      s.dev.linkOfLane n = some (l, lanes, pos) → receives l = true → (s.dev.linkI l).up = true →
      (s.dev.calTriggered n tj = false → exec (.recalibration n tj ctle w h) s = .next s) ∧
      (s.dev.calTriggered n tj = true → (∀ m, m ≠ n.val → (s.dev.laneI m).spare = none) →
        s.dev.lanes.lanes.length = 64 → ∃ t : State, exec (.recalibration n tj ctle w h) s = .next t ∧
          (t.dev.laneI n).calDue = false ∧ (t.dev.laneI n).calTemp = BitVec.ofInt 8 tj ∧
          (t.dev.laneI n).fomBefore = (s.dev.laneI n).fom ∧ (t.dev.laneI n).ctle = (s.dev.laneI n).ctle ∧
          ((s.dev.laneI n).fom.toNat ≤ min 255 (4 * min w h) + 4 → ∃ c, (t.dev.laneI n).spare =
              some (c, min 255 (4 * min w h)) ∧ (16 ≤ s.dev.parN 0x03 n 3 →
                c ≤ (s.dev.laneI n).ctle.toNat + 3 ∧ (s.dev.laneI n).ctle.toNat ≤ c + 3) ∧
              (s.dev.parN 0x03 n 3 < 16 → c = s.dev.parN 0x03 n 3)) ∧
          (min 255 (4 * min w h) + 4 < (s.dev.laneI n).fom.toNat → (t.dev.laneI n).calResult = 4 ∧
            (t.dev.laneI n).spare = none ∧ (9, s.dev.nowNs, s.dev.time.epoch.toNat) ∈ t.dev.evt.raised)) := by
  intro s n l lanes pos ctle w h tj hlink hrec hup
  refine ⟨fun hno => next_withDev (d' := s.dev) ?_, fun hyes hspare hlen => ?_⟩
  · unfold Dev.recalibrate
    rw [hlink]
    simp [hno]
  · have hn : n.val < s.dev.lanes.lanes.length := by
      rw [hlen]
      exact n.isLt
    have hbusy : (which 64 fun m => m != n.val && (s.dev.laneI m).spare.isSome) = [] := by
      refine List.filter_eq_nil_iff.mpr fun m _ => ?_
      by_cases hm : m = n.val
      · simp [hm]
      · simp [hspare m hm]
    have hfom : fomOf w h = min 255 (4 * min w h) := rfl
    have hstep := Dev.recalibrate_triggered (ctle := ctle) (w := w) (h := h) hlink hrec hup hyes hbusy
    rw [hfom] at hstep
    by_cases hfall : (s.dev.laneI n).fom.toNat ≤ min 255 (4 * min w h) + 4
    · rw [if_pos hfall] at hstep
      have hlane := s.dev.laneI_onLaneI_same (n := n) (fun _ => { s.dev.laneI n with
        calDue := false, calTemp := BitVec.ofInt 8 tj, fomBefore := (s.dev.laneI n).fom,
        spare := some (s.dev.spareCtle n ctle, min 255 (4 * min w h)) }) hn
      refine ⟨_, next_withDev hstep, (congrArg Lane.calDue hlane :), (congrArg Lane.calTemp hlane :),
        (congrArg Lane.fomBefore hlane :), (congrArg Lane.ctle hlane :),
        fun _ => ⟨_, (congrArg Lane.spare hlane :), fun hfree => ?_, fun hfix => ?_⟩, fun h => absurd hfall (Nat.not_le.mpr h)⟩
      · rw [Dev.spareCtle, if_neg (Nat.not_lt.mpr hfree)]
        omega
      · rw [Dev.spareCtle, if_pos hfix]
    · rw [if_neg hfall] at hstep
      have hlane := s.dev.laneI_onLaneI_same (n := n) (fun _ => { s.dev.laneI n with
        calDue := false, calTemp := BitVec.ofInt 8 tj, fomBefore := (s.dev.laneI n).fom, calResult := 4,
        fomAfter := (s.dev.laneI n).fom, spare := none }) hn
      refine ⟨_, next_withDev hstep, (congrArg Lane.calDue hlane :), (congrArg Lane.calTemp hlane :),
        (congrArg Lane.fomBefore hlane :), (congrArg Lane.ctle hlane :), fun h => absurd h hfall,
        fun _ => ⟨(congrArg Lane.calResult hlane :), (congrArg Lane.spare hlane :), ?_⟩⟩
      exact List.mem_append_right _ List.mem_cons_self

/-- Swap, postponement and starvation of a readied spare slicer. -/
theorem spareSlicer_commands : ∀ (s : State) (n : Fin 64) (w h cyc : Nat), s.dev.lanes.lanes.length = 64 →
      ((s.dev.laneI n).spare = none → exec (.slicerSwap n w h) s = .next s ∧ exec (.swapPostponed n) s = .next s ∧
        exec (.calibrationStarved n cyc) s = .next s) ∧
      ∀ c f, (s.dev.laneI n).spare = some (c, f) →
        (∃ t : State, exec (.slicerSwap n w h) s = .next t ∧ (t.dev.laneI n).ctle = BitVec.ofNat 4 c ∧
          (t.dev.laneI n).spare = none ∧ (t.dev.laneI n).calResult = 1 ∧
          (t.dev.laneI n).fomAfter = BitVec.ofNat 8 (min 255 (4 * min w h)) ∧
          (9, s.dev.nowNs, s.dev.time.epoch.toNat) ∈ t.dev.evt.raised) ∧
        exec (.swapPostponed n) s = .next (s.withDev (s.dev.onLaneI n fun x => { x with calResult := 2 })) ∧
        exec (.calibrationStarved n cyc) s = .next (s.withDev (
          (((s.dev.onLaneI n fun x => { x with calResult := 3, spare := none, fomAfter := x.fom }).report 0x0004 (laneEp n)
            (s.dev.nsAt cyc) []).raise (282 + n / 4) (s.dev.nsAt cyc)).raise 9 (s.dev.nsAt cyc))) := by
  intro s n w h cyc hlen
  have hn : n.val < s.dev.lanes.lanes.length := by
    rw [hlen]
    exact n.isLt
  refine ⟨fun hno => ⟨next_withDev (d' := s.dev) ?_, next_withDev (d' := s.dev) ?_, next_withDev (d' := s.dev) ?_⟩,
    fun c f hspare => ⟨?_, next_withDev ?_, next_withDev ?_⟩⟩
  · simp [Dev.swapSlicers, hno]
  · simp [Dev.swapLater, hno]
  · simp [Dev.calStarved, hno]
  · have hstep : s.dev.swapSlicers n w h = ((s.dev.onLaneI n fun x => { x with
        ctle := BitVec.ofNat 4 c, spare := none, fomAfter := BitVec.ofNat 8 (fomOf w h), calResult := 1 }).fomSeen n
          (fomOf w h) s.dev.nowNs).raiseNow 9 := by
      unfold Dev.swapSlicers
      rw [hspare]
      rfl
    have hset := s.dev.laneI_onLaneI_same (n := n) (fun x => { x with
        ctle := BitVec.ofNat 4 c, spare := none, fomAfter := BitVec.ofNat 8 (fomOf w h), calResult := 1 }) hn
    have hlane := Dev.fomSeen_lane (d := s.dev.onLaneI n fun x => { x with
        ctle := BitVec.ofNat 4 c, spare := none, fomAfter := BitVec.ofNat 8 (fomOf w h), calResult := 1 }) (n := n)
      (by rwa [Dev.length_onLaneI]) (fomOf w h) s.dev.nowNs
    rw [hset] at hlane
    have htime := Dev.fomSeen_time (s.dev.onLaneI n fun x => { x with
        ctle := BitVec.ofNat 4 c, spare := none, fomAfter := BitVec.ofNat 8 (fomOf w h), calResult := 1 }) n
      (fomOf w h) s.dev.nowNs
    refine ⟨_, next_withDev hstep, congrArg Lane.ctle hlane, congrArg Lane.spare hlane, congrArg Lane.calResult hlane,
      congrArg Lane.fomAfter hlane, ?_⟩
    refine List.mem_append_right _ (List.mem_singleton.mpr ?_)
    exact congrArg (fun t : TimeSt => ((9 : Nat), t.dev / 2 ^ 32, t.epoch.toNat)) htime.symm
  · simp [Dev.swapLater, hspare]
  · simp [Dev.calStarved, hspare]
    rfl

/-- Settles O56. -/
theorem laneCommands : Obligations.LaneCommands := by
  unfold Obligations.LaneCommands
  refine ⟨?_, cdrLock_sync_cases, alignmentOrderedSet_cases, presetRequest_skipPair_cases, ?_,
    syncLost_deskewRetry_linkNotUp, syncLost_forwardedClock, fomMeasure_bands, recalibration_cases,
    spareSlicer_commands, ?_⟩
  · intro s q
    refine ⟨fun hoff => next_withDev (d' := s.dev) ?_, fun hon hlen => ⟨_, rfl, ?_, fun p hp => ?_⟩⟩
    · simp [Dev.pllLocks, hoff]
    · have hlt : q.val < s.dev.lanes.quads.length := by
        rw [hlen]
        exact q.isLt
      exact (Dev.quadI_congr (Dev.pllLocks_quads hon) q).trans (s.dev.quadI_onQuadI_same _ hlt)
    · exact (Dev.quadI_congr (Dev.pllLocks_quads hon) p).trans (s.dev.quadI_onQuadI_other _ hp)
  · intro s n l lanes pos symbol cyc kind hlink hrec
    refine ⟨fun h => next_withDev ?_, fun h => next_withDev ?_⟩
    · have hdue : ¬ (s.dev.laneI n).repDue ≤ symbol := Nat.not_le.mpr h
      simp [Dev.codeError, hlink, hrec, hdue]
    · simp [Dev.codeError, hlink, hrec, h]
      rfl
  · intro s n
    refine ⟨fun h => next_withDev (d' := s.dev) ?_, fun h => next_withDev ?_⟩
    · simp [Dev.slipDone, h]
    · exact if_neg (Nat.pos_iff_ne_zero.mp h)

end Sys2Proof.Machine
end

section
/-!
SUPPORT. A frame header keeps the geometry it declares, which its obligation leaves out (05 R122, R126).
-/
namespace Sys2Proof.Machine

/-- A device with a frame open on capture link 0, whose capture has one die of no lines. -/
def Dev.oneDieOpen : Dev :=
  { Dev.reset with
    params := [(pkey 0x05 0 1, [1])]
    pipe := upd Dev.reset.pipe 0 fun x => { x with cur := some (Frame.opened 0 0 1) } }

theorem oneDieOpen_geometry : (Dev.oneDieOpen.capI 0).geometry = [[], [], [], []] := rfl

/-- The header of die 0 leaves its width, lines and depth with the link. -/
theorem header_geometry : ((Dev.oneDieOpen.header 0 0 0 [] .good 0).capI 0).geometry = [[0, 0, 0], [], [], []] := by
  decide

/-- Refutes O57: a good header of die 0 in an open frame also notes the geometry that it declares (width, lines and depth of
the die, `CapSt.geometry`), and the state that the sixth clause states leaves that as it was. Here the link has seen no header
yet, and an empty payload declares 0, 0 and 0, as the capture of one die with no lines and 10-bit samples has them. -/
theorem not_captureLinks : ¬ Obligations.CaptureLinks := by
  unfold Obligations.CaptureLinks
  rintro ⟨-, -, -, -, -, hpackets, -⟩
  obtain ⟨hheader, -⟩ := hpackets { State.reset with dev := Dev.oneDieOpen } 0 0 (Frame.opened 0 0 1) 0 rfl rfl rfl (by decide)
  have hstep := Host.Outcome.next.inj (hheader 0 [] (by decide) rfl rfl (by decide) (by decide) (by decide))
  have hgeom : ((Dev.oneDieOpen.header 0 0 0 [] .good 0).capI 0).geometry = [[], [], [], []] :=
    congrArg (fun t : State => (t.dev.capI 0).geometry) hstep
  rw [header_geometry] at hgeom
  exact absurd hgeom (by decide)

end Sys2Proof.Machine
end

section
/-!
SUPPORT. Frames that complete or are lost, taps, weirs, panics, runs of the mill and its engines (01 R25; 08 R207, R211;
09 R230; 10 R241 to R264; 17 R422).
-/
namespace Sys2Proof.Machine

/-! ### Lost frames and missed services leave the pipelines and the links' states -/

theorem Dev.dropBuffer_keeps {β : Type} (g : Dev → β) (hring : ∀ r f (d : Dev), g (d.onRingI r f) = g d)
    (hevt : ∀ f (d : Dev), g (d.onEvt f) = g d) (d : Dev) (p k : Nat) (f : Frame) (ns : Nat) :
    g (d.dropBuffer p k f ns) = g d := by
  unfold Dev.dropBuffer
  split
  · refine ite_keeps g _ rfl (ite_keeps g _ ?_ (hring _ _ _))
    rw [Dev.raise, hevt, hring]
  · rfl

theorem Dev.dropBuffers_keeps {β : Type} (g : Dev → β) (hring : ∀ r f (d : Dev), g (d.onRingI r f) = g d)
    (hevt : ∀ f (d : Dev), g (d.onEvt f) = g d) (d : Dev) (p : Nat) (f : Frame) (ns : Nat) :
    g (d.dropBuffers p f ns) = g d :=
  Dev.each_keeps g _ d fun d k => d.dropBuffer_keeps g hring hevt p k f ns

theorem Dev.missRing_keeps {β : Type} (g : Dev → β) (hhealth : ∀ f (d : Dev), g (d.onHealth f) = g d) (d : Dev)
    (ring cause : Nat) : g (d.missRing ring cause) = g d := by
  have hint : ∀ svc (d : Dev), g (d.interrupt svc cause) = g d := fun svc d => hhealth _ d
  unfold Dev.missRing
  refine Dev.each_keeps g _ d fun d ep => ite_keeps g _ (ite_keeps g _ ?_ (hint _ _)) (ite_keeps g _ (hint _ _)
    (ite_keeps g _ (hint _ _) rfl))
  rw [hint, hint]

theorem Dev.missPipe_keeps {β : Type} (g : Dev → β) (hhealth : ∀ f (d : Dev), g (d.onHealth f) = g d) (d : Dev)
    (p cause : Nat) : g (d.missPipe p cause) = g d := by
  rw [Dev.missPipe, Dev.missRing_keeps g hhealth, Dev.each_keeps g _ _ fun d k => d.missRing_keeps g hhealth _ cause]

@[simp] theorem Dev.onRingI_pipe (d : Dev) (r : Nat) (f : Ring → Ring) : (d.onRingI r f).pipe = d.pipe :=
  Dev.onRingI_keeps (·.pipe) d r f (fun _ => rfl) (fun _ => rfl) (fun _ => rfl) (fun _ => rfl) fun _ => rfl

@[simp] theorem Dev.onRingI_cap (d : Dev) (r : Nat) (f : Ring → Ring) : (d.onRingI r f).cap = d.cap :=
  Dev.onRingI_keeps (·.cap) d r f (fun _ => rfl) (fun _ => rfl) (fun _ => rfl) (fun _ => rfl) fun _ => rfl

@[simp] theorem Dev.onRingI_faults (d : Dev) (r : Nat) (f : Ring → Ring) : (d.onRingI r f).faults = d.faults :=
  Dev.onRingI_keeps (·.faults) d r f (fun _ => rfl) (fun _ => rfl) (fun _ => rfl) (fun _ => rfl) fun _ => rfl

@[simp] theorem Dev.onRingI_evt (d : Dev) (r : Nat) (f : Ring → Ring) : (d.onRingI r f).evt = d.evt :=
  Dev.onRingI_keeps (·.evt) d r f (fun _ => rfl) (fun _ => rfl) (fun _ => rfl) (fun _ => rfl) fun _ => rfl

@[simp] theorem Dev.onRingI_time (d : Dev) (r : Nat) (f : Ring → Ring) : (d.onRingI r f).time = d.time :=
  Dev.onRingI_keeps (·.time) d r f (fun _ => rfl) (fun _ => rfl) (fun _ => rfl) (fun _ => rfl) fun _ => rfl

theorem Dev.capI_onCapI_same (d : Dev) {p : Nat} (f : CapSt → CapSt) (h : p < d.cap.length) :
    (d.onCapI p f).capI p = f (d.capI p) := getD_upd_same _ _ _ _ h

theorem Dev.pipeI_onPipeI_same (d : Dev) {p : Nat} (f : PipeSt → PipeSt) (h : p < d.pipe.length) :
    (d.onPipeI p f).pipeI p = f (d.pipeI p) := getD_upd_same _ _ _ _ h

theorem Dev.pipeI_congr {d d' : Dev} (h : d'.pipe = d.pipe) (p : Nat) : d'.pipeI p = d.pipeI p := by
  rw [Dev.pipeI, Dev.pipeI, h]

theorem Dev.capI_congr {d d' : Dev} (h : d'.cap = d.cap) (p : Nat) : d'.capI p = d.capI p := by
  rw [Dev.capI, Dev.capI, h]

/-- A frame lost downstream leaves its pipeline, is counted and is reported. -/
theorem Dev.lostDownstream_spec (d : Dev) {p : Nat} (hp : p < d.cap.length) (race : Nat) (f : Frame) (ns : Nat) :
    let e := d.lostDownstream p race f ns
    e.pipe = d.pipe ∧ (e.capI p).dropped = bump (d.capI p).dropped ∧
      ∃ r ∈ e.faults.reports, r.cls = 0x0020 ∧ r.detail = [race, f.number] := by
  have hcap := Dev.dropBuffers_keeps (·.cap) (fun _ _ _ => Dev.onRingI_cap _ _ _) (fun _ _ => rfl) d p f ns
  have hpipe := Dev.dropBuffers_keeps (·.pipe) (fun _ _ _ => Dev.onRingI_pipe _ _ _) (fun _ _ => rfl) d p f ns
  have hmiss : ∀ {β : Type} (g : Dev → β) (_ : ∀ f (d : Dev), g (d.onHealth f) = g d),
      g (d.lostDownstream p race f ns) = g ((d.dropBuffers p f ns).frameLost p race f.number ns) :=
    fun g hg => Dev.missPipe_keeps g hg _ p 2
  refine ⟨(hmiss (·.pipe) fun _ _ => rfl).trans hpipe, ?_, ?_⟩
  · refine (congrArg CapSt.dropped (Dev.capI_congr (hmiss (·.cap) fun _ _ => rfl) p)).trans ?_
    have hlen : p < (d.dropBuffers p f ns).cap.length := by
      rw [hcap]
      exact hp
    refine (congrArg CapSt.dropped (Dev.capI_onCapI_same _ _ hlen)).trans ?_
    rw [Dev.capI_congr hcap]
  · rw [hmiss (·.faults) fun _ _ => rfl]
    exact ⟨_, List.mem_append_right _ List.mem_cons_self, rfl, rfl⟩

/-! ### Completion (06 R151, R159; 10 R241) -/

/-- The embedded data of a frame's dies, of four dies. -/
def Frame.embedded (f : Frame) : List (List Byte) :=
  (List.range 4).map fun i => if i < f.dies.length then (f.dies.getD i DieFrame.empty).embed else []

theorem Dev.frameComplete_eq {d : Dev} {p : Nat} {f : Frame} {rest : List Frame} (hended : (d.pipeI p).ended = f :: rest)
    (hgated : f.gated = true) (hhold : f.holding = []) :
    ∃ (lost : Bool) (F : PipeSt → PipeSt), d.frameComplete p =
      (let e := (d.onPipeI p fun x => { x with ended := rest }).onCapI p fun c =>
        { c with embed := f.embedded, embedFrame := f.number }
       if lost then e.mark (0x7000 + 0x20 * p) 8 else e).onPipeI p F ∧
      ∀ x, (F x).ended = x.ended ∧ (F x).done = some { f with clamp := x.clamp } := by
  unfold Dev.frameComplete
  simp only [hended, hgated, hhold, Bool.not_true, Bool.false_eq_true, if_false, List.find?_nil]
  exact ⟨_, _, rfl, fun x => ⟨rfl, rfl⟩⟩

/-- A frame that no placement holds becomes the last to complete, with its embedded data. -/
theorem Dev.frameComplete_whole {d : Dev} {p : Nat} {f : Frame} {rest : List Frame} (hended : (d.pipeI p).ended = f :: rest)
    (hgated : f.gated = true) (hhold : f.holding = []) (hpipe : p < d.pipe.length) (hcap : p < d.cap.length) :
    let e := d.frameComplete p
    (e.pipeI p).ended = rest ∧ (e.pipeI p).done = some { f with clamp := (d.pipeI p).clamp } ∧
      (e.capI p).embedFrame = f.number ∧ (e.capI p).embed = f.embedded := by
  obtain ⟨lost, F, heq, hF⟩ := Dev.frameComplete_eq hended hgated hhold
  have hrest := d.pipeI_onPipeI_same (fun x => { x with ended := rest }) hpipe
  have hkeep : ∀ {β : Type} (g : Dev → β) (c : Bool) (e : Dev), g (e.mark (0x7000 + 0x20 * p) 8) = g e →
      g (if c then e.mark (0x7000 + 0x20 * p) 8 else e) = g e := fun g c e h => ite_keeps g _ h rfl
  have hinner := hkeep (·.pipe) lost ((d.onPipeI p fun x => { x with ended := rest }).onCapI p fun c =>
        { c with embed := f.embedded, embedFrame := f.number }) rfl
  have hcapI := hkeep (·.cap) lost ((d.onPipeI p fun x => { x with ended := rest }).onCapI p fun c =>
        { c with embed := f.embedded, embedFrame := f.number }) rfl
  have hset := Dev.capI_onCapI_same (d.onPipeI p fun x => { x with ended := rest })
    (fun c => { c with embed := f.embedded, embedFrame := f.number }) hcap
  have hdone := Dev.pipeI_onPipeI_same _ F (p := p) (by
    rw [hinner]
    show p < (upd _ _ _).length
    rwa [length_upd])
  rw [Dev.pipeI_congr hinner] at hdone
  dsimp only at heq ⊢
  rw [heq, hdone]
  have hin : (((d.onPipeI p fun x => { x with ended := rest }).onCapI p fun c =>
    { c with embed := f.embedded, embedFrame := f.number }).pipeI p) = { d.pipeI p with ended := rest } := hrest
  rw [hin]
  have hcapI' := (Dev.capI_congr hcapI p).trans hset
  exact ⟨(hF _).1, (hF _).2, congrArg CapSt.embedFrame hcapI', congrArg CapSt.embed hcapI'⟩

/-- A frame that a placement holds ends in abort at its completion. -/
theorem Dev.frameComplete_held {d : Dev} {p pt : Nat} {f : Frame} {rest : List Frame}
    (hended : (d.pipeI p).ended = f :: rest) (hgated : f.gated = true) (hhold : f.holding = [pt]) (hpt : pt < 3)
    (hpipe : p < d.pipe.length) (hcap : p < d.cap.length) :
    let e := d.frameComplete p
    (e.pipeI p).ended = rest ∧ (e.capI p).dropped = bump (d.capI p).dropped ∧
      ∃ r ∈ e.faults.reports, r.cls = 0x0020 ∧ r.detail = [320 + 8 * p + 2 * pt, f.number] := by
  have hfind : [pt].find? (fun q => decide (q < 3)) = some pt := by simp [hpt]
  have hrest := d.pipeI_onPipeI_same (fun x => { x with ended := rest }) hpipe
  have hdone := Dev.pipeI_onPipeI_same (d.onPipeI p fun x => { x with ended := rest })
    (fun x => { x with done := some { f with clamp := x.clamp, bufs := (List.replicate 8 none) ++ f.bufs.drop 8 } }) (p := p) (by
      show p < (upd _ _ _).length
      rwa [length_upd])
  have heq : d.frameComplete p = ((d.onPipeI p fun x => { x with ended := rest }).onPipeI p fun x =>
      { x with done := some { f with clamp := x.clamp, bufs := (List.replicate 8 none) ++ f.bufs.drop 8 } }).lostDownstream
        p (320 + 8 * p + 2 * pt) f d.nowNs := by
    unfold Dev.frameComplete
    simp only [hended, hgated, hhold, Bool.not_true, Bool.false_eq_true, if_false, hfind]
    rfl
  obtain ⟨hp, hd, hr⟩ := Dev.lostDownstream_spec ((d.onPipeI p fun x => { x with ended := rest }).onPipeI p fun x =>
      { x with done := some { f with clamp := x.clamp, bufs := (List.replicate 8 none) ++ f.bufs.drop 8 } }) hcap
        (320 + 8 * p + 2 * pt) f d.nowNs
  rw [← heq] at hp hd hr
  refine ⟨?_, hd, hr⟩
  rw [Dev.pipeI_congr hp, hdone]
  exact congrArg PipeSt.ended hrest

/-! ### Buffers that become full (08 R207; 09 R230) -/

/-- A change of a ring leaves every other ring. -/
theorem Dev.ringI_onRingI_other (d : Dev) {r r' : Nat} (f : Ring → Ring) (h : r' ≠ r) :
    (d.onRingI r f).ringI r' = d.ringI r' := by
  unfold Dev.onRingI
  split
  · exact ite_congr rfl (fun _ => getD_upd_other _ _ _ _ _ h) fun _ => rfl
  split
  · exact ite_congr rfl (fun _ => rfl) fun _ => ite_congr rfl (fun _ => getD_upd_other _ _ _ _ _ (by omega)) fun _ => rfl
  split
  · exact ite_congr rfl (fun _ => rfl) fun _ => ite_congr rfl (fun _ => rfl) fun _ =>
      ite_congr rfl (fun _ => getD_upd_other _ _ _ _ _ (by omega)) fun _ => rfl
  split
  · exact ite_congr rfl (fun _ => rfl) fun _ => ite_congr rfl (fun _ => rfl) fun _ => ite_congr rfl (fun _ => rfl) fun _ =>
      ite_congr rfl (fun _ => getD_upd_other _ _ _ _ _ (by omega)) fun _ => rfl
  · exact ite_congr rfl (fun _ => rfl) fun _ => ite_congr rfl (fun _ => rfl) fun _ => ite_congr rfl (fun _ => rfl) fun _ =>
      ite_congr rfl (fun _ => rfl) fun _ => getD_upd_other _ _ _ _ _ (by omega)

theorem Ring.byOrder_order {r : Ring} {o : Nat} {b : Buf} (h : r.byOrder o = some b) : b.order = o := by
  have := List.find?_some h
  simp only [Bool.and_eq_true, beq_iff_eq] at this
  exact this.1

theorem Ring.byOrder_ne_empty {r : Ring} {o : Nat} {b : Buf} (h : r.byOrder o = some b) : r ≠ Ring.empty := by
  rintro rfl
  cases h

theorem Dev.tapWrite_full {d : Dev} {p k o : Nat} {f : Frame} {b : Buf} (hbuf : f.buf k = some o)
    (hb : (d.ringI (8 * p + k)).byOrder o = some b) (base : List Nat) :
    ∃ e : Dev, d.tapWrite p k f base = (e.onRingI (8 * p + k) fun r =>
        r.fill o (postmarkNat (f.stamp / 2 ^ 32) f.epoch f.number (8 * p + k)) f.pset (tapBytes (tapCfg f.params p k))) ∧
      ∀ r, e.ringI r = d.ringI r := by
  have hfind : (f.buf k).bind (d.ringI (8 * p + k)).byOrder = some b := by rw [hbuf, Option.bind_some, hb]
  unfold Dev.tapWrite
  simp only [hfind, Ring.byOrder_order hb]
  refine ⟨_, rfl, fun r => ?_⟩
  show Dev.ringI (Dev.memWrite _ _ _ _) r = _
  rw [Dev.memWrite_ringI]
  exact Dev.each_keeps (·.ringI r) _ _ fun d x => Dev.each_keeps (·.ringI r) _ _ fun d y => Dev.memWrite_ringI _ _ _ _ _

theorem Dev.tapWrite_none {d : Dev} {p k : Nat} {f : Frame} (hbuf : f.buf k = none) (base : List Nat) :
    d.tapWrite p k f base = d := by
  have hfind : (f.buf k).bind (d.ringI (8 * p + k)).byOrder = none := by rw [hbuf, Option.bind_none]
  unfold Dev.tapWrite
  simp only [hfind]

/-- A statistics block that has its buffer becomes full, with its event. -/
theorem Dev.statsFull_full {d : Dev} {p o : Nat} {f : Frame} {b : Buf} (hdone : (d.pipeI p).done = some f)
    (hbuf : f.buf 6 = some o) (hb : (d.ringI (8 * p + 6)).byOrder o = some b) :
    ∃ (e : Dev) (mark : Nat), d.statsFull p = ((e.onPipeI p fun x => { x with lastBlock := some f.number }).onRingI (8 * p + 6)
        fun r => r.fill o mark f.pset 16448).raiseNow (184 + p) ∧
      (∀ r, e.ringI r = d.ringI r) ∧ e.pipe = d.pipe ∧ e.evt = d.evt ∧ e.nowNs = d.nowNs ∧ e.time = d.time := by
  have hfind : (f.buf 6).bind (d.ringI (8 * p + 6)).byOrder = some b := by rw [hbuf, Option.bind_some, hb]
  unfold Dev.statsFull
  simp only [hdone, hfind, Ring.byOrder_order hb]
  refine ⟨_, _, rfl, fun r => ?_, ?_, ?_, ?_, ?_⟩
  · rw [Dev.memWrite_ringI, Dev.memWrite_ringI]
  · rw [Dev.memWrite_keeps (·.pipe) _ _ _ _ fun _ => rfl, Dev.memWrite_keeps (·.pipe) _ _ _ _ fun _ => rfl]
  · rw [Dev.memWrite_keeps (·.evt) _ _ _ _ fun _ => rfl, Dev.memWrite_keeps (·.evt) _ _ _ _ fun _ => rfl]
  · rw [Dev.memWrite_keeps (·.nowNs) _ _ _ _ fun _ => rfl, Dev.memWrite_keeps (·.nowNs) _ _ _ _ fun _ => rfl]
  · rw [Dev.memWrite_keeps (·.time) _ _ _ _ fun _ => rfl, Dev.memWrite_keeps (·.time) _ _ _ _ fun _ => rfl]

theorem Dev.statsFull_none {d : Dev} {p : Nat} {f : Frame} (hdone : (d.pipeI p).done = some f) (hbuf : f.buf 6 = none) :
    d.statsFull p = d := by
  have hfind : (f.buf 6).bind (d.ringI (8 * p + 6)).byOrder = none := by rw [hbuf, Option.bind_none]
  unfold Dev.statsFull
  simp only [hdone, hfind]

/-! ### Runs of a mill (10 R243 to R262) -/

/-- The device whose engine `e` has run a unit of a frame. -/
def Dev.unitRun (d : Dev) (p pt : Nat) (f : Frame) (v : List Byte) (c unit : Nat) (pd : PointData) (cyc e : Nat) : Dev :=
  let im := imageOf v
  let m := d.millI p
  let start := d.beatAt cyc
  let frameEnd := decide (2 ^ 32 ≤ unit)
  let cols := ceilDiv pd.w 8
  let tx := if frameEnd then 0 else unit % cols
  let ty := if frameEnd then 0 else unit / cols
  let env := RunEnv.make m v f p pt c e start tx ty pd
  let r0 := Run.start (if frameEnd then im.fe else 0) (m.granary.getD c []) m.writes (collOf m c)
  let hurt := m.poison.contains c
  let r := if hurt then { r0 with fault := true } else Run.go env 65536 r0
  let d := (d.afterRun p pt f c e start unit r).onMillI p fun m => { m with poison := m.poison.filter (· != c) }
  let sat := if frameEnd then 0 else
    sumBy (fun k => (List.range (imageComps im)).countP fun ch =>
      match env.out (k / 8) (k % 8) ch with
      | some xy => (tileWord im (pd.val ch xy.1 xy.2)).2
      | none => false) (List.range 64)
  let d := d.onMillI p fun m => { m with saturated := bumpBy m.saturated sat }
  let d := if r.fault then d.gristFault p pt f unit r.pc (d.nsAt cyc) else d
  d.onEnded p f.number fun g =>
    { g with tiles := g.tiles ++ [(pt, unit)], gsFault := g.gsFault || (pt == 3 && r.fault),
             written := if r.fault ∨ pt = 3 then g.written
               else (r.outs.map fun o => (pt, o.1, o.2.1, o.2.2.1, wordValue im o.2.2.2)) ++ g.written,
             gsRecs := if r.fault ∨ r.emits.isEmpty then g.gsRecs else g.gsRecs ++ [(unit, r.emits)] }

/-- The record block of the frame that a unit belongs to, once the frame's units are done. -/
def Dev.gsAfter (d : Dev) (p pt : Nat) (f : Frame) (im : Image10) (pd : PointData) : Dev :=
  if pt = 3 then
    match (d.pipeI p).ended.find? fun g => g.number == f.number with
    | some g => if gsComplete im g (tileCount pd.w pd.h) then d.gsBlock p g else d
    | none => d
  else d

theorem Dev.gsAfter_cases (d : Dev) (p pt : Nat) (f : Frame) (im : Image10) (pd : PointData) :
    d.gsAfter p pt f im pd = d ∨ ∃ g, d.gsAfter p pt f im pd = d.gsBlock p g := by
  unfold Dev.gsAfter
  split
  · split
    · split
      · exact .inr ⟨_, rfl⟩
      · exact .inl rfl
    · exact .inl rfl
  · exact .inl rfl

theorem Dev.runUnit_idle {d : Dev} {p pt c unit cyc e : Nat} {f : Frame} {v : List Byte} {pd : PointData}
    (h : (if decide (2 ^ 32 ≤ unit) = true then (d.millI p).endEngine c (d.beatAt cyc)
      else (d.millI p).idleEngine c (d.beatAt cyc)) = some e) :
    d.runUnit p pt f v c unit pd cyc = (d.unitRun p pt f v c unit pd cyc e).gsAfter p pt f (imageOf v) pd := by
  unfold Dev.runUnit
  dsimp only
  rw [h]
  exact rfl

theorem Dev.runUnit_busy {d : Dev} {p pt c unit cyc : Nat} {f : Frame} {v : List Byte} {pd : PointData}
    (h : (if decide (2 ^ 32 ≤ unit) = true then (d.millI p).endEngine c (d.beatAt cyc)
      else (d.millI p).idleEngine c (d.beatAt cyc)) = none) : d.runUnit p pt f v c unit pd cyc = d := by
  unfold Dev.runUnit
  dsimp only
  rw [h]

/-! ### What a run of the mill may change -/

/-- A relation of devices that every step of a run of mill `p` respects: the mill's granary, runs and counts, frames of the
pipeline, memory, rings, flags, events and reports. -/
structure RunStep (p : Nat) (R : Dev → Dev → Prop) : Prop where
  refl : ∀ d, R d d
  trans : ∀ {a b c}, R a b → R b c → R a c
  mill : ∀ d (f : MillSt → MillSt), (∀ m, (f m).retired = m.retired ∧ (f m).reissued = m.reissued) → R d (d.onMillI p f)
  ended : ∀ d n g, R d (d.onEnded p n g)
  mem : ∀ d pool off bs, R d (d.memWrite pool off bs)
  ring : ∀ d r f, R d (d.onRingI r f)
  mark : ∀ d off b, R d (d.mark off b)
  raise : ∀ d src ns, R d (d.raise src ns)
  report : ∀ d cls ep ns detail, R d (d.report cls ep ns detail)

section
variable {p : Nat} {R : Dev → Dev → Prop}

theorem RunStep.ite (_ : RunStep p R) (c : Prop) [Decidable c] {d a b : Dev} (ha : R d a) (hb : R d b) :
    R d (if c then a else b) := by
  split
  · exact ha
  · exact hb

variable (hR : RunStep p R)
include hR

theorem RunStep.gsBlock (d : Dev) (f : Frame) : R d (d.gsBlock p f) := by
  unfold Dev.gsBlock
  split
  · exact hR.refl d
  · refine hR.trans ?_ (hR.ring _ _ _)
    refine hR.ite _ ?_ ?_
    · refine hR.trans ?_ (hR.raise _ _ _)
      refine hR.trans ?_ (hR.mark _ _ _)
      refine hR.trans ?_ (hR.mill _ _ ?_)
      case refine_2 => exact fun m => ⟨rfl, rfl⟩
      exact hR.trans (hR.mem _ _ _ _) (hR.mem _ _ _ _)
    · exact hR.trans (hR.mem _ _ _ _) (hR.mem _ _ _ _)

theorem RunStep.gristFault (d : Dev) (pt : Nat) (f : Frame) (tile pc ns : Nat) : R d (d.gristFault p pt f tile pc ns) := by
  unfold Dev.gristFault
  have hraise := hR.trans (hR.mill d (fun m => { m with
    faults := bump m.faults,
    reported := if (d.millI p).reported.contains (pt, f.number) then m.reported
      else lastN 64 (m.reported ++ [(pt, f.number)]) }) fun m => ⟨rfl, rfl⟩) (hR.raise _ (192 + p) ns)
  exact hR.ite _ hraise (hR.trans hraise (hR.report _ _ _ _ _))

theorem RunStep.unitRun (d : Dev) (pt : Nat) (f : Frame) (v : List Byte) (c unit : Nat) (pd : PointData) (cyc e : Nat) :
    R d (d.unitRun p pt f v c unit pd cyc e) := by
  unfold Dev.unitRun
  dsimp only
  refine hR.trans ?_ (hR.ended _ _ _)
  have hrun : ∀ d start r f1 f2, (∀ m, (f1 m).retired = m.retired ∧ (f1 m).reissued = m.reissued) →
      (∀ m, (f2 m).retired = m.retired ∧ (f2 m).reissued = m.reissued) →
      R d (((d.afterRun p pt f c e start unit r).onMillI p f1).onMillI p f2) := by
    intro d start r f1 f2 h1 h2
    refine hR.trans ?_ (hR.mill _ f2 h2)
    refine hR.trans ?_ (hR.mill _ f1 h1)
    exact hR.mill d _ fun m => ⟨rfl, rfl⟩
  refine hR.ite _ (hR.trans ?_ (hR.gristFault _ _ _ _ _ _)) ?_
  · exact hrun d _ _ _ _ (fun m => ⟨rfl, rfl⟩) fun m => ⟨rfl, rfl⟩
  · exact hrun d _ _ _ _ (fun m => ⟨rfl, rfl⟩) fun m => ⟨rfl, rfl⟩

theorem RunStep.runUnit (d : Dev) (pt : Nat) (f : Frame) (v : List Byte) (c unit : Nat) (pd : PointData) (cyc : Nat) :
    R d (d.runUnit p pt f v c unit pd cyc) := by
  cases h : (if decide (2 ^ 32 ≤ unit) = true then (d.millI p).endEngine c (d.beatAt cyc)
      else (d.millI p).idleEngine c (d.beatAt cyc)) with
  | none =>
    rw [Dev.runUnit_busy h]
    exact hR.refl d
  | some e =>
    rw [Dev.runUnit_idle h]
    rcases Dev.gsAfter_cases (d.unitRun p pt f v c unit pd cyc e) p pt f (imageOf v) pd with hg | ⟨g, hg⟩
    · rw [hg]
      exact hR.unitRun d pt f v c unit pd cyc e
    · rw [hg]
      exact hR.trans (hR.unitRun d pt f v c unit pd cyc e) (hR.gsBlock _ g)

theorem RunStep.reissue (d : Dev) (c e cyc : Nat) : R d (d.reissue p c e cyc) := by
  unfold Dev.reissue
  dsimp only
  split
  · exact hR.refl d
  · split
    · exact hR.mill d _ fun m => ⟨rfl, rfl⟩
    · refine hR.trans (hR.trans ?_ (hR.runUnit _ _ _ _ _ _ _ _)) (hR.mill _ _ fun m => ⟨rfl, rfl⟩)
      exact hR.trans (hR.ended _ _ _) (hR.mill _ _ fun m => ⟨rfl, rfl⟩)

theorem RunStep.recheckMill (d : Dev) (j ns : Nat) : R d (d.recheckMill p j ns) := by
  unfold Dev.recheckMill
  refine hR.ite _ (hR.refl d) ?_
  refine hR.trans ?_ (hR.raise _ _ _)
  refine hR.trans ?_ (hR.report _ _ _ _ _)
  exact hR.mill d _ fun m => ⟨rfl, rfl⟩

end

/-! ### Reports, retired engines and re-issues over a run -/

theorem Dev.millI_onMillI_same (d : Dev) {p : Nat} (f : MillSt → MillSt) (h : p < d.mills.length) :
    (d.onMillI p f).millI p = f (d.millI p) := getD_upd_same _ _ _ _ h

theorem Dev.length_onMillI (d : Dev) (p : Nat) (f : MillSt → MillSt) : (d.onMillI p f).mills.length = d.mills.length :=
  length_upd _ _ _

theorem Dev.millI_congr {d d' : Dev} (h : d'.mills = d.mills) (p : Nat) : d'.millI p = d.millI p := by
  rw [Dev.millI, Dev.millI, h]

/-- A run only adds reports. -/
theorem runStep_reports (p : Nat) :
    RunStep p fun d e => ∃ l, e.faults.reports = d.faults.reports ++ l where
  refl d := ⟨[], (List.append_nil _).symm⟩
  trans := by
    rintro a b c ⟨l, hl⟩ ⟨k, hk⟩
    exact ⟨l ++ k, by rw [hk, hl, List.append_assoc]⟩
  mill _ _ _ := ⟨[], (List.append_nil _).symm⟩
  ended _ _ _ := ⟨[], (List.append_nil _).symm⟩
  mem d pool off bs := ⟨[], by
    rw [List.append_nil]
    exact d.memWrite_keeps (·.faults.reports) pool off bs fun _ => rfl⟩
  ring d r f := ⟨[], by rw [List.append_nil, Dev.onRingI_faults]⟩
  mark _ _ _ := ⟨[], (List.append_nil _).symm⟩
  raise _ _ _ := ⟨[], (List.append_nil _).symm⟩
  report _ _ _ _ _ := ⟨_, rfl⟩

/-- A run retires no engine and re-issues no tile. -/
theorem runStep_mill (p : Nat) :
    RunStep p fun d e => e.mills.length = d.mills.length ∧ (e.millI p).retired = (d.millI p).retired ∧
      (e.millI p).reissued = (d.millI p).reissued where
  refl _ := ⟨rfl, rfl, rfl⟩
  trans h h' := ⟨h'.1.trans h.1, h'.2.1.trans h.2.1, h'.2.2.trans h.2.2⟩
  mill d f hf := by
    refine ⟨d.length_onMillI p f, ?_⟩
    by_cases hp : p < d.mills.length
    · rw [d.millI_onMillI_same f hp]
      exact hf _
    · have hsame : (d.onMillI p f).millI p = d.millI p :=
        congrArg (·.getD p MillSt.reset) (upd_past d.mills p f (Nat.not_lt.mp hp))
      rw [hsame]
      exact ⟨rfl, rfl⟩
  ended _ _ _ := ⟨rfl, rfl, rfl⟩
  mem d pool off bs := by
    have h := d.memWrite_keeps (·.mills) pool off bs fun _ => rfl
    exact ⟨congrArg List.length h, congrArg MillSt.retired (Dev.millI_congr h p),
      congrArg MillSt.reissued (Dev.millI_congr h p)⟩
  ring d r f := by
    have h := Dev.onRingI_keeps (·.mills) d r f (fun _ => rfl) (fun _ => rfl) (fun _ => rfl) (fun _ => rfl) fun _ => rfl
    exact ⟨congrArg List.length h, congrArg MillSt.retired (Dev.millI_congr h p),
      congrArg MillSt.reissued (Dev.millI_congr h p)⟩
  mark _ _ _ := ⟨rfl, rfl, rfl⟩
  raise _ _ _ := ⟨rfl, rfl, rfl⟩
  report _ _ _ _ _ := ⟨rfl, rfl, rfl⟩

/-! ### The frame that a unit has run on -/

theorem Dev.gsBlock_pipe (d : Dev) (p : Nat) (f : Frame) : (d.gsBlock p f).pipe = d.pipe := by
  unfold Dev.gsBlock
  split
  · rfl
  · next b _ =>
    have hfull : ∀ (full : Bool) (d : Dev), (if full then ((d.onMillI p fun m => { m with overflow := true }).mark
        (0xB000 + 0x40 * p) 12).raiseNow (192 + p) else d).pipe = d.pipe := fun full d => ite_keeps (·.pipe) _ rfl rfl
    have hmem : ∀ (d : Dev) pool off bs, (d.memWrite pool off bs).pipe = d.pipe :=
      fun d pool off bs => d.memWrite_keeps (·.pipe) pool off bs fun _ => rfl
    simp only [Dev.onRingI_pipe, hfull, hmem]

theorem Dev.gristFault_pipe (d : Dev) (p pt : Nat) (f : Frame) (tile pc ns : Nat) :
    (d.gristFault p pt f tile pc ns).pipe = d.pipe :=
  ite_keeps (·.pipe) _ rfl rfl

/-- A unit that has run is noted in its frame. -/
theorem Dev.unitRun_pipe (d : Dev) (p pt : Nat) (f : Frame) (v : List Byte) (c unit : Nat) (pd : PointData) (cyc e : Nat) :
    ∃ g : Frame → Frame, (d.unitRun p pt f v c unit pd cyc e).pipe = (d.onEnded p f.number g).pipe ∧
      ∀ x, (g x).tiles = x.tiles ++ [(pt, unit)] ∧ (g x).number = x.number := by
  unfold Dev.unitRun
  dsimp only
  have hended : ∀ (e : Dev) (n : Nat) (g : Frame → Frame), e.pipe = d.pipe →
      (e.onEnded p n g).pipe = (d.onEnded p n g).pipe := fun e n g h => by
    show upd e.pipe p _ = upd d.pipe p _
    rw [h]
  refine ⟨_, hended _ _ _ ?_, fun x => ⟨rfl, rfl⟩⟩
  exact ite_keeps (·.pipe) _ (Dev.gristFault_pipe _ _ _ _ _ _ _) rfl

/-- A unit of the one frame in the pipeline, with an engine for it. -/
theorem Dev.runUnit_ended {d : Dev} {p pt c unit cyc e : Nat} {f : Frame} {v : List Byte} {pd : PointData}
    (hended : (d.pipeI p).ended = [f]) (hp : p < d.pipe.length)
    (h : (if decide (2 ^ 32 ≤ unit) = true then (d.millI p).endEngine c (d.beatAt cyc)
      else (d.millI p).idleEngine c (d.beatAt cyc)) = some e) :
    ∃ g, ((d.runUnit p pt f v c unit pd cyc).pipeI p).ended = [g] ∧ g.tiles = f.tiles ++ [(pt, unit)] ∧
      g.number = f.number := by
  obtain ⟨g, hpipe, hg⟩ := d.unitRun_pipe p pt f v c unit pd cyc e
  have hrun : (d.runUnit p pt f v c unit pd cyc).pipe = (d.onEnded p f.number g).pipe := by
    rw [Dev.runUnit_idle h]
    rcases Dev.gsAfter_cases (d.unitRun p pt f v c unit pd cyc e) p pt f (imageOf v) pd with hs | ⟨x, hs⟩
    · rw [hs, hpipe]
    · rw [hs, Dev.gsBlock_pipe, hpipe]
  refine ⟨g f, ?_, (hg f).1, (hg f).2⟩
  rw [Dev.pipeI_congr hrun]
  refine (congrArg PipeSt.ended (d.pipeI_onPipeI_same _ hp)).trans ?_
  dsimp only
  rw [hended]
  simp

/-! ### Engines (10 R263, R264) -/

theorem getD_modify_set (l : List (List Bool)) {c : Nat} (hc : c < l.length) (e : Nat) :
    (retiredIn (l.modify c fun x => x.set e true) c).getD e true = true := by
  have hin : retiredIn (l.modify c fun x => x.set e true) c = (l.getD c (List.replicate 16 false)).set e true :=
    getD_upd_same l c (fun x => x.set e true) _ hc
  rw [hin, List.getD_eq_getElem?_getD, List.getElem?_set, if_pos rfl]
  split <;> rfl

/-- After a re-issue no run of the engine is left. -/
theorem Dev.reissue_idle (d : Dev) {p : Nat} (hp : p < d.mills.length) (c e cyc : Nat) :
    (((d.reissue p c e cyc).millI p).busy.find? fun b => b.cluster == c && b.engine == e) = none := by
  have hforget : ∀ d : Dev, p < d.mills.length → (((d.onMillI p fun m =>
      { m with busy := m.busy.filter fun b => !(b.cluster == c && b.engine == e) }).millI p).busy.find?
        fun b => b.cluster == c && b.engine == e) = none := fun d hp => by
    rw [d.millI_onMillI_same _ hp]
    refine List.find?_eq_none.mpr fun b hb => ?_
    exact (Bool.not_eq_true' _ ▸ (List.mem_filter.mp hb).2 : _ = false) ▸ Bool.false_ne_true
  unfold Dev.reissue
  dsimp only
  split
  · next h => exact h
  · split
    · exact hforget d hp
    · refine hforget _ ?_
      refine lt_of_lt_of_eq ?_ ((runStep_mill p).runUnit _ _ _ _ _ _ _ _).1.symm
      exact Nat.lt_of_lt_of_eq hp (Dev.length_onMillI _ _ _).symm

theorem MillSt.running_none {m : MillSt} {c e : Nat} (h : (m.busy.find? fun b => b.cluster == c && b.engine == e) = none)
    (beat : Nat) : m.running c e beat = false := by
  refine List.any_eq_false.mpr fun b hb => ?_
  have := List.find?_eq_none.mp h b hb
  simp_all

/-- A retired engine stands as retired, with a report that names it; a tile counts as re-issued if it ran one. -/
theorem Dev.retireEngine_spec {d : Dev} {p c e : Nat} (hp : p < d.mills.length) (hc : c < (d.millI p).retired.length)
    (hnot : (retiredIn (d.millI p).retired c).getD e true = false) (cyc : Nat) :
    let t := d.retireEngine p c e cyc
    (retiredIn (t.millI p).retired c).getD e true = true ∧
      ((d.millI p).running c e (d.beatAt cyc) = false → (t.millI p).reissued = (d.millI p).reissued) ∧
      ∃ r ∈ t.faults.reports, r.cls = 0x0041 ∧ r.detail = [64 * p + 16 * c + e] := by
  let marked := d.onMillI p fun m =>
    { m with retired := m.retired.modify c fun l => l.set e true,
             deferred := m.deferred.filter fun x => x.1 != 16 * c + e,
             reissued := if (d.millI p).running c e (d.beatAt cyc) then bump m.reissued else m.reissued }
  let told := (marked.report 0x0041 (endpoint 0x0A (4 * p)) (d.nsAt cyc) [64 * p + 16 * c + e]).raise (192 + p) (d.nsAt cyc)
  have hmill : told.millI p = _ := d.millI_onMillI_same _ hp
  have hstep : ∀ {R : Dev → Dev → Prop}, RunStep p R → R told (d.retireEngine p c e cyc) := fun hR => by
    rw [Dev.retireEngine, if_neg (ne_true_of_eq_false hnot)]
    exact hR.trans (hR.ite _ (hR.reissue _ _ _ _) (hR.refl _)) (hR.recheckMill _ _ _)
  obtain ⟨-, hretired, hreissued⟩ := hstep (runStep_mill p)
  obtain ⟨l, hl⟩ := hstep (runStep_reports p)
  refine ⟨?_, fun hidle => ?_, ?_⟩
  · rw [hretired, hmill]
    exact getD_modify_set _ hc e
  · rw [hreissued, hmill, hidle]
    rfl
  · rw [hl]
    exact ⟨_, List.mem_append_left _ (List.mem_append_right _ List.mem_cons_self), rfl, rfl⟩

/-- A first reset re-issues the engine's tile; a second one within 24 hours retires the engine too. -/
theorem Dev.resetEngine_spec {d : Dev} {p c e : Nat} (hp : p < d.mills.length) (hc : c < (d.millI p).retired.length)
    (hnot : (retiredIn (d.millI p).retired c).getD e true = false) (cyc : Nat) :
    let again := (d.millI p).resets.any fun r => r.1 == c && r.2.1 == e && decide (d.health.life.hours < r.2.2 + 24)
    let t := d.resetEngine p c e cyc
    (t.millI p).reissued = bump (d.millI p).reissued ∧
      (again = false → ((t.millI p).busy.find? fun b => b.cluster == c && b.engine == e) = none) ∧
      (again = true → (retiredIn (t.millI p).retired c).getD e true = true) := by
  intro again t
  let noted := d.onMillI p fun m =>
    { m with reissued := bump m.reissued,
             resets := (m.resets.filter fun r => !(r.1 == c && r.2.1 == e)) ++ [(c, e, d.health.life.hours)] }
  have ht : t = if again then (noted.reissue p c e cyc).retireEngine p c e cyc else noted.reissue p c e cyc :=
    if_neg (ne_true_of_eq_false hnot)
  have hnoted : noted.millI p = _ := d.millI_onMillI_same _ hp
  have hlen : noted.mills.length = d.mills.length := d.length_onMillI p _
  obtain ⟨hmills, hretired, hreissued⟩ := (runStep_mill p).reissue noted c e cyc
  rw [hnoted] at hretired hreissued
  have hidle := noted.reissue_idle (Nat.lt_of_lt_of_eq hp hlen.symm) c e cyc
  have hspec := Dev.retireEngine_spec (d := noted.reissue p c e cyc) (c := c) (e := e)
    (Nat.lt_of_lt_of_eq hp (hmills.trans hlen).symm) (by rwa [hretired]) (by rwa [hretired]) cyc
  obtain ⟨hgone, hcount, -⟩ := hspec
  rw [ht]
  cases again with
  | false => exact ⟨hreissued, fun _ => hidle, fun h => absurd h Bool.false_ne_true⟩
  | true => exact ⟨(hcount (MillSt.running_none hidle _)).trans hreissued, fun h => absurd h Bool.true_eq_false.mp, fun _ => hgone⟩

/-! ### Panic (17 R422) -/

theorem Dev.chanI_onChanI_same (d : Dev) {n : Nat} (f : Chan → Chan) (h : n < d.dram.chans.length) :
    (d.onChanI n f).chanI n = f (d.chanI n) := getD_upd_same _ _ _ _ h

theorem Dev.chanI_onChanI_other (d : Dev) {n k : Nat} (f : Chan → Chan) (h : k ≠ n) :
    (d.onChanI n f).chanI k = d.chanI k := getD_upd_other _ _ _ _ _ h

theorem mem_ite_append (n : Nat) (l : List Nat) : n ∈ if l.contains n then l else l ++ [n] := by
  by_cases h : n ∈ l <;> simp [h]

/-- Panic of a stream on a channel. -/
def Chan.panic (race : Nat) (x : Chan) : Chan :=
  { x with panics := if x.panics.contains race then x.panics else x.panics ++ [race] }

theorem Chan.mem_panic (race : Nat) (x : Chan) : race ∈ (x.panic race).panics :=
  mem_ite_append race x.panics

theorem Dev.each_panic (race : Nat) (cs : List Nat) (d : Dev) :
    let t := d.each cs fun d c => d.onChanI c (Chan.panic race)
    t.dram.panicsCnt = d.dram.panicsCnt ∧ t.dram.chans.length = d.dram.chans.length ∧
      (∀ c, c ∉ cs → t.chanI c = d.chanI c) ∧
      ∀ c, c < d.dram.chans.length → (c ∈ cs ∨ race ∈ (d.chanI c).panics) → race ∈ (t.chanI c).panics := by
  induction cs generalizing d with
  | nil =>
    refine ⟨rfl, rfl, fun _ _ => rfl, fun c _ h => h.resolve_left List.not_mem_nil⟩
  | cons k cs ih =>
    obtain ⟨hcnt, hlen, hother, hmem⟩ := ih (d.onChanI k (Chan.panic race))
    have hlen' : (d.onChanI k (Chan.panic race)).dram.chans.length = d.dram.chans.length := length_upd _ _ _
    refine ⟨hcnt, hlen.trans hlen', fun c hc => ?_, fun c hc h => ?_⟩
    · obtain ⟨hne, hnot⟩ := not_or.mp (mt List.mem_cons.mpr hc)
      exact (hother c hnot).trans (d.chanI_onChanI_other _ hne)
    · refine hmem c (Nat.lt_of_lt_of_eq hc hlen'.symm) ?_
      by_cases hck : c = k
      · subst hck
        rw [d.chanI_onChanI_same _ hc]
        exact .inr (Chan.mem_panic _ _)
      · rw [d.chanI_onChanI_other _ hck]
        exact h.imp_left fun h => (List.mem_cons.mp h).resolve_left hck

theorem Dev.chanI_calm (d : Dev) (race c : Nat) :
    ((d.calm race).chanI c).panics = (d.chanI c).panics.filter (· != race) := by
  have hcalm : (d.calm race).dram.chans = d.dram.chans.map fun c => { c with panics := c.panics.filter (· != race) } := rfl
  unfold Dev.chanI
  rw [hcalm]
  simp only [List.getD_eq_getElem?_getD, List.getElem?_map]
  cases d.dram.chans[c]? <;> rfl

/-! ### Dropped frames of a link and of a raster (01 R25; 17 R422) -/

/-- The top weir of a link's drop source: the open frame is marked aborted before its gate. -/
theorem Dev.dropOnStream_link {d : Dev} {p : Nat} {f : Frame} {ns : Nat} (hp : p < 8) (hrace : d.capRace p < 64)
    (hcap : d.hasCapture p = true) (hfirst : ∀ q, q < p → d.hasCapture q = true → d.capRace q ≠ d.capRace p)
    (hcur : (d.pipeI p).cur = some f) (hab : f.aborted = false) (hgate : f.gated = false) :
    d.dropOnStream (d.capRace p) ns = d.setCur p (some { f with aborted := true }) := by
  have hfind : ((List.range 8).find? fun q => d.hasCapture q && d.capRace q == d.capRace p) = some p := by
    refine List.find?_range_eq_some.mpr ⟨by simp [hcap], List.mem_range.mpr hp, fun q hq => ?_⟩
    cases h : d.hasCapture q with
    | false => rfl
    | true => simp [hfirst q hq h]
  unfold Dev.dropOnStream
  simp only [if_pos hrace, hfind, hcur, hab, hgate, Bool.false_eq_true, if_false]

/-- The oldest ended frame completes, waits, or is lost to a placement in hold. -/
theorem pipelineFrameComplete_cases : ∀ (s : State) (p : Fin 8),
      ((s.dev.pipeI p).ended = [] → exec (.pipelineFrameComplete p) s = .next s ∧
        (∀ pt tile cyc, exec (.tileRun p pt tile cyc) s = .next s) ∧
        ∀ pt c cyc, exec (.frameEndRun p pt c cyc) s = .next s) ∧
      ∀ f rest, (s.dev.pipeI p).ended = f :: rest →
        (f.gated = false ∨ s.dev.tilesBack p f = false → exec (.pipelineFrameComplete p) s = .next s) ∧
        (f.gated = true → s.dev.tilesBack p f = true → f.holding = [] → s.dev.pipe.length = 8 → s.dev.cap.length = 8 →
          ∃ t : State, exec (.pipelineFrameComplete p) s = .next t ∧ (t.dev.pipeI p).ended = rest ∧
            (t.dev.pipeI p).done = some { f with clamp := (s.dev.pipeI p).clamp } ∧
            (t.dev.capI p).embedFrame = f.number ∧ (t.dev.capI p).embed.length = 4 ∧
            ∀ i, i < f.dies.length → i < 4 →
              (t.dev.capI p).embed.getD i [] = (f.dies.getD i DieFrame.empty).embed) ∧
        (f.gated = true → s.dev.tilesBack p f = true → ∀ pt, pt < 3 → f.holding = [pt] → s.dev.pipe.length = 8 → s.dev.cap.length = 8 →
          ∃ t : State, exec (.pipelineFrameComplete p) s = .next t ∧ (t.dev.pipeI p).ended = rest ∧
            (t.dev.capI p).dropped = bump (s.dev.capI p).dropped ∧
            ∃ r ∈ t.dev.faults.reports, r.cls = 0x0020 ∧ r.detail = [320 + 8 * p + 2 * pt, f.number]) := by
  intro s p
  refine ⟨fun hended => ⟨next_withDev (d' := s.dev) ?_, fun pt tile cyc => next_withDev (d' := s.dev) ?_,
    fun pt c cyc => next_withDev (d' := s.dev) ?_⟩, fun f rest hended => ⟨fun hnot => next_withDev (d' := s.dev) ?_,
    fun hgated hback hhold hpipe hcap => ?_, fun hgated hback pt hpt hhold hpipe hcap => ?_⟩⟩
  · rw [Dev.frameLeaves, hended]
  · rw [Dev.tileRun, hended]
    rfl
  · rw [Dev.frameEndRun, hended]
    rfl
  · rw [Dev.frameLeaves, hended]
    by_cases hback : s.dev.tilesBack p f = true
    · have hgated : f.gated = false := hnot.resolve_right (ne_false_of_eq_true hback)
      refine (if_pos hback).trans ?_
      unfold Dev.frameComplete
      simp only [hended, hgated, Bool.not_false, if_true]
    · exact if_neg hback
  · have hleave : s.dev.frameLeaves p = s.dev.frameComplete p := by
      rw [Dev.frameLeaves, hended]
      exact if_pos hback
    obtain ⟨hrest, hdone, hnum, hemb⟩ := Dev.frameComplete_whole hended hgated hhold (Nat.lt_of_lt_of_eq p.isLt hpipe.symm)
      (Nat.lt_of_lt_of_eq p.isLt hcap.symm)
    refine ⟨_, next_withDev hleave, hrest, hdone, hnum, (congrArg List.length hemb).trans ?_, fun i hi hi4 =>
      (congrArg (·.getD i []) hemb).trans ?_⟩
    · simp [Frame.embedded]
    · simp [Frame.embedded, hi, hi4]
  · have hleave : s.dev.frameLeaves p = s.dev.frameComplete p := by
      rw [Dev.frameLeaves, hended]
      exact if_pos hback
    exact ⟨_, next_withDev hleave, Dev.frameComplete_held hended hgated hhold hpt (Nat.lt_of_lt_of_eq p.isLt hpipe.symm)
      (Nat.lt_of_lt_of_eq p.isLt hcap.symm)⟩

/-- A tap's buffer and a statistics block become full with the frame's postmark. -/
theorem bufferFull_cases : ∀ (s : State) (p : Fin 8) (f : Frame), (s.dev.pipeI p).done = some f → s.dev.taps.length = 64 →
      s.dev.pipe.length = 8 →
      (∀ k : Fin 6, f.buf k = none → exec (.tapBufferFull p k) s = .next s) ∧
      (∀ (k : Fin 6) (o : Nat) (b : Buf), f.buf k = some o → (s.dev.ringI (8 * p + k)).byOrder o = some b →
        ∃ t : State, exec (.tapBufferFull p k) s = .next t ∧ t.dev.ringI (8 * p + k) =
          (s.dev.ringI (8 * p + k)).fill o (postmarkNat (f.stamp / 2 ^ 32) f.epoch f.number (8 * p + k)) f.pset
            (tapBytes (tapCfg f.params p k)) ∧ ∀ r, r ≠ 8 * p.val + k.val → t.dev.ringI r = s.dev.ringI r) ∧
      (f.buf 6 = none → exec (.statisticsBlockFull p) s = .next s) ∧
      ∀ (o : Nat) (b : Buf), f.buf 6 = some o → (s.dev.ringI (8 * p + 6)).byOrder o = some b →
        ∃ t : State, ∃ mark : Nat, exec (.statisticsBlockFull p) s = .next t ∧
          t.dev.ringI (8 * p + 6) = (s.dev.ringI (8 * p + 6)).fill o mark f.pset 16448 ∧
          (t.dev.pipeI p).lastBlock = some f.number ∧
          t.dev.evt.raised = s.dev.evt.raised ++ [(184 + p.val, s.dev.nowNs, s.dev.time.epoch.toNat)] := by
  intro s p f hdone htaps hpipe
  have htap : ∀ k, s.dev.tapFull p k = s.dev.tapWrite p k f f.clamp := fun k => by rw [Dev.tapFull, hdone]
  refine ⟨fun k hbuf => next_withDev ((htap k).trans (Dev.tapWrite_none hbuf _)), fun k o b hbuf hb => ?_,
    fun hbuf => next_withDev (Dev.statsFull_none hdone hbuf), fun o b hbuf hb => ?_⟩
  · obtain ⟨e, he, hring⟩ := Dev.tapWrite_full hbuf hb f.clamp
    refine ⟨_, next_withDev ((htap k).trans he), ?_, fun r hr => (e.ringI_onRingI_other _ hr).trans (hring r)⟩
    have hne : e.ringI (8 * p + k) ≠ Ring.empty := by
      rw [hring]
      exact Ring.byOrder_ne_empty hb
    exact (e.ringI_onRingI_same _ hne).trans (by rw [hring])
  · obtain ⟨e, mark, he, hring, hp, hevt, hns, htime⟩ := Dev.statsFull_full hdone hbuf hb
    have hne : (e.onPipeI p fun x => { x with lastBlock := some f.number }).ringI (8 * p + 6) ≠ Ring.empty :=
      fun he => Ring.byOrder_ne_empty hb ((hring _).symm.trans he)
    have hlen : p.val < e.pipe.length := by
      rw [hp, hpipe]
      exact p.isLt
    refine ⟨_, mark, next_withDev he, (Dev.ringI_onRingI_same _ _ hne).trans (congrArg (Ring.fill · o mark f.pset 16448) (hring _)), ?_, ?_⟩
    · refine (congrArg PipeSt.lastBlock (Dev.pipeI_congr (Dev.onRingI_pipe _ _ _) p)).trans ?_
      exact congrArg PipeSt.lastBlock (e.pipeI_onPipeI_same _ hlen)
    · have hraise : ∀ d : Dev, (d.raiseNow (184 + p)).evt.raised = d.evt.raised ++ [(184 + p.val, d.nowNs, d.time.epoch.toNat)] :=
        fun _ => rfl
      have hnow : ∀ d r f, (Dev.onRingI d r f).nowNs = d.nowNs := fun d r f =>
        Dev.onRingI_keeps (·.nowNs) d r f (fun _ => rfl) (fun _ => rfl) (fun _ => rfl) (fun _ => rfl) fun _ => rfl
      refine (hraise _).trans ?_
      rw [hnow, Dev.onRingI_evt, Dev.onRingI_time]
      show e.evt.raised ++ [(184 + p.val, e.nowNs, e.time.epoch.toNat)] = _
      rw [hevt, hns, htime]

/-- A top weir of a raster layer counts an underflow. -/
theorem topWeir_rasterLayer : ∀ (s : State) (race cyc : Nat), 448 ≤ race → race < 480 → s.dev.raster.length = 4 →
      ∃ t : State, exec (.topWeir race cyc) s = .next t ∧
        (t.dev.rasterI ((race - 448) / 8)).underflow = bump (s.dev.rasterI ((race - 448) / 8)).underflow ∧
        race % 8 ∈ (t.dev.rasterI ((race - 448) / 8)).dropped ∧
        t.dev.faults.reports = s.dev.faults.reports ++ [⟨0x0020, s.dev.nsAt cyc, s.dev.time.epoch.toNat,
          0x1000 + (race - 448) / 8, [race, (s.dev.rasterI ((race - 448) / 8)).frame.toNat]⟩] := by
  intro s race cyc hlo hhi hlen
  have hdrop : ¬race < 64 ∧ ¬(256 ≤ race ∧ race < 320) ∧ ¬(320 ≤ race ∧ race < 384) := by omega
  obtain ⟨h1, h2, h3⟩ := hdrop
  have hlt : (race - 448) / 8 < s.dev.raster.length := by omega
  have heq : s.dev.dropOnStream race (s.dev.nsAt cyc) = _ :=
    (if_neg h1).trans ((if_neg h2).trans ((if_neg h3).trans (if_pos ⟨hlo, hhi⟩)))
  have hraster := getD_upd_same s.dev.raster ((race - 448) / 8) (fun x : RasterSt =>
    { x with underflow := bump x.underflow,
             dropped := if x.dropped.contains (race % 8) then x.dropped else x.dropped ++ [race % 8] })
    RasterSt.reset hlt
  refine ⟨_, next_withDev heq, congrArg RasterSt.underflow hraster, ?_, rfl⟩
  refine (congrArg (race % 8 ∈ ·) (congrArg RasterSt.dropped hraster)).mpr ?_
  exact mem_ite_append _ _

/-- A panic is raised on the channels of the pool and ended everywhere. -/
theorem panic_calm_channels : ∀ (s : State) (race : Nat), s.dev.dram.chans.length = 24 →
      ((∀ x ∈ s.dev.res.streams, x.race = race → x.policy ≠ 2) → exec (.panic race) s = .next s) ∧
      ((∃ x ∈ s.dev.res.streams, x.race = race ∧ x.policy = 2) → ∃ t : State, exec (.panic race) s = .next t ∧
        t.dev.dram.panicsCnt = bump s.dev.dram.panicsCnt ∧
        (∀ c, c ∈ s.dev.panicChannels race → c < 24 → race ∈ (t.dev.chanI c).panics) ∧
        ∀ c, c ∉ s.dev.panicChannels race → t.dev.chanI c = s.dev.chanI c) ∧
      ∃ t : State, exec (.calm race) s = .next t ∧ (∀ c, race ∉ (t.dev.chanI c).panics) ∧
        (∀ c r, r ≠ race → (r ∈ (t.dev.chanI c).panics ↔ r ∈ (s.dev.chanI c).panics)) ∧
        t = (s.withDev ({ s.dev with dram := { s.dev.dram with chans := t.dev.dram.chans } })) := by
  intro s race hlen
  refine ⟨fun hno => next_withDev (d' := s.dev) (if_neg ?_), fun ⟨x, hx, hrace, hpol⟩ => ?_, ?_⟩
  · simpa using hno
  · have hany : (s.dev.res.streams.any fun s => s.race == race && s.policy == 2) = true :=
      List.any_eq_true.mpr ⟨x, hx, by simp [hrace, hpol]⟩
    obtain ⟨hcnt, -, hother, hmem⟩ := Dev.each_panic race (s.dev.panicChannels race)
      (s.dev.onDram fun t => { t with panicsCnt := bump t.panicsCnt })
    exact ⟨_, next_withDev (if_pos hany), hcnt, fun c hc hlt => hmem c (Nat.lt_of_lt_of_eq hlt hlen.symm) (.inl hc), hother⟩
  · refine ⟨_, rfl, fun c => ?_, fun c r hr => ?_, rfl⟩
    · refine (congrArg (race ∉ ·) (s.dev.chanI_calm race c)).mpr ?_
      simp
    · refine (congrArg (r ∈ ·) (s.dev.chanI_calm race c)).to_iff.trans ?_
      simp [hr]

/-- A tile run and a frame-end run mark the frame. -/
theorem tileRun_frameEndRun_marks : ∀ (s : State) (p : Fin 8) (pt : Fin 4) (f : Frame) (cyc e : Nat),
      let v := placedImage f.params p pt
      let im := imageOf v
      let pd := pointData f p im (develop f p (s.dev.pipeI p).clamp)
      (s.dev.pipeI p).ended = [f] → v ≠ [] → pt.val ∉ f.passing → pt.val ∉ f.holding → s.dev.pipe.length = 8 →
      (∀ tile, (pt.val, tile) ∉ f.tiles → tileCount pd.w pd.h ≤ tile → exec (.tileRun p pt tile cyc) s = .next s) ∧
      (∀ tile, (pt.val, tile) ∉ f.tiles → tile < tileCount pd.w pd.h → tile < 2 ^ 32 →
        s.dev.awaitsEnd p pt ((imageClusters im).getD (tile % (imageClusters im).length) 0) (s.dev.beatAt cyc) f = false →
        (s.dev.millI p).idleEngine ((imageClusters im).getD (tile % (imageClusters im).length) 0) (s.dev.beatAt cyc) = some e →
        ∃ t : State, exec (.tileRun p pt tile cyc) s = .next t ∧ ∃ g, (t.dev.pipeI p).ended = [g] ∧
          g.tiles = f.tiles ++ [(pt.val, tile)] ∧ g.number = f.number) ∧
      (∀ c : Fin 4, im.fe = 0xFFFF → exec (.frameEndRun p pt c cyc) s = .next s) ∧
      ∀ c : Fin 4, (pt.val, 2 ^ 32 + c.val) ∉ f.tiles → im.fe ≠ 0xFFFF → bit im.mask c = true →
        tilesDone im f pt (tileCount pd.w pd.h) c = true →
        (s.dev.millI p).busyWith pt f.number c (s.dev.beatAt cyc) = false →
        (s.dev.millI p).endEngine c (s.dev.beatAt cyc) = some e →
        ∃ t : State, exec (.frameEndRun p pt c cyc) s = .next t ∧ ∃ g, (t.dev.pipeI p).ended = [g] ∧
          g.tiles = f.tiles ++ [(pt.val, 2 ^ 32 + c.val)] ∧ g.number = f.number := by
  intro s p pt f cyc e v im pd hended hv hpass hhold hpipe
  have hlen : p.val < s.dev.pipe.length := Nat.lt_of_lt_of_eq p.isLt hpipe.symm
  have hfind : ∀ unit, (pt.val, unit) ∉ f.tiles → (s.dev.pipeI p).ended.find? (fun f =>
      !(placedImage f.params p pt).isEmpty && !f.tiles.contains (pt.val, unit) && !f.passing.contains pt.val &&
        !f.holding.contains pt.val) = some f := fun unit hunit => by
    rw [hended]
    simp [hunit, hpass, hhold, v, hv]
  have hrun : ∀ c unit, (if decide (2 ^ 32 ≤ unit) = true then (s.dev.millI p).endEngine c (s.dev.beatAt cyc)
      else (s.dev.millI p).idleEngine c (s.dev.beatAt cyc)) = some e → ∀ {run : Dev},
      run = s.dev.runUnit p pt f v c unit pd cyc → ∃ t : State, Host.Outcome.next { s with dev := run } = .next t ∧
        ∃ g, (t.dev.pipeI p).ended = [g] ∧ g.tiles = f.tiles ++ [(pt.val, unit)] ∧ g.number = f.number :=
    fun c unit he run hr => ⟨_, next_withDev hr, Dev.runUnit_ended hended hlen he⟩
  have htile : ∀ tile, (pt.val, tile) ∉ f.tiles → s.dev.tileRun p pt tile cyc =
      if tileCount pd.w pd.h ≤ tile ∨ s.dev.awaitsEnd p pt ((imageClusters im).getD (tile % (imageClusters im).length) 0)
        (s.dev.beatAt cyc) f = true then s.dev else s.dev.runUnit p pt f v
          ((imageClusters im).getD (tile % (imageClusters im).length) 0) tile pd cyc := fun tile hnew => by
    unfold Dev.tileRun
    dsimp only
    rw [hfind tile hnew]
  have hend : ∀ c, (pt.val, 2 ^ 32 + c) ∉ f.tiles → s.dev.frameEndRun p pt c cyc =
      if im.fe = 0xFFFF ∨ bit im.mask c = false ∨ tilesDone im f pt (tileCount pd.w pd.h) c = false ∨
        (s.dev.millI p).busyWith pt f.number c (s.dev.beatAt cyc) = true then s.dev
      else s.dev.runUnit p pt f v c (2 ^ 32 + c) pd cyc := fun c hnew => by
    unfold Dev.frameEndRun
    dsimp only
    rw [hfind _ hnew]
  refine ⟨fun tile hnew hpast => next_withDev ((htile tile hnew).trans (if_pos (.inl hpast))),
    fun tile hnew hlt hsmall hwait hidle => ?_, fun c hfe => ?_, fun c hnew hfe hmask hdone hfree hidle => ?_⟩
  · refine hrun _ tile ?_ ((htile tile hnew).trans (if_neg ?_))
    · rw [if_neg (by simpa using hsmall)]
      exact hidle
    · exact not_or.mpr ⟨Nat.not_le_of_lt hlt, ne_true_of_eq_false hwait⟩
  · refine next_withDev (d' := s.dev) ?_
    by_cases hnew : (pt.val, 2 ^ 32 + c.val) ∈ f.tiles
    · have hno : (s.dev.pipeI p).ended.find? (fun f =>
          !(placedImage f.params p pt).isEmpty && !f.tiles.contains (pt.val, 2 ^ 32 + c.val) && !f.passing.contains pt.val &&
            !f.holding.contains pt.val) = none := by
        rw [hended]
        refine List.find?_eq_none.mpr fun g hg => ?_
        rw [List.mem_singleton.mp hg, List.contains_iff_mem.mpr hnew]
        simp
      unfold Dev.frameEndRun
      dsimp only
      rw [hno]
    · exact (hend c hnew).trans (if_pos (.inl hfe))
  · refine hrun _ (2 ^ 32 + c.val) ?_ ((hend c hnew).trans (if_neg ?_))
    · rw [if_pos (by simp)]
      exact hidle
    · simp [hfe, hmask, hdone, hfree]

/-- Engine resets and self-tests re-issue, retire or are deferred. -/
theorem engineReset_selfTest_cases : ∀ (s : State) (m : Fin 8) (c : Fin 4) (e : Fin 16) (cyc : Nat),
      (retiredIn (s.dev.millI m).retired c).getD e true = false → s.dev.mills.length = 8 →
      (s.dev.millI m).retired.length = 4 →
      ((∀ r ∈ (s.dev.millI m).resets, r.1 = c.val → r.2.1 = e.val → r.2.2 + 24 ≤ s.dev.health.life.hours) →
        ((∀ b ∈ (s.dev.millI m).busy, b.cluster = c.val → b.engine ≠ e.val) →
          exec (.engineReset m c e cyc) s = .next (s.withDev (s.dev.onMillI m fun x =>
            { x with reissued := bump x.reissued, resets := (x.resets.filter fun r => !(r.1 == c.val && r.2.1 == e.val)) ++
                       [(c.val, e.val, s.dev.health.life.hours)] }))) ∧
        ∃ t : State, exec (.engineReset m c e cyc) s = .next t ∧
          (t.dev.millI m).reissued = bump (s.dev.millI m).reissued ∧
          ((t.dev.millI m).busy.find? fun b => b.cluster == c.val && b.engine == e.val) = none) ∧
      ((∃ r ∈ (s.dev.millI m).resets, r.1 = c.val ∧ r.2.1 = e.val ∧ s.dev.health.life.hours < r.2.2 + 24) →
        ∃ t : State, exec (.engineReset m c e cyc) s = .next t ∧
          (retiredIn (t.dev.millI m).retired c).getD e true = true ∧
          (t.dev.millI m).reissued = bump (s.dev.millI m).reissued) ∧
      (demandFits (clusterDemand s.dev.params m c ((s.dev.millI m).healthy c - 1)) = true →
        exec (.engineSelfTest m c e true cyc) s = .next (s.withDev (
          (s.dev.onMillI m fun x => { x with deferred := x.deferred.filter fun y => y.1 != 16 * c.val + e.val }).raise 9
            (s.dev.nsAt cyc))) ∧
        ∃ t : State, exec (.engineSelfTest m c e false cyc) s = .next t ∧
          (retiredIn (t.dev.millI m).retired c).getD e true = true ∧
          ∃ r ∈ t.dev.faults.reports, r.cls = 0x0041 ∧ r.detail = [64 * m.val + 16 * c.val + e.val]) ∧
      (demandFits (clusterDemand s.dev.params m c ((s.dev.millI m).healthy c - 1)) = false →
        ((s.dev.millI m).deferred.find? fun x => x.1 == 16 * c.val + e.val) = none → ∀ pass,
        exec (.engineSelfTest m c e pass cyc) s = .next (s.withDev (s.dev.onMillI m fun x =>
          { x with deferred := x.deferred ++ [(16 * c.val + e.val, s.dev.health.life.hours, false)] }))) := by
  intro s m c e cyc hnot hlen hret
  have hm : m.val < s.dev.mills.length := Nat.lt_of_lt_of_eq m.isLt hlen.symm
  have hc : c.val < (s.dev.millI m).retired.length := Nat.lt_of_lt_of_eq c.isLt hret.symm
  obtain ⟨hcount, hfirst, hagain⟩ := Dev.resetEngine_spec hm hc hnot cyc
  refine ⟨fun hold => ?_, fun ⟨r, hr, hrc, hre, hlt⟩ => ?_, fun hfit => ?_, fun hfit hnone pass => ?_⟩
  · have hone : ((s.dev.millI m).resets.any fun r => r.1 == c.val && r.2.1 == e.val &&
        decide (s.dev.health.life.hours < r.2.2 + 24)) = false := by
      refine List.any_eq_false.mpr fun r hr => ?_
      simp only [Bool.and_eq_true, beq_iff_eq, decide_eq_true_eq, not_and, Nat.not_lt, and_imp]
      exact hold r hr
    refine ⟨fun hbusy => next_withDev ?_, _, rfl, hcount, hfirst hone⟩
    have hfind : ((s.dev.onMillI m fun x =>
          { x with reissued := bump x.reissued, resets := (x.resets.filter fun r => !(r.1 == c.val && r.2.1 == e.val)) ++
                     [(c.val, e.val, s.dev.health.life.hours)] }).millI m).busy.find?
            (fun b => b.cluster == c.val && b.engine == e.val) = none := by
      rw [s.dev.millI_onMillI_same _ hm]
      exact List.find?_eq_none.mpr fun b hb => by simpa using hbusy b hb
    unfold Dev.resetEngine
    dsimp only
    rw [if_neg (ne_true_of_eq_false hnot), hone, if_neg Bool.false_ne_true]
    unfold Dev.reissue
    dsimp only
    rw [hfind]
  · exact ⟨_, rfl, hagain (List.any_eq_true.mpr ⟨r, hr, by simp [hrc, hre, hlt]⟩), hcount⟩
  · have htest : ∀ pass, s.dev.selfTest m c e pass cyc =
        let d := (s.dev.onMillI m fun x => { x with deferred := x.deferred.filter fun y => y.1 != 16 * c.val + e.val }).raise 9
          (s.dev.nsAt cyc)
        if pass then d else d.retireEngine m c e cyc := fun pass =>
      (if_neg (ne_true_of_eq_false hnot)).trans (if_neg (by simp [hfit]))
    refine ⟨next_withDev (htest true), _, next_withDev (htest false), ?_⟩
    have hmill := s.dev.millI_onMillI_same
      (fun x => { x with deferred := x.deferred.filter fun y => y.1 != 16 * c.val + e.val }) hm
    have hspec := Dev.retireEngine_spec (d := (s.dev.onMillI m fun x =>
        { x with deferred := x.deferred.filter fun y => y.1 != 16 * c.val + e.val }).raise 9 (s.dev.nsAt cyc))
      (p := m) (c := c) (e := e) (Nat.lt_of_lt_of_eq hm (s.dev.length_onMillI _ _).symm)
      (Nat.lt_of_lt_of_eq hc (congrArg (·.retired.length) hmill).symm)
      ((congrArg (fun x : MillSt => (retiredIn x.retired c).getD e true) hmill).trans hnot) cyc
    exact ⟨hspec.1, hspec.2.2⟩
  · refine next_withDev ?_
    unfold Dev.selfTest
    dsimp only
    rw [if_neg (ne_true_of_eq_false hnot), hfit, Bool.not_false, if_pos rfl, hnone]

/-- Settles O58. That a frame which waits for its gate is only marked aborted, and that the clauses hold in states no run
reaches, are the model's choices (log 131, 117). -/
theorem pipelinesAndMills : Obligations.PipelinesAndMills := by
  unfold Obligations.PipelinesAndMills
  refine ⟨pipelineFrameComplete_cases, ?_, bufferFull_cases, fun s race cyc => rfl, ?_, topWeir_rasterLayer,
    panic_calm_channels, tileRun_frameEndRun_marks, ?_, engineReset_selfTest_cases⟩
  · intro s p hdone
    refine ⟨fun k => next_withDev (d' := s.dev) ?_, next_withDev (d' := s.dev) ?_⟩
    · rw [Dev.tapFull, hdone]
    · rw [Dev.statsFull, hdone]
  · intro s p f cyc hrace hcap hfirst hcur hab hgate
    exact next_withDev (Dev.dropOnStream_link p.isLt hrace hcap hfirst hcur hab hgate)
  · intro s m c e cyc pass hret
    refine ⟨next_withDev (d' := s.dev) (if_pos hret), next_withDev (d' := s.dev) (if_pos hret)⟩

end Sys2Proof.Machine
end

section
/-!
SUPPORT. Refresh, training and frequency changes of frame memory, and the frames of the raster outputs (17 R424 to R430;
18 R437 to R450).
-/
namespace Sys2Proof.Machine

/-! ### A channel of frame memory -/

/-- A change of a part counts only at that part's value. -/
theorem upd_congr {α : Type} (l : List α) (i : Nat) {f g : α → α} (x : α) (h : f (l.getD i x) = g (l.getD i x)) :
    upd l i f = upd l i g := by
  refine List.ext_getElem? fun j => ?_
  rw [upd, upd, List.getElem?_modify, List.getElem?_modify]
  by_cases hij : i = j
  · subst hij
    rw [List.getD_eq_getElem?_getD] at h
    cases hj : l[i]? with
    | none => rfl
    | some a =>
      rw [hj] at h
      simpa using h
  · simp [hij]

theorem Dev.onChanI_congr (d : Dev) (n : Nat) {f g : Chan → Chan} (h : f (d.chanI n) = g (d.chanI n)) :
    d.onChanI n f = d.onChanI n g := by
  show { d with dram := { d.dram with chans := upd d.dram.chans n f } } = _
  rw [upd_congr d.dram.chans n Chan.none h]
  rfl

theorem Dev.length_onChanI (d : Dev) (n : Nat) (f : Chan → Chan) :
    (d.onChanI n f).dram.chans.length = d.dram.chans.length := length_upd _ _ _

theorem Dev.chanI_onChanI_keeps {β : Type} (g : Chan → β) (d : Dev) (n m : Nat) {f : Chan → Chan} (h : ∀ x, g (f x) = g x) :
    g ((d.onChanI n f).chanI m) = g (d.chanI m) := by
  by_cases hm : m = n
  · subst hm
    by_cases hlt : m < d.dram.chans.length
    · rw [d.chanI_onChanI_same f hlt, h]
    · exact congrArg (fun l => g (l.getD m Chan.none)) (upd_past d.dram.chans m f (Nat.not_lt.mp hlt))
  · rw [d.chanI_onChanI_other f hm]

theorem Dev.payRefresh_keeps {β : Type} (g : Dev → β) (hdram : ∀ f (d : Dev), g (d.onDram f) = g d)
    (hout : ∀ f (d : Dev), g (d.onOut f) = g d) (d : Dev) (c k : Nat) : g (d.payRefresh c k) = g d := by
  unfold Dev.payRefresh
  exact ite_keeps g _ rfl ((hout _ _).trans (hdram _ _))

/-- Paying down to `k` leaves at most `k` owed on the channel. -/
theorem Dev.payRefresh_chan {d : Dev} {c : Nat} (hc : c < d.dram.chans.length) (k : Nat) :
    (d.payRefresh c k).chanI c = { d.chanI c with debt := min k (d.chanI c).debt } := by
  unfold Dev.payRefresh
  dsimp only
  split
  · next h => rw [Nat.min_eq_right h]
  · next h =>
    refine (d.chanI_onChanI_same _ hc).trans ?_
    rw [Nat.min_eq_left (Nat.le_of_lt (Nat.not_le.mp h))]

theorem Dev.payRefresh_other (d : Dev) {c b : Nat} (hb : b ≠ c) (k : Nat) : (d.payRefresh c k).chanI b = d.chanI b := by
  unfold Dev.payRefresh
  dsimp only
  split
  · exact rfl
  · exact d.chanI_onChanI_other _ hb

theorem Dev.payRefresh_dram (d : Dev) (c k : Nat) :
    (d.payRefresh c k).dram = { d.dram with chans := (d.payRefresh c k).dram.chans } := by
  unfold Dev.payRefresh
  dsimp only
  split <;> rfl

theorem Dev.length_payRefresh (d : Dev) (c k : Nat) : (d.payRefresh c k).dram.chans.length = d.dram.chans.length := by
  unfold Dev.payRefresh
  dsimp only
  split
  · exact rfl
  · exact d.length_onChanI _ _

/-! ### Refresh (17 R424, R425) -/

/-- At the limit refresh is forced until half of it is left, and a panic that waits for it is counted. -/
def Dev.forceRefresh (d : Dev) (c : Nat) : Dev :=
  if (d.chanI c).debt < debtLimit (d.chanI c) then d
  else
    let e := d.payRefresh c (debtLimit (d.chanI c) / 2)
    if (d.chanI c).panics.isEmpty then e else e.onDram fun s => { s with forcedRef := bump s.forcedRef }

theorem Dev.refreshDue_eq {d : Dev} {c : Nat} (h : (d.chanI c).populated = true) :
    d.refreshDue c = ((d.onChanI c fun x =>
      { x with debt := x.debt + (16 - x.ahead), ahead := x.ahead - 16 }).forceRefresh c).idleRefresh c :=
  if_neg (by simp [h])

theorem debtLimit_pos (x : Chan) : debtLimit x / 2 < debtLimit x := by
  unfold debtLimit
  split <;> decide

theorem Dev.forceRefresh_spec {d : Dev} {c limit : Nat} (hc : c < d.dram.chans.length) (hlimit : debtLimit (d.chanI c) = limit) :
    let x := d.chanI c
    let e := d.forceRefresh c
    e.chanI c = { x with debt := if x.debt < limit then x.debt else limit / 2 } ∧ (∀ b, b ≠ c → e.chanI b = d.chanI b) ∧
      e.dram.chans.length = d.dram.chans.length ∧
      e.out = (if x.debt < limit then [] else [.refresh c (x.debt - limit / 2)]) ++ d.out ∧
      e.dram.forcedRef = (if x.debt < limit ∨ x.panics = [] then d.dram.forcedRef else bump d.dram.forcedRef) ∧
      ∃ dram out, e = { d with dram := dram, out := out } := by
  intro x e
  have hhalf := debtLimit_pos x
  rw [hlimit] at hhalf
  by_cases hlt : x.debt < limit
  · have he : e = d := if_pos (hlimit ▸ hlt)
    rw [he, if_pos hlt, if_pos hlt, if_pos (.inl hlt)]
    exact ⟨rfl, fun _ _ => rfl, rfl, rfl, rfl, _, _, rfl⟩
  · have hpay : d.payRefresh c (limit / 2) =
        (d.onChanI c fun x => { x with debt := limit / 2 }).emit (.refresh c (x.debt - limit / 2)) :=
      if_neg (show ¬x.debt ≤ limit / 2 by omega)
    have he : e = if x.panics.isEmpty then d.payRefresh c (limit / 2)
        else (d.payRefresh c (limit / 2)).onDram fun s => { s with forcedRef := bump s.forcedRef } := by
      show d.forceRefresh c = _
      rw [Dev.forceRefresh, if_neg (by rwa [hlimit]), hlimit]
    have hchan := d.chanI_onChanI_same (fun x => { x with debt := limit / 2 }) hc
    rw [if_neg hlt, if_neg hlt, he, hpay]
    by_cases hp : x.panics = []
    · rw [if_pos (List.isEmpty_iff.mpr hp), if_pos (.inr hp)]
      exact ⟨hchan, fun b hb => d.chanI_onChanI_other _ hb, d.length_onChanI _ _, rfl, rfl, _, _, rfl⟩
    · rw [if_neg (mt List.isEmpty_iff.mp hp), if_neg (not_or.mpr ⟨hlt, hp⟩)]
      exact ⟨hchan, fun b hb => d.chanI_onChanI_other _ hb, d.length_onChanI _ _, rfl, rfl, _, _, rfl⟩

theorem Dev.idleRefresh_spec {d : Dev} {c : Nat} (hc : c < d.dram.chans.length) :
    let x := d.chanI c
    let e := d.idleRefresh c
    ∃ k, k ≤ x.debt + (128 - x.ahead) ∧ e.chanI c = { x with debt := x.debt - k, ahead := x.ahead + (k - x.debt) } ∧
      (∀ b, b ≠ c → e.chanI b = d.chanI b) ∧ e.out = (if k = 0 then [] else [.refresh c k]) ++ d.out ∧
      e.dram.forcedRef = d.dram.forcedRef ∧
      ∃ dram out, e = { d with dram := dram, out := out, fresh := d.fresh + 1 } := by
  intro x e
  let k := d.free % (x.debt + (128 - x.ahead) + 1)
  have hchan := (d.used 1).chanI_onChanI_same (n := c)
    (fun x => { x with debt := x.debt - k, ahead := x.ahead + (k - x.debt) }) hc
  refine ⟨k, Nat.lt_succ_iff.mp (Nat.mod_lt _ (Nat.succ_pos _)), ?_⟩
  have he : e = if k = 0 then (d.used 1).onChanI c fun x => { x with debt := x.debt - k, ahead := x.ahead + (k - x.debt) }
      else ((d.used 1).onChanI c fun x => { x with debt := x.debt - k, ahead := x.ahead + (k - x.debt) }).emit
        (.refresh c k) := rfl
  rw [he]
  by_cases hk : k = 0
  · rw [if_pos hk, if_pos hk]
    exact ⟨hchan, fun b hb => (d.used 1).chanI_onChanI_other _ hb, rfl, rfl, _, _, rfl⟩
  · rw [if_neg hk, if_neg hk]
    exact ⟨hchan, fun b hb => (d.used 1).chanI_onChanI_other _ hb, rfl, rfl, _, _, rfl⟩

/-! ### Frequency change (17 R427, R428) -/

theorem nextSwitch_some {t : DramSt} {c : Nat} (h : nextSwitch t = some c) :
    t.switching = true ∧ c ∈ populated t ∧ (t.chans.getD c Chan.none).setB = t.setB := by
  unfold nextSwitch at h
  split at h
  · next hs => exact ⟨hs, List.mem_of_find?_eq_some h, by simpa using List.find?_some h⟩
  · cases h

theorem nextSwitch_isSome {t : DramSt} (h : t.switching = true) :
    (nextSwitch t).isSome = true ↔ ∃ b ∈ populated t, (t.chans.getD b Chan.none).setB = t.setB := by
  rw [nextSwitch, if_pos h, List.find?_isSome]
  simp

/-- The device whose channel `c` has paid its debt and changed its set point. -/
def Dev.switched (d : Dev) (c rate : Nat) : Dev :=
  (d.payRefresh c 0).onChanI c fun x =>
    { x with setB := !x.setB, trained := if x.trained.contains rate then x.trained else x.trained ++ [rate] }

/-- With the last channel the sets change roles, and a change that waited starts. -/
def DramSt.rateChanged (s : DramSt) (rate : Nat) : DramSt :=
  let s := { s with rate := BitVec.ofNat 16 rate, setB := !s.setB, switching := false, target := none }
  match s.nextRate with
  | some r => if r = rate then { s with nextRate := none }
    else { s with switching := true, target := some r, nextRate := none }
  | none => s

theorem DramSt.rateChanged_spec (s : DramSt) (rate : Nat) :
    (s.rateChanged rate).chans = s.chans ∧ (s.rateChanged rate).rate = BitVec.ofNat 16 rate ∧
      (s.rateChanged rate).setB = !s.setB ∧
      (s.nextRate = none → (s.rateChanged rate).switching = false ∧ (s.rateChanged rate).target = none) := by
  unfold DramSt.rateChanged
  dsimp only
  cases s.nextRate with
  | none => exact ⟨rfl, rfl, rfl, fun _ => ⟨rfl, rfl⟩⟩
  | some r =>
    dsimp only
    split
    all_goals exact ⟨rfl, rfl, rfl, nofun⟩

theorem Dev.switchChannel_eq {d : Dev} {c rate : Nat} (hnext : nextSwitch d.dram = some c) (hrate : d.dram.target = some rate) :
    d.switchChannel c = if (nextSwitch (d.switched c rate).dram).isSome then d.switched c rate
      else (d.switched c rate).onDram (·.rateChanged rate) := by
  unfold Dev.switchChannel
  rw [if_neg (not_not_intro hnext), hrate]
  exact rfl

theorem Dev.switched_chan {d : Dev} {c : Nat} (hc : c < d.dram.chans.length) (rate : Nat) :
    ((d.switched c rate).chanI c).debt = 0 ∧ ((d.switched c rate).chanI c).setB = !(d.chanI c).setB ∧
      rate ∈ ((d.switched c rate).chanI c).trained := by
  have h := (d.payRefresh c 0).chanI_onChanI_same (n := c) (fun x =>
    { x with setB := !x.setB, trained := if x.trained.contains rate then x.trained else x.trained ++ [rate] })
    (Nat.lt_of_lt_of_eq hc (d.length_payRefresh c 0).symm)
  rw [Dev.payRefresh_chan hc] at h
  rw [Dev.switched, h]
  exact ⟨Nat.zero_min _, rfl, mem_ite_append _ _⟩

theorem Dev.switched_other (d : Dev) {c b : Nat} (hb : b ≠ c) (rate : Nat) : (d.switched c rate).chanI b = d.chanI b :=
  ((d.payRefresh c 0).chanI_onChanI_other _ hb).trans (d.payRefresh_other hb 0)

theorem Dev.switched_dram (d : Dev) (c rate : Nat) :
    (d.switched c rate).dram = { d.dram with chans := (d.switched c rate).dram.chans } := by
  have h := d.payRefresh_dram c 0
  exact (congrArg (fun x : DramSt => { x with chans := (d.switched c rate).dram.chans }) h)

theorem Dev.switched_populated {d : Dev} {c : Nat} (hc : c < d.dram.chans.length) (rate : Nat) :
    populated (d.switched c rate).dram = populated d.dram := by
  unfold populated which
  refine List.filter_congr fun b _ => ?_
  show ((d.switched c rate).chanI b).populated = (d.chanI b).populated
  have h := (d.payRefresh c 0).chanI_onChanI_keeps (·.populated) c b (f := fun x =>
    { x with setB := !x.setB, trained := if x.trained.contains rate then x.trained else x.trained ++ [rate] }) fun _ => rfl
  refine h.trans ?_
  by_cases hb : b = c
  · subst hb
    rw [Dev.payRefresh_chan hc]
  · rw [d.payRefresh_other hb]

/-- A channel still waits for its turn after the change of channel `c`. -/
theorem Dev.switched_next {d : Dev} {c : Nat} (hc : c < d.dram.chans.length) (hnext : nextSwitch d.dram = some c) (rate : Nat) :
    (nextSwitch (d.switched c rate).dram).isSome = true ↔
      ∃ b, b ≠ c ∧ b ∈ populated d.dram ∧ (d.chanI b).setB = d.dram.setB := by
  obtain ⟨hswitch, -, hold⟩ := nextSwitch_some hnext
  have hdram := d.switched_dram c rate
  have hset : (d.switched c rate).dram.setB = d.dram.setB := (congrArg DramSt.setB hdram :)
  rw [nextSwitch_isSome ((congrArg DramSt.switching hdram).trans hswitch), Dev.switched_populated hc, hset]
  constructor
  · rintro ⟨b, hb, hbs⟩
    have hne : b ≠ c := by
      rintro rfl
      have : (!(d.chanI b).setB) = d.dram.setB := (Dev.switched_chan hc rate).2.1.symm.trans hbs
      rw [show (d.chanI b).setB = d.dram.setB from hold] at this
      exact absurd this (by simp)
    exact ⟨b, hne, hb, (congrArg Chan.setB (d.switched_other hne rate)).symm.trans hbs⟩
  · rintro ⟨b, hne, hb, hbs⟩
    exact ⟨b, hb, (congrArg Chan.setB (d.switched_other hne rate)).trans hbs⟩

/-! ### Raster outputs (18 R437 to R450) -/

theorem Dev.rasterI_onRasterI_same (d : Dev) {o : Nat} (f : RasterSt → RasterSt) (h : o < d.raster.length) :
    (d.onRasterI o f).rasterI o = f (d.rasterI o) := getD_upd_same _ _ _ _ h

theorem Dev.rasterI_onRasterI_keeps {β : Type} (g : RasterSt → β) (d : Dev) (n m : Nat) {f : RasterSt → RasterSt}
    (h : ∀ x, g (f x) = g x) : g ((d.onRasterI n f).rasterI m) = g (d.rasterI m) := by
  by_cases hm : m = n
  · subst hm
    by_cases hlt : m < d.raster.length
    · rw [d.rasterI_onRasterI_same f hlt, h]
    · exact congrArg (fun l => g (l.getD m RasterSt.reset)) (upd_past d.raster m f (Nat.not_lt.mp hlt))
  · exact congrArg g (getD_upd_other _ _ _ _ _ hm)

theorem Dev.withClones_congr {d d' : Dev} (h : ∀ x, (d'.rasterI x).enabled = (d.rasterI x).enabled ∧
    (d'.rasterI x).force = (d.rasterI x).force) (o : Nat) : d'.withClones o = d.withClones o := by
  have hmaster : ∀ x, d'.masterOf x = d.masterOf x := fun x => by
    rw [Dev.masterOf, Dev.masterOf, Dev.rasB, Dev.rasB, (h x).2]
  simp only [Dev.withClones, hmaster, fun x => (h x).1]

theorem Dev.withClones_onRasterI (d : Dev) (n : Nat) {f : RasterSt → RasterSt}
    (h : ∀ x, (f x).enabled = x.enabled ∧ (f x).force = x.force) (o : Nat) :
    (d.onRasterI n f).withClones o = d.withClones o :=
  Dev.withClones_congr (fun x => ⟨d.rasterI_onRasterI_keeps (·.enabled) n x fun y => (h y).1,
    d.rasterI_onRasterI_keeps (·.force) n x fun y => (h y).2⟩) o

theorem Dev.masterOf_isNone {d : Dev} {o : Nat} (h : (d.masterOf o).isSome = false) : (d.masterOf o).isNone = true := by
  cases hm : d.masterOf o with
  | none => rfl
  | some m => rw [hm] at h; cases h

/-- The end of a frame once its pixels have left: replaced buffers are retired and a due retime begins. -/
def Dev.frameEnds (d : Dev) (o : Nat) (retired : List Nat) (line : BitVec 13) (ns : Nat) : Dev :=
  let d := if retired.isEmpty then d else d.raise (245 + 2 * o) ns
  let d := d.each (d.withClones o) fun d x =>
    d.onRasterI x fun r => { r with fetching := false, retired := [], line := line }
  let d := if (d.rasterI o).retimeDue then d.startRetime o ns else d
  d.each ((d.withClones o).filter fun x => x != o && (d.rasterI x).retimeDue) fun d x => d.startRetime x ns

theorem Dev.startRetime_single {d : Dev} {o : Nat} (hc : d.withClones o = [o]) (ns : Nat) : d.startRetime o ns =
    ((d.onRasterI o fun r => { r with retiming := true, retimeDue := false, locked := false, window := false }).raise
      (245 + 2 * o) ns).interrupt (rasEp o) 2 := by
  rw [Dev.startRetime, hc]
  rfl

/-- An output whose frame has ended. -/
def RasterSt.ended (line : BitVec 13) (r : RasterSt) : RasterSt := { r with fetching := false, retired := [], line := line }

/-- An output that begins a retime. -/
def RasterSt.retimes (r : RasterSt) : RasterSt :=
  { r with retiming := true, retimeDue := false, locked := false, window := false }

theorem Dev.frameEnds_single {d : Dev} {o : Nat} (hc : d.withClones o = [o]) (retired : List Nat) (line : BitVec 13) (ns : Nat) :
    ∃ told : Dev, (told = d ∨ told = d.raise (245 + 2 * o) ns) ∧ d.frameEnds o retired line ns =
      if ((told.onRasterI o (RasterSt.ended line)).rasterI o).retimeDue then
        (((told.onRasterI o (RasterSt.ended line)).onRasterI o RasterSt.retimes).raise (245 + 2 * o) ns).interrupt (rasEp o) 2
      else told.onRasterI o (RasterSt.ended line) := by
  obtain ⟨told, htold⟩ : ∃ told, told = if retired.isEmpty then d else d.raise (245 + 2 * o) ns := ⟨_, rfl⟩
  have hcases : told = d ∨ told = d.raise (245 + 2 * o) ns := by
    rw [htold]
    split
    · exact .inl rfl
    · exact .inr rfl
  have hcTold : told.withClones o = [o] := by
    rcases hcases with h | h
    all_goals
      rw [h]
      exact hc
  have hcEnded : (told.onRasterI o (RasterSt.ended line)).withClones o = [o] :=
    (told.withClones_onRasterI o (f := RasterSt.ended line) (fun _ => ⟨rfl, rfl⟩) o).trans hcTold
  have hcRetimed : ((told.onRasterI o (RasterSt.ended line)).onRasterI o RasterSt.retimes).withClones o = [o] :=
    (Dev.withClones_onRasterI _ o (f := RasterSt.retimes) (fun _ => ⟨rfl, rfl⟩) o).trans hcEnded
  have hnone : ∀ e : Dev, e.withClones o = [o] →
      e.each ((e.withClones o).filter fun x => x != o && (e.rasterI x).retimeDue) (fun d x => d.startRetime x ns) = e :=
    fun e he => by
      rw [he]
      simp [Dev.each]
  refine ⟨told, hcases, ?_⟩
  have hstep : told.each (told.withClones o) (fun d x =>
      d.onRasterI x fun r => { r with fetching := false, retired := [], line := line }) =
        told.onRasterI o (RasterSt.ended line) := by
    rw [hcTold]
    rfl
  unfold Dev.frameEnds
  dsimp only
  rw [← htold, hstep]
  split
  · rw [Dev.startRetime_single hcEnded]
    exact hnone _ hcRetimed
  · exact hnone _ hcEnded

theorem Dev.frameEnds_spec {d : Dev} {o : Nat} (hc : d.withClones o = [o]) (ho : o < d.raster.length) (retired : List Nat)
    (line : BitVec 13) (ns : Nat) :
    let e := d.frameEnds o retired line ns
    let r := d.rasterI o
    e.out = d.out ∧ (e.rasterI o).fetching = false ∧ (e.rasterI o).retiming = (r.retiming || r.retimeDue) ∧
      (e.rasterI o).torn = r.torn ∧ (r.retimeDue = false → e.health = d.health) := by
  obtain ⟨told, hcases, he⟩ := Dev.frameEnds_single hc retired line ns
  have hkeep : told.raster = d.raster ∧ told.out = d.out ∧ told.health = d.health := by
    rcases hcases with h | h
    all_goals
      rw [h]
      exact ⟨rfl, rfl, rfl⟩
  obtain ⟨hraster, hout, hhealth⟩ := hkeep
  have hoTold : o < told.raster.length := Nat.lt_of_lt_of_eq ho (congrArg List.length hraster).symm
  have hsame : told.rasterI o = d.rasterI o := congrArg (·.getD o RasterSt.reset) hraster
  have hEnded : (told.onRasterI o (RasterSt.ended line)).rasterI o = (d.rasterI o).ended line := by
    rw [told.rasterI_onRasterI_same _ hoTold, hsame]
  have hRetimed : ((told.onRasterI o (RasterSt.ended line)).onRasterI o RasterSt.retimes).rasterI o =
      ((d.rasterI o).ended line).retimes := by
    rw [Dev.rasterI_onRasterI_same _ _ (Nat.lt_of_lt_of_eq hoTold (length_upd _ _ _).symm), hEnded]
  dsimp only
  rw [he, hEnded]
  cases hdue : (d.rasterI o).retimeDue with
  | false =>
    rw [if_neg (ne_true_of_eq_false (show ((d.rasterI o).ended line).retimeDue = false from hdue)), hEnded]
    exact ⟨hout, rfl, (Bool.or_false _).symm, rfl, fun _ => hhealth⟩
  | true =>
    rw [if_pos (show ((d.rasterI o).ended line).retimeDue = true from hdue)]
    have hr := congrArg RasterSt.retiming hRetimed
    exact ⟨hout, congrArg RasterSt.fetching hRetimed, hr.trans (Bool.or_true _).symm, (congrArg RasterSt.torn hRetimed :),
      fun h => absurd h Bool.true_eq_false.mp⟩

/-- An output whose pixel clock has relocked. -/
def RasterSt.retimed (r : RasterSt) : RasterSt :=
  { r with retiming := false, timingNew := true, next := [],
           force := r.next.foldl (fun f kv => setPar f kv.1 kv.2) r.force }

theorem Dev.retimeEnd_single {d : Dev} {o : Nat} (hretime : (d.rasterI o).retiming = true) (hclones : d.withClones o = [o]) :
    ∃ f : RasterSt → RasterSt, (∀ r, (f r).retiming = r.retiming ∧ (f r).timingNew = r.timingNew ∧ (f r).next = r.next ∧
      (f r).force = r.force) ∧ d.retimeEnd o = (d.onRasterI o RasterSt.retimed).onRasterI o f := by
  have hstep : d.retimeEnd o = if (d.rasTiming o, d.rasDepth o) =
      ((d.onRasterI o RasterSt.retimed).rasTiming o, (d.onRasterI o RasterSt.retimed).rasDepth o) then
        d.onRasterI o RasterSt.retimed
      else (d.onRasterI o RasterSt.retimed).onRasterI o fun r => { r with holdValid := false, lastGood := [] } := by
    refine (if_pos hretime).trans ?_
    rw [hclones]
    rfl
  rw [hstep]
  split
  · refine ⟨id, fun r => ⟨rfl, rfl, rfl, rfl⟩, ?_⟩
    show _ = { d with raster := upd (upd d.raster o RasterSt.retimed) o id }
    rw [upd_upd]
    rfl
  · exact ⟨fun r => { r with holdValid := false, lastGood := [] }, fun r => ⟨rfl, rfl, rfl, rfl⟩, rfl⟩

/-- The end of the fetch: the pixels leave, and the frame ends. -/
theorem Dev.fetchEnd_subst {d : Dev} {o cyc : Nat} (hfetch : (d.rasterI o).fetching = true)
    (hsub : (d.rasterI o).subst = true) (hhold : (d.rasterI o).holdValid = true) :
    d.fetchEnd o cyc = (d.sendRaster o (d.rasterI o).lastGood).frameEnds o (d.rasterI o).retired
      (BitVec.ofNat 13 ((d.rasTiming o).vTot - 1)) (d.nsAt cyc) := by
  unfold Dev.fetchEnd
  simp only [hfetch, hsub, hhold, Bool.not_true, Bool.false_eq_true, if_false, if_true, Bool.true_or, Bool.false_and]
  exact rfl

theorem Dev.fetchEnd_composed {d : Dev} {o cyc : Nat} (hfetch : (d.rasterI o).fetching = true)
    (hsub : (d.rasterI o).subst = false) (hdrop : (d.rasterI o).dropped = []) (hhost : ∀ l, l < 4 → d.hostLayer o l = false)
    (hsend : ∀ l, (d.sendRaster o (d.composed o)).hostLayer o l = d.hostLayer o l) :
    let e := d.sendRaster o (d.composed o)
    d.fetchEnd o cyc = (e.each (e.withClones o) fun d x => d.deliver (rasEp x)).frameEnds o (d.rasterI o).retired
      (BitVec.ofNat 13 ((d.rasTiming o).vTot - 1)) (d.nsAt cyc) := by
  have hbad : (List.range 4).filter (fun l => (d.sendRaster o (d.composed o)).hostLayer o l &&
      !(d.sendRaster o (d.composed o)).postmarkOk o l) = [] := by
    refine List.filter_eq_nil_iff.mpr fun l hl => ?_
    simp [hsend, hhost l (List.mem_range.mp hl)]
  have hany : (List.range 4).any ((d.sendRaster o (d.composed o)).hostLayer o) = false := by
    refine List.any_eq_false.mpr fun l hl => ?_
    simp [hsend, hhost l (List.mem_range.mp hl)]
  unfold Dev.fetchEnd
  dsimp only
  simp only [hfetch, hsub, hdrop, Bool.not_true, Bool.false_eq_true, if_false, List.isEmpty_nil, Bool.or_true, if_true, hbad,
    show ∀ (d : Dev) (f : Dev → Nat → Dev), d.each [] f = d from fun _ _ => rfl, hany, Bool.and_false, Bool.false_or]
  exact rfl

/-- The debt after a due refresh. -/
theorem refreshDue_debt : ∀ (s : State) (c : Fin 24) (limit owed left ahead : Nat), (s.dev.chanI c).populated = true →
      s.dev.dram.chans.length = 24 → limit = (if 8 ≤ (s.dev.chanI c).mult then 64 else 128) →
      owed = (s.dev.chanI c).debt + (16 - (s.dev.chanI c).ahead) →
      left = (if owed < limit then owed else limit / 2) → ahead = (s.dev.chanI c).ahead - 16 →
      ∃ (t : State) (k : Nat), exec (.refreshDue c) s = .next t ∧ k ≤ left + (128 - ahead) ∧
        t.dev.chanI c = { s.dev.chanI c with debt := left - k, ahead := ahead + (k - left) } ∧
        (∀ b, b ≠ c.val → t.dev.chanI b = s.dev.chanI b) ∧
        t.dev.out = (if k = 0 then [] else [.refresh c k]) ++
          (if owed < limit then [] else [.refresh c (owed - limit / 2)]) ++ s.dev.out ∧
        t.dev.dram.forcedRef = (if owed < limit ∨ (s.dev.chanI c).panics = [] then s.dev.dram.forcedRef
          else bump s.dev.dram.forcedRef) ∧
        t = s.withDev { s.dev with dram := t.dev.dram, out := t.dev.out, fresh := s.dev.fresh + 1 } := by
  intro s c limit owed left ahead hpop hlen hlimit howed hleft hahead
  have hc : c.val < s.dev.dram.chans.length := Nat.lt_of_lt_of_eq c.isLt hlen.symm
  let due := s.dev.onChanI c fun x => { x with debt := x.debt + (16 - x.ahead), ahead := x.ahead - 16 }
  have hdue : due.chanI c = { s.dev.chanI c with debt := owed, ahead := ahead } := by
    rw [howed, hahead]
    exact s.dev.chanI_onChanI_same _ hc
  have hlenDue : due.dram.chans.length = s.dev.dram.chans.length := s.dev.length_onChanI _ _
  obtain ⟨hfchan, hfother, hflen, hfout, hfref, dram, out, hfeq⟩ := Dev.forceRefresh_spec (d := due) (c := c) (limit := limit)
    (Nat.lt_of_lt_of_eq hc hlenDue.symm) (by rw [hdue, hlimit]; rfl)
  obtain ⟨k, hk, hichan, hiother, hiout, hiref, dram', out', hieq⟩ := Dev.idleRefresh_spec (d := due.forceRefresh c) (c := c)
    (Nat.lt_of_lt_of_eq hc (hflen.trans hlenDue).symm)
  rw [hdue] at hfchan hfout hfref
  rw [hfchan] at hk hichan
  rw [hleft]
  refine ⟨_, k, next_withDev (Dev.refreshDue_eq hpop), hk, hichan, fun b hb => ?_, ?_, hiref.trans hfref, ?_⟩
  · exact (hiother b hb).trans ((hfother b hb).trans (s.dev.chanI_onChanI_other _ hb))
  · refine hiout.trans ?_
    rw [hfout, List.append_assoc]
    rfl
  · have hall : (due.forceRefresh c).idleRefresh c = { s.dev with dram := dram', out := out', fresh := s.dev.fresh + 1 } :=
      hieq.trans <| by
        rw [hfeq]
        rfl
    show s.withDev ((due.forceRefresh c).idleRefresh c) = s.withDev { s.dev with
      dram := ((due.forceRefresh c).idleRefresh c).dram, out := ((due.forceRefresh c).idleRefresh c).out,
      fresh := s.dev.fresh + 1 }
    rw [hall]

/-- A temperature read moves the refresh rate of its channel. -/
theorem mr4Poll_rates : ∀ (s : State) (c : Fin 24) (l : List Nat) (cyc : Nat), (s.dev.chanI c).populated = true →
      s.dev.dram.chans.length = 24 →
      (maxOf l = 8 → (s.dev.chanI c).mult = 4 → ∃ t : State, exec (.mr4Poll c l cyc) s = .next t ∧
        (t.dev.chanI c).mult = 8 ∧ (t.dev.chanI c).cool = 0 ∧ (t.dev.chanI c).debt = min 64 (s.dev.chanI c).debt ∧
        t.dev.evt.raised = s.dev.evt.raised ++ [(15, s.dev.nsAt cyc, s.dev.time.epoch.toNat)] ∧
        t.dev.faults = s.dev.faults) ∧
      (8 < maxOf l → (s.dev.chanI c).mult = 8 → ∃ t : State, exec (.mr4Poll c l cyc) s = .next t ∧
        (t.dev.chanI c).mult = maxOf l ∧ t.dev.faults.reports = s.dev.faults.reports ++
          [⟨0x0071, s.dev.nsAt cyc, s.dev.time.epoch.toNat, 0x0F00, [c.val, maxOf l]⟩]) ∧
      (maxOf l ≤ 4 → (s.dev.chanI c).cool = 0 → exec (.mr4Poll c l cyc) s =
        .next (s.withDev (s.dev.onChanI c fun x => { x with cool := 1 }))) ∧
      (maxOf l ≤ 4 → (s.dev.chanI c).cool = 1 → (s.dev.chanI c).mult = 8 → exec (.mr4Poll c l cyc) s =
        .next (s.withDev ((s.dev.onChanI c fun x => { x with cool := 2, mult := 4 }).raise 15 (s.dev.nsAt cyc)))) := by
  intro s c l cyc hpop hlen
  have hc : c.val < s.dev.dram.chans.length := Nat.lt_of_lt_of_eq c.isLt hlen.symm
  have hskip : ¬(!(s.dev.chanI c).populated) = true := by simp [hpop]
  refine ⟨fun htop hmult => ?_, fun htop hmult => ?_, fun htop hcool => next_withDev ?_, fun htop hcool hmult => next_withDev ?_⟩
  · let warm := s.dev.onChanI c fun x => { x with mult := maxOf l, cool := 0 }
    have heq : s.dev.mr4 c l cyc = (warm.payRefresh c 64).raise 15 ((warm.payRefresh c 64).nsAt cyc) := by
      refine (if_neg hskip).trans ((if_pos (by omega)).trans ?_)
      dsimp only
      rw [if_pos (show (s.dev.chanI c).mult < 8 by omega), if_neg (show ¬(s.dev.chanI c).mult = maxOf l by omega),
        if_neg (show ¬(8 < maxOf l ∧ (s.dev.chanI c).mult ≤ 8) by omega)]
    have hkeep : ∀ {β : Type} (g : Dev → β), (∀ f (d : Dev), g (d.onDram f) = g d) → (∀ f (d : Dev), g (d.onOut f) = g d) →
        g (warm.payRefresh c 64) = g s.dev := fun g hdram hout =>
      (warm.payRefresh_keeps g hdram hout c 64).trans (hdram _ _)
    have hchan : (warm.payRefresh c 64).chanI c =
        { s.dev.chanI c with mult := maxOf l, cool := 0, debt := min 64 (s.dev.chanI c).debt } := by
      rw [Dev.payRefresh_chan (Nat.lt_of_lt_of_eq hc (s.dev.length_onChanI _ _).symm), s.dev.chanI_onChanI_same _ hc]
    refine ⟨_, next_withDev heq, (congrArg Chan.mult hchan).trans htop, congrArg Chan.cool hchan,
      congrArg Chan.debt hchan, ?_, hkeep (·.faults) (fun _ _ => rfl) fun _ _ => rfl⟩
    show (warm.payRefresh c 64).evt.raised ++ [(15, (warm.payRefresh c 64).nsAt cyc,
      (warm.payRefresh c 64).time.epoch.toNat)] = _
    rw [hkeep (·.evt) (fun _ _ => rfl) fun _ _ => rfl, hkeep (·.nsAt cyc) (fun _ _ => rfl) fun _ _ => rfl,
      hkeep (·.time) (fun _ _ => rfl) fun _ _ => rfl]
  · have heq : s.dev.mr4 c l cyc = ((s.dev.onChanI c fun x => { x with mult := maxOf l, cool := 0 }).raise 15
        (s.dev.nsAt cyc)).report 0x0071 0x0F00 (s.dev.nsAt cyc) [c, maxOf l] := by
      refine (if_neg hskip).trans ((if_pos (by omega)).trans ?_)
      dsimp only
      rw [if_neg (show ¬(s.dev.chanI c).mult < 8 by omega), if_neg (show ¬(s.dev.chanI c).mult = maxOf l by omega),
        if_pos (show 8 < maxOf l ∧ (s.dev.chanI c).mult ≤ 8 by omega)]
      rfl
    exact ⟨_, next_withDev heq, congrArg Chan.mult (s.dev.chanI_onChanI_same (fun x =>
      { x with mult := maxOf l, cool := 0 }) hc), rfl⟩
  · refine (if_neg hskip).trans ((if_neg (by omega)).trans ((if_pos htop).trans ?_))
    dsimp only
    rw [if_neg (by simp [hcool])]
    exact s.dev.onChanI_congr _ (by simp [hcool])
  · refine (if_neg hskip).trans ((if_neg (by omega)).trans ((if_pos htop).trans ?_))
    dsimp only
    rw [if_pos (by simp [hcool, hmult])]
    exact congrArg (Dev.raise · 15 _) (s.dev.onChanI_congr _ (by simp [hcool]))

/-- Retraining waits for calm unless it is forced. -/
theorem retraining_cases : ∀ (s : State) (c : Fin 24), (s.dev.chanI c).populated = true →
      ((s.dev.chanI c).retrain = false → exec (.retraining c) s = .next s ∧ exec (.retrainsForced c) s = .next s) ∧
      ((s.dev.chanI c).retrain = true → (s.dev.chanI c).retrainForced = false →
        ((s.dev.chanI c).panics ≠ [] ∨ 64 ≤ (s.dev.chanI c).debt → exec (.retraining c) s = .next s) ∧
        exec (.retrainsForced c) s = .next (s.withDev (
          (s.dev.onChanI c fun x => { x with retrainForced := true }).onDram fun x =>
            { x with retrForced := bump x.retrForced }))) ∧
      ((s.dev.chanI c).retrain = true → (s.dev.chanI c).retrainForced = true ∨
          ((s.dev.chanI c).panics = [] ∧ (s.dev.chanI c).debt < 64) → s.dev.dram.chans.length = 24 →
        ∃ t : State, exec (.retraining c) s = .next t ∧ (t.dev.chanI c).retrain = false ∧
          (t.dev.chanI c).retrainForced = false ∧ (t.dev.chanI c).oscBase = (s.dev.chanI c).oscLast ∧
          (t.dev.chanI c).trainedAt = s.dev.tick.tclk ∧ s.dev.dram.rate.toNat ∈ (t.dev.chanI c).trained ∧
          t.dev.evt.raised = s.dev.evt.raised ++ [(9, s.dev.nowNs, s.dev.time.epoch.toNat)]) := by
  intro s c hpop
  refine ⟨fun hno => ⟨next_withDev (d' := s.dev) (if_neg ?_), next_withDev (d' := s.dev) (if_neg ?_)⟩, fun hre hforced =>
    ⟨fun hbusy => next_withDev (d' := s.dev) (if_neg ?_), next_withDev (if_pos ?_)⟩, fun hre hready hlen => ?_⟩
  · simp [hno]
  · simp [hno]
  · rcases hbusy with h | h
    · simp [hforced, h]
    · simp [hforced, Nat.not_lt_of_le h]
  · simp [hpop, hre, hforced]
  · have hc : c.val < s.dev.dram.chans.length := Nat.lt_of_lt_of_eq c.isLt hlen.symm
    have hgo : ((s.dev.chanI c).populated && (s.dev.chanI c).retrain && ((s.dev.chanI c).retrainForced ||
        ((s.dev.chanI c).panics.isEmpty && decide ((s.dev.chanI c).debt < 64)))) = true := by
      rcases hready with h | ⟨hp, hd⟩
      · simp [hpop, hre, h]
      · simp [hpop, hre, hp, hd]
    have hchan := s.dev.chanI_onChanI_same (n := c) (fun x =>
      { x with retrain := false, retrainForced := false, oscBase := x.oscLast, trainedAt := s.dev.tick.tclk,
               trained := if x.trained.contains s.dev.dram.rate.toNat then x.trained
                 else x.trained ++ [s.dev.dram.rate.toNat] }) hc
    exact ⟨_, next_withDev (if_pos hgo), congrArg Chan.retrain hchan, congrArg Chan.retrainForced hchan,
      congrArg Chan.oscBase hchan, congrArg Chan.trainedAt hchan,
      (congrArg (_ ∈ ·) (congrArg Chan.trained hchan)).mpr (mem_ite_append _ _), rfl⟩

/-- A channel changes its set point in its turn. -/
theorem frequencyChange_cases : ∀ (s : State) (c : Fin 24), s.dev.dram.chans.length = 24 →
      (nextSwitch s.dev.dram ≠ some c.val → exec (.frequencyChange c) s = .next s) ∧
      ∀ rate, nextSwitch s.dev.dram = some c.val → s.dev.dram.target = some rate → rate < 2 ^ 16 →
        ∃ t : State, exec (.frequencyChange c) s = .next t ∧ (t.dev.chanI c).debt = 0 ∧
          (t.dev.chanI c).setB = !(s.dev.chanI c).setB ∧ rate ∈ (t.dev.chanI c).trained ∧
          ((∃ b, b ≠ c.val ∧ b ∈ populated s.dev.dram ∧ (s.dev.chanI b).setB = s.dev.dram.setB) →
            t.dev.dram.rate = s.dev.dram.rate ∧ t.dev.dram.switching = true ∧ t.dev.dram.setB = s.dev.dram.setB) ∧
          ((∀ b, b ≠ c.val → b ∈ populated s.dev.dram → (s.dev.chanI b).setB ≠ s.dev.dram.setB) →
            t.dev.dram.rate.toNat = rate ∧ t.dev.dram.setB = !s.dev.dram.setB ∧
            (s.dev.dram.nextRate = none → t.dev.dram.switching = false ∧ t.dev.dram.target = none)) := by
  intro s c hlen
  have hc : c.val < s.dev.dram.chans.length := Nat.lt_of_lt_of_eq c.isLt hlen.symm
  refine ⟨fun hno => next_withDev (d' := s.dev) (if_pos hno), fun rate hnext hrate hlt => ?_⟩
  obtain ⟨hdebt, hset, htrained⟩ := Dev.switched_chan hc rate
  have hdram := s.dev.switched_dram c rate
  have hmore := Dev.switched_next hc hnext rate
  obtain ⟨hswitch, -, -⟩ := nextSwitch_some hnext
  by_cases hsome : (nextSwitch (s.dev.switched c rate).dram).isSome = true
  · refine ⟨_, next_withDev ((Dev.switchChannel_eq hnext hrate).trans (if_pos hsome)), hdebt, hset, htrained,
      fun _ => ⟨(congrArg DramSt.rate hdram :), (congrArg DramSt.switching hdram).trans hswitch, (congrArg DramSt.setB hdram :)⟩,
      fun hlast => ?_⟩
    obtain ⟨b, hne, hb, hbs⟩ := hmore.mp hsome
    exact absurd hbs (hlast b hne hb)
  · obtain ⟨hchans, hrate', hsetB, hend⟩ := (s.dev.switched c rate).dram.rateChanged_spec rate
    refine ⟨_, next_withDev ((Dev.switchChannel_eq hnext hrate).trans (if_neg hsome)), ?_⟩
    have hchan : ((s.dev.switched c rate).onDram (·.rateChanged rate)).chanI c = (s.dev.switched c rate).chanI c :=
      congrArg (·.getD c.val Chan.none) hchans
    refine ⟨(congrArg Chan.debt hchan).trans hdebt, (congrArg Chan.setB hchan).trans hset,
      (congrArg (rate ∈ ·) (congrArg Chan.trained hchan)).mpr htrained, fun hwait => absurd (hmore.mpr hwait) hsome,
      fun _ => ⟨(congrArg BitVec.toNat hrate').trans ?_, hsetB.trans ?_, fun hnone => hend ?_⟩⟩
    · rw [BitVec.toNat_ofNat, Nat.mod_eq_of_lt hlt]
    · exact congrArg (! ·) (congrArg DramSt.setB hdram :)
    · exact (congrArg DramSt.nextRate hdram).trans hnone

/-- Frame start, commit point and time lock of an output. -/
theorem rasterFrameStart_commit_timeLock : ∀ (s : State) (o : Fin 4) (cyc : Nat),
      ((s.dev.rasterI o).enabled = false ∨ (s.dev.masterOf o).isSome = true →
        exec (.rasterFrameStart o cyc) s = .next s ∧ exec (.commitPoint o cyc) s = .next s ∧
        ∀ e, exec (.timeLockSteer o e) s = .next s) ∧
      ((s.dev.rasterI o).enabled = true → (s.dev.masterOf o).isSome = false → s.dev.withClones o = [o.val] →
        ((s.dev.rasterI o).retiming = true → exec (.rasterFrameStart o cyc) s = .next s) ∧
        ((s.dev.rasterI o).retiming = false → (s.dev.linkI (.raster o)).up = true →
          exec (.rasterFrameStart o cyc) s = .next (s.withDev (
            (s.dev.onRasterI o fun r => { r with
              frame := (s.dev.rasterI o).frame + 1, line := 0, window := true,
              timingNew := false }).emit
              (.raster o ((s.dev.rasterI o).frame + 1).toNat (timingDescriptor (s.dev.rasB o 1) (s.dev.rasDepth o)
                ((s.dev.rasterI o).frame + 1).toNat (s.dev.rasterI o).timingNew))))) ∧
        ((s.dev.rasterI o).window = false → exec (.commitPoint o cyc) s = .next s) ∧
        ((s.dev.rasterI o).window = true → exec (.commitPoint o cyc) s = .next (s.withDev (
          (s.dev.onRasterI o fun r =>
            { r with window := false, line := BitVec.ofNat 13 ((s.dev.rasTiming o).vBlank - 8) }).onTick fun t =>
              { t with commits := t.commits ++ [(o.val, s.dev.timeAt cyc)] }))) ∧
        ∀ e : Int,
          (u8 (s.dev.rasB o 3) 0 ≠ 1 → exec (.timeLockSteer o e) s = .next s) ∧
          (u8 (s.dev.rasB o 3) 0 = 1 → exec (.timeLockSteer o e) s = .next (s.withDev (
            s.dev.onRasterI o fun r => { r with lockErr := e, locked := decide (e.natAbs ≤ 100),
                                                retimeDue := r.retimeDue || decide (1000000 < e.natAbs) })))) := by
  intro s o cyc
  refine ⟨fun hoff => ?_, fun hon hmaster hclones => ?_⟩
  · have hno : ∀ a : Bool, ((s.dev.rasterI o).enabled && a && (s.dev.masterOf o).isNone) = false := fun a => by
      rcases hoff with h | h
      · simp [h]
      · rw [Option.isNone_eq_false_iff.mpr h, Bool.and_false]
    exact ⟨next_withDev (d' := s.dev) (if_neg (ne_true_of_eq_false (hno _))),
      next_withDev (d' := s.dev) (if_neg (ne_true_of_eq_false (hno _))),
      fun e => next_withDev (d' := s.dev) (if_neg (ne_true_of_eq_false (hno _)))⟩
  · have hnone := Dev.masterOf_isNone hmaster
    refine ⟨fun hretime => next_withDev (d' := s.dev) (if_neg (by simp [hretime])), fun hretime hup => ?_,
      fun hwin => next_withDev (d' := s.dev) (if_neg (by simp [hwin])), fun hwin => ?_, fun e => ⟨fun hmode => ?_, fun hmode => ?_⟩⟩
    · refine next_withDev ((if_pos (by simp [hon, hretime, hnone])).trans ?_)
      rw [hclones]
      refine (if_pos hup).trans ?_
      simp only [BitVec.ofNat_toNat, BitVec.setWidth_eq]
    · refine next_withDev ((if_pos (by simp [hon, hwin, hnone])).trans ?_)
      rw [hclones]
      rfl
    · exact next_withDev (d' := s.dev) (if_neg (by simp [hmode]))
    · refine next_withDev ((if_pos (by simp [hon, hmode, hnone])).trans ?_)
      rw [hclones]
      show s.dev.onRasterI o _ = _
      simp

/-- The ends of a fetch and of a retime. -/
theorem fetchEnd_retimeEnd_cases : ∀ (s : State) (o : Fin 4) (cyc : Nat),
      ((s.dev.rasterI o).fetching = false → exec (.fetchEnd o cyc) s = .next s) ∧
      ((s.dev.rasterI o).retiming = false → exec (.retimeEnd o cyc) s = .next s) ∧
      (s.dev.withClones o = [o.val] → s.dev.raster.length = 4 →
        ((s.dev.rasterI o).retiming = true → ∃ t : State, exec (.retimeEnd o cyc) s = .next t ∧
          (t.dev.rasterI o).retiming = false ∧ (t.dev.rasterI o).timingNew = true ∧ (t.dev.rasterI o).next = [] ∧
          (t.dev.rasterI o).force = (s.dev.rasterI o).next.foldl (fun f kv => setPar f kv.1 kv.2) (s.dev.rasterI o).force) ∧
        ((s.dev.rasterI o).fetching = true → (s.dev.linkI (.raster o)).up = true → (s.dev.rasterI o).subst = true →
          (s.dev.rasterI o).holdValid = true → ∃ t : State, exec (.fetchEnd o cyc) s = .next t ∧
            t.dev.out = .pixels o (s.dev.rasterI o).frame.toNat
              ((s.dev.rasterI o).lastGood.map (linkCode (s.dev.rasDepth o))) :: s.dev.out ∧
            (t.dev.rasterI o).fetching = false ∧ (t.dev.rasterI o).retiming =
              ((s.dev.rasterI o).retiming || (s.dev.rasterI o).retimeDue)) ∧
        ((s.dev.rasterI o).fetching = true → (s.dev.linkI (.raster o)).up = true → (s.dev.rasterI o).subst = false →
          (s.dev.rasterI o).dropped = [] → (∀ l, l < 4 → s.dev.hostLayer o l = false) →
          ∃ t : State, exec (.fetchEnd o cyc) s = .next t ∧
            t.dev.out = .pixels o (s.dev.rasterI o).frame.toNat
              ((s.dev.composed o).map (linkCode (s.dev.rasDepth o))) :: s.dev.out ∧
            (t.dev.rasterI o).fetching = false ∧ (t.dev.rasterI o).torn = (s.dev.rasterI o).torn ∧
            ∀ x ∈ t.dev.health.interrupted, x.1 = 0x1000 + o.val → (s.dev.rasterI o).retimeDue = true)) := by
  intro s o cyc
  refine ⟨fun hno => next_withDev (d' := s.dev) (if_pos (by simp [hno])),
    fun hno => next_withDev (d' := s.dev) (if_neg (ne_true_of_eq_false hno)), fun hclones hlen => ?_⟩
  have ho : o.val < s.dev.raster.length := Nat.lt_of_lt_of_eq o.isLt hlen.symm
  have hsend : ∀ vals, (s.dev.linkI (.raster o)).up = true → s.dev.sendRaster o vals =
      s.dev.emit (.pixels o (s.dev.rasterI o).frame.toNat (vals.map (linkCode (s.dev.rasDepth o)))) := fun vals hup => by
    rw [Dev.sendRaster, hclones]
    exact if_pos hup
  refine ⟨fun hretime => ?_, fun hfetch hup hsub hhold => ?_, fun hfetch hup hsub hdrop hhost => ?_⟩
  · obtain ⟨f, hf, heq⟩ := Dev.retimeEnd_single hretime hclones
    have hr := (s.dev.onRasterI o RasterSt.retimed).rasterI_onRasterI_same f (Nat.lt_of_lt_of_eq ho (length_upd s.dev.raster o.val RasterSt.retimed).symm)
    rw [s.dev.rasterI_onRasterI_same _ ho] at hr
    obtain ⟨h1, h2, h3, h4⟩ := hf (s.dev.rasterI o).retimed
    exact ⟨_, next_withDev heq, (congrArg RasterSt.retiming hr).trans h1, (congrArg RasterSt.timingNew hr).trans h2,
      (congrArg RasterSt.next hr).trans h3, (congrArg RasterSt.force hr).trans h4⟩
  · have hfinal := Dev.fetchEnd_subst (cyc := cyc) hfetch hsub hhold
    rw [hsend _ hup] at hfinal
    obtain ⟨hout, hf, hr, -, -⟩ := Dev.frameEnds_spec (d := s.dev.emit (.pixels o (s.dev.rasterI o).frame.toNat
      ((s.dev.rasterI o).lastGood.map (linkCode (s.dev.rasDepth o))))) hclones ho (s.dev.rasterI o).retired
      (BitVec.ofNat 13 ((s.dev.rasTiming o).vTot - 1)) (s.dev.nsAt cyc)
    exact ⟨_, next_withDev hfinal, hout, hf, hr⟩
  · obtain ⟨sent, hsent⟩ : ∃ e, e = s.dev.emit (.pixels o (s.dev.rasterI o).frame.toNat
        ((s.dev.composed o).map (linkCode (s.dev.rasDepth o)))) := ⟨_, rfl⟩
    have hcSent : sent.withClones o = [o.val] := by
      rw [hsent]
      exact hclones
    have hfinal := Dev.fetchEnd_composed (cyc := cyc) hfetch hsub hdrop hhost (by rw [hsend _ hup]; exact fun _ => rfl)
    dsimp only at hfinal
    rw [hsend _ hup, ← hsent, hcSent] at hfinal
    obtain ⟨hout, hf, -, htorn, hhealth⟩ := Dev.frameEnds_spec (d := sent.deliver (rasEp o)) hcSent
      (by rw [hsent]; exact ho) (s.dev.rasterI o).retired
      (BitVec.ofNat 13 ((s.dev.rasTiming o).vTot - 1)) (s.dev.nsAt cyc)
    refine ⟨_, next_withDev hfinal, hout.trans (by rw [hsent]; rfl), hf, htorn.trans (by rw [hsent]; rfl), fun x hx hep => ?_⟩
    refine Classical.byContradiction fun hdue => ?_
    have hkept : x ∈ s.dev.health.interrupted.filter fun x => x.1 != rasEp o := by
      have hsame := hhealth (by rw [hsent]; exact Bool.not_eq_true _ ▸ hdue)
      have hin : x ∈ ((sent.deliver (rasEp o)).frameEnds o (s.dev.rasterI o).retired
        (BitVec.ofNat 13 ((s.dev.rasTiming o).vTot - 1)) (s.dev.nsAt cyc)).health.interrupted := hx
      rw [hsame, hsent] at hin
      exact hin
    have hne := (List.mem_filter.mp hkept).2
    simp [hep, rasEp, endpoint] at hne

/-- Settles O59. How much of the owed refresh idle time pays is free (log 78), and which registers a retime settles is the
model's choice (log 103, 117). -/
theorem frameMemoryAndOutputs : Obligations.FrameMemoryAndOutputs := by
  unfold Obligations.FrameMemoryAndOutputs
  refine ⟨?_, refreshDue_debt, mr4Poll_rates, ?_, retraining_cases, frequencyChange_cases,
    rasterFrameStart_commit_timeLock, fetchEnd_retimeEnd_cases⟩
  · intro s c hpop
    refine ⟨next_withDev (d' := s.dev) (if_pos ?_), fun l cyc => next_withDev (d' := s.dev) (if_pos ?_),
      fun l => next_withDev (d' := s.dev) (if_pos ?_), next_withDev (d' := s.dev) (if_neg ?_),
      next_withDev (d' := s.dev) (if_neg ?_)⟩ <;> simp [hpop]
  · intro s c a b hpop hbase hlen hold
    refine next_withDev ((if_neg (by simp [hpop])).trans (s.dev.onChanI_congr _ ?_))
    have hyoung : decide ((s.dev.chanI c).trainedAt + 600 * 125000000 ≤ s.dev.tick.tclk) = false :=
      decide_eq_false (Nat.not_le.mpr hold)
    simp only [hbase, hyoung, oscMoved, List.isEmpty_cons, Bool.false_eq_true, if_false, List.zip_cons_cons, List.zip_nil_left,
      List.any_cons, List.any_nil, Bool.or_false]

end Sys2Proof.Machine
end

section
/-!
SUPPORT. The audio ports: starts, periods, clock faults, AES3 receivers and the steering of the transmit clock (19 R458 to
R476).
-/
namespace Sys2Proof.Machine

/-! ### A port of the device -/

theorem Dev.portI_onPortI_same (d : Dev) {p : Nat} (f : PortSt → PortSt) (h : p < d.audio.ports.length) :
    (d.onPortI p f).portI p = f (d.portI p) := getD_upd_same _ _ _ _ h

theorem Dev.portI_onPortI_other (d : Dev) {p q : Nat} (f : PortSt → PortSt) (h : q ≠ p) :
    (d.onPortI p f).portI q = d.portI q := getD_upd_other _ _ _ _ _ h

theorem Dev.portI_onPortI_keeps {β : Type} (g : PortSt → β) (d : Dev) (n m : Nat) {f : PortSt → PortSt}
    (h : ∀ x, g (f x) = g x) : g ((d.onPortI n f).portI m) = g (d.portI m) := by
  by_cases hm : m = n
  · subst hm
    by_cases hlt : m < d.audio.ports.length
    · rw [d.portI_onPortI_same f hlt, h]
    · exact congrArg (fun l => g (l.getD m PortSt.reset)) (upd_past d.audio.ports m f (Nat.not_lt.mp hlt))
  · rw [d.portI_onPortI_other f hm]

theorem Dev.length_onPortI (d : Dev) (p : Nat) (f : PortSt → PortSt) :
    (d.onPortI p f).audio.ports.length = d.audio.ports.length := length_upd _ _ _

theorem Dev.domI_onDomI_same (d : Dev) {n : Nat} (f : DomainSt → DomainSt) (h : n < d.audio.domains.length) :
    (d.onDomI n f).domI n = f (d.domI n) := getD_upd_same _ _ _ _ h

theorem Dev.portI_congr {d d' : Dev} (h : d'.audio = d.audio) (p : Nat) : d'.portI p = d.portI p := by
  rw [Dev.portI, Dev.portI, h]

theorem Dev.onRingI_audio (d : Dev) (r : Nat) (f : Ring → Ring) : (d.onRingI r f).audio = d.audio :=
  Dev.onRingI_keeps (·.audio) d r f (fun _ => rfl) (fun _ => rfl) (fun _ => rfl) (fun _ => rfl) fun _ => rfl

theorem Dev.memWrite_audio (d : Dev) (pool off : Nat) (bs : List Byte) : (d.memWrite pool off bs).audio = d.audio :=
  d.memWrite_keeps (·.audio) pool off bs fun _ => rfl

theorem Dev.portInterrupt_keeps {β : Type} (g : Dev → β) (hhealth : ∀ f (d : Dev), g (d.onHealth f) = g d) (d : Dev)
    (p cause : Nat) : g (d.portInterrupt p cause) = g d :=
  ite_keeps g _ (hhealth _ _) rfl

/-! ### A step taken by each port of a clock -/

/-- A step of one port: the other ports stay, and the port moves as `Q` says. -/
structure PortStep (F : Dev → Nat → Dev) (Q : Nat → PortSt → PortSt → Prop) : Prop where
  other : ∀ d p q, q ≠ p → (F d p).portI q = d.portI q
  length : ∀ d p, (F d p).audio.ports.length = d.audio.ports.length
  same : ∀ d p, p < d.audio.ports.length → Q p (d.portI p) ((F d p).portI p)

theorem PortStep.each {F : Dev → Nat → Dev} {Q : Nat → PortSt → PortSt → Prop} (h : PortStep F Q) {l : List Nat} (hl : l.Nodup)
    (d : Dev) : (d.each l F).audio.ports.length = d.audio.ports.length ∧
      (∀ p, p ∉ l → (d.each l F).portI p = d.portI p) ∧
      ∀ p, p ∈ l → p < d.audio.ports.length → Q p (d.portI p) ((d.each l F).portI p) := by
  induction l generalizing d with
  | nil => exact ⟨rfl, fun _ _ => rfl, fun p hp => absurd hp List.not_mem_nil⟩
  | cons a l ih =>
    obtain ⟨ha, hl⟩ := List.nodup_cons.mp hl
    obtain ⟨hlen, hother, hsame⟩ := ih hl (F d a)
    refine ⟨hlen.trans (h.length d a), fun p hp => ?_, fun p hp hlt => ?_⟩
    · obtain ⟨hne, hnot⟩ := not_or.mp (mt List.mem_cons.mpr hp)
      exact (hother p hnot).trans (h.other d a p hne)
    · rcases List.mem_cons.mp hp with rfl | hmem
      · rw [Dev.each_cons, hother p ha]
        exact h.same d p hlt
      · have hne : p ≠ a := fun he => ha (he ▸ hmem)
        have := hsame p hmem (Nat.lt_of_lt_of_eq hlt (h.length d a).symm)
        rw [h.other d a p hne] at this
        exact this

theorem PortStep.onPort {Q : Nat → PortSt → PortSt → Prop} {F : Dev → Nat → Dev}
    (hF : ∀ d p, ∃ f, (F d p).audio = (d.onPortI p f).audio ∧ Q p (d.portI p) (f (d.portI p))) : PortStep F Q where
  other d p q hq := by
    obtain ⟨f, hf, -⟩ := hF d p
    exact (Dev.portI_congr hf q).trans (d.portI_onPortI_other _ hq)
  length d p := by
    obtain ⟨f, hf, -⟩ := hF d p
    exact (congrArg (·.ports.length) hf).trans (d.length_onPortI _ _)
  same d p hp := by
    obtain ⟨f, hf, hQ⟩ := hF d p
    rw [Dev.portI_congr hf, d.portI_onPortI_same _ hp]
    exact hQ

theorem Dev.onPortI_audio_comp {d e : Dev} {p : Nat} {f : PortSt → PortSt} (h : e.audio = (d.onPortI p f).audio)
    (g : PortSt → PortSt) : (e.onPortI p g).audio = (d.onPortI p (g ∘ f)).audio := by
  show { e.audio with ports := upd e.audio.ports p g } = _
  rw [h]
  show AudioSt.mk (upd (upd _ _ _) _ _) _ = _
  rw [upd_upd]
  rfl

theorem Dev.onPortI_audio_congr {d e : Dev} (h : e.audio = d.audio) (p : Nat) (f : PortSt → PortSt) :
    (e.onPortI p f).audio = (d.onPortI p f).audio :=
  congrArg (fun a : AudioSt => { a with ports := upd a.ports p f }) h

theorem clockPorts_nodup (c : AudioClock) : (clockPorts c).Nodup := List.nodup_range.filter _

theorem clockPorts_lt {c : AudioClock} {p : Nat} (h : p ∈ clockPorts c) : p < 28 :=
  List.mem_range.mp (List.mem_filter.mp h).1

/-! ### Starts and periods (R461 to R466) -/

/-- The period that begins at stamp `t`. -/
theorem Dev.openPeriod_audio (d : Dev) (p t : Nat) :
    ∃ st : BitVec 16 → BitVec 16, (d.openPeriod p t).audio = (d.onPortI p fun x => { x with since := t, status := st x.status }).audio := by
  have hone : ∀ st : BitVec 16 → BitVec 16, ((d.onPortI p fun x => { x with since := t }).onPortI p fun x =>
      { x with status := st x.status }).audio = (d.onPortI p fun x => { x with since := t, status := st x.status }).audio := by
    intro st
    show AudioSt.mk (upd (upd _ _ _) _ _) _ = _
    rw [upd_upd]
    rfl
  unfold Dev.openPeriod
  dsimp only
  split
  · exact ⟨id, rfl⟩
  · split
    · refine ⟨id, ?_⟩
      rw [Dev.onRingI_audio, Dev.onRingI_audio]
      rfl
    · refine ⟨(· ||| 2), ?_⟩
      rw [Dev.portInterrupt_keeps (·.audio) fun _ _ => rfl]
      exact (Dev.onPortI_audio_congr (Dev.onRingI_audio _ _ _) p _).trans (hone (· ||| 2))

theorem Dev.openPeriod_keeps {β : Type} (g : Dev → β) (haudio : ∀ f (d : Dev), g (d.onAudio f) = g d)
    (hring : ∀ r f (d : Dev), g (d.onRingI r f) = g d) (hhealth : ∀ f (d : Dev), g (d.onHealth f) = g d) (d : Dev)
    (p t : Nat) : g (d.openPeriod p t) = g d := by
  unfold Dev.openPeriod
  dsimp only
  split
  · exact haudio _ _
  · split
    · rw [hring, hring]
      exact haudio _ _
    · rw [Dev.portInterrupt_keeps g hhealth]
      exact (haudio _ _).trans ((hring _ _ _).trans (haudio _ _))

theorem Dev.openPeriod_port {d : Dev} {p : Nat} (hp : p < d.audio.ports.length) (t : Nat) :
    ∃ st, (d.openPeriod p t).portI p = { d.portI p with since := t, status := st } := by
  obtain ⟨st, h⟩ := d.openPeriod_audio p t
  exact ⟨st (d.portI p).status, (Dev.portI_congr h p).trans (d.portI_onPortI_same _ hp)⟩

/-- What stopping a port makes of it. -/
def PortSt.stopped (x : PortSt) : PortSt := { x with running := false, startReq := false }

theorem Dev.portStop_audio (d : Dev) (p ns : Nat) : ∃ f : PortSt → PortSt,
    (d.portStop p ns).audio = (d.onPortI p f).audio ∧ f (d.portI p) = (d.portI p).stopped := by
  unfold Dev.portStop
  split
  · refine ⟨PortSt.stopped, ?_, rfl⟩
    have hring : ∀ l : List Nat, (if isOut p then d else d.each l fun d o => d.onRingI (ringAudio + p) (·.dropBuf o)).audio =
        d.audio := fun l => ite_keeps (·.audio) _ rfl (Dev.each_keeps (·.audio) l d fun d o => Dev.onRingI_audio _ _ _)
    exact Dev.onPortI_audio_congr (hring _) p PortSt.stopped
  · next hrun =>
    refine ⟨fun x => { x with startReq := false }, rfl, ?_⟩
    have : (d.portI p).running = false := Bool.eq_false_iff.mpr hrun
    rw [PortSt.stopped, ← this]

/-- A port that starts at stamp `t`, with its lead cut short or not. -/
def PortSt.starting (t : Nat) (short : Bool) (x : PortSt) : PortSt :=
  { x with running := true, startReq := false, index := 0, due := 0, started := t, since := t, dueBase := none,
           leadShort := x.leadShort || short, status := if short then 0x40 else 0, lastSample := [],
           fillPos := 0, fillLeft := 0 }

/-- The device whose port has started, with the mark of a lead cut short, and the start of the transmit domain. -/
def Dev.portBegun (d : Dev) (p t : Nat) (short first : Bool) : Dev :=
  let d := d.onPortI p fun x =>
    { x with running := true, startReq := false, index := 0, due := 0, started := t, since := t, dueBase := none,
             leadShort := x.leadShort || short, status := if short then 0x40 else 0, lastSample := [],
             fillPos := 0, fillLeft := 0 }
  let d := if short then d.mark (0x11000 + 0x20 * p) 26 else d
  if first then d.onDomI 0 fun m => { m with startT := some (t : Int), integral := 0, lockRun := 0 } else d

theorem Dev.portBegun_keeps (d : Dev) (p t : Nat) (short first : Bool) :
    (d.portBegun p t short first).audio.ports = (d.onPortI p (PortSt.starting t short)).audio.ports ∧
      (d.portBegun p t short first).evt = d.evt ∧ (d.portBegun p t short first).time = d.time := by
  unfold Dev.portBegun
  cases short <;> cases first <;> exact ⟨rfl, rfl, rfl⟩

/-- An enabled port that is asked to start, while nothing forbids it. -/
theorem Dev.portStart_spec {d : Dev} {p cyc : Nat} (hp : p < d.audio.ports.length) (hon : (d.portI p).enabled = true)
    (hreq : (d.portI p).startReq = true) (hrun : (d.portI p).running = false) (hneed : (d.portI p).needEnable = false)
    (hhalt : d.halted = false) :
    let e := d.portStart p cyc
    (e.portI p).running = true ∧ (e.portI p).startReq = false ∧ (e.portI p).index = 0 ∧
      (e.portI p).started = d.timeAt cyc ∧ (e.portI p).since = d.timeAt cyc ∧
      e.evt.raised = d.evt.raised ++ [(252 + p, d.nsAt cyc, d.time.epoch.toNat)] := by
  let short := decide (d.timeAt cyc < (d.portI p).enabledAt + d.parN 0x11 p 7 * 1000000 * 2 ^ 32)
  let f := PortSt.starting (d.timeAt cyc) short
  let begun := d.portBegun p (d.timeAt cyc) short (isOut p && !(List.range 28).any fun q => isOut q && (d.portI q).running)
  have hbegun : d.portStart p cyc =
      (if isOut p then begun else begun.openPeriod p (d.timeAt cyc)).audioEvent p (d.nsAt cyc) :=
    if_pos (by simp only [hon, hreq, hrun, hneed, hhalt, Bool.not_false, Bool.and_self])
  have hf : ∀ x, (f x).running = true ∧ (f x).startReq = false ∧ (f x).index = 0 ∧ (f x).started = d.timeAt cyc ∧
      (f x).since = d.timeAt cyc := fun x => ⟨rfl, rfl, rfl, rfl, rfl⟩
  obtain ⟨hport, hkeep⟩ := d.portBegun_keeps p (d.timeAt cyc) short
    (isOut p && !(List.range 28).any fun q => isOut q && (d.portI q).running)
  have hlen : p < begun.audio.ports.length := by
    rw [hport]
    exact Nat.lt_of_lt_of_eq hp (d.length_onPortI p f).symm
  have hx : begun.portI p = f (d.portI p) :=
    (congrArg (·.getD p PortSt.reset) hport).trans (d.portI_onPortI_same f hp)
  have hopen : ∃ st, ((if isOut p then begun else begun.openPeriod p (d.timeAt cyc)).portI p) =
      { f (d.portI p) with status := st } := by
    obtain ⟨-, -, -, -, hsince⟩ := hf (d.portI p)
    split
    · exact ⟨(f (d.portI p)).status, hx⟩
    · obtain ⟨st, h⟩ := Dev.openPeriod_port hlen (d.timeAt cyc)
      refine ⟨st, h.trans ?_⟩
      rw [hx, ← hsince]
  obtain ⟨st, hst⟩ := hopen
  obtain ⟨h1, h2, h3, h4, h5⟩ := hf (d.portI p)
  have hevt : ∀ {β : Type} (g : Dev → β), (∀ f (d : Dev), g (d.onAudio f) = g d) →
      (∀ r f (d : Dev), g (d.onRingI r f) = g d) → (∀ f (d : Dev), g (d.onHealth f) = g d) →
      g (if isOut p then begun else begun.openPeriod p (d.timeAt cyc)) = g begun := fun g ha hr hh =>
    ite_keeps g _ rfl (Dev.openPeriod_keeps g ha hr hh _ _ _)
  dsimp only
  rw [hbegun]
  refine ⟨(congrArg PortSt.running hst).trans h1, (congrArg PortSt.startReq hst).trans h2, (congrArg PortSt.index hst).trans h3,
    (congrArg PortSt.started hst).trans h4, (congrArg PortSt.since hst).trans h5, ?_⟩
  have hraise : ∀ e : Dev, (e.audioEvent p (d.nsAt cyc)).evt.raised = e.evt.raised ++ [(252 + p, d.nsAt cyc, e.time.epoch.toNat)] :=
    fun _ => rfl
  rw [hraise, hevt (·.evt) (fun _ _ => rfl) (fun _ _ _ => Dev.onRingI_evt _ _ _) fun _ _ => rfl,
    hevt (·.time) (fun _ _ => rfl) (fun _ _ _ => Dev.onRingI_time _ _ _) fun _ _ => rfl, hkeep.1, hkeep.2]

/-- The period of a running input that ends: what was received closes into its buffer, and the next period begins. -/
theorem Dev.periodEnds_eq {d : Dev} {p : Nat} (l : List Word) (cyc : Nat) (hin : isOut p = false)
    (hrun : (d.portI p).running = true) : ∃ e : Dev,
      d.periodEnds p l cyc = e.openPeriod p (e.timeAt cyc) ∧ e.time = d.time ∧ ∃ F, e.audio = (d.onPortI p F).audio ∧
      ∀ x, (F x).index = x.index + BitVec.ofNat 64 (d.portPeriod p) ∧ (F x).running = x.running ∧ (F x).pendGain = [] ∧
        (F x).fillPos = 0 := by
  unfold Dev.periodEnds
  dsimp only
  rw [if_neg (by simp [hin, hrun])]
  generalize hbuf : ((d.ringI (ringAudio + p)).bufs.find? fun b => b.st == .filling && !b.old) = buf
  cases buf with
  | none =>
    dsimp only
    refine ⟨_, rfl, ?_, _, Eq.trans (ite_keeps (·.audio) _ rfl (Dev.portInterrupt_keeps (·.audio) (fun _ _ => rfl) _ _ _))
      (Eq.trans (ite_keeps (·.audio) _ rfl rfl) (Dev.onPortI_audio_comp rfl _)), fun x => ⟨rfl, rfl, rfl, rfl⟩⟩
    exact Eq.trans (ite_keeps (·.time) _ rfl (Dev.portInterrupt_keeps (·.time) (fun _ _ => rfl) _ _ _))
      (ite_keeps (·.time) _ rfl rfl)
  | some b =>
    dsimp only
    have hmem : ∀ {β : Type} (g : Dev → β), (∀ f (d : Dev), g (d.onMem f) = g d) → (∀ r f (d : Dev), g (d.onRingI r f) = g d) →
        ∀ pool off off' bs bs' r f, g (((d.memWrite pool off bs).memWrite pool off' bs').onRingI r f) = g d :=
      fun g hm hr pool off off' bs bs' r f =>
        (hr _ _ _).trans ((Dev.memWrite_keeps g _ _ _ _ fun f => hm f _).trans (Dev.memWrite_keeps g _ _ _ _ fun f => hm f _))
    refine ⟨_, rfl, ?_, _, Eq.trans (ite_keeps (·.audio) _ rfl (Dev.portInterrupt_keeps (·.audio) (fun _ _ => rfl) _ _ _))
      (Eq.trans (ite_keeps (·.audio) _ rfl rfl) (Dev.onPortI_audio_comp
        (Dev.onPortI_audio_congr (hmem (·.audio) (fun _ _ => rfl) (fun _ _ _ => Dev.onRingI_audio _ _ _) _ _ _ _ _ _ _)
          p _) _)),
      fun x => ⟨rfl, rfl, rfl, rfl⟩⟩
    exact Eq.trans (ite_keeps (·.time) _ rfl (Dev.portInterrupt_keeps (·.time) (fun _ _ => rfl) _ _ _))
      (Eq.trans (ite_keeps (·.time) _ rfl rfl)
        (hmem (·.time) (fun _ _ => rfl) (fun _ _ _ => Dev.onRingI_time _ _ _) _ _ _ _ _ _ _))

/-! ### Clock faults (R472) -/

/-- A port that stops for good. -/
theorem stopStep (ns : Nat) : PortStep (fun d p => ((d.portInterrupt p 0).portStop p ns).onPortI p fun x =>
    { x with needEnable := true }) fun _ x y => y = { x.stopped with needEnable := true } :=
  .onPort fun d p => by
    obtain ⟨f, hf, hx⟩ := (d.portInterrupt p 0).portStop_audio p ns
    have hint : (d.portInterrupt p 0).audio = d.audio := Dev.portInterrupt_keeps (·.audio) (fun _ _ => rfl) d p 0
    have hf' : ((d.portInterrupt p 0).portStop p ns).audio = (d.onPortI p f).audio :=
      hf.trans (Dev.onPortI_audio_congr hint p f)
    refine ⟨_, Dev.onPortI_audio_comp hf' _, ?_⟩
    rw [Dev.portI_congr hint] at hx
    show PortSt.mk .. = _
    rw [hx]

theorem Dev.stopClock_spec {d : Dev} (hlen : d.audio.ports.length = 28) (c : AudioClock) (ns : Nat) :
    (∀ p, p ∈ clockPorts c → ((d.stopClock c ns).portI p).running = false ∧
      ((d.stopClock c ns).portI p).rateWrong = (d.portI p).rateWrong ∧
      ((d.portI p).running = true → ((d.stopClock c ns).portI p).needEnable = true)) ∧
    ∃ r ∈ (d.stopClock c ns).faults.reports, r.cls = 0x0080 ∧ r.detail = [clockCode c] := by
  obtain ⟨-, hother, hsame⟩ := (stopStep ns).each (l := (clockPorts c).filter fun p => (d.portI p).running)
    ((clockPorts_nodup c).filter _) d
  refine ⟨fun p hp => ?_, _, List.mem_append_right _ List.mem_cons_self, rfl, rfl⟩
  have hlt : p < d.audio.ports.length := Nat.lt_of_lt_of_eq (clockPorts_lt hp) hlen.symm
  by_cases hrun : (d.portI p).running = true
  · have h := hsame p (List.mem_filter.mpr ⟨hp, hrun⟩) hlt
    exact ⟨(congrArg PortSt.running h :), (congrArg PortSt.rateWrong h :), fun _ => (congrArg PortSt.needEnable h :)⟩
  · have h := hother p fun hin => hrun (List.mem_filter.mp hin).2
    exact ⟨(congrArg PortSt.running h).trans (Bool.eq_false_iff.mpr hrun), (congrArg PortSt.rateWrong h :), fun h => absurd h hrun⟩

theorem Dev.setOffRun_port (d : Dev) (c : AudioClock) (k p : Nat) : (d.setOffRun c k).audio.ports.length = d.audio.ports.length ∧
    ((d.setOffRun c k).portI p).running = (d.portI p).running ∧ ((d.setOffRun c k).portI p).glitches = (d.portI p).glitches := by
  cases c with
  | tx => exact ⟨rfl, rfl, rfl⟩
  | rx => exact ⟨rfl, rfl, rfl⟩
  | aes3 n =>
    exact ⟨d.length_onPortI _ _, d.portI_onPortI_keeps (·.running) _ _ fun _ => rfl,
      d.portI_onPortI_keeps (·.glitches) _ _ fun _ => rfl⟩

theorem Dev.setOffRun_run {d : Dev} (hlen : d.audio.ports.length = 28) (hdom : d.audio.domains.length = 2) (c : AudioClock)
    (k : Nat) : (d.setOffRun c k).offRun c = k := by
  cases c with
  | tx => exact congrArg DomainSt.offRun (d.domI_onDomI_same _ (by omega))
  | rx => exact congrArg DomainSt.offRun (d.domI_onDomI_same _ (by omega))
  | aes3 n => exact congrArg PortSt.offRun (d.portI_onPortI_same _ (by omega))

theorem Dev.offRun_congr {d e : Dev} (h : e.audio.domains = d.audio.domains) (c : AudioClock)
    (hport : ∀ n, c = .aes3 n → (e.portI (16 + n)).offRun = (d.portI (16 + n)).offRun) : e.offRun c = d.offRun c := by
  cases c with
  | tx => exact congrArg (fun l => (l.getD 0 (DomainSt.reset 0)).offRun) h
  | rx => exact congrArg (fun l => (l.getD 1 (DomainSt.reset 0)).offRun) h
  | aes3 n => exact hport n rfl

/-- A running or an enabled port learns of the wrong rate. -/
theorem rateStep : PortStep (fun d p => if (d.portI p).running || (d.portI p).enabled then
      d.onPortI p fun x => { x with rateWrong := true } else d)
    fun _ x y => y.running = x.running ∧ (x.running = true → y.rateWrong = true) :=
  .onPort fun d p => by
    split
    · exact ⟨_, rfl, rfl, fun _ => rfl⟩
    · next h =>
      refine ⟨id, ?_, rfl, fun hrun => absurd (by simp [hrun]) h⟩
      simp [Dev.onPortI, Dev.onAudio, upd]

/-- The domain of a clock learns of the wrong rate. -/
def Dev.domainWrong (d : Dev) (c : AudioClock) : Dev :=
  match c with
  | .tx => d.onDomI 0 fun m => { m with rateWrong := true }
  | .rx => d.onDomI 1 fun m => { m with rateWrong := true }
  | .aes3 _ => d

theorem Dev.domainWrong_ports (d : Dev) (c : AudioClock) : (d.domainWrong c).audio.ports = d.audio.ports := by
  cases c <;> rfl

/-- A running input closes its buffer short, with what was received of it. -/
def Dev.closeShort (cyc : Nat) (d : Dev) (p : Nat) : Dev :=
  let n := (d.timeAt cyc - (d.portI p).since) * d.portFs p / (1000000000 * 2 ^ 32)
  let words := (List.range (n * d.portChannels p)).map fun i => BitVec.ofNat 32 (d.freeAt i)
  let ring := ringAudio + p
  match (d.ringI ring).bufs.find? fun b => b.st == .filling && !b.old with
  | some b =>
    let x := d.portI p
    let m := min n (d.portPeriod p)
    let d := d.memWrite b.desc.pool b.desc.plane0 ((words.take (m * d.portChannels p)).flatMap fun w => leBytes 4 w.toNat)
    let d := d.memWrite b.desc.pool b.desc.hdrOff
      (portHeader b.postmark x.status.toNat x.pset.toNat m (d.portChannels p) x.index.toNat)
    (d.used words.length).onRingI ring fun r =>
      r.fill b.order b.postmark x.pset.toNat (unitBytes (d.portPeriod p) (d.portChannels p))
  | none => d

theorem Dev.closeShort_ports (cyc : Nat) (d : Dev) (p : Nat) : (Dev.closeShort cyc d p).audio.ports = d.audio.ports := by
  have hwrite : ∀ pool off off' bs bs' k r f, (((((d.memWrite pool off bs).memWrite pool off' bs').used k).onRingI r f).audio) =
      d.audio := fun pool off off' bs bs' k r f =>
    (Dev.onRingI_audio _ _ _).trans ((Dev.memWrite_audio _ _ _ _).trans (Dev.memWrite_audio _ _ _ _))
  unfold Dev.closeShort
  generalize (d.timeAt cyc - (d.portI p).since) * d.portFs p / (1000000000 * 2 ^ 32) = n
  dsimp only
  split
  · exact congrArg AudioSt.ports (hwrite _ _ _ _ _ _ _ _)
  · rfl

theorem Dev.rateChanges_eq (d : Dev) (c : AudioClock) (cyc : Nat) : d.rateChanges c cyc =
    (let e := (d.each (clockPorts c) fun d p => if (d.portI p).running || (d.portI p).enabled then
        d.onPortI p fun x => { x with rateWrong := true } else d).domainWrong c
     e.each ((clockPorts c).filter fun p => (e.portI p).running && !isOut p) (Dev.closeShort cyc)).stopClock c (d.nsAt cyc) :=
  rfl

theorem Dev.rateChanges_spec {d : Dev} (hlen : d.audio.ports.length = 28) (c : AudioClock) (cyc : Nat) :
    (∀ p, p ∈ clockPorts c → ((d.rateChanges c cyc).portI p).running = false ∧ ((d.portI p).running = true →
      ((d.rateChanges c cyc).portI p).rateWrong = true ∧ ((d.rateChanges c cyc).portI p).needEnable = true)) ∧
    ∃ r ∈ (d.rateChanges c cyc).faults.reports, r.cls = 0x0080 ∧ r.detail = [clockCode c] := by
  obtain ⟨e, heq, hports⟩ : ∃ e : Dev, d.rateChanges c cyc = e.stopClock c (d.nsAt cyc) ∧ e.audio.ports =
      (d.each (clockPorts c) fun d p => if (d.portI p).running || (d.portI p).enabled then
        d.onPortI p fun x => { x with rateWrong := true } else d).audio.ports :=
    ⟨_, d.rateChanges_eq c cyc, (Dev.each_keeps (·.audio.ports) _ _ fun d p => d.closeShort_ports cyc p).trans
      (Dev.domainWrong_ports _ c)⟩
  obtain ⟨hlen', -, hrate⟩ := rateStep.each (clockPorts_nodup c) d
  obtain ⟨hstop, hreport⟩ := Dev.stopClock_spec (d := e) (by rw [hports, hlen', hlen]) c (d.nsAt cyc)
  rw [heq]
  refine ⟨fun p hp => ?_, hreport⟩
  obtain ⟨h1, h2, h3⟩ := hstop p hp
  obtain ⟨hr, hw⟩ := hrate p hp (Nat.lt_of_lt_of_eq (clockPorts_lt hp) hlen.symm)
  have hx := congrArg (·.getD p PortSt.reset) hports
  refine ⟨h1, fun hrun => ⟨?_, h3 ?_⟩⟩
  · exact h2.trans ((congrArg PortSt.rateWrong hx).trans (hw hrun))
  · exact (congrArg PortSt.running hx).trans (hr.trans hrun)

/-- The ports of a domain whose clock is there are locked. -/
theorem lockStep (hz : Dev → Nat) : PortStep (fun d p => d.onPortI p fun x =>
      { x with locked := true, rateHz := BitVec.ofNat 18 (hz d) })
    fun _ x y => y.locked = true ∧ y.running = x.running ∧ y.glitches = x.glitches ∧ y.offRun = x.offRun :=
  .onPort fun _ _ => ⟨_, rfl, rfl, rfl, rfl, rfl⟩

/-- What the return of a domain's clock makes of the device. -/
theorem Dev.clockThere_domain {d : Dev} (hlen : d.audio.ports.length = 28) (hdom : d.audio.domains.length = 2) {dom : Nat}
    (hlt : dom < 2) (c : AudioClock) :
    let e := (d.onDomI dom fun m => { m with clockOk := true }).each (clockPorts c) fun d p =>
      d.onPortI p fun x => { x with locked := true, rateHz := BitVec.ofNat 18 (d.domFs dom) }
    (e.domI dom).clockOk = true ∧ (e.domI dom).offRun = (d.domI dom).offRun ∧ e.audio.ports.length = 28 ∧
      ∀ p, p ∈ clockPorts c → (e.portI p).locked = true ∧ (e.portI p).running = (d.portI p).running ∧
        (e.portI p).glitches = (d.portI p).glitches := by
  have hdoms := Dev.each_keeps (·.domI dom) (f := fun (d : Dev) p =>
    d.onPortI p fun x => { x with locked := true, rateHz := BitVec.ofNat 18 (d.domFs dom) }) (clockPorts c)
    (d.onDomI dom fun m => { m with clockOk := true }) fun _ _ => rfl
  have hset := d.domI_onDomI_same (fun m => { m with clockOk := true }) (Nat.lt_of_lt_of_eq hlt hdom.symm)
  obtain ⟨hlen', -, hlock⟩ := (lockStep (·.domFs dom)).each (clockPorts_nodup c)
    (d.onDomI dom fun m => { m with clockOk := true })
  refine ⟨(congrArg DomainSt.clockOk (hdoms.trans hset) :), (congrArg DomainSt.offRun (hdoms.trans hset) :),
    hlen'.trans hlen, fun p hp => ?_⟩
  obtain ⟨h1, h2, h3, -⟩ := hlock p hp (Nat.lt_of_lt_of_eq (clockPorts_lt hp) hlen.symm)
  exact ⟨h1, h2, h3⟩

theorem Dev.clockThere_spec {d : Dev} (hlen : d.audio.ports.length = 28) (hdom : d.audio.domains.length = 2) (c : AudioClock) :
    ((∀ n, c ≠ .aes3 n) → ((d.clockThere c).domI (clockCode c)).clockOk = true ∧
      ∀ p, p ∈ clockPorts c → ((d.clockThere c).portI p).locked = true) ∧
    (d.clockThere c).offRun c = d.offRun c ∧ (d.clockThere c).audio.ports.length = 28 ∧
    ∀ p, p ∈ clockPorts c → ((d.clockThere c).portI p).running = (d.portI p).running ∧
      ((d.clockThere c).portI p).glitches = (d.portI p).glitches := by
  cases c with
  | tx =>
    obtain ⟨h1, h2, h3, h4⟩ := Dev.clockThere_domain hlen hdom (dom := 0) (by decide) .tx
    exact ⟨fun _ => ⟨h1, fun p hp => (h4 p hp).1⟩, h2, h3, fun p hp => (h4 p hp).2⟩
  | rx =>
    obtain ⟨h1, h2, h3, h4⟩ := Dev.clockThere_domain hlen hdom (dom := 1) (by decide) .rx
    exact ⟨fun _ => ⟨h1, fun p hp => (h4 p hp).1⟩, h2, h3, fun p hp => (h4 p hp).2⟩
  | aes3 n => exact ⟨fun h => absurd rfl (h n), rfl, hlen, fun _ _ => ⟨rfl, rfl⟩⟩

/-- One window off counts as a glitch of a running input. -/
def Dev.glitched (cyc : Nat) (d : Dev) (p : Nat) : Dev :=
  (d.onPortI p fun x => { x with glitches := bump x.glitches, status := x.status ||| 4 }).audioEvent p (d.nsAt cyc)

theorem glitched_step (cyc : Nat) : PortStep (Dev.glitched cyc)
    fun _ x y => y.glitches = bump x.glitches ∧ y.offRun = x.offRun :=
  .onPort fun _ _ => ⟨_, rfl, rfl, rfl⟩

/-- A port whose clock stops at stamp `t`. -/
def Dev.portUnlocks (t : Nat) (d : Dev) (p : Nat) : Dev :=
  (d.onPortI p fun x =>
    { x with locked := false, stopAt := if x.running then some t else x.stopAt,
             fillPos := if x.running && x.fillLeft == 0 then
                 (t - x.since) * d.portFs p / (1000000000 * 2 ^ 32) else x.fillPos }).portInterrupt p 0

theorem portUnlocks_step (t : Nat) : PortStep (Dev.portUnlocks t)
    fun _ x y => y.locked = false ∧ y.running = x.running ∧ (x.running = true → y.stopAt = some t) :=
  .onPort fun _ p => ⟨_, Dev.portInterrupt_keeps (·.audio) (fun _ _ => rfl) _ p 0, rfl, rfl, fun h => if_pos h⟩

/-- A port whose clock returns after `missed` periods. -/
def Dev.portRelocks (missed : Nat) (d : Dev) (p : Nat) : Dev :=
  let x := d.portI p
  let d := if x.running && x.stopAt.isSome then
      if isOut p then
        let n := d.portPeriod p
        d.onPortI p fun x => { x with due := if n = 0 then x.due else x.due + missed / n * n }
      else d.onPortI p fun x => { x with fillLeft := x.fillLeft + missed }
    else d
  d.onPortI p fun x => { x with stopAt := none, locked := true }

theorem portRelocks_step (missed : Nat) : PortStep (Dev.portRelocks missed)
    fun p x y => y.locked = true ∧ y.stopAt = none ∧
      (x.running = true → x.stopAt.isSome = true → isOut p = false → y.fillLeft = x.fillLeft + missed) := by
  refine .onPort fun d p => ?_
  unfold Dev.portRelocks
  dsimp only
  split
  · split
    · next hout => exact ⟨_, Dev.onPortI_audio_comp rfl _, rfl, rfl, fun _ _ hin => absurd (hin.symm.trans hout) Bool.false_ne_true⟩
    · exact ⟨_, Dev.onPortI_audio_comp rfl _, rfl, rfl, fun _ _ _ => rfl⟩
  · next hno => exact ⟨_, rfl, rfl, rfl, fun hrun hstop => absurd (by rw [hrun, hstop]; rfl) hno⟩

/-- A stop that lasts is forgotten before the ports stop for good. -/
theorem forgetStopStep : PortStep (fun d p => d.onPortI p fun x => { x with stopAt := none })
    fun _ x y => y.running = x.running :=
  .onPort fun _ _ => ⟨_, rfl, rfl⟩

/-- The domain of a clock that stops at stamp `t`. -/
def Dev.domainStops (d : Dev) (c : AudioClock) (t cyc : Nat) : Dev :=
  match c with
  | .tx => (d.onDomI 0 fun m => { m with clockOk := false, stopAt := some t }).domainEvent 0 (d.nsAt cyc)
  | .rx => (d.onDomI 1 fun m => { m with clockOk := false, stopAt := some t }).domainEvent 1 (d.nsAt cyc)
  | .aes3 _ => d

theorem Dev.clockStops_eq (d : Dev) (c : AudioClock) (cyc : Nat) : d.clockStops c cyc =
    (d.each (clockPorts c) (Dev.portUnlocks (d.timeAt cyc))).domainStops c (d.timeAt cyc) cyc := by
  cases c <;> rfl

/-- What the stop of a clock makes of its domain. -/
theorem Dev.clockStops_spec {d : Dev} (hlen : d.audio.ports.length = 28) (hdom : d.audio.domains.length = 2) (c : AudioClock)
    (cyc : Nat) :
    (∀ p, p ∈ clockPorts c → ((d.clockStops c cyc).portI p).locked = false ∧
      ((d.clockStops c cyc).portI p).running = (d.portI p).running ∧
      ((d.portI p).running = true → ((d.clockStops c cyc).portI p).stopAt = some (d.timeAt cyc))) ∧
    ((∀ n, c ≠ .aes3 n) → ((d.clockStops c cyc).domI (clockCode c)).clockOk = false ∧
      (280 + clockCode c, d.nsAt cyc, d.time.epoch.toNat) ∈ (d.clockStops c cyc).evt.raised) := by
  obtain ⟨-, -, hport⟩ := (portUnlocks_step (d.timeAt cyc)).each (clockPorts_nodup c) d
  obtain ⟨e, he⟩ : ∃ e, e = d.each (clockPorts c) (Dev.portUnlocks (d.timeAt cyc)) := ⟨_, rfl⟩
  rw [← he] at hport
  have hports : ∀ p, p ∈ clockPorts c → _ := fun p hp => hport p hp (Nat.lt_of_lt_of_eq (clockPorts_lt hp) hlen.symm)
  have hkeep : ∀ {β : Type} (g : Dev → β), (∀ n f (d : Dev), g (d.onPortI n f) = g d) → (∀ f (d : Dev), g (d.onHealth f) = g d) →
      g e = g d := fun g hg hh => by
    rw [he]
    exact Dev.each_keeps g _ _ fun d p => (Dev.portInterrupt_keeps g hh _ _ _).trans (hg _ _ _)
  have hdoms : e.audio.domains.length = 2 := (congrArg List.length (hkeep (·.audio.domains) (fun _ _ _ => rfl) fun _ _ => rfl)).trans hdom
  have hns : e.nsAt cyc = d.nsAt cyc := hkeep (·.nsAt cyc) (fun _ _ _ => rfl) fun _ _ => rfl
  have hepoch : e.time.epoch = d.time.epoch := hkeep (·.time.epoch) (fun _ _ _ => rfl) fun _ _ => rfl
  have hstop : d.clockStops c cyc = e.domainStops c (d.timeAt cyc) cyc := by
    rw [he]
    exact d.clockStops_eq c cyc
  rw [hstop, ← hns, ← hepoch]
  cases c with
  | tx =>
    exact ⟨hports, fun _ => ⟨congrArg DomainSt.clockOk (e.domI_onDomI_same _ (by omega)), List.mem_append_right _ List.mem_cons_self⟩⟩
  | rx =>
    exact ⟨hports, fun _ => ⟨congrArg DomainSt.clockOk (e.domI_onDomI_same _ (by omega)), List.mem_append_right _ List.mem_cons_self⟩⟩
  | aes3 n => exact ⟨hports, fun h => absurd rfl (h n)⟩

/-- The domain of a clock that returns. -/
def Dev.domainReturns (d : Dev) (c : AudioClock) : Dev :=
  match c with
  | .tx => d.onDomI 0 fun m => { m with clockOk := true, stopAt := none, rateWrong := false }
  | .rx => d.onDomI 1 fun m => { m with clockOk := true, stopAt := none, rateWrong := false }
  | .aes3 _ => d

theorem Dev.clockReturns_eq (d : Dev) (c : AudioClock) (missed : Nat) :
    d.clockReturns c missed = (d.each (clockPorts c) (Dev.portRelocks missed)).domainReturns c := by
  cases c <;> rfl

/-- What the return of a clock makes of its ports and its domain. -/
theorem Dev.clockReturns_spec {d : Dev} (hlen : d.audio.ports.length = 28) (hdom : d.audio.domains.length = 2) (c : AudioClock)
    (missed : Nat) :
    (∀ p, p ∈ clockPorts c → ((d.clockReturns c missed).portI p).locked = true ∧
      ((d.clockReturns c missed).portI p).stopAt = none ∧ ((d.portI p).running = true → (d.portI p).stopAt.isSome = true →
        isOut p = false → ((d.clockReturns c missed).portI p).fillLeft = (d.portI p).fillLeft + missed)) ∧
    ((∀ n, c ≠ .aes3 n) → ((d.clockReturns c missed).domI (clockCode c)).clockOk = true) := by
  obtain ⟨-, -, hport⟩ := (portRelocks_step missed).each (clockPorts_nodup c) d
  obtain ⟨e, he⟩ : ∃ e, e = d.each (clockPorts c) (Dev.portRelocks missed) := ⟨_, rfl⟩
  rw [← he] at hport
  have hports : ∀ p, p ∈ clockPorts c → _ := fun p hp => hport p hp (Nat.lt_of_lt_of_eq (clockPorts_lt hp) hlen.symm)
  have hdoms : e.audio.domains = d.audio.domains := by
    rw [he]
    exact Dev.each_keeps (·.audio.domains) _ _ fun d p =>
      ite_keeps (·.audio.domains) _ (ite_keeps (·.audio.domains) _ rfl rfl) rfl
  have hdoms2 : e.audio.domains.length = 2 := (congrArg List.length hdoms).trans hdom
  have hreturn : d.clockReturns c missed = e.domainReturns c := by
    rw [he]
    exact d.clockReturns_eq c missed
  rw [hreturn]
  cases c with
  | tx => exact ⟨hports, fun _ => congrArg DomainSt.clockOk (e.domI_onDomI_same _ (by omega))⟩
  | rx => exact ⟨hports, fun _ => congrArg DomainSt.clockOk (e.domI_onDomI_same _ (by omega))⟩
  | aes3 n => exact ⟨hports, fun h => absurd rfl (h n)⟩

/-! ### An output with nothing to play (R469, R470) -/

theorem Dev.findPeriod_empty {d : Dev} {p : Nat} (h : (d.ringI (ringAudio + p)).bufs = []) (due : Nat) (base : Option Nat) :
    d.findPeriod p 0xFFFF due base = (⟨none, 0⟩, base, d) := by
  rw [Dev.findPeriod, if_pos rfl, h, List.length_nil, Dev.findHost]
  simp only [h, List.filter_nil, List.find?_nil]

theorem getD_zero {l : List Word} (h : ∀ w ∈ l, w = 0) (i : Nat) : l.getD i 0 = 0 := by
  rw [List.getD_eq_getElem?_getD]
  cases hi : l[i]? with
  | none => rfl
  | some w => exact h w (List.mem_of_getElem? hi)

/-- A zero sample stays zero under every gain. -/
theorem gained_zero (g : Nat × Bool) : gained g (sampleOf 0) 1 = 0 := by
  have hzero : sampleOf 0 = 0 := by decide
  unfold gained
  rw [hzero]
  split
  · rfl
  · simp [sat24, clampI]

theorem wordOf_zero : wordOf 0 (0 : Word).toNat = 0 := by decide

theorem map_getD_of_lt {α : Type} {n k : Nat} (hk : k < n) {f : Nat → α} {x : α} : ((List.range n).map f).getD k x = f k := by
  simp [List.getD_eq_getElem?_getD, hk]

/-- Channels that play zeros alone make frames of zeros. -/
theorem frames_of_silence {α : Type} (n c : Nat) {plan : Nat → List Word × List Word × α} {x : α}
    (h : ∀ k, ∀ w ∈ (plan k).2.1, w = 0) :
    ((List.range n).flatMap fun i => (List.range c).map fun k =>
      ((((List.range c).map plan).getD k ([], [], x)).2.1).getD i 0) = List.replicate (n * c) 0 := by
  refine List.eq_replicate_iff.mpr ⟨?_, fun w hw => ?_⟩
  · simp only [List.length_flatMap, List.length_map, List.length_range, List.map_const', List.sum_replicate_nat]
  obtain ⟨i, -, hi⟩ := List.mem_flatMap.mp hw
  obtain ⟨k, hk, rfl⟩ := List.mem_map.mp hi
  rw [map_getD_of_lt (List.mem_range.mp hk)]
  exact getD_zero (h k) i

/-- An output of a TDM or I2S port whose source has nothing for its due index sends zeros. -/
theorem Dev.fetchLead_silent {d : Dev} {p cyc : Nat} (hout : isOut p = true) (h24 : 24 ≤ p)
    (hrun : (d.portI p).running = true) (hnew : (d.portI p).newSource = none)
    (hfound : (if d.isShed (608 + p) then (⟨none, 0⟩, (d.portI p).dueBase, d)
      else d.findPeriod p (d.portI p).source (d.portI p).due (d.portI p).dueBase) = (⟨none, 0⟩, (d.portI p).dueBase, d)) :
    ∃ F : PortSt → PortSt, d.fetchLead p cyc = ((d.onPortI p F).audioEvent p (d.nsAt cyc)).emit
        (.audio p (List.replicate (d.portPeriod p * d.portChannels p) 0)) ∧
      ∀ x, (F x).underrun = true ∧ (F x).underruns = bump x.underruns ∧ (F x).index = BitVec.ofNat 64 x.due ∧
        (F x).due = x.due + d.portPeriod p := by
  unfold Dev.fetchLead
  dsimp only
  rw [if_neg (by simp [hout, hrun]), hfound, hnew]
  simp only [Option.isSome_none, Option.isNone_none, Bool.false_and, Bool.true_and, Bool.true_or, Bool.false_eq_true, if_false,
    if_true, Option.getD_none, if_neg (Nat.not_lt.mpr h24), ite_self]
  refine ⟨_, congrArg (fun fs => Dev.emit _ (.audio p fs)) (frames_of_silence _ _ fun k w hw => ?_),
    fun x => ⟨rfl, rfl, rfl, rfl⟩⟩
  obtain ⟨x, hx, rfl⟩ := List.mem_map.mp hw
  have hzero : x.1 = 0 := by
    obtain ⟨f, hf, hfx⟩ := List.mem_map.mp (List.fst_mem_of_mem_zipIdx hx)
    rw [← hfx, List.eq_of_mem_replicate hf]
    exact getD_zero (fun w hw => List.eq_of_mem_replicate hw) k
  rw [hzero, gained_zero, wordOf_zero, ite_self]

/-! ### AES3 receivers (R468) -/

theorem bumpBy_zero {n : Nat} (c : BitVec n) : bumpBy c 0 = c := by
  unfold bumpBy
  rw [Nat.add_zero, if_pos c.isLt, BitVec.ofNat_toNat, BitVec.setWidth_eq]

/-- Two good blocks are stored. -/
theorem Dev.aes3Block_good (d : Dev) (n : Nat) {a b : List Byte} (ha : a.length = 24) (hb : b.length = 24)
    (hga : statusGood a = true) (hgb : statusGood b = true) : ∃ st : BitVec 16 → BitVec 16, d.aes3Block n true a b =
      d.onPortI (16 + n) fun x => { x with goodCs := a ++ b, status := st x.status } := by
  unfold Dev.aes3Block
  simp only [Bool.not_true, Bool.false_eq_true, if_false, padTo_of_length ha, padTo_of_length hb, hga, hgb, if_true,
    List.countP_cons, List.countP_nil, Nat.add_zero, bumpBy_zero]
  exact ⟨fun st => if a ++ b = padTo 48 (d.portI (16 + n)).goodCs then st else st ||| 32, rfl⟩

/-! ### Steering (R471) -/

/-- The transmit domain after an update with error `e` and the unclamped control value `c`. -/
def DomainSt.steered (e c : Int) (m : DomainSt) : DomainSt :=
  let run := if e.natAbs < steerUnit then m.lockRun + 1 else 0
  let beyond := decide (c < 0) || decide (0xFFFF < c)
  { m with control := BitVec.ofNat 16 (clampI 0 0xFFFF c).toNat, error := e, integral := m.integral + e, lockRun := run,
           steerLocked := decide (1000 ≤ run), clamped := m.clamped || beyond, atLimit := beyond }

/-- The marks, reports and events of an update: of a control value that reaches its limit, and of a lock. -/
def Dev.steerTold (d : Dev) (m : DomainSt) (beyond locked : Bool) (ns : Nat) : Dev :=
  let d := if beyond then d.mark 0x11400 3 else d
  let d := if beyond && !m.atLimit then (d.report 0x0081 (endpoint 0x11 28) ns []).domainEvent 0 ns else d
  if locked && !m.steerLocked then d.domainEvent 0 ns else d

theorem Dev.steerTold_spec (d : Dev) (m : DomainSt) (beyond locked : Bool) (ns : Nat) :
    (d.steerTold m beyond locked ns).audio = d.audio ∧ (beyond = true → m.atLimit = false →
      (d.steerTold m beyond locked ns).faults.reports = d.faults.reports ++
        [⟨0x0081, ns, d.time.epoch.toNat, endpoint 0x11 28, []⟩]) := by
  unfold Dev.steerTold
  refine ⟨Eq.trans (ite_keeps (·.audio) _ rfl rfl) (Eq.trans (ite_keeps (·.audio) _ rfl rfl)
    (ite_keeps (·.audio) _ rfl rfl)), fun hb hm => ?_⟩
  rw [hb, hm]
  exact ite_keeps (·.faults.reports) _ rfl rfl

/-- An update whose error is `e`: the domain's new state, and the report of a control value at its limit. -/
theorem Dev.steer_spec {d : Dev} {tx cyc : Nat} {e : Int} (h0 : 0 < d.audio.domains.length)
    (herr : d.steerError tx cyc = some e) (c : Int) (hc : c = 0x8000 + roundAway ((u16 (d.par (pkey 0x11 28 3)) 0 : Int) * e +
      u16 (d.par (pkey 0x11 28 3)) 2 * ((d.domI 0).integral + e)) (256 * steerUnit)) :
    (d.steer tx cyc).domI 0 = (d.domI 0).steered e c ∧
    (c < 0 ∨ 0xFFFF < c → (d.domI 0).atLimit = false → (d.steer tx cyc).faults.reports = d.faults.reports ++
      [⟨0x0081, d.nsAt cyc, d.time.epoch.toNat, endpoint 0x11 28, []⟩]) := by
  obtain ⟨f, locked, heq, hf⟩ : ∃ (f : DomainSt → DomainSt) (locked : Bool), d.steer tx cyc =
      (d.onDomI 0 f).steerTold (d.domI 0) (decide (c < 0) || decide (0xFFFF < c)) locked (d.nsAt cyc) ∧
        f (d.domI 0) = (d.domI 0).steered e c := by
    rw [Dev.steer, herr, hc]
    exact ⟨_, _, rfl, rfl⟩
  obtain ⟨haudio, hreport⟩ := (d.onDomI 0 f).steerTold_spec (d.domI 0) (decide (c < 0) || decide (0xFFFF < c)) locked
    (d.nsAt cyc)
  rw [heq]
  refine ⟨?_, fun hout hlim => hreport (by simpa using hout) hlim⟩
  have hdom : ((d.onDomI 0 f).steerTold (d.domI 0) (decide (c < 0) || decide (0xFFFF < c)) locked (d.nsAt cyc)).domI 0 =
      (d.onDomI 0 f).domI 0 := congrArg (·.domains.getD 0 (DomainSt.reset 0)) haudio
  rw [hdom, d.domI_onDomI_same f h0, hf]

/-- A control value clamped to 16 bits. -/
theorem toNat_clamped (c : Int) : ((BitVec.ofNat 16 (clampI 0 0xFFFF c).toNat).toNat : Int) = max 0 (min 0xFFFF c) := by
  rw [BitVec.toNat_ofNat]
  unfold clampI
  split
  · omega
  · split
    · omega
    · omega

/-- The period boundary of an input. -/
theorem audioPeriodBoundary_cases : ∀ (s : State) (p : Fin 28) (l : List Word) (cyc : Nat), s.dev.audio.ports.length = 28 →
      (isOut p = true ∨ (s.dev.portI p).running = false → exec (.audioPeriodBoundary p l cyc) s = .next s) ∧
      (isOut p = false ∨ (s.dev.portI p).running = false → exec (.audioFetchLead p cyc) s = .next s) ∧
      (isOut p = false → (s.dev.portI p).running = true → ∃ t : State, exec (.audioPeriodBoundary p l cyc) s = .next t ∧
        (t.dev.portI p).index = (s.dev.portI p).index + BitVec.ofNat 64 (s.dev.portPeriod p) ∧
        (t.dev.portI p).since = s.dev.timeAt cyc ∧ (t.dev.portI p).running = true ∧
        (t.dev.portI p).pendGain = [] ∧ (t.dev.portI p).fillPos = 0) := by
  intro s p l cyc hlen
  have hp : p.val < s.dev.audio.ports.length := Nat.lt_of_lt_of_eq p.isLt hlen.symm
  refine ⟨fun hno => next_withDev (d' := s.dev) (if_pos ?_), fun hno => next_withDev (d' := s.dev) (if_pos ?_),
    fun hin hrun => ?_⟩
  · rcases hno with h | h <;> simp [h]
  · rcases hno with h | h <;> simp [h]
  · obtain ⟨e, heq, htime, F, haudio, hF⟩ := Dev.periodEnds_eq (d := s.dev) l cyc hin hrun
    have hx : e.portI p = F (s.dev.portI p) := (Dev.portI_congr haudio p).trans (s.dev.portI_onPortI_same F hp)
    have hpe : p.val < e.audio.ports.length :=
      Nat.lt_of_lt_of_eq hp ((congrArg (·.ports.length) haudio).trans (s.dev.length_onPortI p F)).symm
    obtain ⟨st, hst⟩ := Dev.openPeriod_port hpe (e.timeAt cyc)
    rw [hx] at hst
    obtain ⟨h1, h2, h3, h4⟩ := hF (s.dev.portI p)
    refine ⟨_, next_withDev heq, (congrArg PortSt.index hst).trans h1, (congrArg PortSt.since hst).trans ?_,
      (congrArg PortSt.running hst).trans (h2.trans hrun), (congrArg PortSt.pendGain hst).trans h3,
      (congrArg PortSt.fillPos hst).trans h4⟩
    show e.time.dev + cyc * e.time.addend.toNat = _
    rw [htime]
    rfl

/-- A running output with nothing to play sends zeros. -/
theorem audioFetchLead_underrun : ∀ (s : State) (p : Fin 28) (cyc : Nat), (p = 25 ∨ p = 27) → s.dev.audio.ports.length = 28 →
      (s.dev.portI p).running = true → (s.dev.portI p).source = 0xFFFF → (s.dev.portI p).newSource = none →
      (s.dev.ringI (ringAudio + p)).bufs = [] → ∃ t : State, exec (.audioFetchLead p cyc) s = .next t ∧
        t.dev.out = .audio p (List.replicate (s.dev.portPeriod p * s.dev.portChannels p) 0) :: s.dev.out ∧
        (t.dev.portI p).underrun = true ∧ (t.dev.portI p).underruns = bump (s.dev.portI p).underruns ∧
        (t.dev.portI p).index = BitVec.ofNat 64 (s.dev.portI p).due ∧
        (t.dev.portI p).due = (s.dev.portI p).due + s.dev.portPeriod p ∧
        (252 + p.val, s.dev.nsAt cyc, s.dev.time.epoch.toNat) ∈ t.dev.evt.raised := by
  intro s p cyc hport hlen hrun hsrc hnew hbufs
  have hp : p.val < s.dev.audio.ports.length := Nat.lt_of_lt_of_eq p.isLt hlen.symm
  have hkind : isOut p = true ∧ 24 ≤ p.val := by
    rcases hport with rfl | rfl <;> decide
  obtain ⟨F, heq, hF⟩ := Dev.fetchLead_silent (cyc := cyc) hkind.1 hkind.2 hrun hnew (by
    rw [hsrc, Dev.findPeriod_empty hbufs, ite_self])
  have hx := s.dev.portI_onPortI_same F hp
  obtain ⟨h1, h2, h3, h4⟩ := hF (s.dev.portI p)
  exact ⟨_, next_withDev heq, rfl, (congrArg PortSt.underrun hx).trans h1, (congrArg PortSt.underruns hx).trans h2,
    (congrArg PortSt.index hx).trans h3, (congrArg PortSt.due hx).trans h4, List.mem_append_right _ List.mem_cons_self⟩

/-- A channel takes its pending gain at the timeout. -/
theorem zeroCrossingTimeout_cases : ∀ (s : State) (p : Fin 28) (ch : Fin 16), s.dev.audio.ports.length = 28 → (s.dev.portI p).newSource = none →
      ((∀ y ∈ (s.dev.portI p).pendGain, y.1 ≠ ch.val) ∨ isOut p = false →
        exec (.zeroCrossingTimeout p ch) s = .next s) ∧
      ∀ g m, isOut p = true → (s.dev.portI p).pendGain = [(ch.val, g, m)] → (s.dev.portI p).gainNow.length = 16 →
        ∃ t : State, exec (.zeroCrossingTimeout p ch) s = .next t ∧ (t.dev.portI p).gain ch = (g, m) ∧
          (t.dev.portI p).pendGain = [] ∧ (t.dev.portI p).zcTimeouts = bump (s.dev.portI p).zcTimeouts := by
  intro s p ch hlen hnew
  have hp : p.val < s.dev.audio.ports.length := Nat.lt_of_lt_of_eq p.isLt hlen.symm
  refine ⟨fun hno => next_withDev (d' := s.dev) (if_neg ?_), fun g m hout hpend hgain => ?_⟩
  · rcases hno with h | h
    · have hany : ((s.dev.portI p).pendGain.any fun y => y.1 == ch.val) = false :=
        List.any_eq_false.mpr fun y hy => by simpa using h y hy
      simp [hnew, hany]
    · simp [h]
  · have hport := s.dev.portI_onPortI_same (fun x =>
      { x with zcTimeouts := bump x.zcTimeouts,
               gainNow := match x.pendGain.find? fun y => y.1 == ch.val with
                 | some (_, g, m) => x.gainNow.set ch (g, m)
                 | none => x.gainNow,
               pendGain := x.pendGain.filter fun y => y.1 != ch.val,
               switched := if ((s.dev.portI p).newSource.isSome && !(s.dev.portI p).switched.contains ch.val &&
                 decide (ch.val < s.dev.portChannels p)) then x.switched ++ [ch.val] else x.switched }) hp
    refine ⟨_, next_withDev (if_pos (by simp [hout, hpend])), (congrArg (PortSt.gain · ch.val) hport).trans ?_,
      (congrArg PortSt.pendGain hport).trans ?_, congrArg PortSt.zcTimeouts hport⟩
    · simp [PortSt.gain, hpend, hgain]
    · simp [hpend]

/-- Clock windows off and nominal. -/
theorem audioClockWindow_cases : ∀ (s : State) (c : AudioClock) (cyc : Nat), s.dev.audio.ports.length = 28 → s.dev.audio.domains.length = 2 →
      (s.dev.offRun c + 1 ≠ 10 → exec (.audioClockWindow c .off cyc) s =
        .next (s.withDev (s.dev.setOffRun c (s.dev.offRun c + 1)))) ∧
      (s.dev.offRun c + 1 = 10 → ∃ t : State, exec (.audioClockWindow c .off cyc) s = .next t ∧
        (∀ p, p ∈ clockPorts c → (t.dev.portI p).running = false) ∧
        (∀ p, p ∈ clockPorts c → (s.dev.portI p).running = true →
          (t.dev.portI p).rateWrong = true ∧ (t.dev.portI p).needEnable = true) ∧
        ∃ r ∈ t.dev.faults.reports, r.cls = 0x0080 ∧ r.detail = [clockCode c]) ∧
      (s.dev.offRun c ≠ 1 → (∀ n, c = .aes3 n → exec (.audioClockWindow c .nominal cyc) s =
          .next (s.withDev (s.dev.setOffRun c 0))) ∧
        ((∀ n, c ≠ .aes3 n) → ∃ t : State, exec (.audioClockWindow c .nominal cyc) s = .next t ∧ t.dev.offRun c = 0 ∧
          (t.dev.domI (clockCode c)).clockOk = true ∧ ∀ p, p ∈ clockPorts c → (t.dev.portI p).locked = true)) ∧
      (s.dev.offRun c = 1 → ∃ t : State, exec (.audioClockWindow c .nominal cyc) s = .next t ∧ t.dev.offRun c = 0 ∧
        ∀ p, p ∈ clockPorts c → (t.dev.portI p).glitches =
          if (s.dev.portI p).running = true ∧ isOut p = false then bump (s.dev.portI p).glitches
          else (s.dev.portI p).glitches) := by
  intro s c cyc hlen hdom
  have hrun := Dev.setOffRun_run hlen hdom c
  have hdom' : ∀ k, (s.dev.setOffRun c k).audio.domains.length = 2 := fun k => by
    cases c with
    | tx => exact (length_upd _ _ _).trans hdom
    | rx => exact (length_upd _ _ _).trans hdom
    | aes3 n => exact hdom
  have hlen' : ∀ k, (s.dev.setOffRun c k).audio.ports.length = 28 := fun k => (s.dev.setOffRun_port c k 0).1.trans hlen
  refine ⟨fun hne => next_withDev (if_neg hne), fun heq => ?_, fun hne => ⟨fun n hc => ?_, fun hc => ?_⟩, fun heq => ?_⟩
  · obtain ⟨hports, hreport⟩ := Dev.rateChanges_spec (d := s.dev.setOffRun c (s.dev.offRun c + 1)) (hlen' _) c cyc
    refine ⟨_, next_withDev (if_pos heq), fun p hp => (hports p hp).1, fun p hp hr => (hports p hp).2 ?_, hreport⟩
    exact (s.dev.setOffRun_port c _ p).2.1.trans hr
  · subst hc
    exact next_withDev (if_neg hne)
  · obtain ⟨h1, h2, -, -⟩ := Dev.clockThere_spec (d := s.dev.setOffRun c 0) (hlen' _) (hdom' _) c
    exact ⟨_, next_withDev (if_neg hne), h2.trans (hrun 0), (h1 hc).1, (h1 hc).2⟩
  · obtain ⟨-, h2, h3, h4⟩ := Dev.clockThere_spec (d := s.dev.setOffRun c 0) (hlen' _) (hdom' _) c
    obtain ⟨e, he⟩ : ∃ e, e = (s.dev.setOffRun c 0).clockThere c := ⟨_, rfl⟩
    rw [← he] at h2 h3 h4
    obtain ⟨-, hother, hsame⟩ := (glitched_step cyc).each (l := (clockPorts c).filter fun p => (e.portI p).running && !isOut p)
      ((clockPorts_nodup c).filter _) e
    have hwin : s.dev.clockWindow c .nominal cyc = e.each ((clockPorts c).filter fun p => (e.portI p).running && !isOut p)
        (Dev.glitched cyc) := by
      rw [he]
      exact if_pos heq
    refine ⟨_, next_withDev hwin, ?_, fun p hp => ?_⟩
    · refine (Dev.offRun_congr (Dev.each_keeps (·.audio.domains) (f := Dev.glitched cyc) _ _ fun _ _ => rfl) c fun n hc => ?_).trans (h2.trans (hrun 0))
      by_cases hin : 16 + n.val ∈ (clockPorts c).filter fun p => (e.portI p).running && !isOut p
      · exact (hsame _ hin (by omega)).2
      · exact congrArg PortSt.offRun (hother _ hin)
    · obtain ⟨hr, hg⟩ := h4 p hp
      obtain ⟨-, hr', hg'⟩ := s.dev.setOffRun_port c 0 p
      by_cases hcond : (s.dev.portI p).running = true ∧ isOut p = false
      · rw [if_pos hcond]
        have hin : p ∈ (clockPorts c).filter fun p => (e.portI p).running && !isOut p :=
          List.mem_filter.mpr ⟨hp, by simp [hr, hr', hcond]⟩
        refine ((hsame p hin (Nat.lt_of_lt_of_eq (clockPorts_lt hp) h3.symm)).1).trans ?_
        rw [hg, hg']
      · rw [if_neg hcond]
        refine (congrArg PortSt.glitches (hother p fun hin => hcond ?_)).trans (hg.trans hg')
        have := (List.mem_filter.mp hin).2
        simpa [hr, hr'] using this

/-- The stored block of a locked receiver. -/
theorem readAes3ChannelStatus_cases : ∀ (s : State) (k : Docket), s.dev.runsHere k [(8, 8)] →
      (3 < u8 k.bytes 8 → exec (.readAes3ChannelStatus k) s = .next (s.after k fun d => d.finish k 0x0203)) ∧
      (u8 k.bytes 8 ≤ 3 →
        ((s.dev.portI (16 + u8 k.bytes 8)).locked = false →
          exec (.readAes3ChannelStatus k) s = .next (s.after k fun d => d.finish k 0x8701)) ∧
        ((s.dev.portI (16 + u8 k.bytes 8)).locked = true →
          exec (.readAes3ChannelStatus k) s = .next (s.after k fun d =>
            d.finish k 0 (padTo 24 (s.dev.portI (16 + u8 k.bytes 8)).goodCs)))) := by
  intro s k h
  have hrun : ∀ work, s.dev.readChannelStatus k = s.dev.runDocket k [(8, 8)] work → exec (.readAes3ChannelStatus k) s =
      .next (s.after k work) := fun work hw =>
    congrArg Host.Outcome.next ((congrArg (fun d => { s with dev := d }) hw).trans (State.after_of_runsHere h work))
  have hport : ∀ p, (s.dev.begin k).portI p = s.dev.portI p := fun p => by
    obtain ⟨q, c, hb⟩ := s.dev.begin_eq k
    rw [hb]
    rfl
  refine ⟨fun hn => (hrun _ rfl).trans (congrArg Host.Outcome.next (State.after_congr ?_)), fun hn => ⟨fun hl =>
    (hrun _ rfl).trans (congrArg Host.Outcome.next (State.after_congr ?_)), fun hl =>
    (hrun _ rfl).trans (congrArg Host.Outcome.next (State.after_congr ?_))⟩⟩
  · exact if_pos hn
  · exact (if_neg (Nat.not_lt_of_le hn)).trans (if_pos (by rw [hport, hl]; rfl))
  · refine (if_neg (Nat.not_lt_of_le hn)).trans ((if_neg (by rw [hport, hl]; simp)).trans ?_)
    rw [hport]

/-- The control value of the steering. -/
theorem steeringUpdate_control : ∀ (s : State) (tx cyc : Nat), s.dev.audio.domains.length = 2 →
      (s.dev.parN 0x11 28 1 = 0 → exec (.steeringUpdate tx cyc) s = .next (s.withDev (s.dev.onDomI 0 fun m =>
        { m with control := BitVec.ofNat 16 (s.dev.parN 0x11 28 4), steerLocked := false, lockRun := 0, atLimit := false }))) ∧
      ∀ t0, s.dev.parN 0x11 28 1 = 1 → (s.dev.domI 0).startT = some t0 →
        let e : Int := (tx : Int) * (2 ^ 32 * 1000000000) - (s.dev.domFs 0 : Int) * ((s.dev.timeAt cyc : Int) - t0)
        let gains := s.dev.par (pkey 0x11 28 3)
        let c : Int := 0x8000 + roundAway ((u16 gains 0 : Int) * e + u16 gains 2 * ((s.dev.domI 0).integral + e))
          (256 * (2 ^ 32 * 1000000000))
        ∃ t : State, exec (.steeringUpdate tx cyc) s = .next t ∧ (t.dev.domI 0).error = e ∧
          (t.dev.domI 0).integral = (s.dev.domI 0).integral + e ∧
          ((t.dev.domI 0).control.toNat : Int) = max 0 (min 0xFFFF c) ∧
          (c < 0 ∨ 0xFFFF < c → (t.dev.domI 0).clamped = true ∧ ((s.dev.domI 0).atLimit = false →
            t.dev.faults.reports = s.dev.faults.reports ++
              [⟨0x0081, s.dev.nsAt cyc, s.dev.time.epoch.toNat, 0x111C, []⟩])) := by
  intro s tx cyc hdom
  have h0 : 0 < s.dev.audio.domains.length := by omega
  refine ⟨fun hmode => next_withDev ?_, fun t0 hmode hstart => ?_⟩
  · have hnone : s.dev.steerError tx cyc = none := by
      simp [Dev.steerError, hmode]
    rw [Dev.steer, hnone]
  · intro e gains c
    have herr : s.dev.steerError tx cyc = some e := by
      simp only [Dev.steerError, hmode, hstart, Option.map_some, steerUnit, e]
      rfl
    obtain ⟨hdomain, hreport⟩ := Dev.steer_spec h0 herr c rfl
    refine ⟨_, rfl, congrArg DomainSt.error hdomain, congrArg DomainSt.integral hdomain, ?_, fun hout => ⟨?_, fun hin => ?_⟩⟩
    · exact (congrArg (fun m : DomainSt => (m.control.toNat : Int)) hdomain).trans (toNat_clamped c)
    · refine (congrArg DomainSt.clamped hdomain).trans ?_
      have hbeyond : (decide (c < 0) || decide (0xFFFF < c)) = true := by simpa using hout
      show ((s.dev.domI 0).clamped || (decide (c < 0) || decide (0xFFFF < c))) = true
      rw [hbeyond, Bool.or_true]
    · exact hreport hout hin

/-- Settles O60. The clauses hold in states no run reaches, too, which is the model's choice (log 117), as are the glitch
of one window (log 104) and the bounds of the control value (log 106). -/
theorem audioPortsAndClocks : Obligations.AudioPortsAndClocks := by
  unfold Obligations.AudioPortsAndClocks
  refine ⟨?_, audioPeriodBoundary_cases, audioFetchLead_underrun, zeroCrossingTimeout_cases, audioClockWindow_cases,
    ?_, ?_, readAes3ChannelStatus_cases, steeringUpdate_control⟩
  · intro s p cyc hlen
    have hp : p.val < s.dev.audio.ports.length := Nat.lt_of_lt_of_eq p.isLt hlen.symm
    refine ⟨fun hno => next_withDev (d' := s.dev) (if_neg ?_), fun hon hreq hrun hneed hhalt => ?_⟩
    · rcases hno with h | h | h | h | h <;> simp [h]
    · exact ⟨_, rfl, Dev.portStart_spec hp hon hreq hrun hneed hhalt⟩
  · intro s c cyc hlen hdom
    refine ⟨⟨_, rfl, Dev.clockStops_spec hlen hdom c cyc⟩, fun missed => ⟨_, rfl, Dev.clockReturns_spec hlen hdom c missed⟩, ?_⟩
    obtain ⟨hlen', -, hport⟩ := forgetStopStep.each (clockPorts_nodup c) s.dev
    obtain ⟨hstop, hreport⟩ := Dev.stopClock_spec (d := s.dev.each (clockPorts c) fun d p =>
      d.onPortI p fun x => { x with stopAt := none }) (hlen'.trans hlen) c (s.dev.nsAt cyc)
    refine ⟨_, rfl, fun p hp => ⟨(hstop p hp).1, fun hrun => (hstop p hp).2.2 ?_⟩, hreport⟩
    exact (hport p hp (Nat.lt_of_lt_of_eq (clockPorts_lt hp) hlen.symm)).trans hrun
  · intro s n rate a b hlen
    have hp : 16 + n.val < s.dev.audio.ports.length := by omega
    refine ⟨rfl, rfl, fun ha hb hga hgb => ?_⟩
    obtain ⟨st, heq⟩ := Dev.aes3Block_good s.dev n ha hb hga hgb
    have hport := s.dev.portI_onPortI_same (fun x => { x with goodCs := a ++ b, status := st x.status }) hp
    exact ⟨_, next_withDev heq, (congrArg PortSt.goodCs hport :), (congrArg PortSt.csErrors hport :), rfl⟩

end Sys2Proof.Machine
end

section
/-!
SUPPORT. Docket commands of groups 0x0_, 0x1_ and 0x3_, doorbells, the administration queue and the host driver reset (13
R324 to R341; 14 R357, R358, R360).
-/
namespace Sys2Proof.Machine

/-! ### A docket that runs here -/

/-- Beginning a docket keeps all but the queues of dockets. -/
theorem Dev.begin_keeps {β : Type} (g : Dev → β) (d : Dev) (k : Docket) (h : ∀ q c,
    g { d with host := { d.host with sqs := q }, chain := { d.chain with queue := c } } = g d) : g (d.begin k) = g d := by
  obtain ⟨q, c, hb⟩ := d.begin_eq k
  rw [hb, h]

/-- A docket that runs here does its work on the device that has begun it. -/
theorem next_runs {s : State} {k : Docket} {used : List (Nat × Nat)} (h : s.dev.runsHere k used) {work work' : Dev → Dev}
    (hw : work (s.dev.begin k) = work' (s.dev.begin k)) :
    (Host.Outcome.next { s with dev := s.dev.runDocket k used work } : Host.Outcome State Fault Refusal) =
      .next (s.after k work') :=
  congrArg Host.Outcome.next ((State.after_of_runsHere h work).trans (State.after_congr hw))

/-- The same for a docket that runs on SQ0 only (13 R324). -/
theorem next_admin_runs {s : State} {k : Docket} {used : List (Nat × Nat)} (h : s.dev.runsHere k used) (hk : k.sq = 0)
    {work work' : Dev → Dev} (hw : work (s.dev.begin k) = work' (s.dev.begin k)) :
    (Host.Outcome.next { s with dev := s.dev.onAdmin k used work } : Host.Outcome State Fault Refusal) =
      .next (s.after k work') :=
  next_runs h ((if_pos hk).trans hw)

theorem Dev.begin_cqI (d : Dev) (k : Docket) (n : Nat) : (d.begin k).cqI n = d.cqI n :=
  d.begin_keeps (·.cqI n) k fun _ _ => rfl

theorem Dev.begin_enabled (d : Dev) (k : Docket) (n : Nat) : ((d.begin k).sqI n).enabled = (d.sqI n).enabled := by
  obtain ⟨l, h⟩ := d.begin_sqI k n
  rw [h]

theorem Dev.begin_deleting (d : Dev) (k : Docket) (n : Nat) : ((d.begin k).sqI n).deleting = (d.sqI n).deleting := by
  obtain ⟨l, h⟩ := d.begin_sqI k n
  rw [h]

theorem any_upd {α : Type} {p : α → Bool} (l : List α) (i : Nat) {f : α → α} (h : ∀ x, p (f x) = p x) :
    (upd l i f).any p = l.any p := by
  unfold upd
  induction l generalizing i with
  | nil => simp
  | cons a l ih =>
    cases i with
    | zero => simp [h]
    | succ i => simp [ih]

theorem Dev.begin_bound (d : Dev) (k : Docket) (n : Nat) : (d.begin k).bound n = d.bound n := by
  unfold Dev.begin
  split
  · exact any_upd d.host.sqs k.sq fun _ => rfl
  · split <;> rfl

/-! ### Queue dockets (14 R357) -/

/-- Settles O9. -/
theorem queueDocketsComplete : Obligations.QueueDocketsComplete := by
  unfold Obligations.QueueDocketsComplete
  refine ⟨fun s k h => next_runs h rfl, fun s k h hk hst hcount hoff => next_admin_runs h hk ?_,
    fun s k h hk hlo hhi hon hfree => next_admin_runs h hk ?_, fun s k h hk hflag hst hcls hoff hon => next_admin_runs h hk ?_,
    fun s k h hk hlo hhi hon hdel => next_admin_runs h hk ?_⟩
  · rw [if_neg (not_not_intro hst), if_neg hcount, if_neg (by rw [Dev.begin_cqI, hoff]; simp)]
    rfl
  · rw [if_neg (by omega), if_neg]
    have hbound : s.dev.bound (u8 k.bytes 22) = false := by
      refine List.any_eq_false.mpr fun q hq => ?_
      simpa using hfree q hq
    rw [Dev.begin_cqI, hon, Dev.begin_bound, hbound]
    simp
  · rw [if_neg (by omega), if_neg (not_not_intro hst), if_neg (by omega), if_neg]
    rw [Dev.begin_enabled, Dev.begin_cqI, hoff, hon]
    simp
  · rw [if_neg (by omega), if_neg]
    rw [Dev.begin_enabled, Dev.begin_deleting, hon, hdel]
    simp

theorem Dev.mapStatus_zero {d : Dev} {n off : Nat} {p : Pool} (hp : d.pool n = some p) (hoff : off * 2 ^ 24 < p.size) :
    d.mapStatus n off = 0 := by
  rw [Dev.mapStatus, hp]
  exact if_neg (Nat.not_le.mpr hoff)

/-- Settles O11. -/
theorem moderationAndApertureDockets : Obligations.ModerationAndApertureDockets := by
  unfold Obligations.ModerationAndApertureDockets
  refine ⟨fun s k h hk hv hq hc hon => next_admin_runs h hk ?_, fun s k p h hk hi hn hp hoff => next_admin_runs h hk ?_,
    fun s k h hk hi => next_admin_runs h hk (if_neg (by omega)), fun d k cq v c t hon => rfl, fun d k i => rfl,
    fun d k i n off p hp hoff => ?_⟩
  · rw [if_neg (by omega), if_neg hc, if_neg (by rw [Dev.begin_cqI, hon]; simp)]
    rfl
  · have hmap : (s.dev.begin k).mapStatus (u16 k.bytes 10) (u32 k.bytes 12) = 0 :=
      (Dev.begin_keeps (fun d => d.mapStatus (u16 k.bytes 10) (u32 k.bytes 12)) _ k fun _ _ => rfl).trans
        (Dev.mapStatus_zero hp hoff)
    rw [if_neg (by omega), if_neg (not_not_intro hmap)]
    rfl
  · exact if_neg (not_not_intro (Dev.mapStatus_zero hp hoff))

/-- Settles O14. -/
theorem identifyAndBufferDockets : Obligations.IdentifyAndBufferDockets := by
  unfold Obligations.IdentifyAndBufferDockets
  refine ⟨fun s k h ha hlen => next_runs h ?_, fun s k ring h hslot hkey hring hend hpar => next_runs h ?_,
    fun s k ring b h hslot hkey hring hend hpar hheld => next_runs h ?_⟩
  · exact (if_neg (not_not_intro ha)).trans (if_neg (Nat.not_lt.mpr hlen))
  · have hslots : ¬(((((s.dev.begin k).ringI ring).slots.getD (u8 k.bytes 28) Slot.none).endpoint ≠ 0xFFFF) ∨
        ((s.dev.begin k).par (u32 k.bytes 24)).isEmpty = true) := by
      rw [Dev.begin_keeps (·.ringI ring) _ k fun _ _ => rfl, Dev.begin_keeps (·.par _) _ k fun _ _ => rfl]
      simp only [hend, List.isEmpty_iff, hpar, ne_eq, not_true_eq_false, or_self, not_false_eq_true]
    dsimp only
    rw [hring, Option.getD_some, if_neg (by rw [hkey]; decide), if_neg (Nat.not_lt.mpr hslot), if_neg (not_not_intro hkey)]
    exact if_neg hslots
  · have hpar' : ¬((s.dev.begin k).par (u32 k.bytes 24)).isEmpty = true := by
      rw [Dev.begin_keeps (·.par _) _ k fun _ _ => rfl, List.isEmpty_iff]
      exact hpar
    have hend' : ¬(((s.dev.begin k).ringI ring).slots.getD (u8 k.bytes 28) Slot.none).endpoint ≠ 0xFFFF := by
      rw [Dev.begin_keeps (·.ringI ring) _ k fun _ _ => rfl]
      exact not_not_intro hend
    have hheld' : ((s.dev.begin k).ringI ring).heldBy (u8 k.bytes 28) (u8 k.bytes 29) = some b := by
      rw [Dev.begin_keeps (·.ringI ring) _ k fun _ _ => rfl]
      exact hheld
    dsimp only
    rw [hring, Option.getD_some, if_neg (by rw [hkey]; decide), if_neg (Nat.not_lt.mpr hslot), if_neg (not_not_intro hkey),
      if_neg hpar', if_neg hend', hheld']

/-! ### Copies and parameter reads (14 R351, R357, R358, R360) -/

theorem Dev.copyStatus_keeps (d : Dev) (k : Docket) (f : HostSt → HostSt) : (d.onHost f).copyStatus k = d.copyStatus k := rfl

/-- The answer of the host to the first docket that waits for data. -/
theorem Dev.takeWait_first {d : Dev} {w : Waiting} {rest : List Waiting} (h : d.host.waitData = w :: rest) :
    d.takeWait w.d.sq w.d.idx = some (w, d.onHost fun h => { h with waitData := rest }) := by
  rw [Dev.takeWait, h]
  simp [takeFirst]

/-- Settles O15 (that the receipt of a copy waits for rank 8 is the model's choice, log 19). -/
theorem copyDocketAndHostData : Obligations.CopyDocketAndHostData := by
  unfold Obligations.CopyDocketAndHostData
  refine ⟨fun s k h ha hlo hhi hmod hpool hcopy => ?_, fun s k data addr len rest hk hop hwait hdata hcopy => next_withDev ?_,
    fun s k addr len rest hk hop hwait => next_withDev ?_⟩
  · have hstatus : (s.dev.begin k).copyStatus k = 0 :=
      (Dev.begin_keeps (·.copyStatus k) _ k fun _ _ => rfl).trans hcopy
    have hlen : ¬(u32 k.bytes 16 < 4 ∨ 2 ^ 24 < u32 k.bytes 16 ∨ u32 k.bytes 16 % 4 ≠ 0) := by omega
    refine ⟨fun hto => next_runs h ?_, fun hto => next_runs h ?_⟩
    · dsimp only
      rw [if_neg (not_not_intro ha), if_neg hlen, if_neg (Nat.not_le.mpr hpool), if_neg (by omega), if_neg (not_not_intro hstatus),
        if_neg (by omega)]
    · dsimp only
      rw [if_neg (not_not_intro ha), if_neg hlen, if_neg (Nat.not_le.mpr hpool), if_neg (by omega), if_neg (not_not_intro hstatus),
        if_pos hto]
  · unfold Dev.hostData
    rw [Dev.takeWait_first hwait]
    simp only [hop, padTo_of_length hdata]
    exact if_neg (not_not_intro hcopy)
  · unfold Dev.hostDataFailed
    rw [Dev.takeWait_first hwait]
    simp only [hop]

/-- Settles O16. -/
theorem parameterReadDockets : Obligations.ParameterReadDockets := by
  unfold Obligations.ParameterReadDockets
  refine ⟨fun s k h hkey => next_runs h (if_neg (not_not_intro hkey)), fun s k h ha hlo hhi hkey hoff => next_runs h ?_,
    fun s k f h hf => next_runs h ?_, fun s k h ha hlen hp hdesc => next_runs h ?_,
    fun s k data h ha hlo hhi hp hdie hdata hne => next_runs h ?_⟩
  · have hoff' : ¬((s.dev.begin k).readPar (u32 k.bytes 24)).length ≤ u32 k.bytes 28 := by
      rw [Dev.begin_keeps (·.readPar _) _ k fun _ _ => rfl]
      omega
    dsimp only
    rw [if_neg (not_not_intro ha), if_neg (by omega), if_neg (not_not_intro hkey), if_neg hoff']
  · dsimp only
    rw [hf]
  · have hdesc' : ¬((s.dev.begin k).capI (u8 k.bytes 24)).desc.isEmpty = true := by
      rw [Dev.begin_keeps (·.capI _) _ k fun _ _ => rfl, List.isEmpty_iff]
      exact hdesc
    exact (if_neg (not_not_intro ha)).trans ((if_neg (Nat.not_lt.mpr hlen)).trans ((if_neg (by omega)).trans (if_neg hdesc')))
  · have hdie' : ¬(8 ≤ u8 k.bytes 24 ∨ (s.dev.begin k).parN 0x05 (u8 k.bytes 24) 1 ≤ u8 k.bytes 25) := by
      rw [Dev.begin_keeps (·.parN _ _ _) _ k fun _ _ => rfl]
      omega
    have hdata' : (((s.dev.begin k).capI (u8 k.bytes 24)).embed.getD (u8 k.bytes 25) []).take (u32 k.bytes 16) = data := by
      rw [Dev.begin_keeps (·.capI _) _ k fun _ _ => rfl, hdata]
    dsimp only
    rw [if_neg (not_not_intro ha), if_neg (by omega), if_neg hdie', hdata', if_neg (by simpa using hne)]

/-! ### Doorbells, fetches and the administration queue (13 R325 to R327, R335, R338, R341) -/

/-- Settles O18. -/
theorem doorbellWrites : Obligations.DoorbellWrites := by
  unfold Obligations.DoorbellWrites
  refine ⟨fun q v cyc s hon hdel hlt => next_withDev ?_, fun q v cyc s hon hdel hge => next_withDev ?_,
    fun q v cyc s hon hlt hused => next_withDev ?_, fun q v cyc s hon hbad => next_withDev ?_, fun d n v hlog => ?_,
    fun d n v hon => if_pos hon⟩
  · exact (if_neg (by simp [hon, hdel])).trans (if_neg (Nat.not_le.mpr hlt))
  · exact (if_neg (by simp [hon, hdel])).trans (if_pos hge)
  · exact (if_neg (by simp [hon])).trans (if_neg (by omega))
  · exact (if_neg (by simp [hon])).trans (if_pos hbad)
  · refine ⟨{ d.tick with w1c := (32 * 0x0008 + 4) :: d.tick.w1c }, ?_, rfl⟩
    unfold Dev.badDoorbell Dev.deadLetter Dev.mark Dev.onTick Dev.onHost
    dsimp only
    rw [if_pos hlog]

/-- A device in which one queue, of class 1, has one docket left to fetch. -/
def Dev.oneWaiting : Dev :=
  { Dev.reset with host := { Dev.reset.host with
      ready := true, power := .d0
      sqs := upd Dev.reset.host.sqs 0 fun q => { q with enabled := true, entries := 4, limit := 1, cls := 1 }
      cqs := upd Dev.reset.host.cqs 0 fun q => { q with enabled := true, entries := 4 } } }

theorem oneWaiting_arbitrate : Dev.oneWaiting.arbitrate = some (0, [7, 4, 1]) := by decide

/-- The fetch of the last docket ends the round, and the next one starts with whole shares. -/
theorem oneWaiting_failed_shares : (Dev.oneWaiting.fetchOne none).host.shares = [8, 4, 1] := by decide

/-- Refutes O19: a fetch that leaves no queue ready also ends the round of arbitration (R333, `Dev.roundOver`), which gives the
next round its whole shares; the state that the statement names keeps what was left of the old round. Here one queue of class 1
has one docket, whose fetch fails: 8 shares of the class are left, and the statement says 7. -/
theorem not_docketFetch : ¬ Obligations.DocketFetch := by
  unfold Obligations.DocketFetch
  intro h
  obtain ⟨-, hfailed⟩ := h { State.reset with dev := Dev.oneWaiting } 0 [7, 4, 1] (List.replicate 64 0) rfl rfl (by decide)
    oneWaiting_arbitrate rfl rfl
  have hstep := Host.Outcome.next.inj (hfailed (by decide))
  have hshares : (Dev.oneWaiting.fetchOne none).host.shares = _ := congrArg (fun t : State => t.dev.host.shares) hstep
  rw [oneWaiting_failed_shares] at hshares
  exact absurd hshares (by decide)

/-! ### The host driver reset and the administration queue (13 R335, R338, R341) -/

theorem Dev.dropQueue_enabled (d : Dev) (n m : Nat) (keep : Bool) :
    ((d.dropQueue n keep).sqI m).enabled = (decide (m ≠ n) && (d.sqI m).enabled) := by
  have hmap : ∀ (l : List SubQ) (f : Docket → Docket),
      ((l.map fun q => { q with deleting := q.deleting.map f }).getD m SubQ.none).enabled = (l.getD m SubQ.none).enabled := by
    intro l f
    simp only [List.getD_eq_getElem?_getD, List.getElem?_map]
    cases l[m]? <;> rfl
  refine (hmap _ (orphanName (some n))).trans ?_
  by_cases hmn : m = n
  · subst hmn
    by_cases hlt : m < d.host.sqs.length
    · refine (congrArg SubQ.enabled (getD_upd_same _ _ _ _ hlt)).trans ?_
      simp [SubQ.none]
    · rw [getD_of_length_le (by simpa [length_upd] using hlt)]
      simp [SubQ.none]
  · refine (congrArg SubQ.enabled (getD_upd_other _ _ _ _ _ hmn)).trans ?_
    simp [hmn, Dev.sqI]

theorem Dev.each_dropQueue_enabled (l : List Nat) (d : Dev) (m : Nat) :
    ((d.each l fun d n => d.dropQueue n true).sqI m).enabled = (decide (m ∉ l) && (d.sqI m).enabled) := by
  induction l generalizing d with
  | nil => simp [Dev.each]
  | cons n l ih =>
    rw [Dev.each_cons, ih, Dev.dropQueue_enabled]
    by_cases hn : m = n <;> by_cases hl : m ∈ l <;> simp [hn, hl]

theorem Dev.closePresence_keeps {β : Type} (g : Dev → β) (hhost : ∀ (b : Bool) (d : Dev), g (d.onHost fun h => { h with presOpen := b }) = g d)
    (hevt : ∀ f (d : Dev), g (d.onEvt f) = g d) (d : Dev) : g d.closePresence = g d := by
  unfold Dev.closePresence
  refine ite_keeps g _ ?_ rfl
  rw [Dev.raiseNow, Dev.raise, hevt, hhost]

theorem Dev.closePresence_presOpen (d : Dev) : d.closePresence.host.presOpen = false := by
  unfold Dev.closePresence
  split
  · rfl
  · next h => exact Bool.eq_false_iff.mpr h

theorem Dev.renameDockets_host (d : Dev) (f : Docket → Docket) : (d.renameDockets f).host =
    { d.host with waitData := d.host.waitData.map fun w => { w with d := f w.d },
                  sqs := d.host.sqs.map fun q => { q with deleting := q.deleting.map f } } := by
  simp only [Dev.renameDockets, Dev.onHost_host, Dev.onBoot_host, Dev.onChain_host, Dev.onTick_host, Dev.onBolt_host,
    Dev.onStore_host, Dev.onEnv_host]

theorem Dev.dropQueue_dlog (d : Dev) (n : Nat) (keep : Bool) : (d.dropQueue n keep).host.dlog = d.host.dlog := by
  simp only [Dev.dropQueue, Dev.onHost_host, Dev.renameDockets_host, Dev.onSqI, Dev.onCqI]

theorem Dev.dropQueue_apertures (d : Dev) (n : Nat) (keep : Bool) :
    (d.dropQueue n keep).host.apertures = d.host.apertures := by
  simp only [Dev.dropQueue, Dev.onHost_host, Dev.renameDockets_host, Dev.onSqI, Dev.onCqI]

/-- What a host driver reset clears once the queues are gone. -/
def Dev.resetCleared (d : Dev) : Dev :=
  ((d.onHost fun h =>
    { h with admEn := false, heldRcpt := [], presDue := false,
             cqs := h.cqs.map fun q => { CompQ.none with kept := q.kept } }).onEnv fun e =>
    { e with envs := e.envs.map fun x => if x.phase = .opened then Env.empty else x }).releaseHost

theorem Dev.releaseHost_host (d : Dev) : d.releaseHost.host = d.host := by
  rw [Dev.releaseHost, Dev.onAudioRings_host, Dev.onBoltRings_host, Dev.onDecRings_host, Dev.onEncRings_host,
    Dev.onTaps_host]

theorem Dev.releaseHost_env (d : Dev) : d.releaseHost.env = d.env := by
  rw [Dev.releaseHost, Dev.onAudioRings_env, Dev.onBoltRings_env, Dev.onDecRings_env, Dev.onEncRings_env, Dev.onTaps_env]

theorem Dev.resetCleared_host (d : Dev) : d.resetCleared.host =
    { d.host with admEn := false, heldRcpt := [], presDue := false,
                  cqs := d.host.cqs.map fun q => { CompQ.none with kept := q.kept } } := by
  rw [Dev.resetCleared, Dev.releaseHost_host, Dev.onEnv_host, Dev.onHost_host]

theorem Dev.resetCleared_envI (d : Dev) (n : Nat) : d.resetCleared.envI n =
    (d.env.envs.map fun x => if x.phase = .opened then Env.empty else x).getD n Env.empty := by
  rw [Dev.envI, Dev.resetCleared, Dev.releaseHost_env, Dev.onEnv_env, Dev.onHost_env]

/-- What a host driver reset does once the queues are gone. -/
def Dev.resetDone (d : Dev) : Dev :=
  let d := d.resetCleared.closePresence
  d.onHost fun h => { h with hdrBusy := d.storeBusy }

theorem Dev.driverReset_eq (d : Dev) :
    d.driverReset = (d.each (List.range 64) fun d n => d.dropQueue n true).resetDone := rfl

/-- What closing the presence window and the busy mark leave is as the cleared device has it. -/
theorem Dev.resetDone_keeps {β : Type} (g : Dev → β) (d : Dev)
    (hpres : ∀ (b : Bool) (d : Dev), g (d.onHost fun h => { h with presOpen := b }) = g d)
    (hevt : ∀ f (d : Dev), g (d.onEvt f) = g d)
    (hbusy : ∀ (b : Bool) (d : Dev), g (d.onHost fun h => { h with hdrBusy := b }) = g d) :
    g d.resetDone = g d.resetCleared :=
  (hbusy _ _).trans (Dev.closePresence_keeps g hpres hevt _)

theorem Dev.resetDone_sqI (d : Dev) (n : Nat) : d.resetDone.sqI n = d.sqI n := by
  rw [d.resetDone_keeps (·.sqI n) (fun _ _ => rfl) (fun _ _ => rfl) (fun _ _ => rfl), Dev.sqI, d.resetCleared_host]
  rfl

theorem Dev.resetDone_envI (d : Dev) (n : Nat) : d.resetDone.envI n = d.resetCleared.envI n :=
  d.resetDone_keeps (·.envI n) (fun _ _ => rfl) (fun _ _ => rfl) (fun _ _ => rfl)

theorem Dev.resetDone_admEn (d : Dev) : d.resetDone.host.admEn = false := by
  rw [d.resetDone_keeps (·.host.admEn) (fun _ _ => rfl) (fun _ _ => rfl) (fun _ _ => rfl), d.resetCleared_host]

theorem Dev.resetDone_presOpen (d : Dev) : d.resetDone.host.presOpen = false :=
  Dev.closePresence_presOpen _

theorem Dev.resetDone_dlog (d : Dev) : d.resetDone.host.dlog = d.host.dlog := by
  rw [d.resetDone_keeps (·.host.dlog) (fun _ _ => rfl) (fun _ _ => rfl) (fun _ _ => rfl), d.resetCleared_host]

theorem Dev.resetDone_apertures (d : Dev) : d.resetDone.host.apertures = d.host.apertures := by
  rw [d.resetDone_keeps (·.host.apertures) (fun _ _ => rfl) (fun _ _ => rfl) (fun _ _ => rfl), d.resetCleared_host]

/-- No envelope is open once the open ones are abandoned. -/
theorem abandoned_phase (l : List Env) (n : Nat) :
    ((l.map fun x => if x.phase = .opened then Env.empty else x).getD n Env.empty).phase ≠ .opened := by
  simp only [List.getD_eq_getElem?_getD, List.getElem?_map]
  cases l[n]? with
  | none => exact nofun
  | some x =>
    show (if x.phase = .opened then Env.empty else x).phase ≠ .opened
    split
    · exact nofun
    · next h => exact h

theorem dropOldest_of_older {now : Nat} {l : List DlogEntry} (h : ∀ e ∈ l, e.tick ≠ now) (n : Nat) :
    dropOldest now n l = l.drop n := by
  induction l generalizing n with
  | nil => cases n <;> rfl
  | cons e l ih =>
    cases n with
    | zero => rfl
    | succ n =>
      rw [dropOldest, if_neg (h e List.mem_cons_self), List.drop_succ_cons]
      exact ih (fun x hx => h x (List.mem_cons_of_mem _ hx)) n

theorem Dev.driverReset_sqI (d : Dev) (n : Nat) (hlen : d.host.sqs.length = 64) :
    (d.driverReset.sqI n).enabled = false := by
  rw [Dev.driverReset_eq, Dev.resetDone_sqI, Dev.each_dropQueue_enabled]
  by_cases hn : n < 64
  · simp [hn]
  · rw [Dev.sqI, getD_of_length_le (by omega)]
    exact Bool.and_false _

theorem Dev.driverReset_dlog (d : Dev) : d.driverReset.host.dlog = d.host.dlog := by
  rw [Dev.driverReset_eq, Dev.resetDone_dlog]
  exact Dev.each_keeps (·.host.dlog) _ d fun d n => d.dropQueue_dlog n true

theorem Dev.driverReset_apertures (d : Dev) : d.driverReset.host.apertures = d.host.apertures := by
  rw [Dev.driverReset_eq, Dev.resetDone_apertures]
  exact Dev.each_keeps (·.host.apertures) _ d fun d n => d.dropQueue_apertures n true

theorem Dev.driverReset_phase (d : Dev) (n : Nat) : (d.driverReset.envI n).phase ≠ .opened := by
  rw [Dev.driverReset_eq, Dev.resetDone_envI, Dev.resetCleared_envI]
  exact abandoned_phase _ n

theorem Dev.act_driverReset (d : Dev) : d.act .driverReset = d.driverReset := rfl

/-- Without entries for one of its two queues the administration queue stays off, and ADM_ERR is set. -/
theorem Dev.admCtrl_refused (d : Dev) {v : Nat} (h0 : bit v 0 = true) (h1 : bit v 1 = false) (hoff : d.host.admEn = false)
    (hzero : d.host.sqLast = 0 ∨ d.host.cqLast = 0) :
    d.admCtrl v = (d.onHost fun h => { h with admErr := true }).mark 0x24 1 := by
  unfold Dev.admCtrl
  simp only [h0, h1, hoff, hzero, Bool.false_and, Bool.false_eq_true, if_false, Bool.not_false, Bool.true_and, if_true]

/-- Settles O21. -/
theorem hostResetAndAdminQueue : Obligations.HostResetAndAdminQueue := by
  unfold Obligations.HostResetAndAdminQueue
  refine ⟨fun flr s => rfl, fun d n hlen => ?_, fun v s h0 h1 hoff hsq hcq => next_withDev ?_,
    fun v s h0 h1 hoff hzero => ⟨{ s.dev.tick with w1c := (32 * 0x24 + 1) :: s.dev.tick.w1c }, next_withDev ?_, rfl⟩,
    fun v s hold => next_withDev ?_⟩
  · rw [Dev.act_driverReset]
    exact ⟨d.driverReset_sqI n hlen, d.driverReset_phase n, d.driverReset_eq ▸ Dev.resetDone_admEn _,
      d.driverReset_eq ▸ Dev.resetDone_presOpen _, d.driverReset_dlog, d.driverReset_apertures⟩
  · unfold Dev.admCtrl
    simp only [h0, h1, hoff, hsq, hcq, Bool.false_and, Bool.false_eq_true, if_false, Bool.not_false, Bool.true_and, if_true, or_self]
  · exact s.dev.admCtrl_refused h0 h1 hoff hzero
  · rw [Dev.dlogClear, Dev.onHost, dropOldest_of_older hold]
    rfl

end Sys2Proof.Machine
end

section
/-!
SUPPORT. The dockets that open, fill, abandon and withdraw an envelope (03 R66, R68, R81; 14 R359).
-/
namespace Sys2Proof.Machine

theorem Dev.begin_envI (d : Dev) (k : Docket) (n : Nat) : (d.begin k).envI n = d.envI n :=
  d.begin_keeps (·.envI n) k fun _ _ => rfl

theorem Dev.begin_addStatus (d : Dev) (k : Docket) (n count : Nat) : (d.begin k).addStatus n count = d.addStatus n count :=
  d.begin_keeps (·.addStatus n count) k fun _ _ => rfl

theorem Dev.begin_bulkRoom (d : Dev) (k : Docket) (l : List Member) (n : Nat) : (d.begin k).bulkRoom l n = d.bulkRoom l n :=
  d.begin_keeps (·.bulkRoom l n) k fun _ _ => rfl

theorem Dev.freeEnv_least {d : Dev} {n : Nat} (hn : n < 64) (hfree : (d.envI n).phase = .free)
    (hleast : ∀ m, m < n → (d.envI m).phase ≠ .free) : d.freeEnv = some n :=
  List.find?_range_eq_some.mpr ⟨by rw [hfree]; rfl, List.mem_range.mpr hn, fun m hm => by simpa using hleast m hm⟩

/-- An open envelope with room takes another member. -/
theorem Dev.addStatus_open {d : Dev} {n count : Nat} (hn : n < 64) (hopen : (d.envI n).phase = .opened)
    (hroom : (d.envI n).members.length + count ≤ 1024) : d.addStatus n count = 0 := by
  rw [Dev.addStatus, if_neg (Nat.not_le.mpr hn), if_neg (by rw [hopen]; decide), if_neg (Nat.not_lt.mpr hroom)]

/-- A list whose records are all right has no first bad record. -/
theorem find?_badRecord {l : List (List Byte)} (h : ∀ r ∈ l, recordStatus r = 0) :
    (l.zipIdx.find? fun r => recordStatus r.1 != 0) = none := by
  refine List.find?_eq_none.mpr fun x hx => ?_
  rw [h x.1 (List.fst_mem_of_mem_zipIdx hx)]
  decide

/-- Settles O24 (that the lowest free number is taken is the model's choice, log 24). -/
theorem envelopeMemberDockets : Obligations.EnvelopeMemberDockets := by
  unfold Obligations.EnvelopeMemberDockets
  refine ⟨fun s k n h hn hfree hleast => next_runs h ?_, fun s k h hst hn hopen hroom => next_runs h ?_,
    fun s k h hflag ha hlo hhi hadd hroom => next_runs h ?_, fun s k data addr rest hk hop hwait hadd hroom => next_withDev ?_,
    fun s k h ha hlo hhi hmod hadd => next_runs h ?_, fun s k data addr rest hk hop hwait hadd hrec => next_withDev ?_,
    fun s k h hn hopen => next_runs h ?_⟩
  · have hnum : (s.dev.begin k).freeEnv = some n :=
      (s.dev.begin_keeps (·.freeEnv) k fun _ _ => rfl).trans (Dev.freeEnv_least hn hfree hleast)
    dsimp only
    rw [hnum]
  · have hadd : (s.dev.begin k).addStatus (u8 k.bytes 8) 1 = 0 :=
      (s.dev.begin_addStatus k _ _).trans (Dev.addStatus_open hn hopen hroom)
    dsimp only
    rw [if_neg (fun hc => hc.1 hst), if_neg (fun hc => hc.1 hadd), if_neg (not_not_intro hst), if_neg (not_not_intro hadd),
      Dev.addMembers, Dev.begin_envI, List.append_nil]
  · dsimp only
    rw [if_neg (by omega), if_neg (not_not_intro ha), if_neg (by omega), Dev.begin_addStatus, if_neg (not_not_intro hadd),
      Dev.begin_bulkRoom, Dev.begin_envI, hroom, if_neg (by decide), if_neg (by omega)]
  · unfold Dev.hostData
    rw [Dev.takeWait_first hwait]
    simp only [hop, padTo_of_length]
    have hroom' : ¬(!Dev.bulkRoom (s.dev.onHost fun h => { h with waitData := rest })
        (s.dev.envI (u8 k.bytes 20)).members data.length) = true := by
      rw [show Dev.bulkRoom (s.dev.onHost _) _ _ = _ from hroom]
      decide
    refine (if_neg (not_not_intro hadd)).trans ((if_neg hroom').trans ?_)
    rw [Dev.addMembers, List.append_nil]
    rfl
  · dsimp only
    rw [if_neg (not_not_intro ha), if_neg (by omega), Dev.begin_addStatus, if_neg (not_not_intro hadd)]
  · unfold Dev.hostData
    rw [Dev.takeWait_first hwait]
    simp only [hop, padTo_of_length]
    refine (if_neg (not_not_intro hadd)).trans ?_
    rw [find?_badRecord hrec]
    rfl
  · dsimp only
    rw [if_neg (Nat.not_le.mpr hn), Dev.begin_envI, hopen, if_neg (by decide)]

/-! ### Writing a receipt takes no time -/

theorem Dev.deadLetter_tick (d : Dev) (e : DlogEntry) : (d.deadLetter e).tick = d.tick := rfl

theorem Dev.putReceipt_tick (d : Dev) (cq : Nat) (bytes : List Byte) (irq froze : Bool) :
    (d.putReceipt cq bytes irq froze).tick = d.tick := by
  unfold Dev.putReceipt Dev.hostWrite
  dsimp only
  split <;> rfl

theorem Dev.onCqI_tick (d : Dev) (n : Nat) (f : CompQ → CompQ) : (d.onCqI n f).tick = d.tick := rfl

theorem Dev.onSqI_tick (d : Dev) (n : Nat) (f : SubQ → SubQ) : (d.onSqI n f).tick = d.tick := rfl

theorem Dev.freezeQueue_tick (d : Dev) (n idx : Nat) (byHost : Bool) : (d.freezeQueue n idx byHost).tick = d.tick := rfl

theorem Dev.chainReply_tick (d : Dev) (c : Completion) : (d.chainReply c).tick = d.tick := by
  unfold Dev.chainReply
  dsimp only
  refine ite_keeps (·.tick) _ ?_ ?_ <;> exact ite_keeps (·.tick) _ rfl (Dev.sendTo_tick ..)

theorem Dev.drainKept_tick (fuel : Nat) (d : Dev) (cq : Nat) : (d.drainKept fuel cq).tick = d.tick := by
  induction fuel generalizing d with
  | zero => rfl
  | succ fuel ih =>
    unfold Dev.drainKept
    dsimp only
    split
    · rfl
    · exact ite_keeps (·.tick) _ ((ih _).trans (Dev.putReceipt_tick ..)) rfl

theorem Dev.orphanReply_tick (d : Dev) (c : Completion) : (d.orphanReply c).tick = d.tick := by
  unfold Dev.orphanReply
  split
  · rfl
  · simp only [apply_ite Dev.tick, Dev.drainKept_tick, Dev.onCqI_tick, Dev.deadLetter_tick, Dev.onHost_tick, ite_self]

theorem Dev.sqReply_tick (d : Dev) (c : Completion) (froze : Bool) : (d.sqReply c froze).tick = d.tick := by
  simp only [Dev.sqReply, apply_ite Dev.tick, Dev.putReceipt_tick, Dev.deadLetter_tick, Dev.freezeQueue_tick, Dev.onSqI_tick,
    Dev.onCqI_tick, ite_self]

theorem Dev.finishDelete_tick (d : Dev) (n : Nat) : (d.finishDelete n).tick = d.tick := by
  unfold Dev.finishDelete
  dsimp only
  split
  · exact ite_keeps (·.tick) _ (Dev.sqReply_tick ..) rfl
  · rfl

theorem Dev.writeReceipt_tick (d : Dev) (c : Completion) (froze : Bool) : (d.writeReceipt c froze).tick = d.tick := by
  unfold Dev.writeReceipt
  refine ite_keeps (·.tick) _ (Dev.chainReply_tick ..) (ite_keeps (·.tick) _ (Dev.orphanReply_tick ..) ?_)
  exact Eq.trans (ite_keeps (·.tick) _ (Dev.finishDelete_tick ..) rfl) (Dev.sqReply_tick ..)

theorem Dev.answer_count (d : Dev) (c : Completion) : (d.answer c).tick.count = d.tick.count :=
  ite_keeps (·.tick.count) _ rfl (congrArg TickSt.count (Dev.writeReceipt_tick ..))

theorem Dev.retarget_tick (d : Dev) : d.retarget.tick = d.tick := by
  unfold Dev.retarget
  exact ite_keeps (·.tick) _ rfl (ite_keeps (·.tick) _ rfl rfl)

theorem Dev.markLetters_tick (d : Dev) (n : Nat) (returned : Bool) : (d.markLetters n returned).tick = d.tick :=
  Dev.each_keeps (·.tick) _ d fun _ _ => rfl

theorem Dev.onEnvI_tick (d : Dev) (n : Nat) (f : Env → Env) : (d.onEnvI n f).tick = d.tick := rfl

theorem Dev.dropClaims_tick (d : Dev) (e : Env) : (d.dropClaims e).tick = d.tick := rfl

theorem Dev.raiseNow_tick (d : Dev) (n : Nat) : (d.raiseNow n).tick = d.tick := rfl

theorem Dev.atClose_count (d : Dev) (c : Completion) : (d.atClose c).tick.count = d.tick.count := rfl

theorem Dev.returnEnv_count (d : Dev) (n code member tick : Nat) :
    (d.returnEnv n code member tick).tick.count = d.tick.count := by
  simp only [Dev.returnEnv, Dev.chainOutcome]
  split
  · split <;>
      simp only [Dev.sendTo_tick, Dev.retarget_tick, Dev.onEnvI_tick, Dev.onEnv_tick, Dev.markLetters_tick, Dev.dropClaims_tick]
  · simp only [Dev.atClose_count, Dev.raiseNow_tick, Dev.retarget_tick, Dev.onEnvI_tick, Dev.onEnv_tick,
      Dev.markLetters_tick, Dev.dropClaims_tick]

/-! ### Withdrawing -/

/-- The tick count after the return of an envelope and the receipts that it wrote. -/
theorem Dev.answered_count (d : Dev) (n code member tick : Nat) (rest l : List Completion) :
    (((d.returnEnv n code member tick).onTick fun t => { t with done8 := rest }).each l
      fun d c => d.answer c).tick.count = d.tick.count :=
  (Dev.each_keeps (·.tick.count) l _ Dev.answer_count).trans (Dev.returnEnv_count ..)

/-- Settles O27. -/
theorem withdrawAndReturn : Obligations.WithdrawAndReturn := by
  unfold Obligations.WithdrawAndReturn
  refine ⟨fun s k h hn hsealed => next_runs h ?_, fun d k n hsealed hchain _ => ?_, fun d k n hphase => ?_⟩
  · dsimp only
    rw [if_neg (Nat.not_le.mpr hn), Dev.begin_envI, hsealed]
  · show d.withdrawNow k n = _
    simp only [Dev.withdrawNow, hsealed, hchain, bne_self_eq_false, Bool.false_eq_true, if_false, noMember,
      Dev.answered_count]
  · exact if_pos (by simpa using hphase)

end Sys2Proof.Machine
end

section
/-!
SUPPORT. Seals, lone parameter writes and the messages of chain-wide envelopes (03 R73, R83 to R87; 14 R358, R359; 21 R510).
-/
namespace Sys2Proof.Machine

theorem Dev.begin_freeEnv (d : Dev) (k : Docket) : (d.begin k).freeEnv = d.freeEnv :=
  d.begin_keeps (·.freeEnv) k fun _ _ => rfl

theorem Dev.begin_pointOk (d : Dev) (k : Docket) (b : List Byte) : (d.begin k).pointOk b = d.pointOk b :=
  d.begin_keeps (·.pointOk b) k fun _ _ => rfl

/-- A lone parameter write with a free number and room for its value seals an envelope of its own. -/
theorem Dev.loneWrite_seals {d : Dev} {n : Nat} {m : Member} (k : Docket) (hn : d.freeEnv = some n)
    (hroom : d.bulkRoom [] (m.bulk.getD []).length = true) :
    d.loneWrite k m = d.sealEnv n { Env.empty with members := [m], dk := k, lone := true } := by
  rw [Dev.loneWrite, hn]
  exact if_neg (by rw [hroom]; decide)

/-- Settles O25. -/
theorem sealDockets : Obligations.SealDockets := by
  unfold Obligations.SealDockets
  refine ⟨fun s k e h hlate hkind hn hopen hpoint he => next_runs h ?_, fun s k n h hfree hlo hhi hzero hroom => next_runs h ?_,
    fun s k h ha hlo hhi hfree hroom => next_runs h ?_, fun s k data addr n rest hk hop hwait hfree hroom => next_withDev ?_,
    fun d n e hfails => ?_, fun d n code m e hfails => ?_⟩
  · dsimp only
    rw [if_neg (Nat.not_lt.mpr hlate), if_neg (by omega), if_neg (Nat.not_le.mpr hn), Dev.begin_envI,
      if_neg (by rw [hopen]; decide), Dev.begin_pointOk, hpoint, if_neg (by decide), if_neg (by omega), he]
  · dsimp only
    rw [if_neg (by omega), hzero, if_neg (by decide)]
    exact Dev.loneWrite_seals k ((s.dev.begin_freeEnv k).trans hfree) ((s.dev.begin_bulkRoom k _ _).trans hroom)
  · dsimp only
    rw [if_neg (not_not_intro ha), if_neg (Nat.not_lt.mpr hhi), Dev.begin_freeEnv, if_neg (by simpa using Option.isSome_iff_ne_none.mp hfree),
      Dev.begin_bulkRoom, hroom, if_neg (by decide), if_neg (by omega)]
  · unfold Dev.hostData
    rw [Dev.takeWait_first hwait]
    simp only [hop, padTo_of_length]
    exact Dev.loneWrite_seals k hfree hroom
  · rw [Dev.sealEnv, hfails]
    simp only [Bool.and_eq_true]
  · rw [Dev.sealEnv, hfails]

/-- Settles O28. -/
theorem chainWideEnvelopes : Obligations.ChainWideEnvelopes := by
  unfold Obligations.ChainWideEnvelopes
  refine ⟨fun s ref land n recs hready hfree => next_withDev ?_, fun s ref land recs hready hfree => next_withDev ?_,
    fun s ref a c hc hopen hsealed ha => ?_, fun s n c hc hcoord hopen hsealed => next_withDev ?_,
    fun s ref n c hc hopen => ⟨next_withDev ?_, next_withDev ?_⟩, fun s ref a l c hc ha hnew => next_withDev ?_,
    fun s n c hc hended hhold => next_withDev ?_⟩
  · rw [Dev.prepared, hready, hfree]
    rfl
  · rw [Dev.prepared, hready, hfree]
    rfl
  · have hwaits : ((s.dev.envI ref.env).phase != .sealed || c.decision.isSome || !c.members.contains a) = false := by
      simp [hsealed, hopen, ha]
    refine ⟨next_withDev ?_, fun why => next_withDev ?_⟩ <;> rw [Dev.readyFrom, hc] <;>
      exact if_neg (Bool.eq_false_iff.mp hwaits)
  · rw [Dev.deadlinePast, hc]
    dsimp only
    rw [if_pos (by simp [hcoord, hopen, hsealed]), Dev.abortChain, hc]
    rfl
  · rw [Dev.decided, hc]
    dsimp only
    rw [hopen]
    rfl
  · rw [Dev.decided, hc]
    dsimp only
    rw [hopen]
    rfl
  · have hfirst : (!c.members.contains a || c.reports.any (·.1 == a)) = false := by
      simpa [ha] using hnew
    rw [Dev.reported, hc]
    exact if_neg (Bool.eq_false_iff.mp hfirst)
  · rw [Dev.closeChain, hc]
    exact if_pos (by simp [hended, hhold])

end Sys2Proof.Machine
end

section
/-!
SUPPORT. Bring-up, park, buffered writes and the store key (15 R366, R369, R376; 16 R397, R400 to R405; 24 R559).
-/
namespace Sys2Proof.Machine

/-! ### A store that was just formatted -/

/-- An online store without clips, as the formatting of a medium leaves it. -/
structure StoreSt.New (g : NandGeometry) (s : StoreSt) : Prop where
  formatted : s.formatted = true
  online : s.online = true
  locked : s.locked = false
  geom : s.geom = some g
  good : s.good = goodBlocks g
  capacity : s.capacity = capacityOf g (goodBlocks g)
  bands : s.bands = []
  clips : s.clips = []
  nextClip : s.nextClip = 1
  early : s.early = []

/-- The store is new, and event `x` has been raised. -/
def Dev.BroughtUp (g : NandGeometry) (x : Nat × Nat × Nat) (d : Dev) : Prop := d.store.New g ∧ x ∈ d.evt.raised

theorem Dev.each_holds {α : Type} (P : Dev → Prop) {f : Dev → α → Dev} (l : List α) (d : Dev) (hd : P d)
    (h : ∀ d a, P d → P (f d a)) : P (d.each l f) := by
  induction l generalizing d with
  | nil => exact hd
  | cons a l ih => exact ih (f d a) (h d a hd)

theorem Dev.raiseNow_broughtUp {g : NandGeometry} {x : Nat × Nat × Nat} {d : Dev} (h : d.BroughtUp g x) (src : Nat) :
    (d.raiseNow src).BroughtUp g x :=
  ⟨h.1, List.mem_append_left _ h.2⟩

theorem StoreSt.New.closeClip {g : NandGeometry} {s : StoreSt} (h : s.New g) (id : Nat) (full continued : Bool) :
    (closeClip s id full continued).New g := by
  obtain ⟨hf, hon, hlock, hgeom, hgood, hcap, hbands, hclips, hnext, hearly⟩ := h
  refine ⟨hf, hon, hlock, hgeom, hgood, hcap, ?_, ?_, hnext, hearly⟩
  · simp [Machine.closeClip, dropEmptyClips, onClip, hbands]
  · simp [Machine.closeClip, dropEmptyClips, onClip, hclips]

theorem StoreSt.New.withSlots {g : NandGeometry} {s : StoreSt} (h : s.New g) (l : List RecSlot) :
    ({ s with slots := l } : StoreSt).New g := by
  obtain ⟨hf, hon, hlock, hgeom, hgood, hcap, hbands, hclips, hnext, hearly⟩ := h
  exact ⟨hf, hon, hlock, hgeom, hgood, hcap, hbands, hclips, hnext, hearly⟩

theorem Dev.queueRelease_evt (d : Dev) (r k o : Nat) (byHost : Bool) : (d.queueRelease r k o byHost).evt = d.evt := by
  simp only [Dev.queueRelease, Dev.onTick_evt, Dev.onRingI_evt]

theorem Dev.detach_evt (d : Dev) (r k : Nat) (keep : List Nat) : (d.detach r k keep).evt = d.evt := by
  simp only [Dev.detach, Dev.onRingI_evt]
  exact Dev.each_keeps (·.evt) _ d fun d o => d.queueRelease_evt r k o false

theorem Dev.endSource_broughtUp {g : NandGeometry} {x : Nat × Nat × Nat} {d : Dev} (h : d.BroughtUp g x) (n : Nat)
    (src : RecSrc) (full : Bool) : (d.endSource n src full).BroughtUp g x := by
  have hstore : ∀ e : Dev, e.store = d.store → e.evt = d.evt → (e.onStore fun s =>
      let s := closeClip s src.clip full false
      { s with slots := upd s.slots n fun r =>
                 let left := r.sources.filter fun y => y.ep != src.ep
                 { r with sources := left, running := r.running && !left.isEmpty } }).BroughtUp g x := by
    intro e he hevt
    refine ⟨?_, ?_⟩
    · rw [Dev.onStore_store, he]
      exact (h.1.closeClip _ _ _).withSlots _
    · rw [Dev.onStore_evt, hevt]
      exact h.2
  unfold Dev.endSource
  split
  · exact hstore _ (Dev.detach_store ..) (Dev.detach_evt ..)
  · exact hstore d rfl rfl

theorem Dev.slotStopped_broughtUp {g : NandGeometry} {x : Nat × Nat × Nat} {d : Dev} (h : d.BroughtUp g x) (n : Nat) :
    (d.slotStopped n).BroughtUp g x := by
  unfold Dev.slotStopped
  split
  · exact h
  · exact Dev.raiseNow_broughtUp h _

theorem Dev.fullStore_broughtUp {g : NandGeometry} {x : Nat × Nat × Nat} {d : Dev} (n : Nat) (h : d.BroughtUp g x) :
    (d.fullStore n).BroughtUp g x := by
  unfold Dev.fullStore
  dsimp only
  split
  · refine Dev.slotStopped_broughtUp (d := Dev.reportNow _ _ _ _) ?_ n
    exact Dev.each_holds (Dev.BroughtUp g x) _ d h fun d src hd => Dev.endSource_broughtUp hd n src true
  · exact h

theorem Dev.onSpare_broughtUp {g : NandGeometry} {x : Nat × Nat × Nat} {d : Dev} (h : d.BroughtUp g x) (n : Nat) :
    (d.onStore fun s => { s with spare := BitVec.ofNat 2 n }).BroughtUp g x := by
  obtain ⟨⟨hf, hon, hlock, hgeom, hgood, hcap, hbands, hclips, hnext, hearly⟩, hevt⟩ := h
  exact ⟨⟨hf, hon, hlock, hgeom, hgood, hcap, hbands, hclips, hnext, hearly⟩, hevt⟩

theorem Dev.checkSpare_broughtUp {g : NandGeometry} {x : Nat × Nat × Nat} {d : Dev} (h : d.BroughtUp g x) :
    d.checkSpare.BroughtUp g x := by
  have hspare := Dev.onSpare_broughtUp h (spareState d.store.free d.store.good)
  have hreport : ∀ {e : Dev}, e.BroughtUp g x → ∀ (c : Prop) [Decidable c] (l : List Nat),
      (if c then e.reportNow 0x0061 storeEp l else e).BroughtUp g x := by
    intro e he c _ l
    split
    · exact he
    · exact he
  unfold Dev.checkSpare
  dsimp only
  split
  · exact hspare
  · split
    · exact Dev.each_holds (Dev.BroughtUp g x) _ _ (hreport (Dev.raiseNow_broughtUp hspare 13) _ _) fun _ n =>
        Dev.fullStore_broughtUp n
    · exact hreport (Dev.raiseNow_broughtUp hspare 13) _ _

/-- A store that was never formatted, once its medium is formatted and its key unwraps. -/
def Dev.formattedUp (d : Dev) (g : NandGeometry) : Dev :=
  ((d.onStore fun s => { s with geom := some g }).format g).onStore fun s =>
    { s with online := true, locked := false, pfailSeen := s.pfailKept, pfailKept := false, recovered := false }

theorem Dev.formattedUp_broughtUp (d : Dev) (g : NandGeometry) (hearly : d.store.early = []) :
    (d.formattedUp g).BroughtUp g (11, d.nowNs, d.time.epoch.toNat) :=
  ⟨⟨rfl, rfl, rfl, rfl, rfl, rfl, rfl, rfl, rfl, hearly⟩, List.mem_append_right _ (List.mem_singleton_self _)⟩

/-- A start after a power failure keeps a mark of it. -/
def Dev.afterFailure (d : Dev) : Dev := if d.store.pfailSeen then d.mark 0xE000 8 else d

theorem Dev.afterFailure_broughtUp {g : NandGeometry} {x : Nat × Nat × Nat} {d : Dev} (h : d.BroughtUp g x) :
    d.afterFailure.BroughtUp g x := by
  unfold Dev.afterFailure
  split
  · exact h
  · exact h

theorem Dev.bringUp_unformatted (d : Dev) {g : NandGeometry} (hok : geometryOk g = true) (hnew : d.store.formatted = false)
    (hearly : d.store.early = []) : ∃ e : Dev, e.BroughtUp g (11, d.nowNs, d.time.epoch.toNat) ∧
      d.bringUp g = (e.checkSpare.onStore fun s => { s with early := [] }).onBoot fun b => { b with phase := 0xF } := by
  have hup := d.formattedUp_broughtUp g hearly
  have hclips : ((d.onStore fun s => { s with geom := some g }).format g).store.clips = [] := rfl
  have hkey : (((d.onStore fun s => { s with geom := some g }).format g).store.keptKey ==
      ((d.onStore fun s => { s with geom := some g }).format g).store.wrapKey) = true := beq_self_eq_true d.store.keptKey
  have hbrought : (d.formattedUp g).afterFailure.BroughtUp g (11, d.nowNs, d.time.epoch.toNat) :=
    Dev.afterFailure_broughtUp (d.formattedUp_broughtUp g hearly)
  refine ⟨_, hbrought, ?_⟩
  unfold Dev.bringUp
  simp only [hok, hnew, hkey, hclips, Bool.not_true, Bool.not_false, Bool.false_and, Bool.false_eq_true, if_false, if_true,
    List.filter_nil, List.foldl_nil]
  exact congrArg (Dev.each _ · _) (Dev.checkSpare_broughtUp hbrought).1.early

theorem Dev.bringUp_offline (d : Dev) {g : NandGeometry} (hbad : geometryOk g = false) (hearly : d.store.early = []) :
    d.bringUp g = ((d.goOffline []).onStore fun s => { s with early := [] }).onBoot fun b => { b with phase := 0xF } := by
  unfold Dev.bringUp
  simp only [hbad, Bool.not_false, if_true]
  exact congrArg (Dev.each _ · _) hearly

/-- The window of a populated channel of an online store serves recording within the reserve's share. -/
theorem Dev.windowWork_emits (d : Dev) {g : NandGeometry} {c : Nat} (hg : d.store.geom = some g) (hc : c ∈ g.channels)
    (hon : d.store.online = true) : ∃ rec' maint host, d.windowWork c = d.emit (.nandWork c rec' maint host) ∧
      rec' ≤ d.reserve / max 1 g.channels.length / 10000 := by
  have hopen : (!g.channels.contains c || !d.store.online) = false := by simp [hc, hon]
  unfold Dev.windowWork
  rw [hg]
  exact ⟨_, _, _, if_neg (Bool.eq_false_iff.mp hopen), Nat.min_le_right _ _⟩

/-- Settles O36 (the work of a channel's window and its bound are the model's choice, log 77). -/
theorem storeStartAndPark : Obligations.StoreStartAndPark := by
  unfold Obligations.StoreStartAndPark
  refine ⟨fun s g hok hnew hearly => ?_, fun s g hbad hearly => next_withDev (s.dev.bringUp_offline hbad hearly),
    fun s cyc hhigh => next_withDev ?_, fun s cyc => rfl, fun s hpark hhigh hhalt => next_withDev ?_,
    fun s hlow => next_withDev ?_, fun s g c hg hc => ⟨next_withDev ?_, fun hon => ?_⟩,
    fun s g c hg hc => ⟨next_withDev ?_, next_withDev ?_⟩⟩
  · obtain ⟨e, he, hup⟩ := s.dev.bringUp_unformatted hok hnew hearly
    obtain ⟨⟨hf, hon, hlock, hgeom, hgood, hcap, hbands, hclips, hnext, -⟩, hevt⟩ := Dev.checkSpare_broughtUp he
    exact ⟨_, next_withDev hup, hf, hon, hlock, hgeom, hgood, hcap, hbands, hclips, hnext, hevt⟩
  · unfold Dev.pfail
    rw [hhigh]
    rfl
  · unfold Dev.leavePark
    rw [hpark, hhigh, hhalt]
    rfl
  · exact if_neg (by rw [hlow]; simp)
  · unfold Dev.nandTrained
    rw [hg]
    exact if_pos (List.contains_iff_mem.mpr hc)
  · obtain ⟨rec', maint, host, hwork, hle⟩ := s.dev.windowWork_emits hg hc hon
    exact ⟨rec', maint, host, next_withDev hwork, hle⟩
  · unfold Dev.nandTrained
    rw [hg]
    exact if_neg fun h => hc (List.contains_iff_mem.mp h)
  · unfold Dev.windowWork
    rw [hg]
    exact if_pos (by simp [hc])

/-! ### Store-key installation (15 R376) -/

/-- Settles O38. -/
theorem storeKeyInstallation : Obligations.StoreKeyInstallation := by
  unfold Obligations.StoreKeyInstallation
  refine ⟨fun s k h hpres ha hlen => ?_, fun s k addr key rest hk hop hwait hkey => ?_⟩
  · refine congrArg Host.Outcome.next ((State.after_of_gated h hpres _).trans (State.after_congr ?_))
    exact (if_neg (not_not_intro ha)).trans (if_neg (not_not_intro hlen))
  · have hdata : s.dev.hostData k.sq k.idx key =
        Dev.keyData (s.dev.onHost fun h => { h with waitData := rest }) k key := by
      unfold Dev.hostData
      rw [Dev.takeWait_first hwait]
      simp only [hop, padTo_of_length hkey]
    refine ⟨fun hlock hwrap => next_withDev (hdata.trans ?_), fun hlock hwrap => next_withDev (hdata.trans ?_),
      fun hlock hon => next_withDev (hdata.trans ?_)⟩ <;> unfold Dev.keyData <;> rw [padTo_of_length hkey]
    · exact (if_pos hlock).trans (if_pos hwrap)
    · exact (if_pos hlock).trans (if_neg hwrap)
    · exact (if_neg (Bool.eq_false_iff.mp hlock)).trans (if_pos hon)

/-! ### Buffered writes (16 R397, R400, R402) -/

theorem onMedium_setBlock (s : StoreSt) (lba : Nat) (v : List Byte) : onMedium (setBlock s lba (some v)) lba = some v := by
  have hinsert : ∀ l : List (Nat × List Byte), (∀ x ∈ l, x.1 ≠ lba) →
      (insertBy (·.1) (lba, v) l).find? (·.1 == lba) = some (lba, v) := by
    intro l hl
    induction l with
    | nil => simp [insertBy]
    | cons b l ih =>
      have hb := hl b List.mem_cons_self
      unfold insertBy
      split
      · rw [List.find?_cons_of_neg (by simpa using hb)]
        exact ih fun x hx => hl x (List.mem_cons_of_mem _ hx)
      · exact List.find?_cons_of_pos (by simp)
  unfold onMedium
  refine (congrArg (Option.map _) (hinsert _ fun x hx => ?_)).trans rfl
  simpa using (List.mem_filter.mp hx).2

/-- The dirty blocks and the contents of the medium. -/
def Dev.written (d : Dev) : List Dirty × List (Nat × List Byte) := (d.store.dirty, d.store.lbas)

theorem Dev.settleStore_written (d : Dev) : d.settleStore.written = d.written := by
  unfold Dev.settleStore
  dsimp only
  refine Eq.trans (Dev.each_keeps Dev.written _ _ fun d f => ?_) (Dev.each_keeps Dev.written _ d fun d h => rfl)
  split <;> rfl

theorem Dev.unitsDone_written {d : Dev} (h : d.store.units = []) : d.unitsDone.written = d.written := by
  unfold Dev.unitsDone
  rw [h]
  rfl

/-- A lone receipted block that its page programs is the newest on the medium, and no block is dirty. -/
theorem commitReady_lone {s : StoreSt} {lba lock : Nat} {v : List Byte} (h : s.dirty = [⟨lock, lba, some v, true, true⟩]) :
    commitReady s = { setBlock s lba (some v) with dirty := [] } := by
  unfold commitReady
  rw [h]
  simp

theorem onBlk_keeps {β : Type} (g : StoreSt → β) (s : StoreSt) (die block : Nat) (f : NandBlk → NandBlk)
    (h : ∀ (s : StoreSt) l, g { s with blocks := l } = g s) : g (onBlk s die block f) = g s := by
  unfold onBlk
  split <;> exact h _ _

/-- A page of one block of data is on the medium. -/
def onPage (s : StoreSt) (die block lba : Nat) : StoreSt :=
  onBlk { s with blocks := s.blocks.map fun b => { b with lbas := b.lbas.filter fun l => !List.contains [lba] l } } die block
    fun b => { b with lbas := b.lbas ++ [lba] }

theorem onPage_units (s : StoreSt) (die block lba : Nat) : (onPage s die block lba).units = s.units :=
  onBlk_keeps (·.units) _ die block _ fun _ _ => rfl

theorem onPage_dirty (s : StoreSt) (die block lba : Nat) : (onPage s die block lba).dirty = s.dirty :=
  onBlk_keeps (·.dirty) _ die block _ fun _ _ => rfl

/-- The page of a dirty block is programmed: the block's program is done. -/
def pageDone (s : StoreSt) (die block lba lock : Nat) : StoreSt :=
  { onPage s die block lba with dirty := (onPage s die block lba).dirty.map fun x =>
      if x.lock == lock && x.lba == lba then { x with done := true } else x }

/-- What programming the page of block `lba` makes of the store `s`. -/
def programmedBlock (s : StoreSt) (lba : Nat) : StoreSt :=
  match s.units.find? fun u => u.left.any fun x => x.1 == lba with
  | some u =>
    let v := (u.left.find? fun x => x.1 == lba).map (·.2)
    let s := setBlock { s with dirty := s.dirty.filter fun e => e.lba != lba } lba v
    { s with units := s.units.map fun w => { w with left := w.left.filter fun x => x.1 != lba } }
  | none =>
    match s.dirty.find? fun e => e.lba == lba && !e.done with
    | some e =>
      { s with dirty := s.dirty.map fun x => if x.lock == e.lock && x.lba == lba then { x with done := true } else x }
    | none => s

theorem Dev.programDone_page (d : Dev) (die block lba : Nat) : d.programDone die block [lba] true =
    (d.onStore fun s => commitReady (programmedBlock (onPage s die block lba) lba)).unitsDone.settleStore := rfl

theorem programmedBlock_dirty {s : StoreSt} {lba : Nat} {e : Dirty} (hunits : s.units = [])
    (he : s.dirty.find? (fun e => e.lba == lba && !e.done) = some e) :
    programmedBlock s lba =
      { s with dirty := s.dirty.map fun x => if x.lock == e.lock && x.lba == lba then { x with done := true } else x } := by
  have hnone : (s.units.find? fun u => u.left.any fun x => x.1 == lba) = none := by
    rw [hunits]
    rfl
  unfold programmedBlock
  rw [hnone]
  dsimp only
  rw [he]

theorem Dev.programDone_written (d : Dev) {die block lba lock : Nat} {v : List Byte} (hunits : d.store.units = [])
    (hdirty : d.store.dirty = [⟨lock, lba, some v, true, false⟩]) : (d.programDone die block [lba] true).written =
      ([], (setBlock (pageDone d.store die block lba lock) lba (some v)).lbas) := by
  have he : d.store.dirty.find? (fun e => e.lba == lba && !e.done) = some ⟨lock, lba, some v, true, false⟩ := by
    rw [hdirty]
    exact List.find?_cons_of_pos (by simp)
  have hdone : (pageDone d.store die block lba lock).dirty = [⟨lock, lba, some v, true, true⟩] := by
    rw [pageDone, onPage_dirty, hdirty]
    simp
  have hpage : programmedBlock (onPage d.store die block lba) lba = pageDone d.store die block lba lock :=
    programmedBlock_dirty (e := ⟨lock, lba, some v, true, false⟩) ((onPage_units ..).trans hunits) (by rw [onPage_dirty, he])
  have hstore : (d.onStore fun s => commitReady (programmedBlock (onPage s die block lba) lba)).store =
      { setBlock (pageDone d.store die block lba lock) lba (some v) with dirty := [] } :=
    (congrArg commitReady hpage).trans (commitReady_lone hdone)
  rw [Dev.programDone_page, Dev.settleStore_written, Dev.unitsDone_written, Dev.written, hstore]
  rw [hstore]
  exact (onPage_units ..).trans hunits

theorem Dev.programDone_lone (d : Dev) {die block lba lock : Nat} {v : List Byte} (hunits : d.store.units = [])
    (hdirty : d.store.dirty = [⟨lock, lba, some v, true, false⟩]) :
    (d.programDone die block [lba] true).store.dirty = [] ∧ onMedium (d.programDone die block [lba] true).store lba = some v := by
  have hwritten := d.programDone_written (die := die) (block := block) hunits hdirty
  simp only [Dev.written, Prod.mk.injEq] at hwritten
  obtain ⟨hnone, hlbas⟩ := hwritten
  rw [onMedium, hlbas]
  exact ⟨hnone, onMedium_setBlock _ lba v⟩

/-- Settles O33. -/
theorem writeReceipts : Obligations.WriteReceipts := by
  unfold Obligations.WriteReceipts
  refine ⟨fun s h hfind hmoved hended hop hroom => next_withDev ?_, fun s h hfind hfull => next_withDev ?_,
    fun s die block lba lock v hunits hdirty => ?_⟩
  · unfold Dev.writeBuffered
    rw [hfind]
    dsimp only
    rw [if_pos (by simp [hmoved, hended, hop, hroom])]
    simp only [beq_iff_eq]
  · unfold Dev.writeBuffered
    rw [hfind]
    exact if_neg (by simp [Nat.not_le.mpr hfull])
  · exact ⟨_, rfl, s.dev.programDone_lone hunits hdirty⟩

end Sys2Proof.Machine
end

section
/-!
SUPPORT. Decode cores and the general bolter lanes (11 R291, R292; 12 R311 to R314; 14 R362).
-/
namespace Sys2Proof.Machine

/-! ### Decode cores -/

theorem Dev.begin_decI (d : Dev) (k : Docket) (c : Nat) : (d.begin k).decI c = d.decI c :=
  d.begin_keeps (·.decI c) k fun _ _ => rfl

/-- Two changes of a decode core in a row are one. -/
theorem Dev.onDecI_onDecI (d : Dev) (c : Nat) (f g : DecSt → DecSt) : (d.onDecI c f).onDecI c g = d.onDecI c (g ∘ f) :=
  congrArg (fun l => { d with dec := l }) (upd_upd d.dec c f g)

theorem Dev.decEat_decDiscard (d : Dev) (c ns : Nat) : (d.decEat c).decDiscard c ns =
    (d.onDecI c fun x => { x with input := x.input.drop 1, discarded := bump x.discarded }).raise (232 + c) ns := by
  rw [Dev.decDiscard, Dev.decEat, Dev.onDecI_onDecI]
  rfl

/-- Settles O41. -/
theorem decodeCommands : Obligations.DecodeCommands := by
  unfold Obligations.DecodeCommands
  refine ⟨fun s k p h hlo hhi hc hon hp hroom => next_runs h ?_, fun s k h hc hon => ⟨next_runs h ?_, next_runs h ?_⟩,
    fun s c au cyc hon hshed => ⟨fun hcase => next_withDev ?_, fun hrun hnew hbad => next_withDev ?_,
      fun hrun hnew hsync hcra hbad => next_withDev ?_⟩⟩
  · have hpool : ((s.dev.begin k).pool (decN (s.dev.begin k).params (u8 k.bytes 8) 2)).elim true
        (fun p => decide (p.size < u64 k.bytes 24 + u32 k.bytes 16)) = false := by
      rw [s.dev.begin_keeps (fun d => d.pool (decN d.params (u8 k.bytes 8) 2)) k fun _ _ => rfl, hp]
      exact decide_eq_false (Nat.not_lt.mpr hroom)
    dsimp only
    rw [if_neg (by omega), if_neg (Nat.not_lt.mpr hc), Dev.begin_decI, hon, if_neg (by decide), hpool, if_neg (by decide)]
  · dsimp only
    rw [if_neg (Nat.not_lt.mpr hc), Dev.begin_decI, hon, if_neg (by decide)]
  · dsimp only
    rw [if_neg (Nat.not_lt.mpr hc), Dev.begin_decI, hon, if_neg (by decide)]
  · rw [← Dev.decEat_decDiscard]
    unfold Dev.decodeUnit
    dsimp only
    rw [if_neg (by simp [hon, hshed])]
    rcases hcase with ⟨hirap, hstop⟩ | ⟨hirap, hsync, hrun, hnew⟩
    · rw [if_pos (by simp [hirap, hstop])]
    · rw [if_neg (by simp [hrun]), if_neg (by simp [hnew]), if_pos (by simp [hsync, hirap])]
  · unfold Dev.decodeUnit
    dsimp only
    rw [if_neg (by simp [hon, hshed]), if_neg (by simp [hrun]), if_pos (by simp [hnew, hbad]), Dev.decEat, Dev.onDecI_onDecI]
    rfl
  · unfold Dev.decodeUnit
    dsimp only
    rw [if_neg (by simp [hon, hshed]), if_neg (by simp [hrun]), if_neg (by simp [hnew]), if_neg (by simp [hsync]),
      if_neg (by simp [hcra]), if_pos (by simp [hbad]), Dev.decEat, Dev.onDecI_onDecI]
    rfl

/-! ### General bolter lanes -/

theorem Dev.begin_boltI (d : Dev) (k : Docket) (n : Nat) : (d.begin k).boltI n = d.boltI n :=
  d.begin_keeps (·.boltI n) k fun _ _ => rfl

theorem Dev.onBoltI_onBoltI (d : Dev) (n : Nat) (f g : BoltSt → BoltSt) :
    (d.onBoltI n f).onBoltI n g = d.onBoltI n (g ∘ f) :=
  congrArg (fun l => { d with bolt := l }) (upd_upd d.bolt n f g)

theorem Dev.hostWrite_tick (d : Dev) (a : Nat) (bs : List Byte) : (d.hostWrite a bs).tick = d.tick :=
  ite_keeps (·.tick) _ rfl rfl

theorem Dev.writeSegs_tick (segs : List (Nat × Nat)) (d : Dev) (bs : List Byte) : (d.writeSegs segs bs).tick = d.tick := by
  induction segs generalizing d bs with
  | nil => rfl
  | cons s segs ih => exact ite_keeps (·.tick) _ rfl ((ih _ _).trans (Dev.hostWrite_tick ..))

theorem Dev.mismatch_tick (d : Dev) (lane frame ns : Nat) : (d.mismatch lane frame ns).tick = d.tick := rfl

/-- A compress job ends with the CRC-32C of its input, and with an error only when its segments are too short. -/
theorem Dev.compressJob_done8 (d : Dev) (lane : Nat) (j : BoltJob) (input : List Byte) (segs : List (Nat × Nat)) :
    ∃ st len extra : Nat, (st = 0 ∨ st = 0x8601) ∧ len ≤ segRoom segs ∧
      (d.compressJob lane j input segs).tick.done8 = d.tick.done8 ++
        [⟨j.dk, st, leBytes 4 len ++ leBytes 4 (crc32c input) ++ leBytes 1 extra, true, false, 1, true, false⟩] := by
  unfold Dev.compressJob
  dsimp only [Dev.finish8, Dev.atClose, Dev.onTick_tick]
  refine ⟨_, _, _, ?_, Nat.min_le_left _ _, congrArg (TickSt.done8 · ++ _) (a₂ := d.tick) ?_⟩
  · exact (ite_eq_left_or_right _ _ _).symm
  · rw [apply_ite Dev.tick, Dev.mismatch_tick, ite_self]
    exact Dev.writeSegs_tick ..

/-- A flush at the front of a lane's jobs ends. -/
theorem Dev.jobComplete_flush {d : Dev} {g : Nat} {j : BoltJob} {rest : List BoltJob} (hjobs : (d.boltI (8 + g)).jobs = j :: rest)
    (hshed : d.isShed (428 + 2 * g) = false) (hshed' : d.isShed (429 + 2 * g) = false) (hop : j.op = 0x63) :
    d.jobComplete g = (d.onBoltI (8 + g) fun b => { b with jobs := rest }).flushJob (8 + g) j := by
  unfold Dev.jobComplete
  simp only [hshed, hshed', hjobs, hop, Bool.or_self, Bool.false_eq_true, if_false, if_true]

/-- A job waits for its input. -/
theorem Dev.jobComplete_waits {d : Dev} {g : Nat} {j : BoltJob} {rest : List BoltJob} (hjobs : (d.boltI (8 + g)).jobs = j :: rest)
    (hshed : d.isShed (428 + 2 * g) = false) (hshed' : d.isShed (429 + 2 * g) = false) (hop : j.op ≠ 0x63)
    (hinput : j.input = none) : d.jobComplete g = d := by
  unfold Dev.jobComplete
  simp only [hshed, hshed', hjobs, hop, hinput, Bool.or_self, Bool.false_eq_true, if_false]

/-- A job with its input read runs. -/
theorem Dev.jobComplete_runs {d : Dev} {g : Nat} {j : BoltJob} {rest : List BoltJob} {input : List Byte}
    {segs : List (Nat × Nat)} (hjobs : (d.boltI (8 + g)).jobs = j :: rest) (hshed : d.isShed (428 + 2 * g) = false)
    (hshed' : d.isShed (429 + 2 * g) = false) (hop : j.op ≠ 0x63) (hinput : j.input = some input) (hsegs : j.segs = some segs) :
    d.jobComplete g =
      let d := d.onBoltI (8 + g) fun b => { b with jobs := rest }
      if j.op = 0x60 then d.compressJob (8 + g) j input segs
      else if j.op = 0x61 then d.decompressJob (8 + g) j input segs
      else d.rawDecodeJob j input segs := by
  unfold Dev.jobComplete
  simp only [hshed, hshed', hjobs, hop, hinput, hsegs, Bool.or_self, Bool.false_eq_true, if_false]

theorem Dev.jobDocket_queues {s : State} {k : Docket}
    (h : s.dev.runsHere k [(8, 15), (16, 19), (20, 20), (21, 21), (22, 22), (24, 31)]) (hfresh : u8 k.bytes 21 ≤ 1)
    (ha : u64 k.bytes 8 % 4 = 0) (hb : u64 k.bytes 24 % 4 = 0) (hlo : 0 < u32 k.bytes 16) (hhi : u32 k.bytes 16 ≤ 2 ^ 24)
    (hn : 0 < u8 k.bytes 22) (hn' : u8 k.bytes 22 ≤ 16) (hlane : u8 k.bytes 20 ≤ 1)
    (hon : (s.dev.boltI (8 + u8 k.bytes 20)).active = true) :
    (Host.Outcome.next { s with dev := s.dev.jobDocket k } : Host.Outcome State Fault Refusal) =
      .next (s.after k fun d => (d.onBoltI (8 + u8 k.bytes 20) fun b =>
        { b with jobs := b.jobs ++ [⟨dkOp k, k, u8 k.bytes 21 == 1, 0, none, none⟩] }).readHost k (u64 k.bytes 24)
          (16 * u8 k.bytes 22)) := by
  refine next_runs h ?_
  dsimp only
  rw [if_neg (Nat.not_lt.mpr hfresh), if_neg (by omega), if_neg (by omega), if_neg (Nat.not_lt.mpr hlane), Dev.begin_boltI, hon,
    if_neg (by decide)]

/-- Settles O42. -/
theorem generalLaneJobs : Obligations.GeneralLaneJobs := by
  unfold Obligations.GeneralLaneJobs
  refine ⟨fun s k h hfresh ha hb hlo hhi hn hn' hlane hon => ?_, fun s k h hmode hon => ?_, fun s n j rest hjobs hshed hshed' => ?_⟩
  · have hjob := Dev.jobDocket_queues h hfresh ha hb hlo hhi hn hn' hlane hon
    exact ⟨hjob, hjob, hjob⟩
  · refine ⟨fun hlo hhi => next_runs h ?_, fun hraw hrec => next_runs h ?_, fun hraw hrec => next_runs h ?_⟩ <;>
      dsimp only <;>
      rw [if_neg (by omega), if_neg (Nat.not_lt.mpr hmode), Dev.begin_boltI, hon, if_neg (by decide)]
    · exact if_pos hlo
    · rw [if_neg (by omega), s.dev.begin_keeps (·.recordFrame _) k fun _ _ => rfl, hrec]
      rfl
    · rw [if_neg (by omega), s.dev.begin_keeps (·.recordFrame _) k fun _ _ => rfl, hrec]
      rfl
  · refine ⟨fun hop hinput => next_withDev (Dev.jobComplete_waits hjobs hshed hshed' hop hinput), fun hop hmode => next_withDev ?_,
      fun input segs hop hinput hsegs hraw => next_withDev ?_, fun input segs hop hinput hsegs => ?_⟩
    · rw [Dev.jobComplete_flush hjobs hshed hshed' hop, Dev.flushJob, hmode, Dev.onBoltI_onBoltI]
      rfl
    · rw [Dev.jobComplete_runs hjobs hshed hshed' (by omega) hinput hsegs]
      dsimp only
      rw [if_neg (by omega), if_neg (by omega), Dev.rawDecodeJob, hraw]
    · obtain ⟨st, len, extra, hst, hlen, hdone⟩ := Dev.compressJob_done8
        (s.dev.onBoltI (8 + n) fun b => { b with jobs := rest }) (8 + n) j input segs
      refine ⟨_, st, len, extra, next_withDev ?_, hst, hlen, hdone⟩
      exact (Dev.jobComplete_runs hjobs hshed hshed' (by omega) hinput hsegs).trans (if_pos hop)

end Sys2Proof.Machine
end

section
/-!
SUPPORT. Captured edges, IEEE 1588 messages and launch slots (20 R483 to R490), the chain map (21 R498, R506) and courier
frames (21 R500, R501, R512).
-/
namespace Sys2Proof.Machine

/-! ### The time master is followed -/

/-- What a new servo state keeps. -/
theorem Dev.setServo_keeps {β : Type} (g : Dev → β) (htime : ∀ f (d : Dev), g (d.onTime f) = g d)
    (hevt : ∀ f (d : Dev), g (d.onEvt f) = g d) (d : Dev) (v : Servo) : g (d.setServo v) = g d := by
  unfold Dev.setServo
  refine ite_keeps g _ rfl ?_
  rw [Dev.raiseNow, Dev.raise, hevt, htime]

theorem Dev.enterHoldover_keeps {β : Type} (g : Dev → β) (htime : ∀ f (d : Dev), g (d.onTime f) = g d)
    (hevt : ∀ f (d : Dev), g (d.onEvt f) = g d) (htick : ∀ f (d : Dev), g (d.onTick f) = g d)
    (hfaults : ∀ f (d : Dev), g (d.onFaults f) = g d) (d : Dev) (ns : Nat) : g (d.enterHoldover ns) = g d := by
  unfold Dev.enterHoldover
  refine ite_keeps g _ ?_ rfl
  rw [Dev.report, hfaults, Dev.mark, htick, htime, Dev.setServo_keeps g htime hevt]
  refine ite_keeps g _ rfl ?_
  rw [Dev.setRate, htime]

/-- The chain's part changes in its upstream port only. -/
theorem Dev.followMaster_chain (d : Dev) : ∃ u, d.followMaster.chain = { d.chain with upstream := u } := by
  unfold Dev.followMaster
  split
  · exact ⟨_, rfl⟩
  · refine ⟨d.chain.upstream, ite_keeps (·.chain) _ ?_ rfl⟩
    exact Dev.enterHoldover_keeps (·.chain) (fun _ _ => rfl) (fun _ _ => rfl) (fun _ _ => rfl) (fun _ _ => rfl) d _

theorem Dev.followMaster_mapEntry (d : Dev) (a : Nat) : d.followMaster.mapEntry a = d.mapEntry a := by
  obtain ⟨u, hu⟩ := d.followMaster_chain
  rw [Dev.mapEntry, hu]
  rfl

theorem Dev.followMaster_cportI (d : Dev) (p : Nat) : d.followMaster.cportI p = d.cportI p := by
  obtain ⟨u, hu⟩ := d.followMaster_chain
  rw [Dev.cportI, hu]
  rfl

theorem Dev.followMaster_failovers (d : Dev) : d.followMaster.chain.failovers = d.chain.failovers := by
  obtain ⟨u, hu⟩ := d.followMaster_chain
  rw [hu]

/-! ### Captures, messages and launch slots (20 R483 to R490) -/

theorem elim_decide_iff (last : Option Nat) (p : Nat → Prop) [DecidablePred p] :
    (last.elim true fun l => decide (p l)) = true ↔ last.elim True p := by
  cases last <;> simp

theorem Dev.ppsEdge_due {d : Dev} {edge cyc : Nat} (h : edgeDue d.time.ppsLast (d.upNs cyc) = true) (hsrc : d.timeSource ≠ 1) :
    d.ppsEdge edge cyc = (d.onTime fun t =>
      { t with ppsCount := t.ppsCount + 1, ppsLast := some (d.upNs cyc),
               ppsCap := postmarkNat ((edge : Int) - d.parI 2 0x12 0 8).toNat t.epoch.toNat
                 ((t.ppsCount + 1) % 2 ^ 32) 0xC0 }).raise 16 (d.nsAt cyc) := by
  have hsrc' : ∀ f src ns, ((d.onTime f).raise src ns).timeSource ≠ 1 := fun _ _ _ => hsrc
  unfold Dev.ppsEdge
  simp only [h, hsrc', if_true, if_false, Dev.nsAt, Dev.timeAt, Dev.onTime_time]

theorem Dev.htpEdge_due {d : Dev} {edge cyc : Nat} (h : edgeDue d.time.htpLast (d.upNs cyc) = true) :
    d.htpEdge edge cyc = (d.onTime fun t =>
      { t with htpCount := t.htpCount + 1, htpLast := some (d.upNs cyc),
               htpCap := postmarkNat ((edge : Int) - d.parI 2 0x12 0 9).toNat t.epoch.toNat
                 ((t.htpCount + 1) % 2 ^ 32) 0xC1 }).raise 17 (d.nsAt cyc) := by
  unfold Dev.htpEdge
  simp only [h, if_true]

theorem edgeDue_early {last : Option Nat} {l up : Nat} (hlast : last = some l) (h : up < l + 100000000) :
    ¬edgeDue last up = true := by
  rw [hlast, edgeDue, Option.elim_some, decide_eq_true_iff]
  exact Nat.not_le.mpr h

theorem Dev.ptpI_onPtpI_same (d : Dev) {p : Nat} (f : PtpPort → PtpPort) (h : p < d.time.ptp.length) :
    (d.onPtpI p f).ptpI p = f (d.ptpI p) :=
  getD_upd_same _ _ _ _ h

theorem Dev.slotI_onSlotI_same (d : Dev) {n : Nat} (f : LaunchSlot → LaunchSlot) (h : n < d.time.slots.length) :
    (d.onSlotI n f).slotI n = f (d.slotI n) :=
  getD_upd_same _ _ _ _ h

theorem Dev.sendPtp_sends {d : Dev} {p : Nat} (ho : d.mayOriginate = true) (hup : d.chainUp p = true) (kind n : Nat) (t : Int) :
    d.sendPtp p kind n t = d.emit (.ptp p kind n t) :=
  if_pos (by rw [ho, hup]; rfl)

/-- The edges of a pin slot that fires leave, and the slot is spent until it is armed again. -/
theorem Dev.fireSlot_pin {d : Dev} {n : Nat} (at' : Int) (harmed : (d.slotI n).state = .armed)
    (hsched : (d.slotI n).scheduled = true) (huse : (d.slotI n).use = 0) (hperiod : d.lslot n 1 = 0) :
    d.fireSlot n at' = (((d.firePin n (d.slotI n).ball).mark (0x12028 + 4 * (n / 32)) (n % 32)).onSlotI n fun x =>
      { x with state := .fired, scheduled := false, recTarget := x.target, recDiff := at' - x.target,
               firings := capN 32 (x.firings + 1), emptyFire := false, fired := true, ever := true,
               target := x.target + 0 }).raise (24 + n) at'.toNat := by
  have hperiod' : (d.firePin n (d.slotI n).ball).lslot n 1 = 0 := hperiod
  unfold Dev.fireSlot
  simp only [harmed, hsched, huse, hperiod', bne_self_eq_false, Bool.not_true, Bool.or_self, Bool.false_eq_true, if_false,
    if_true]
  rfl

theorem Dev.announced_masters {d : Dev} {p : Nat} (ho : d.mayOriginate = true) (hup : d.chainUp p = true) (m hops : Nat) :
    (p, m, hops) ∈ (d.announced p m hops).chain.masters ∧ (d.announced p m hops).chain.map = d.chain.map := by
  unfold Dev.announced
  rw [if_pos (by rw [ho, hup]; rfl)]
  obtain ⟨u, hu⟩ := Dev.followMaster_chain (d.onChain fun c =>
    { c with masters := c.masters.filter (fun x => !(x.1 == p && x.2.1 == m)) ++ [(p, m, hops)] })
  rw [hu]
  exact ⟨List.mem_append_right _ (List.mem_singleton_self _), rfl⟩

/-- Settles O45. -/
theorem timeCapturesAndMessages : Obligations.TimeCapturesAndMessages := by
  unfold Obligations.TimeCapturesAndMessages
  refine ⟨fun s edge cyc hdue hsrc => next_withDev ?_, fun s edge cyc hdue => next_withDev ?_,
    fun s edge cyc l hearly => ⟨fun hlast => next_withDev (d' := s.dev) ?_, fun hlast => next_withDev (d' := s.dev) ?_⟩,
    fun s p n cyc t2 t1 corr ho hup hlen => ⟨next_withDev ?_, rfl, fun hsync hsrc hm hups => next_withDev ?_⟩,
    fun s p n a b c e ho hup => ⟨next_withDev ?_, fun ht1 => next_withDev ?_, fun ht1 ht2 ht4 => next_withDev ?_, next_withDev ?_⟩,
    fun s p m hops ho hup => ?_, fun s n at' harmed hsched huse hperiod hlen => ?_⟩
  · exact Dev.ppsEdge_due ((elim_decide_iff _ _).mpr hdue) hsrc
  · exact Dev.htpEdge_due ((elim_decide_iff _ _).mpr hdue)
  · exact if_neg (edgeDue_early hlast hearly)
  · exact if_neg (edgeDue_early hlast hearly)
  · exact if_pos (by rw [ho, hup]; rfl)
  · have hgo : (s.dev.timeSource = 3 && s.dev.timeMaster.isSome && s.dev.chain.upstream == p.val) = true := by
      simp [hsrc, hm, hups]
    unfold Dev.followUp
    rw [hsync]
    refine (if_pos rfl).trans ((if_pos hgo).trans ?_)
    rw [Dev.ptpI_onPtpI_same _ _ (by omega)]
    rfl
  · rw [Dev.sendPtp_sends ho hup]
    exact Dev.sendPtp_sends (d := s.dev.emit _) ho hup 10 n c
  · unfold Dev.pdelayResp
    rw [ht1]
    exact if_pos rfl
  · unfold Dev.pdelayEnd
    dsimp only
    rw [ht1, ht2, ht4]
    exact if_pos ⟨rfl, rfl, rfl⟩
  · unfold Dev.syncDue
    rw [if_neg (by rw [ho, hup]; decide), if_pos rfl]
    refine (Dev.sendPtp_sends (d := s.dev.onPtpI _ _) ho hup _ _ _).trans ?_
    refine congrArg (Dev.emit · (.ptp p 2 (s.dev.ptpI p).pseqId a)) ?_
    exact congrArg (fun l => s.dev.onTime fun t => { t with ptp := l }) (upd_congr s.dev.time.ptp p PtpPort.reset rfl)
  · obtain ⟨hmasters, hmap⟩ := Dev.announced_masters ho hup m hops
    exact ⟨_, rfl, hmasters, hmap⟩
  · have hslot : ∀ d f ns src, d.time.slots = s.dev.time.slots → ((Dev.onSlotI d n f).raise src ns).slotI n = f (s.dev.slotI n) := by
      intro d f ns src hd
      refine (Dev.slotI_onSlotI_same d f (by rw [hd, hlen]; exact n.isLt)).trans ?_
      rw [Dev.slotI, hd]
      rfl
    have hslot' := hslot ((s.dev.firePin n (s.dev.slotI n).ball).mark (0x12028 + 4 * (n / 32)) (n % 32)) (fun x =>
      { x with state := .fired, scheduled := false, recTarget := x.target, recDiff := at' - x.target,
               firings := capN 32 (x.firings + 1), emptyFire := false, fired := true, ever := true,
               target := x.target + 0 }) at'.toNat (24 + n) rfl
    exact ⟨_, next_withDev (Dev.fireSlot_pin at' harmed hsched huse hperiod), congrArg LaunchSlot.state hslot',
      congrArg LaunchSlot.recTarget hslot', congrArg LaunchSlot.recDiff hslot', congrArg LaunchSlot.fired hslot', ⟨_, rfl⟩, rfl⟩

/-! ### The chain map (21 R498, R506) -/

theorem Dev.onEntry_chain (d : Dev) (a : Nat) (f : ChainEntry → ChainEntry) (ns : Nat) :
    (d.onEntry a f ns).chain = { d.chain with map := upd d.chain.map a fun _ => f (d.mapEntry a) } := by
  unfold Dev.onEntry
  dsimp only
  split <;> rfl

theorem Dev.onEntry_failovers (d : Dev) (a : Nat) (f : ChainEntry → ChainEntry) (ns : Nat) :
    (d.onEntry a f ns).chain.failovers = d.chain.failovers := by
  rw [Dev.onEntry_chain]

/-- A change of the map may raise its event and keeps the rest. -/
theorem Dev.onEntry_keeps {β : Type} (g : Dev → β) (hchain : ∀ f (d : Dev), g (d.onChain f) = g d)
    (hevt : ∀ f (d : Dev), g (d.onEvt f) = g d) (d : Dev) (a : Nat) (f : ChainEntry → ChainEntry) (ns : Nat) :
    g (d.onEntry a f ns) = g d := by
  unfold Dev.onEntry
  dsimp only
  split
  · exact hchain _ _
  · rw [Dev.raise, hevt, hchain]

theorem Dev.onEntry_raised (d : Dev) (a : Nat) (f : ChainEntry → ChainEntry) (ns : Nat) {x : Nat × Nat × Nat}
    (h : x ∈ d.evt.raised) : x ∈ (d.onEntry a f ns).evt.raised := by
  unfold Dev.onEntry
  dsimp only
  split
  · exact h
  · exact List.mem_append_left _ h

theorem Dev.mapEntry_onEntry_same {d : Dev} {a : Nat} (h : a < d.chain.map.length) (f : ChainEntry → ChainEntry) (ns : Nat) :
    (d.onEntry a f ns).mapEntry a = f (d.mapEntry a) := by
  rw [Dev.mapEntry, Dev.onEntry_chain]
  exact getD_upd_same _ _ _ _ h

theorem Dev.mapEntry_onEntry_other (d : Dev) {a b : Nat} (h : b ≠ a) (f : ChainEntry → ChainEntry) (ns : Nat) :
    (d.onEntry a f ns).mapEntry b = d.mapEntry b := by
  rw [Dev.mapEntry, Dev.onEntry_chain]
  exact getD_upd_other _ _ _ _ _ h

theorem Dev.checkTopology_chain (d : Dev) (ns : Nat) :
    ∃ b m, (d.checkTopology ns).chain = { d.chain with broken := b, mismatch := m } := by
  unfold Dev.checkTopology
  by_cases ht : d.topology = 2 <;>
    simp only [ht, apply_ite Dev.chain, Dev.report, Dev.onFaults_chain, Dev.onChain_chain, ite_self, if_true, if_false] <;>
    exact ⟨_, _, rfl⟩

theorem Dev.checkTopology_evt (d : Dev) (ns : Nat) : (d.checkTopology ns).evt = d.evt := by
  unfold Dev.checkTopology
  dsimp only
  refine Eq.trans (ite_keeps (·.evt) _ (Dev.onFaults_evt ..) rfl) ?_
  exact ite_keeps (·.evt) _ rfl rfl

/-- The topology is checked and the master followed. -/
theorem Dev.checked_chain (d : Dev) (ns : Nat) : ∃ u b m,
    (d.checkTopology ns).followMaster.chain = { d.chain with upstream := u, broken := b, mismatch := m } := by
  obtain ⟨b, m, hc⟩ := d.checkTopology_chain ns
  obtain ⟨u, hu⟩ := (d.checkTopology ns).followMaster_chain
  exact ⟨u, b, m, hu.trans (by rw [hc])⟩

theorem Dev.checked_mapEntry (d : Dev) (ns a : Nat) : (d.checkTopology ns).followMaster.mapEntry a = d.mapEntry a := by
  obtain ⟨u, b, m, h⟩ := d.checked_chain ns
  rw [Dev.mapEntry, h]
  rfl

theorem Dev.checked_cportI (d : Dev) (ns p : Nat) : (d.checkTopology ns).followMaster.cportI p = d.cportI p := by
  obtain ⟨u, b, m, h⟩ := d.checked_chain ns
  rw [Dev.cportI, h]
  rfl

theorem Dev.setServo_raised (d : Dev) (v : Servo) {x : Nat × Nat × Nat} (h : x ∈ d.evt.raised) :
    x ∈ (d.setServo v).evt.raised := by
  unfold Dev.setServo
  split
  · exact h
  · exact List.mem_append_left _ h

theorem Dev.followMaster_raised (d : Dev) {x : Nat × Nat × Nat} (h : x ∈ d.evt.raised) : x ∈ d.followMaster.evt.raised := by
  have hrate : ∀ (c : Prop) [Decidable c] (r : Int), x ∈ (if c then d else d.setRate r).evt.raised := by
    intro c _ r
    split <;> exact h
  unfold Dev.followMaster
  split
  · exact h
  · split
    · unfold Dev.enterHoldover
      split
      · exact Dev.setServo_raised _ .holdover (hrate _ _)
      · exact h
    · exact h

/-- The hello of another device, as far as its entry and the port's neighbour (21 R498). -/
def Dev.helloTaken (d : Dev) (p a hops source servo ns : Nat) : Dev :=
  let d := d.onEntry a (fun e =>
    { e with present := true, tick := d.tick.count.toNat, source := source, servo := servo,
             h0 := if p = 0 then hops else e.h0, h1 := if p = 1 then hops else e.h1 }) ns
  if hops ≤ 1 then d.onCportI p fun x => { x with neighbour := BitVec.ofNat 8 a, nbValid := true } else d

theorem Dev.hello_other {d : Dev} {p a : Nat} (hup : d.chainUp p = true) (ha : a < 256) (haddr : d.address ≠ some a)
    (hops source servo cyc : Nat) : d.hello p a hops source servo cyc =
      ((d.helloTaken p a hops source servo (d.nsAt cyc)).checkTopology (d.nsAt cyc)).followMaster := by
  unfold Dev.hello
  simp only [hup, Nat.mod_eq_of_lt ha, haddr, Bool.not_true, Bool.false_eq_true, if_false]
  rfl

theorem Dev.helloTaken_mapEntry (d : Dev) (p a hops source servo ns b : Nat) :
    (d.helloTaken p a hops source servo ns).mapEntry b = (d.onEntry a (fun e =>
      { e with present := true, tick := d.tick.count.toNat, source := source, servo := servo,
               h0 := if p = 0 then hops else e.h0, h1 := if p = 1 then hops else e.h1 }) ns).mapEntry b :=
  ite_keeps (·.mapEntry b) _ rfl rfl

theorem Dev.helloTaken_cportI {d : Dev} {p a hops source servo ns : Nat} (hp : p < d.chain.ports.length) (hops1 : hops ≤ 1) :
    ((d.helloTaken p a hops source servo ns).cportI p).neighbour = BitVec.ofNat 8 a ∧
      ((d.helloTaken p a hops source servo ns).cportI p).nbValid = true := by
  unfold Dev.helloTaken
  dsimp only
  rw [if_pos hops1]
  have hport : ∀ (e : Dev) f, p < e.chain.ports.length → (e.onCportI p f).cportI p = f (e.cportI p) :=
    fun e f h => getD_upd_same _ _ _ _ h
  rw [hport _ _ (by rw [Dev.onEntry_chain]; exact hp)]
  exact ⟨rfl, rfl⟩

/-- A hello with this device's own address is a conflict (21 R498). -/
def Dev.conflictHeard (d : Dev) (a ns : Nat) : Dev :=
  ((d.onChain fun c => { c with conflict := true }).mark 0x13000 3).onEntry a (fun e => { e with conflict := true }) ns

theorem Dev.hello_own {d : Dev} {p a : Nat} (hup : d.chainUp p = true) (ha : a < 256) (haddr : d.address = some a)
    (hops source servo cyc : Nat) : d.hello p a hops source servo cyc =
      if !d.chain.conflict then ((d.conflictHeard a (d.nsAt cyc)).report 0x0090 (chainEp p) (d.nsAt cyc) [a]).raise 301 (d.nsAt cyc)
      else d.conflictHeard a (d.nsAt cyc) := by
  unfold Dev.hello
  simp only [hup, Nat.mod_eq_of_lt ha, haddr, Bool.not_true, Bool.false_eq_true, if_false, if_true]
  rfl

theorem Dev.conflictHeard_chain (d : Dev) (a ns : Nat) : (d.conflictHeard a ns).chain =
    { d.chain with conflict := true, map := upd d.chain.map a fun _ => { d.mapEntry a with conflict := true } } := by
  rw [Dev.conflictHeard, Dev.onEntry_chain]
  rfl

theorem Dev.hello_own_chain {d : Dev} {p a : Nat} (hup : d.chainUp p = true) (ha : a < 256) (haddr : d.address = some a)
    (hops source servo cyc : Nat) : (d.hello p a hops source servo cyc).chain =
      { d.chain with conflict := true, map := upd d.chain.map a fun _ => { d.mapEntry a with conflict := true } } := by
  rw [Dev.hello_own hup ha haddr, ← Dev.conflictHeard_chain d a (d.nsAt cyc)]
  split <;> rfl

theorem Dev.hello_own_reports {d : Dev} {p a : Nat} (hup : d.chainUp p = true) (ha : a < 256) (haddr : d.address = some a)
    (hnew : d.chain.conflict = false) (hops source servo cyc : Nat) :
    (d.hello p a hops source servo cyc).faults.reports =
        d.faults.reports ++ [⟨0x0090, d.nsAt cyc, d.time.epoch.toNat, chainEp p, [a]⟩] ∧
      (301, d.nsAt cyc, d.time.epoch.toNat) ∈ (d.hello p a hops source servo cyc).evt.raised := by
  have hfaults : (d.conflictHeard a (d.nsAt cyc)).faults = d.faults :=
    Dev.onEntry_keeps (·.faults) (fun _ _ => rfl) (fun _ _ => rfl) _ a _ _
  have htime : (d.conflictHeard a (d.nsAt cyc)).time = d.time :=
    Dev.onEntry_keeps (·.time) (fun _ _ => rfl) (fun _ _ => rfl) _ a _ _
  rw [Dev.hello_own hup ha haddr, hnew, if_pos (by decide)]
  refine ⟨?_, ?_⟩
  · rw [Dev.raise, Dev.onEvt_faults, Dev.report, Dev.onFaults_faults, hfaults, htime]
  · rw [← htime]
    exact List.mem_append_right _ (List.mem_singleton_self _)

/-- What the break of a ring does to the addresses beyond it (21 R506). -/
def Dev.beyondBreak (d : Dev) (endA endB ns : Nat) : Dev :=
  d.each [0, 1] fun d q =>
    let near := min (entryHops (d.mapEntry (endA % 256)) q) (entryHops (d.mapEntry (endB % 256)) q)
    if near = 255 then d
    else d.each d.others fun d a =>
      let h := entryHops (d.mapEntry a) q
      if near < h ∧ h < 255 then d.onEntry a (fun e => dropHops e q) ns else d

theorem Dev.ringBreak_eq (d : Dev) (endA endB cyc : Nat) : d.ringBreak endA endB cyc =
    ((((d.raise 303 (d.nsAt cyc)).beyondBreak endA endB (d.nsAt cyc)).onChain fun c =>
      { c with broken := true, failovers := bump c.failovers }).checkTopology (d.nsAt cyc)).followMaster := rfl

theorem Dev.beyondBreak_failovers (d : Dev) (endA endB ns : Nat) :
    (d.beyondBreak endA endB ns).chain.failovers = d.chain.failovers := by
  refine Dev.each_keeps (·.chain.failovers) _ d fun d q => ?_
  refine ite_keeps (·.chain.failovers) _ rfl (Dev.each_keeps (·.chain.failovers) _ d fun d a => ?_)
  exact ite_keeps (·.chain.failovers) _ (Dev.onEntry_failovers ..) rfl

theorem Dev.beyondBreak_raised (d : Dev) (endA endB ns : Nat) {x : Nat × Nat × Nat} (h : x ∈ d.evt.raised) :
    x ∈ (d.beyondBreak endA endB ns).evt.raised := by
  refine Dev.each_holds (fun d => x ∈ d.evt.raised) _ d h fun d q hd => ?_
  dsimp only
  split
  · exact hd
  · refine Dev.each_holds (fun d => x ∈ d.evt.raised) _ d hd fun d a hd => ?_
    split
    · exact Dev.onEntry_raised _ _ _ _ hd
    · exact hd

theorem Dev.checked_failovers (d : Dev) (ns : Nat) :
    (d.checkTopology ns).followMaster.chain.failovers = d.chain.failovers := by
  obtain ⟨u, b, m, h⟩ := d.checked_chain ns
  rw [h]

theorem Dev.ringBreak_failovers (d : Dev) (endA endB cyc : Nat) :
    (d.ringBreak endA endB cyc).chain.failovers = bump d.chain.failovers := by
  rw [Dev.ringBreak_eq, Dev.checked_failovers, Dev.onChain_chain]
  exact congrArg bump (Dev.beyondBreak_failovers ..)

theorem Dev.ringBreak_raised (d : Dev) (endA endB cyc : Nat) :
    (303, d.nsAt cyc, d.time.epoch.toNat) ∈ (d.ringBreak endA endB cyc).evt.raised := by
  rw [Dev.ringBreak_eq]
  refine Dev.followMaster_raised _ ?_
  rw [Dev.checkTopology_evt, Dev.onChain_evt]
  exact Dev.beyondBreak_raised _ endA endB _ (List.mem_append_right _ (List.mem_singleton_self _))

/-- The entry of another device after its hello, and the entries of the others. -/
theorem Dev.hello_other_mapEntry {d : Dev} {p a : Nat} (hup : d.chainUp p = true) (ha : a < 256) (haddr : d.address ≠ some a)
    (hlen : d.chain.map.length = 256) (hops source servo cyc : Nat) :
    (d.hello p a hops source servo cyc).mapEntry a = { d.mapEntry a with
      present := true, tick := d.tick.count.toNat, source := source, servo := servo,
      h0 := if p = 0 then hops else (d.mapEntry a).h0, h1 := if p = 1 then hops else (d.mapEntry a).h1 } ∧
      ∀ b, b ≠ a → (d.hello p a hops source servo cyc).mapEntry b = d.mapEntry b := by
  rw [Dev.hello_other hup ha haddr]
  refine ⟨?_, fun b hb => ?_⟩
  · rw [Dev.checked_mapEntry, Dev.helloTaken_mapEntry, Dev.mapEntry_onEntry_same (by omega)]
  · rw [Dev.checked_mapEntry, Dev.helloTaken_mapEntry, Dev.mapEntry_onEntry_other _ hb]

theorem Dev.hello_other_neighbour {d : Dev} {p a : Nat} (hup : d.chainUp p = true) (ha : a < 256) (haddr : d.address ≠ some a)
    (hp : p < d.chain.ports.length) {hops : Nat} (hnear : hops ≤ 1) (source servo cyc : Nat) :
    ((d.hello p a hops source servo cyc).cportI p).neighbour = BitVec.ofNat 8 a ∧
      ((d.hello p a hops source servo cyc).cportI p).nbValid = true := by
  rw [Dev.hello_other hup ha haddr, Dev.checked_cportI]
  exact Dev.helloTaken_cportI hp hnear

/-- After a hello with this device's own address it is in conflict and originates no frames. -/
theorem Dev.hello_own_conflict {d : Dev} {p a : Nat} (hup : d.chainUp p = true) (ha : a < 256) (haddr : d.address = some a)
    (hlen : d.chain.map.length = 256) (hops source servo cyc : Nat) :
    (d.hello p a hops source servo cyc).chain.conflict = true ∧
      ((d.hello p a hops source servo cyc).mapEntry a).conflict = true ∧
      (d.hello p a hops source servo cyc).mayOriginate = false := by
  rw [Dev.mayOriginate, Dev.mapEntry, Dev.hello_own_chain hup ha haddr]
  refine ⟨rfl, ?_, Bool.and_false _⟩
  exact congrArg ChainEntry.conflict (getD_upd_same _ _ _ _ (by omega))

theorem Dev.addressGone_mapEntry {d : Dev} {a : Nat} (haddr : d.address ≠ some a) (ha : a < d.chain.map.length) (cyc : Nat) :
    (d.addressGone a cyc).mapEntry a = ChainEntry.absent ∧ ∀ b, b ≠ a → (d.addressGone a cyc).mapEntry b = d.mapEntry b := by
  unfold Dev.addressGone
  rw [if_neg haddr]
  refine ⟨?_, fun b hb => ?_⟩
  · rw [Dev.checked_mapEntry, Dev.mapEntry_onEntry_same ha]
  · rw [Dev.checked_mapEntry, Dev.mapEntry_onEntry_other _ hb]

/-- Settles O46 (the hello's payload is the model's choice, log 40). -/
theorem chainMapCommands : Obligations.ChainMapCommands := by
  unfold Obligations.ChainMapCommands
  refine ⟨fun s => rfl, fun s p a hops src servo cyc hup ha haddr hlen hports => ?_,
    fun s p a hops src servo cyc hup ha haddr hlen => ?_, fun s p a hops src servo cyc hdown => next_withDev ?_,
    fun s a cyc haddr hlen => ?_, fun s p a b cyc => ?_⟩
  · obtain ⟨hentry, hothers⟩ := Dev.hello_other_mapEntry hup ha haddr hlen hops src servo cyc
    have hport : (p.val = 0 ↔ p = 0) ∧ (p.val = 1 ↔ p = 1) := ⟨(Fin.ext_iff (b := 0)).symm, (Fin.ext_iff (b := 1)).symm⟩
    simp only [hport] at hentry
    exact ⟨_, rfl, congrArg ChainEntry.present hentry, congrArg ChainEntry.source hentry, congrArg ChainEntry.servo hentry,
      congrArg ChainEntry.h0 hentry, congrArg ChainEntry.h1 hentry,
      fun hnear => Dev.hello_other_neighbour hup ha haddr (by omega) hnear src servo cyc, hothers⟩
  · obtain ⟨hconflict, hentry, hmay⟩ := Dev.hello_own_conflict hup ha haddr hlen hops src servo cyc
    exact ⟨_, rfl, hconflict, hentry, hmay, fun hnew => Dev.hello_own_reports hup ha haddr hnew hops src servo cyc⟩
  · exact if_pos (by rw [hdown]; rfl)
  · exact ⟨_, rfl, Dev.addressGone_mapEntry haddr (by omega) cyc⟩
  · have hnext : exec (.ringBreak p a b cyc) s = .next (s.withDev (s.dev.ringBreak a b cyc)) := rfl
    have hfail := s.dev.ringBreak_failovers a b cyc
    have hraised := s.dev.ringBreak_raised a b cyc
    generalize s.dev.ringBreak a b cyc = e at hnext hfail hraised
    exact ⟨s.withDev e, hnext, hfail, hraised⟩

end Sys2Proof.Machine
end

section
/-!
SUPPORT. Courier frames and frames of proxy streams (21 R500, R501, R506, R512).
-/
namespace Sys2Proof.Machine

/-- A good frame leaves by the other port with one hop less. -/
theorem Dev.passOn_good {d : Dev} {f : Courier} (hup : d.chainUp (1 - f.port.val) = true) (hcrc : f.crcOk = true) :
    d.passOn f = d.putFrame (1 - f.port.val) f.cls f.bcast f.resent f.src f.dst (f.hops - 1) f.seq f.payload := by
  unfold Dev.passOn
  simp only [hup, hcrc, if_true]

/-- A bad frame is aborted there. -/
theorem Dev.passOn_bad {d : Dev} {f : Courier} (hup : d.chainUp (1 - f.port.val) = true) (hcrc : f.crcOk = false) :
    d.passOn f = d.emit (.courierAbort (1 - f.port.val)) := by
  unfold Dev.passOn
  simp only [hup, hcrc, if_true, Bool.false_eq_true, if_false]

theorem Dev.passOn_down {d : Dev} {f : Courier} (hdown : d.chainUp (1 - f.port.val) = false) : d.passOn f = d := by
  unfold Dev.passOn
  simp only [hdown, Bool.false_eq_true, if_false]

/-- The frames of a list that came within the last millisecond. -/
def withinMs (now : Nat) (l : List (Nat × Nat × Nat × Nat)) : List (Nat × Nat × Nat × Nat) :=
  l.filter fun x => decide (now ≤ x.2.2.2 + 1000000)

/-- What a device does with a frame of a class and length in range that has hops left. -/
def Dev.courierIn (d : Dev) (f : Courier) (now : Nat) : Dev :=
  let bad := fun (d : Dev) => d.onCportI f.port fun x => { x with framesBad := bump x.framesBad }
  let mine := d.mayOriginate && d.address == some f.dst
  let dup := fun (d : Dev) => d.onChain fun c => { c with duplicates := bump c.duplicates }
  if f.bcast then
    if d.address = some f.src && !d.chain.conflict then d
    else if recently d.chain.seen f now then dup d
    else if !f.crcOk then bad (d.passOn f)
    else
      (d.onChain fun c => { c with seen := withinMs now c.seen ++ [(f.src, f.cls, f.seq, now)] }).passOn f
  else if mine then
    if !f.crcOk then bad d
    else if f.resent && recently d.chain.taken f now then dup d
    else d.onChain fun c => { c with taken := withinMs now c.taken ++ [(f.src, f.cls, f.seq, now)] }
  else if !f.crcOk then bad (d.passOn f)
  else d.passOn f

theorem Dev.courier_in {d : Dev} {f : Courier} {cyc : Nat} (hup : d.chainUp f.port = true) (hcls : f.cls < 12)
    (hlen : f.payload.length ≤ courierMax f.cls) (hhops : 0 < f.hops) : d.courier f cyc = d.courierIn f (d.upNs cyc) := by
  have hclass : ¬(12 ≤ f.cls ∨ courierMax f.cls < f.payload.length) := by omega
  unfold Dev.courier
  simp only [hup, hclass, Nat.ne_of_gt hhops, Bool.not_true, Bool.false_eq_true, if_false]
  rfl

/-- Settles O47 (the millisecond for which frames are remembered is the model's choice, log 112). -/
theorem courierFrames : Obligations.CourierFrames := by
  unfold Obligations.CourierFrames
  refine ⟨fun s f cyc => ⟨fun hdown => next_withDev ?_, fun hup hbad => next_withDev ?_, fun hup hcls hlen hhops => next_withDev ?_⟩,
    fun s f cyc hup hcls hlen hhops hcast => ⟨fun ho haddr hcrc hresent => ?_, fun haddr hother => ⟨fun hcrc => next_withDev ?_,
      fun hcrc => next_withDev ?_⟩, fun haddr hother hcrc => next_withDev (d' := s.dev) ?_⟩,
    fun s f cyc hup hcls hlen hhops hcast hconf => ⟨fun haddr => next_withDev (d' := s.dev) ?_, fun haddr hseen => next_withDev ?_,
      fun haddr hseen hcrc hother => ?_⟩,
    fun s x off bytes last hproxy hrun hdst => next_withDev ?_⟩
  · exact if_pos (by rw [hdown]; rfl)
  · unfold Dev.courier
    dsimp only
    rw [if_neg (by rw [hup]; decide), if_pos hbad]
  · unfold Dev.courier
    dsimp only
    rw [if_neg (by rw [hup]; decide), if_neg (by omega), if_pos hhops]
  · have hin : s.dev.courier f cyc = s.dev.onChain fun c =>
        { c with taken := withinMs (s.dev.upNs cyc) c.taken ++ [(f.src, f.cls, f.seq, s.dev.upNs cyc)] } := by
      rw [Dev.courier_in hup hcls hlen hhops, Dev.courierIn]
      simp only [hcast, ho, haddr, hcrc, hresent, beq_self_eq_true, Bool.and_self, Bool.false_and, Bool.not_true,
        Bool.false_eq_true, if_false, if_true]
    exact ⟨_, next_withDev hin, List.mem_append_right _ (List.mem_singleton_self _), rfl⟩
  · have hmine : (s.dev.mayOriginate && s.dev.address == some f.dst) = false := by simp [haddr]
    rw [Dev.courier_in hup hcls hlen hhops, Dev.courierIn]
    simp only [hcast, hmine, hcrc, Dev.passOn_good hother hcrc, Bool.not_true, Bool.false_eq_true, if_false]
  · have hmine : (s.dev.mayOriginate && s.dev.address == some f.dst) = false := by simp [haddr]
    rw [Dev.courier_in hup hcls hlen hhops, Dev.courierIn]
    simp only [hcast, hmine, hcrc, Dev.passOn_bad hother hcrc, Bool.not_false, Bool.false_eq_true, if_false, if_true]
  · have hmine : (s.dev.mayOriginate && s.dev.address == some f.dst) = false := by simp [haddr]
    rw [Dev.courier_in hup hcls hlen hhops, Dev.courierIn]
    simp only [hcast, hmine, hcrc, Dev.passOn_down hother, Bool.not_true, Bool.false_eq_true, if_false]
  · rw [Dev.courier_in hup hcls hlen hhops, Dev.courierIn]
    simp only [hcast, haddr, hconf, decide_true, Bool.not_false, Bool.and_self, if_true]
  · rw [Dev.courier_in hup hcls hlen hhops, Dev.courierIn]
    simp only [hcast, haddr, hseen, decide_false, Bool.false_and, Bool.false_eq_true, if_false, if_true]
  · have hnew : (s.dev.onChain fun c =>
        { c with seen := withinMs (s.dev.upNs cyc) c.seen ++ [(f.src, f.cls, f.seq, s.dev.upNs cyc)] }).passOn f = _ :=
      Dev.passOn_good hother hcrc
    refine ⟨withinMs (s.dev.upNs cyc) s.dev.chain.seen ++ [(f.src, f.cls, f.seq, s.dev.upNs cyc)],
      List.mem_append_right _ (List.mem_singleton_self _), next_withDev ?_⟩
    rw [Dev.courier_in hup hcls hlen hhops, Dev.courierIn]
    simp only [hcast, haddr, hseen, hcrc, hnew, decide_false, Bool.false_and, Bool.not_true, Bool.false_eq_true, if_false,
      if_true]
    rfl
  · unfold Dev.proxyFrame
    rw [hproxy, List.find?_cons_of_pos (by simp [hrun, hdst])]

end Sys2Proof.Machine
end

section
/-!
SUPPORT. Dockets of the ledger, the health record and the firmware (14 R363, R364; 23 R531, R543; 24 R561 to R563), memory
errors, trips and clerks (23 R535 to R542).
-/
namespace Sys2Proof.Machine

/-! ### Dockets of the ledger, the health record and the firmware -/

/-- A docket that runs here works now. -/
theorem Dev.worksNow_of_runsHere {d : Dev} {k : Docket} {used : List (Nat × Nat)} (h : d.runsHere k used) :
    d.worksNow k used = true := by
  obtain ⟨hbegin, hforward, hzero⟩ := h
  rw [Dev.worksNow, hbegin, hforward, hzero]
  rfl

/-- A gated docket inside the presence window does its work. -/
theorem next_gated {s : State} {k : Docket} {used : List (Nat × Nat)} (h : s.dev.runsHere k used)
    (hpres : s.dev.host.presOpen = true) {work work' : Dev → Dev} (hw : work (s.dev.begin k) = work' (s.dev.begin k)) :
    (Host.Outcome.next { s with dev := s.dev.gated k used work } : Host.Outcome State Fault Refusal) =
      .next (s.after k work') :=
  congrArg Host.Outcome.next ((State.after_of_gated h hpres work).trans (State.after_congr hw))

/-- Outside it the docket is refused (13 R340). -/
theorem next_gated_closed {s : State} {k : Docket} {used : List (Nat × Nat)} (h : s.dev.runsHere k used)
    (hpres : s.dev.host.presOpen = false) (work : Dev → Dev) :
    (Host.Outcome.next { s with dev := s.dev.gated k used work } : Host.Outcome State Fault Refusal) =
      .next (s.after k fun d => d.finish k 0x0401) :=
  next_runs h (if_neg (by rw [Dev.begin_presOpen, hpres]; decide))

/-- The activation falls back on the directory and the slot before it. -/
theorem Dev.fallBack_answers {d : Dev} {k : Docket} (hact : d.boot.activating = true) (hk : d.boot.actDocket = some k) :
    d.fallBack = ((((d.onTick fun t => { t with w1c := (32 * 0x17000 + 4) :: d.tick.w1c }).onBoot fun b =>
      { b with dirs := b.prevDirs, fallback := true, activating := false, actDocket := none, prevDirs := [] }).onHost
        fun h => { h with ready := true }).raiseNow 7).finish k 0 (leBytes 1 2) := by
  unfold Dev.fallBack Dev.endActivation
  rw [if_pos hact]
  dsimp only [Dev.mark, Dev.onTick_boot, Dev.onBoot_boot]
  rw [hk]
  rfl

/-- An image that is accepted is staged, and any other is refused (24 R561). -/
theorem Dev.stageData_idle {d : Dev} (hidle : d.boot.activating = false) {k : Docket} {b : List Byte} : d.stageData k b =
    if accepted d.boot.minSecurity.toNat (imageOfBytes b) = true then
      ((d.onBoot fun x => { x with staged := some (imageOfBytes b),
                                   images := x.images.set (1 - x.slot) (some (imageOfBytes b)) }).raiseNow 7).finish k 0
        (leBytes 4 (imageOfBytes b).version)
    else d.finish k 0x8901 := by
  unfold Dev.stageData
  generalize imageOfBytes b = i
  cases h : accepted d.boot.minSecurity.toNat i <;>
    simp only [h, hidle, Bool.not_true, Bool.not_false, Bool.false_eq_true, if_false, if_true]

/-- Settles O49. -/
theorem ledgerHealthAndFirmwareDockets : Obligations.LedgerHealthAndFirmwareDockets := by
  unfold Obligations.LedgerHealthAndFirmwareDockets
  refine ⟨fun s k h ha hlen => next_runs h ?_, fun s k h => ?_, fun s k h ha hlen => next_runs h ?_,
    fun s k h ha hlo hhi hidle => next_runs h ?_, fun s k addr b rest hk hop hwait hidle => next_withDev ?_,
    fun s k h hpres hstaged => next_gated h hpres ?_, fun s k hact hk => ⟨_, next_withDev (Dev.fallBack_answers hact hk)⟩,
    fun s k h hpres hfree => next_gated h hpres ?_, fun s k h hpres hlo hhi => next_gated h hpres ?_,
    fun s k c hpres hc => ?_, fun s => ⟨fun hhour => next_withDev (if_pos hhour), fun hhour => next_withDev (if_neg (Nat.not_le.mpr hhour))⟩⟩
  · exact (if_neg (not_not_intro ha)).trans (if_neg (Nat.not_lt.mpr hlen))
  · refine congrArg Host.Outcome.next ?_
    dsimp only
    rw [Dev.worksNow_of_runsHere h, if_pos rfl]
    exact congrArg (fun t : State => { t with ledger := { s.ledger with entries := s.ledger.entries.drop (u32 k.bytes 8) } })
      (State.after_of_runsHere h fun x => x.finish k 0)
  · exact (if_neg (not_not_intro ha)).trans (if_neg (Nat.not_lt.mpr hlen))
  · have hidle' : (s.dev.begin k).boot.activating = false := (s.dev.begin_keeps (·.boot.activating) k fun _ _ => rfl).trans hidle
    dsimp only
    rw [if_neg (not_not_intro ha), if_neg (by omega), hidle', if_neg (by decide)]
  · unfold Dev.hostData
    rw [Dev.takeWait_first hwait]
    simp only [hop, padTo_of_length]
    rw [Dev.stageData_idle (d := s.dev.onHost _) hidle, Dev.onHost_boot]
  · have hstaged' : ¬(s.dev.begin k).boot.staged.isNone = true := by
      rw [s.dev.begin_keeps (·.boot.staged) k fun _ _ => rfl]
      simpa using Option.isSome_iff_ne_none.mp hstaged
    exact if_neg hstaged'
  · have hfree' : ¬(((s.dev.begin k).mapEntry (u8 k.bytes 8)).present && (s.dev.begin k).address != some (u8 k.bytes 8)) = true := by
      rw [s.dev.begin_keeps (·.mapEntry _) k fun _ _ => rfl, hfree, Bool.false_and]
      decide
    exact if_neg hfree'
  · exact (if_neg (by omega)).trans (if_neg (by omega))
  · rcases hc with ⟨rfl, h⟩ | ⟨rfl | rfl | rfl, h⟩ | ⟨rfl, h⟩ <;> exact next_gated_closed h hpres _

/-! ### Errors, trips and clerks -/

/-- The pages that the end of an hour marks (23 R536). -/
def DramSt.hourMarks (s : DramSt) : List (Nat × Nat) :=
  s.marked ++ ((s.hourPage.filter fun x => decide (16 ≤ x.2.2)).map fun x => (x.1, x.2.1)).filter fun p => !s.marked.contains p

theorem mem_hourMarks_of_busy {s : DramSt} {c pg n : Nat} (h : (c, pg, n) ∈ s.hourPage) (hn : 16 ≤ n) :
    (c, pg) ∈ s.hourMarks := by
  by_cases hmarked : (c, pg) ∈ s.marked
  · exact List.mem_append_left _ hmarked
  · refine List.mem_append_right _ (List.mem_filter.mpr ⟨?_, by simpa using hmarked⟩)
    exact List.mem_map.mpr ⟨(c, pg, n), List.mem_filter.mpr ⟨h, decide_eq_true hn⟩, rfl⟩

theorem Dev.endEccHour_quiet {d : Dev} (hdram : d.health.hourDram ≤ 1000) (hsram : d.health.hourSram ≤ 1000) :
    d.endEccHour = (d.onHealth fun h => { h with hourDram := 0, hourSram := 0 }).onDram fun x =>
      { x with hourPage := [], marked := d.dram.hourMarks } := by
  unfold Dev.endEccHour
  dsimp only
  rw [if_neg (Nat.not_lt.mpr hdram), if_neg (Nat.not_lt.mpr hsram)]
  rfl

theorem Dev.endEccHour_reports {d : Dev} (hdram : 1000 < d.health.hourDram) (hsram : d.health.hourSram ≤ 1000) :
    d.endEccHour.faults.reports =
      d.faults.reports ++ [⟨0x00A0, d.nowNs, d.time.epoch.toNat, healthEp, [0, d.health.hourDram]⟩] := by
  unfold Dev.endEccHour
  dsimp only
  rw [if_pos hdram, if_neg (Nat.not_lt.mpr hsram)]
  rfl

theorem Dev.corrected_firstPage {d : Dev} (hhour : d.dram.hourPage = []) (c pg : Nat) : d.corrected (.frame c pg) =
    (d.onHealth fun h => { h with corrDram := bump h.corrDram, hourDram := h.hourDram + 1 }).onDram fun x =>
      { x with hourPage := [(c, pg, 1)] } := by
  unfold Dev.corrected Dev.onDram Dev.onHealth
  dsimp only
  rw [hhour]
  rfl

/-- A reading of a sensor changes its temperature, HOT and the trips. -/
theorem Dev.sensorReads_facts (d : Dev) (n : Nat) (tj : Int) (cyc : Nat) :
    (d.sensorReads n tj cyc).gov.tj = d.gov.tj.set n tj ∧
      (d.sensorReads n tj cyc).gov.hot = decide (100 < (d.sensorReads n tj cyc).hottest) ∧
      (d.sensorReads n tj cyc).tick.trips = d.tick.trips ++ if 115 ≤ tj then [(.thermal, d.timeAt cyc)] else [] := by
  unfold Dev.sensorReads
  dsimp only
  split <;> split
  · exact ⟨rfl, rfl, rfl⟩
  · exact ⟨rfl, rfl, rfl⟩
  · exact ⟨rfl, rfl, (List.append_nil _).symm⟩
  · exact ⟨rfl, rfl, (List.append_nil _).symm⟩

/-- The failure of an active clerk is counted, reported and raised; a clerk that fails its self-test is retired. -/
theorem Dev.clerkFails_facts {d : Dev} {n : Nat} (hactive : d.health.active.getD n false = true) (pass : Bool) (ns : Nat) :
    ∃ more : List Report, (d.clerkFails n pass ns).health.failovers = bump d.health.failovers ∧
      (d.clerkFails n pass ns).faults.reports =
        d.faults.reports ++ ⟨0x00A8, ns, d.time.epoch.toNat, healthEp, [n]⟩ :: more ∧
      (pass = false → more = [⟨0x00A9, ns, d.time.epoch.toNat, healthEp, [n]⟩]) ∧
      (8, ns, d.time.epoch.toNat) ∈ (d.clerkFails n pass ns).evt.raised := by
  have hretire : pass = false → (!pass || d.health.clerkFails.any fun x => x.1 == n && decide (d.health.life.hours < x.2 + 24)) = true := by
    rintro rfl
    rfl
  unfold Dev.clerkFails
  dsimp only
  rw [if_neg (by rw [hactive]; decide)]
  generalize (!pass || d.health.clerkFails.any fun x => x.1 == n && decide (d.health.life.hours < x.2 + 24)) = retire at *
  have hready : ∀ {β : Type} (g : Dev → β), (∀ f (d : Dev), g (d.onHost f) = g d) → ∀ (c : Prop) [Decidable c] (e : Dev),
      g (if c then e.onHost fun h => { h with ready := false } else e) = g e :=
    fun g hg c _ e => ite_keeps g c (hg _ e) rfl
  cases retire
  · refine ⟨[], hready (·.health.failovers) (fun _ _ => rfl) _ _, hready (·.faults.reports) (fun _ _ => rfl) _ _,
      fun h => Bool.noConfusion (hretire h), ?_⟩
    rw [hready (·.evt) fun _ _ => rfl]
    exact List.mem_append_right _ (List.mem_singleton_self _)
  · refine ⟨[⟨0x00A9, ns, d.time.epoch.toNat, healthEp, [n]⟩], hready (·.health.failovers) (fun _ _ => rfl) _ _,
      Eq.trans (hready (·.faults.reports) (fun _ _ => rfl) _ _) (List.append_assoc _ [_] [_]), fun _ => rfl, ?_⟩
    rw [hready (·.evt) fun _ _ => rfl]
    exact List.mem_append_right _ (List.mem_singleton_self _)

/-- Settles O50 (how reports name memories and which clerks run are the model's choices, logs 31, 64, 79 and 81). -/
theorem errorsTripsAndClerks : Obligations.ErrorsTripsAndClerks := by
  unfold Obligations.ErrorsTripsAndClerks
  refine ⟨fun s c pg cyc hhour => next_withDev ?_, fun s n cyc => rfl, fun s p c b cyc => rfl, fun s hdram hsram => ?_,
    fun s hdram hsram => ?_, fun s cyc => rfl, fun s n tj cyc hlen => ?_, fun s n ok cyc hactive => ?_,
    fun s n ok cyc hidle => next_withDev ?_, fun s hourly => ?_, fun s => rfl⟩
  · exact Dev.corrected_firstPage hhour c pg
  · exact ⟨_, next_withDev (Dev.endEccHour_quiet hdram hsram), fun p hp => List.mem_append_left _ hp,
      fun c pg n hp hn => mem_hourMarks_of_busy hp hn⟩
  · exact ⟨_, rfl, Dev.endEccHour_reports hdram hsram⟩
  · exact ⟨_, rfl, s.dev.sensorReads_facts n tj cyc⟩
  · obtain ⟨more, hfail, hrep, hmore, hevt⟩ := Dev.clerkFails_facts hactive ok (s.dev.nsAt cyc)
    exact ⟨_, more, rfl, hfail, hrep, hmore, hevt⟩
  · exact if_pos (by rw [hidle]; rfl)
  · cases hourly
    · exact ⟨_, rfl, rfl, rfl, rfl, rfl⟩
    · exact ⟨_, rfl, rfl, rfl, rfl, rfl⟩

end Sys2Proof.Machine
end
